-- ==== Sys2Proof/Word.lean ====
section
/-! DEFINITION. The word types of the package: bytes, registers, ticks, nodes. Rules: 00_scope.md R7 to R10. -/

namespace Sys2Proof

/-- One byte. -/
abbrev Byte := BitVec 8
/-- A symbol of a fabric lane: two bits (11 R350). -/
abbrev Symbol := BitVec 2
/-- A 32-bit word. -/
abbrev W32 := BitVec 32
/-- A 64-bit word. -/
abbrev W64 := BitVec 64
/-- A tick number: an unsigned 48-bit count of course-clock ticks (00_scope.md R10). -/
abbrev Tick := BitVec 48
/-- A node identity of 17 bits (00_scope.md Table 0.3). -/
abbrev Node := BitVec 17
/-- A Traruig or host port number (11_links_and_topology.md Table 11.1): 0-15 D0-D15, 16 G0, 17 G1, 18 M, 19 H. -/
abbrev Port := Fin 20
/-- A dictionary object, numbered index × 256 + subindex (16_object_dictionary_and_bridle.md R524). -/
abbrev Key := Nat
/-- Sparse data by number: strictly rising keys, no entry equal to what an absent key reads as. -/
abbrev SMap (β : Type) := List (Nat × β)

end Sys2Proof
end

