-- ==== Sys2Proof/Config.lean ====
section
/-! DEFINITION. What an implementation fixes and the values the manual leaves open: constants with no body, so that
nothing can be proved of their values; and the course template as it is read from its chunks. -/

namespace Sys2Proof.Machine

/-- A wait or a grant of a descriptor (04 Table 4.4): threshold or amount, REL, counter. -/
structure CreditRef where
  amount : Nat
  rel : Bool
  counter : Nat
  deriving DecidableEq, Repr

/-- An ashlar descriptor (04 Table 4.4). -/
structure Descriptor where
  kind : Byte
  final : Bool
  skippable : Bool
  count : Nat
  waits : List CreditRef
  grants : List CreditRef
  h0 : W32
  h1 : W32
  h2 : W32
  h3 : W32
  p0 : W32
  p1 : W32
  p2 : W32
  p3 : W32
  /-- Template index, by which the array is ordered (R119). -/
  index : Nat := 0
  /-- Some reserved bit, or some wait or grant beyond the declared numbers, is not zero (R114 check 1, R118). -/
  reserved : Bool := false
  deriving DecidableEq, Repr

/-- A block-table entry (04 Table 4.3). -/
structure BlockEntry where
  addr : W64
  rows : Nat
  rowBytes : Nat
  stride : Nat
  format : Byte
  courseRows : Bool
  producerRows : Bool
  external : Bool
  skipGroup : Nat
  skipAlias : Nat
  tile : Nat
  /-- Some reserved bit is not zero (R114 check 1, Table 4.3). -/
  reserved : Bool := false
  deriving DecidableEq, Repr

/-- Attention geometry of one model (05 Table 5.1). -/
structure Geometry where
  layers : Nat := 0
  heads : Nat := 0
  dim : Nat := 0
  group : Nat := 0
  deriving DecidableEq, Repr

/-- A course template after relocation (04 R113, R318). -/
structure Template where
  descs : List Descriptor
  blocks : List BlockEntry
  coreBytes : Nat
  quarterBytes : Nat
  main : Geometry
  draft : Geometry
  vocab : Nat
  parkSegment : Bool
  summariser : Bool
  /-- Rows declared for the staging regions: expert slot, source bond index, rows (07 R226). -/
  staging : List (Nat × Nat × Nat)
  /-- Instances of the main model's segment; those above belong to the draft model's (10 R318). -/
  mainInst : Nat
  /-- Rotary rates computed at template load, by handle of the rotary block: each rate and whether computing it met ARITH_RANGE (05 R174). -/
  rates : SMap (List (W32 × Bool)) := []
  deriving DecidableEq, Repr

/-- Where the parts of a TEMPLATE chunk lie. The manual gives the bytes of a descriptor (04 Table 4.4), of a block-table entry
(04 Table 4.3) and of the first eight bytes of the chunk's header (10 R318); it does not give the rest of the header, which says where
the two arrays begin and what the template declares beside them (log entry 6). -/
structure TemplateLayout where
  /-- Offset of the descriptor array, and its descriptors. -/
  descAt : Nat := 0
  descs : Nat := 0
  /-- Offset of the block table, and its entries. -/
  blockAt : Nat := 0
  blocks : Nat := 0
  /-- Query heads per KV head (05 Table 5.1): the manifest does not carry it. -/
  group : Nat := 0
  parkSegment : Bool := false
  summariser : Bool := false
  staging : List (Nat × Nat × Nat) := []
  deriving DecidableEq, Repr

end Sys2Proof.Machine

namespace Sys2Proof.Config

open Sys2Proof.Machine

/-! ## Factory contents (17 R555, R572; 16 R554): log entry 5 -/

/-- SERIAL[47:0]. -/
opaque serial : BitVec 48
/-- MAC_ADDRESS[47:0]. -/
opaque mac : BitVec 48
/-- SILICON_STEP (R608), its stepping letter counted from A. -/
opaque siliconStep : BitVec 16
/-- DEVICE_KEY, 1,312 bytes. -/
opaque deviceKey : List Byte
/-- ISSUER_FPR of DEVICE_CERT, 32 bytes (17 R572). -/
opaque issuerFpr : List Byte
/-- Luarex's signature of DEVICE_CERT, 2,420 bytes. -/
opaque certSignature : List Byte
/-- Firmware slots A and B as the factory left them. -/
opaque factoryFwA : List Byte
/-- Slot B. -/
opaque factoryFwB : List Byte
/-- The calibration set of this unit. -/
opaque factoryCal : List Byte
/-- The two Luarex firmware fingerprints of the boot ROM (R558). -/
opaque romFingerprint : Bool → List Byte
/-- Blown SVN fuses when the package leaves the factory (R559). -/
opaque factoryFuses : BitVec 6

/-! ## Functions the manual cites and does not define: log entry 6 -/

/-- ML-DSA-44 signature with the device key over a digest (17 R573). -/
opaque deviceSign : List Byte → List Byte
/-- The header of a decoded TEMPLATE chunk beyond its first two U32 values (10 R318): none for a chunk that has no such header. -/
opaque templateLayout : List Byte → Option TemplateLayout

/-- What a packet type to which the manual gives no number carries (11 Table 11.6; log entry 9): 0 another REQUEST, 1 a switch notice,
2 a RESPONSE, 3 an expert transfer, any other number another BULK transfer. -/
opaque ptypeUse : Nat → Nat

/-! ## Choices of the control cores' firmware that the manual leaves to them: log entry 7 -/

/-- Local address of the n-th page slot the control cores give out, near (false) or far (true). -/
opaque slotAddr : Nat → Bool → W64
/-- Fresh free values, by draw number (log entry 4). -/
opaque freeNat : Nat → Nat
/-- Magnitude of a requantised element whose row scale rounds to 0 (03 R97 states no quotient; log entry 4), by its magnitude in
units of 2^−149. -/
opaque tinyCode : Nat → Nat
/-- Fresh free bytes, by draw number and length (log entry 4). -/
opaque freeBytes : Nat → Nat → List Byte

end Sys2Proof.Config
end

