-- ==== Sys2Proof/Syntax.lean ====
section
/-! DEFINITION. The commands of the package: one constructor of Instr for each row of spec/opcode_table.json, in the
table's order, with the operands that reach the package from outside with that step. -/

namespace Sys2Proof

/-- Who reaches a memory or a register: Table 12.1 of 12_memory_semantic_fabric.md, and the package's own engines. -/
inductive Requester where
  | control (c : Fin 4)          -- one of the four control cores
  | core (q : Fin 4) (nn : Fin 96) -- a matrix core, through its quarter's fabric requester
  | gateway (g : Bool)           -- the far side of a lintel gateway: false G0, true G1
  | host                         -- the host bridge on the host's behalf
  | engine                       -- router engine, tannery, mirror engine, scheduler
  | remote (src : Node)          -- another node
  deriving DecidableEq, Repr

/-- The path a dictionary write takes (16_object_dictionary_and_bridle.md R533 to R536). -/
inductive Path where
  | control (c : Fin 4)
  | fabric (tenant : Byte) (src : Node)
  | bridle (mac : BitVec 48)
  deriving DecidableEq, Repr

/-- A value of a dictionary object: a number, or the bytes of a STR or BLOB (Table 16.2). -/
inductive ObjVal where
  | num (n : Nat)
  | bytes (b : List Byte)
  deriving DecidableEq, Repr

/-- What the array returned for one word read: from which word address it came, when a row or column decoder erred,
and which stored symbols came back changed (position, XOR). Nothing is wrong with the reading when both are empty. `after` is what
comes back changed when the word, found correctable at a second reading, is read again (09 R295, R296). -/
structure RawRead where
  place : Option Nat := none
  flips : List (Nat × Byte) := []
  after : List (Nat × Byte) := []
  deriving DecidableEq, Repr

/-- A running ashlar: the core that runs it, the stream (false own, true covered) and the ashlar number within the
course (04_cores_ashlars_and_stealing.md R119). -/
structure Run where
  q : Fin 4
  nn : Fin 96
  covered : Bool
  inst : BitVec 20
  deriving DecidableEq, Repr

/-- A fabric request (12_memory_semantic_fabric.md Tables 11.7, 12.3): DEST and SRC of its header, its transport fields, its payload.
`own` names the control core when one of the package's own issues it. -/
structure FabReq where
  dest : Node
  src : Node
  own : Option (Fin 4)
  tag : W32
  addr : W64
  tenant : Byte
  size : BitVec 16
  opA : W64
  opB : W64
  data : List Byte
  deriving DecidableEq, Repr

/-- A fabric response as it reaches a requester, a combining node or a far gateway (Table 12.3). -/
structure FabResp where
  src : Node
  tag : W32
  op : Byte
  status : Byte
  size : BitVec 16
  old : W64
  data : List Byte
  deriving DecidableEq, Repr

/-- A request inside a LINTEL_BATCH (R412): its header's SRC, its OP, and the request. -/
structure BatchReq where
  op : Byte
  req : FabReq
  deriving DecidableEq, Repr

/-- A completion record of a LINTEL_RETURN (Table 12.6) with its data slots' bytes. -/
structure LintelRec where
  origSrc : Node
  origTag : W32
  batch : W32
  index : Byte
  status : Byte
  op : Byte
  old : W64
  size : BitVec 16
  data : List Byte
  deriving DecidableEq, Repr

/-- A link packet: the header of Table 11.7 and its payload. -/
structure Packet where
  dest : Node
  src : Node
  ptype : Byte
  escape : Bool
  crossed : Bool
  hops : Byte
  transport : List Byte
  payload : List Byte
  deriving DecidableEq, Repr

/-- An expert transfer or return (07_experts_and_dynamic_shapes.md R225, R227): `counter` is the counter it grants on. -/
structure ExpertMsg where
  course : W64
  inst : BitVec 20
  layer : Nat
  expert : Nat
  source : BitVec 6
  counter : BitVec 18
  rows : List (List Byte)
  deriving DecidableEq, Repr

/-- A mirror record (13_mirror_pair_and_failover.md Table 13.2), KIND and contents as bytes. -/
structure MirrorRec where
  kind : Byte
  slot : Nat
  body : List Byte
  deriving DecidableEq, Repr

/-- A CLOSE record of the mirror stream (Table 13.2). -/
structure MirrorCloseRec where
  course : W64
  count : Nat
  fold : W32
  greatest : W64
  members : W64
  deriving DecidableEq, Repr

/-- Bytes of a tensor in a part of a copy (10 R322): false the own part, true the twin part. -/
structure Placed where
  part : Bool := false
  offset : Nat := 0
  bytes : Nat := 0
  common : Bool := false
  deriving DecidableEq, Repr

/-- The area layout of a copy (13 R452): its tensors' places, the bytes and layouts of its own, draft and twin templates, and the
shape its manifest declared. -/
structure CopyLayout where
  placed : List Placed := []
  own : Option (Nat × Machine.TemplateLayout) := none
  draft : Option (Nat × Machine.TemplateLayout) := none
  twin : Option (Nat × Machine.TemplateLayout) := none
  vocab : Nat := 0
  layers : Nat := 0
  geometry : Nat := 0
  draftLayers : Nat := 0
  draftGeometry : Nat := 0
  deriving DecidableEq, Repr

/-- A RESTORE packet's contents (R452): the header, one granule, or an image record. -/
inductive RestoreMsg where
  | header (epoch : W32) (digest : List Byte) (own twin : Nat) (lay : CopyLayout)
  | granule (part : Bool) (offset : Nat) (bytes : List Byte)
  | image (r : MirrorRec)
  | imageClose (r : MirrorCloseRec)
  | handback (course : W64)
  deriving DecidableEq, Repr

/-- A Bridle frame as the MAC passes it on (16_object_dictionary_and_bridle.md R540, Table 16.7). `good` is the MAC's
verdict on FCS, length, EtherType, tag and address. -/
structure Frame where
  good : Bool
  broadcast : Bool
  mac : BitVec 48
  pdu : List Byte
  deriving DecidableEq, Repr

/-- A write to an object or register with no row of its own. -/
inductive WriteTarget where
  | object (p : Path) (key : Key) (typ : Byte) (v : ObjVal)
  | register (who : Requester) (offset : BitVec 40) (size : Nat) (v : W64)
  deriving DecidableEq, Repr

/-- Why a link goes DOWN (11_links_and_topology.md R353). -/
inductive DownCause where
  | signal | flits | lanes
  deriving DecidableEq, Repr

/-- A layer of one of a session's roots: the main model's or the draft model's (05 Table 5.3). -/
structure RootLayer where
  draft : Bool
  layer : Nat
  deriving DecidableEq, Repr

/-- A lane that has failed: by loss of symbol lock, or by the symbols corrected on it (11 R365). -/
structure LaneFailure where
  lane : Fin 8
  lock : Bool
  deriving DecidableEq, Repr

/-- What a BEAT carries beside its tick: STATE, and the mirror ranges and COVER_PAGES of its sender (13 R429, R435; log entry 54). -/
structure BeatBody where
  state : Byte
  ranges : List W64
  cover : W32
  deriving DecidableEq, Repr

/-- The 249 commands, in the order of spec/opcode_table.json. -/
inductive Instr where
  -- package state and boot
  | vauxRise
  | vauxLoss
  | resetNFall
  | bootStart
  | keystoneStage
  | runtimeLoad
  | hbmTraining (first second : BitVec 16)
  | alignComplete
  | stateRequestReady (p : Path)
  | stateRequestServing (p : Path)
  | stateRequestDraining (p : Path)
  | stateRequestDrained (p : Path)
  | drainComplete
  -- course clock
  | timeWordSend
  | timeWord (port : Port) (w : BitVec 96) (phase : BitVec 10)
  | parentTimeout
  | clockLock
  | cclkEdge (gapNs : Nat) (offNs : Int)
  | cclkInvalid
  | handoffTick (p : Path) (v : W64)
  | masterHandoff
  | masterTimeout
  | holdoverEnter
  | holdoverLimit
  -- hods and courses
  | hodEnable (p : Path) (h : Fin 64)
  | hodDisable (p : Path) (h : Fin 64)
  | hodSampling (h : Fin 64)
  | courseCutoff (covered : Bool)
  | closeMarker (src : Node) (course : W64) (close : Tick)
  | markerTimeout (covered : Bool)
  | courseStart (covered : Bool)
  | courseClose (covered : Bool)
  -- credits, stealing, cores
  | grant (covered : Bool) (course : W64) (counter : BitVec 18) (amount : BitVec 12) (sender : Node) (inst : BitVec 20)
  | retireRequest (r : Run)
  | runClaim (r : Run)
  | steal (q : Fin 4) (nn : Fin 96)
  | stealRetryWait (q : Fin 4) (nn : Fin 96)
  | depthPublish (q : Fin 4) (nn : Fin 96)
  | coreLeave (who : Requester) (q : Fin 4) (nn : Fin 96)
  | coreWithdrawn (q : Fin 4) (nn : Fin 96)
  | coreRejoin (who : Requester) (q : Fin 4) (nn : Fin 96)
  -- ashlar kinds
  | matmul (r : Run)
  | accCombine (r : Run)
  | attend (r : Run)
  | attnMerge (r : Run)
  | routerTopk (r : Run)
  | expertScatter (r : Run)
  | expertGather (r : Run)
  | normRms (r : Run)
  | normCentred (r : Run)
  | activate (r : Run)
  | rotaryScore (r : Run)
  | softmax (r : Run)
  | residualAdd (r : Run)
  | requant (r : Run)
  | embed (r : Run)
  | probs (r : Run)
  | sample (r : Run)
  | scaffoldVerify (r : Run)
  | kvSet (r : Run)
  | kvShip (r : Run)
  | kvRepack (r : Run)
  | satchelStore (r : Run)
  | gateMask (r : Run)
  | lsumCombine (r : Run)
  | copy (r : Run)
  | collect (r : Run) (got : List (BitVec 6 × List Byte))
  | fence (r : Run)
  | gatherRows (r : Run)
  -- expert exchange
  | placementRequest (covered : Bool) (inst : BitVec 20)
  | expertTransfer (covered : Bool) (sender : Node) (m : ExpertMsg)
  | expertReturn (covered : Bool) (sender : Node) (m : ExpertMsg)
  | exchangeWindowOpen
  | exchangeWindowClose
  -- shipments and hand-over
  | pageRecord (src : Node) (rec : List Byte) (payload : List Byte)
  | closingRecord (src : Node) (rec : List Byte)
  | shipmentTimeout (id : W64)
  | handoverRequest (src : Node) (rec : List Byte)
  | handoverGrant (src : Node) (rec : List Byte)
  | handoverDecline (src : Node) (rec : List Byte)
  | handoverRecord (src : Node) (rec : List Byte)
  | handoverAccept (src : Node) (rec : List Byte)
  | handoverRefuse (src : Node) (rec : List Byte)
  | handoverWaitExpiry (slot : BitVec 18)
  | grantHoldExpiry (slot : BitVec 18)
  | verdictTimeout (slot : BitVec 18)
  | ttlExpiry (slot : BitVec 18)
  | quotaWaitExpiry (slot : BitVec 18)
  | splice (p : Path) (req : List Byte)
  | tenantActivate (p : Path) (t : Byte)
  | tenantDeactivate (p : Path) (t : Byte)
  -- stacked memory and SRAM
  | hbmRead (who : Requester) (addr : BitVec 47) (first again : RawRead)
  | hbmWrite (who : Requester) (addr : BitVec 47) (data : List Byte) (scaleExp : Byte)
  | mergeTimeout (stack : Fin 16) (first again : RawRead)
  | twinData (stack : Fin 16) (addr : BitVec 47) (ok : Bool) (granule : List Byte) (again : RawRead)
  | farReadDeadline (slot : BitVec 18) (layer : RootLayer) (page : Nat)
  | sramRead (who : Requester) (addr : BitVec 47) (raw : RawRead)
  | scrubWindowOpen
  | scrubWindowClose
  | scrubRead (stack : Fin 16) (pch : Fin 32) (first again : RawRead)
  | regionWrite (p : Path) (sub : Byte) (v : W64)
  | hbmLogClear (p : Path) (v : Byte)
  | sramLogClear (p : Path) (v : Byte)
  | marginStart (p : Path) (v : Byte)
  | marginDone (aborted : Bool)
  -- weights and switch
  | loadStart (p : Path) (v : Byte)
  | loadPost (p : Path) (v : W64)
  | chunkConvert
  | loadAbort (p : Path) (v : Byte)
  | copyFree (p : Path) (k : Fin 2) (v : Byte)
  | areaWrite (p : Path) (sub : Byte) (v : W64)
  | switchRequest (p : Path) (req : List Byte)
  | switchNotice (src : Node) (at_ : Tick) (epoch : W32) (digest : List Byte)
  | switchConfirm
  | switchCancel (src : Node) (epoch : W32)
  | weightSwitch
  | twinFetch (port : Port) (src : Node) (epoch : W32) (part : Bool) (ownBase twinBase off : Nat)
  -- links
  | flitReceive (port : Port) (lanes : List (Nat × List Symbol))
  | replay (port : Port) (fseq : BitVec 10)
  | replayTimer (port : Port)
  | linkDown (port : Port) (cause : DownCause)
  | echo (port : Port) (payload : BitVec 96) (reply : Bool) (clock : BitVec 48)
  | creditInit (port : Port) (payload : BitVec 96)
  | laneMap (port : Port) (payload : BitVec 96)
  | laneFail (port : Port) (lane : LaneFailure)
  | rewiden (port : Port) (healthy : Byte)
  | portTrainStart (port : Port)
  | laneDetect (port : Port) (lane : Fin 8)
  | trainStateLimit (port : Port)
  | deskewAligned (port : Port)
  | portEnable (p : Path) (port : Port) (v : Byte)
  -- routing and Plumbline
  | routeRecompute
  | packetRoute (pkt : Packet)
  | hello (port : Port) (payload : BitVec 96)
  | beacon (port : Port) (payload : BitVec 96)
  | gatherQuietExpiry
  | assign (port : Port) (payload : BitVec 96)
  | assignQuietExpiry
  | report (port : Port) (payload : BitVec 96)
  | reportTimeout
  | fabric (port : Port) (payload : BitVec 96)
  | join (port : Port) (payload : BitVec 96)
  | joinWaitExpiry
  | call (port : Port) (payload : BitVec 96)
  | plumbRestart (p : Path) (v : Byte)
  -- fabric requests
  | load (r : FabReq)
  | store (r : FabReq)
  | fetchAdd (r : FabReq)
  | swap (r : FabReq)
  | fetchAnd (r : FabReq)
  | fetchOr (r : FabReq)
  | fetchXor (r : FabReq)
  | fetchMaxU (r : FabReq)
  | cas (r : FabReq)
  | fabricResponse (r : FabResp)
  | requestTimeout (tag : W32)
  | combineTimeout (record : Nat)
  -- lintels and the host bridge
  | lintelFlush (g : Bool)
  | lintelBatch (g : Bool) (src : Node) (batch : W32) (reqs : List BatchReq)
  | lintelReturn (g : Bool) (recs : List LintelRec)
  | hostWrite (bar : Fin 3) (offset : Nat) (data : List Byte) (relaxed poisoned : Bool)
  | hostRead (bar : Fin 3) (offset len : Nat)
  | hostAtomic (bar : Fin 3) (offset : Nat) (op : Byte) (size : BitVec 16) (opA opB : W64)
  | hostIrq (src : Node) (line : Fin 32)
  | winEnable (p : Path) (w : Fin 128) (v : Byte)
  -- mirror pair
  | mirror (r : MirrorRec)
  | mirrorClose (r : MirrorCloseRec)
  | mirrorAck (course : W64)
  | beatSend
  | beatLoss
  | failNotice (node : Node) (kind : Byte)
  | aliasSet (src failed : Node) (cover : Option Node) (seq : W32)
  | aliasAck (src : Node) (seq : W32)
  | takeoverQuietEnd
  | coveringEnter
  | rejoin (identity : Node) (closed : W64) (members : W64)
  | shardDown (node : Node)
  | stallLimit (member : Node)
  | restoreStart (p : Path) (v : Byte)
  | restore (m : RestoreMsg)
  -- power
  | plinthCommand
  | telemetryFrame (w : BitVec 128)
  | plinthSilent
  | plinthLost
  | reinUpdate
  | holdEnd
  | excessInterval
  | thermalHoldStep (readings : List Int)
  | thermTrip (sensor : Fin 52) (reading : Int)
  | opStep
  | opClockChange
  | wearCharge
  | rampEvent (p : Path) (req : List Byte)
  | rampEventApply
  | preRamp
  | wakeGrant
  | wakeComplete (q : Fin 4)
  | pwrGoodFall
  | supplyPullEnd
  | rackBeat (p : Path) (v : W32)
  | rackTimeout
  | coolOkFall
  -- faults and the interrupt controller
  | faultIntake
  | fcuTrapDone (who : Requester) (v : W32)
  | fcuKick (who : Requester) (c : Fin 4) (v : W32)
  | watchdog (c : Fin 4)
  | fcuInject (who : Requester) (word3 : W32)
  | errClear (p : Path) (v : Byte)
  | faultLogClear (p : Path) (v : Byte)
  | graveClear (p : Path) (v : Byte)
  | icxClaim (who : Requester) (c : Fin 4)
  | icxEoi (who : Requester) (c : Fin 4) (v : W32)
  | icxPendSet (who : Requester) (w : Fin 16) (v : W32)
  | icxPendClr (who : Requester) (w : Fin 16) (v : W32)
  | icxEnSet (who : Requester) (w : Fin 16) (v : W32)
  | icxEnClr (who : Requester) (w : Fin 16) (v : W32)
  | icxSwSet (who : Requester) (v : W32)
  | holdoffExpiry (g : Fin 32)
  | coalesceTimeout (src : Fin 5)
  | dozeEnter
  | dozeWake
  -- dictionary and Bridle
  | read (f : Frame)
  | write (f : Frame)
  | discover (f : Frame)
  | discoverAnswer
  | bridleStagingTimeout
  | windowStagingTimeout (key : Key)
  | objectWrite (w : WriteTarget)
  | dictStore (p : Path) (v : Byte)
  | storeImageDone (good : Bool)
  | dictDefaults (p : Path) (v : Byte)
  | plcaEnable (p : Path) (v : Byte)
  -- security, calibration, self-test
  | fwUpdate (p : Path) (v : W32)
  | keystonePending (p : Path) (rec : List Byte)
  | attestNonce (p : Path) (nonce : List Byte)
  | attestDone
  | calWrite (p : Path) (set : List Byte)
  | selftestDone (q : Fin 4) (nn : Fin 96) (pass : Bool)
  | escanStart (p : Path) (v : Byte)
  | escanDone
  | fbistStart (p : Path) (v : Byte)
  | fbistDone (failedCores : List (Fin 384)) (stores : BitVec 4) (hbm : BitVec 16) (errors : W32)
  -- rows added later in the table
  | flitBoundary (port : Port)
  /-- Beside the sender's tick and state: its mirror ranges and COVER_PAGES, which the twins exchange (13 R429). -/
  | beat (tick : Tick) (body : BeatBody)
  | coolOkRise
  | pcieStateChange (state rate width : Byte)
  | flashWriteDone (good : Bool)
  | handbackQuietEnd
  | lintelReturnFlush (g : Bool)
  deriving DecidableEq, Repr

end Sys2Proof
end

