-- ==== Sys2Proof/Machine/Bits.lean ====
section
/-! DEFINITION. Byte order, bit fields and sparse maps: the helpers every unit uses. Rules: 00_scope.md R8 to R10. -/

namespace Sys2Proof.Machine

/-! ## Byte order (R9) -/

/-- The n low bytes of v, least significant first. -/
def leBytes : Nat → Nat → List Byte
  | 0, _ => []
  | n + 1, v => BitVec.ofNat 8 v :: leBytes n (v / 256)

/-- The number whose bytes these are, least significant first. -/
def ofLe : List Byte → Nat
  | [] => 0
  | b :: r => b.toNat + 256 * ofLe r

/-- The n low bytes of v, most significant first. -/
def beBytes (n v : Nat) : List Byte := (leBytes n v).reverse

/-- The number whose bytes these are, most significant first. -/
def ofBe (l : List Byte) : Nat := ofLe l.reverse

/-- n zero bytes. -/
def zeros (n : Nat) : List Byte := List.replicate n 0

/-- Bytes off .. off + n - 1, zero where the list has ended. -/
def slice (l : List Byte) (off n : Nat) : List Byte :=
  let t := (l.drop off).take n
  t ++ zeros (n - t.length)

/-- The little-endian field of n bytes at offset off. -/
def fieldLe (l : List Byte) (off n : Nat) : Nat := ofLe (slice l off n)

/-- The most-significant-first field of n bytes at offset off. -/
def fieldBe (l : List Byte) (off n : Nat) : Nat := ofBe (slice l off n)

/-- Pad with zero bytes to length n, or cut to it. -/
def fit (n : Nat) (l : List Byte) : List Byte := slice l 0 n

/-- Write bytes over a list at an offset, keeping its length. -/
def patch (l : List Byte) (off : Nat) (d : List Byte) : List Byte :=
  (l.take off ++ d ++ l.drop (off + d.length)).take l.length

/-- Round up to a multiple of k. -/
def roundUp (n k : Nat) : Nat := (n + k - 1) / k * k

/-- ⌈n ÷ k⌉. -/
def ceilDiv (n k : Nat) : Nat := (n + k - 1) / k

/-! ## Bit fields (R8) -/

/-- Field [hi:lo] of a number. -/
def bits (v hi lo : Nat) : Nat := v / 2 ^ lo % 2 ^ (hi + 1 - lo)

/-- Bit i of a number. -/
def bit (v i : Nat) : Bool := v / 2 ^ i % 2 == 1

/-- 1 or 0. -/
def b2n (b : Bool) : Nat := if b then 1 else 0

/-- Two's complement of width w as an integer. -/
def toSigned (w v : Nat) : Int := if v % 2 ^ w < 2 ^ (w - 1) then (v % 2 ^ w : Nat) else ((v % 2 ^ w : Nat) : Int) - 2 ^ w

/-- An integer as its two's complement of width w. -/
def ofSigned (w : Nat) (i : Int) : Nat := (i % (2 ^ w : Nat)).toNat

/-- The number of one bits among the low n. -/
def popcount : Nat → Nat → Nat
  | 0, _ => 0
  | n + 1, v => v % 2 + popcount n (v / 2)

/-- The bit positions below n that are 1, ascending. -/
def onBits (n v : Nat) : List Nat := (List.range n).filter (bit v)

/-- The highest one bit among the low n, if any. -/
def highBit (n v : Nat) : Option Nat := (onBits n v).getLast?

/-! ## Ticks (R10) -/

/-- a is later than b, or equal: their difference modulo 2^48 is below 2^47. -/
def Tick.atLeast (a b : Tick) : Bool := (a - b).toNat < 2 ^ 47

/-- a is later than b. -/
def Tick.after (a b : Tick) : Bool := a != b && (a - b).toNat < 2 ^ 47

/-- Ticks from b to a, when a is not earlier. -/
def Tick.since (a b : Tick) : Nat := (a - b).toNat

/-- The later of two ticks. -/
def Tick.max (a b : Tick) : Tick := if Tick.atLeast a b then a else b

/-- The first multiple of g not before t. -/
def Tick.grid (t : Tick) (g : Nat) : Tick := BitVec.ofNat 48 (roundUp t.toNat g)

/-! ## Sparse maps in canonical form -/

/-- The entry of key k, or d. -/
def SMap.get {β : Type} (d : β) : SMap β → Nat → β
  | [], _ => d
  | (j, v) :: r, k => if j = k then v else SMap.get d r k

/-- Remove the entry of key k. -/
def SMap.del {β : Type} : SMap β → Nat → SMap β
  | [], _ => []
  | (j, v) :: r, k => if j = k then SMap.del r k else (j, v) :: SMap.del r k

/-- Put v at key k, keeping the keys rising. -/
def SMap.put {β : Type} : SMap β → Nat → β → SMap β
  | [], k, v => [(k, v)]
  | (j, w) :: r, k, v =>
    if k < j then (k, v) :: (j, w) :: r
    else if k = j then (k, v) :: r
    else (j, w) :: SMap.put r k v

/-- Set key k to v: an entry equal to the default d is removed, so equal maps are equal lists. -/
def SMap.set {β : Type} [DecidableEq β] (d : β) (m : SMap β) (k : Nat) (v : β) : SMap β :=
  if v = d then SMap.del m k else SMap.put m k v

/-- The entry of key k, if there is one. -/
def SMap.find {β : Type} : SMap β → Nat → Option β
  | [], _ => none
  | (j, v) :: r, k => if j = k then some v else SMap.find r k

/-- Keys strictly rise from above `lo`. -/
def SMap.rising {β : Type} : Option Nat → SMap β → Bool
  | _, [] => true
  | lo, (j, _) :: r => (match lo with | none => true | some l => decide (l < j)) && SMap.rising (some j) r

/-- The canonical form: strictly rising keys and no entry equal to the default. -/
def SMap.wf {β : Type} [DecidableEq β] (d : β) (m : SMap β) : Bool :=
  SMap.rising none m && m.all (fun e => decide (e.2 ≠ d))

/-! ## Lists -/

/-- Keep the newest n entries of a list whose newest is last. -/
def keepLast {β : Type} (n : Nat) (l : List β) : List β := l.drop (l.length - n)

/-- Replace entry i. -/
def setAt {β : Type} : List β → Nat → β → List β
  | [], _, _ => []
  | _ :: r, 0, v => v :: r
  | a :: r, i + 1, v => a :: setAt r i v

/-- Insert into a list ordered by a Nat key, after equal keys. -/
def insertBy {β : Type} (key : β → Nat) (x : β) : List β → List β
  | [] => [x]
  | a :: r => if key x < key a then x :: a :: r else a :: insertBy key x r

/-- Stable insertion sort, ascending by a Nat key. -/
def sortBy {β : Type} (key : β → Nat) (l : List β) : List β := l.foldl (fun acc x => insertBy key x acc) []

/-- The entry with the greatest key; the first among equals. -/
def maxBy {β : Type} (key : β → Nat) : List β → Option β
  | [] => none
  | a :: r => some (r.foldl (fun best x => if key x > key best then x else best) a)

/-- Sum of a list. -/
def sumNat (l : List Nat) : Nat := l.foldl (· + ·) 0

end Sys2Proof.Machine
end

