-- ==== Sys2Proof/Machine/Crc.lean ====
section
/-! DEFINITION. The check codes of the manual: CRC-32C (05 R186), CRC-24 (09 R283), CRC-16 (09 R286), CRC-8 (09 R301), and
the Reed-Solomon codes over GF(2^8) of HBM words (09 R282), SRAM words (09 R301) and flits (11 R348). -/

namespace Sys2Proof.Machine

/-- One step of a left-shifting CRC of width w with generator g (without its top term). -/
def crcStep (w g reg : Nat) (b : Bool) : Nat :=
  let top := bit reg (w - 1) != b
  let sh := reg * 2 % 2 ^ w
  if top then sh ^^^ g else sh

/-- Feed the n low bits of v, most significant first. -/
def crcBits (w g : Nat) : Nat → Nat → Nat → Nat
  | 0, _, reg => reg
  | n + 1, v, reg => crcBits w g n v (crcStep w g reg (bit v n))

/-- Feed bytes, each most significant bit first. -/
def crcBytes (w g : Nat) (l : List Byte) (init : Nat) : Nat :=
  l.foldl (fun r b => crcBits w g 8 b.toNat r) init

/-- One step of the reflected CRC-32C (R186): generator 0x1EDC_6F41 reflected is 0x82F6_3B78. -/
def crc32cBits : Nat → Nat → Nat
  | 0, r => r
  | n + 1, r => crc32cBits n (if r % 2 == 1 then r / 2 ^^^ 0x82F63B78 else r / 2)

/-- CRC-32C over bytes (R186): initial value and final XOR 0xFFFF_FFFF. -/
def crc32c (l : List Byte) : W32 :=
  BitVec.ofNat 32 ((l.foldl (fun r b => crc32cBits 8 (r ^^^ b.toNat)) 0xFFFFFFFF) ^^^ 0xFFFFFFFF)

/-- The 24-bit tag of a 34-bit location (R283): the generator's terms below x^24 are 0x864CFB. -/
def crc24 (loc : Nat) : Nat := crcBits 24 0x864CFB 34 loc 0

/-- CRC-16 with generator 0x8BB7 (R286). -/
def crc16 (l : List Byte) : Nat := crcBytes 16 0x8BB7 l 0

/-- CRC-8 with generator x^8 + x^2 + x + 1 (R301) over n bits, most significant first. -/
def crc8 (n v : Nat) : Nat := crcBits 8 0x07 n v 0

/-! ## GF(2^8) (R282) -/

/-- Multiply by α = 2 modulo x^8 + x^4 + x^3 + x^2 + 1. -/
def gfDouble (a : Nat) : Nat := if a < 128 then a * 2 else (a * 2 ^^^ 0x11D) % 256

/-- Multiplication. -/
def gfMul (a b : Nat) : Nat :=
  ((List.range 8).foldl (fun (acc, x) i => (if bit b i then acc ^^^ x else acc, gfDouble x)) (0, a)).1

/-- α to the power n. -/
def gfPow : Nat → Nat
  | 0 => 1
  | n + 1 => gfDouble (gfPow n)

/-- Powers of α from 0 to 254. -/
def gfPowers : List Nat := (List.range 254).foldl (fun l _ => l ++ [gfDouble (l.getLastD 1)]) [1]

/-- The inverse of a non-zero element: a^254. -/
def gfInv (a : Nat) : Nat :=
  (List.range 253).foldl (fun acc _ => gfMul acc a) a

/-- Multiply a polynomial (lowest coefficient first) by (x + c). -/
def polyTimes (p : List Nat) (c : Nat) : List Nat :=
  (List.range (p.length + 1)).map (fun i =>
    gfMul (p.getD i 0) c ^^^ (if i = 0 then 0 else p.getD (i - 1) 0))

/-- ∏_{i < n} (x + α^i), lowest coefficient first. -/
def rsGenerator (n : Nat) : List Nat := (List.range n).foldl (fun p i => polyTimes p (gfPow i)) [1]

/-- One step of division: shift the register (lowest coefficient first) and feed a data symbol. -/
def rsStep (g : List Nat) (reg : List Nat) (d : Nat) : List Nat :=
  let fb := reg.getLastD 0 ^^^ d
  (List.range reg.length).map (fun i =>
    (if i = 0 then 0 else reg.getD (i - 1) 0) ^^^ gfMul fb (g.getD i 0))

/-- The remainder of (data × x^n) by the generator of n roots: data most significant coefficient first; the check
symbols lowest coefficient first. -/
def rsChecks (n : Nat) (data : List Nat) : List Nat :=
  data.foldl (rsStep (rsGenerator n)) (List.replicate n 0)

/-- The value of a polynomial (lowest coefficient first) at a point. -/
def polyAt (p : List Nat) (x : Nat) : Nat := p.foldr (fun c acc => gfMul acc x ^^^ c) 0

/-- Syndromes S_0 … S_{n-1} of a received word, lowest coefficient first. -/
def syndromes (n : Nat) (r : List Nat) : List Nat := (List.range n).map (fun k => polyAt r (gfPow k))

/-! ## Decoding up to t symbol errors (R348: each flit code corrects five) -/

/-- Scale a polynomial. -/
def polyScale (c : Nat) (p : List Nat) : List Nat := p.map (gfMul c)

/-- Add polynomials. -/
def polyAdd (a b : List Nat) : List Nat :=
  (List.range (max a.length b.length)).map (fun i => a.getD i 0 ^^^ b.getD i 0)

/-- Berlekamp-Massey: the error locator of a syndrome list. -/
def locator (s : List Nat) : List Nat × Nat :=
  let step := fun (st : List Nat × List Nat × Nat × Nat × Nat) (k : Nat) =>
    let (c, b, len, m, bb) := st
    let d := (List.range (len + 1)).foldl (fun acc i => acc ^^^ gfMul (c.getD i 0) (if i ≤ k then s.getD (k - i) 0 else 0)) 0
    if d = 0 then (c, b, len, m + 1, bb)
    else
      let t := polyAdd c (polyScale (gfMul d (gfInv bb)) (List.replicate m 0 ++ b))
      if 2 * len ≤ k then (t, c, k + 1 - len, 1, d) else (t, b, len, m + 1, bb)
  let (c, _, len, _, _) := (List.range s.length).foldl step ([1], [1], 0, 1, 1)
  (c, len)

/-- The corrected word and the number of symbols corrected, or none when more than t symbols are wrong. The error
values come from Forney's formula, and the corrected word is checked to have zero syndromes. -/
def rsCorrect (n t : Nat) (r : List Nat) : Option (List Nat × Nat) :=
  let s := syndromes n r
  if s.all (· == 0) then some (r, 0)
  else
    let (loc, len) := locator s
    if len > t then none
    else
      let pos := (List.range r.length).filter (fun i => polyAt loc (gfInv (gfPow i)) = 0)
      if pos.length ≠ len then none
      else
        let omega := (List.range n).map (fun k => (List.range (k + 1)).foldl (fun acc i => acc ^^^ gfMul (loc.getD i 0) (s.getD (k - i) 0)) 0)
        let deriv := (List.range loc.length).map (fun i => if i % 2 = 0 then loc.getD (i + 1) 0 else 0)
        let fixed := pos.foldl (fun w i =>
          let xi := gfInv (gfPow i)
          let e := gfMul (gfPow i) (gfMul (polyAt omega xi) (gfInv (polyAt deriv xi)))
          setAt w i (w.getD i 0 ^^^ e)) r
        if (syndromes n fixed).all (· == 0) then some (fixed, pos.length) else none

end Sys2Proof.Machine
end

