-- ==== Sys2Proof/Machine/Objects.lean ====
section
/-! DEFINITION. The complete object lists of the dictionary (16 R524, Tables 2.6, 7.5, 8.10, 9.7, 10.8, 11.13, 12.10, 13.4, 14.9,
15.10, 16.11 and 17.10): index, type, access right, default and range of every object, and a name for each. -/

namespace Sys2Proof.Machine

/-- An object of the dictionary with its default: key index × 256 + subindex. -/
structure Obj where
  key : Nat
  dflt : Nat
  deriving DecidableEq, Repr

/-- Access rights (16 Table 16.3). -/
inductive Acc where
  | ro | const | rw | rwd | rwk | wo
  deriving DecidableEq, Repr

/-- The Range column (16 R525): the last eight name another object. -/
inductive Rng where
  | any
  | span (lo hi : Nat)
  | spanOr (lo hi other : Nat)
  | pow2 (lo hi : Nat)
  | mask (m : Nat)
  | hbm (align : Nat)
  | aligned (n : Nat)
  | f32 (lo hi : Nat)
  | react
  | react3
  | coalesce
  | winSize
  | winTarget
  | parentTimeout
  | formationLead
  | samplePhase
  | nearResume
  | scrubLen
  | fallowHigh
  | wakePhase
  | beatLoss
  deriving DecidableEq, Repr

/-- A row of an object table: `n` indices from `idx`, `subs` subindices from `sub`, type code of Table 16.2, and for a
STR or BLOB its greatest size and whether a written value must have exactly that size. -/
structure ObjRow where
  idx : Nat
  n : Nat
  sub : Nat
  subs : Nat
  ty : Nat
  acc : Acc
  dflt : Nat
  rng : Rng
  size : Nat
  fixed : Bool
  deriving DecidableEq, Repr

/-- The default of REGION 1 (09 Table 9.7): FIRST 0, PAGES 196,608, STATE, near. -/
def region0 : Nat := 120259084288

/-! ## Names -/

namespace O

/-- TICK_NOW, 0x2000.01 (02 R78). -/
def tickNow : Obj := ⟨0x200001, 0⟩
/-- CLOCK_STATE, 0x2000.02 (02 R78). -/
def clockState : Obj := ⟨0x200002, 0⟩
/-- CLOCK_ROLE, 0x2000.03 (02 R78). -/
def clockRole : Obj := ⟨0x200003, 0⟩
/-- MASTER_NODE, 0x2000.04 (02 R78). -/
def masterNode : Obj := ⟨0x200004, 0⟩
/-- EPOCH, 0x2000.05 (02 R78). -/
def epoch : Obj := ⟨0x200005, 0⟩
/-- HOPS, 0x2000.06 (02 R78). -/
def hops : Obj := ⟨0x200006, 0⟩
/-- TIME_PARENT, 0x2000.07 (02 R78). -/
def timeParent : Obj := ⟨0x200007, 0⟩
/-- PHASE_ERROR, 0x2000.08 (02 R78). -/
def phaseError : Obj := ⟨0x200008, 0⟩
/-- HOLDOVER_ELAPSED, 0x2000.09 (02 R78). -/
def holdoverElapsed : Obj := ⟨0x200009, 0⟩
/-- HANDOFF_TICK, 0x2000.0A (02 R78). -/
def handoffTick : Obj := ⟨0x20000A, 0⟩
/-- EVENTS_DISCARDED, 0x2000.0B (02 R78). -/
def eventsDiscarded : Obj := ⟨0x20000B, 0⟩
/-- CCLK_ENABLE, 0x2001.01 (02 R78). -/
def cclkEnable : Obj := ⟨0x200101, 0⟩
/-- CCLK_VALID, 0x2001.02 (02 R78). -/
def cclkValid : Obj := ⟨0x200102, 0⟩
/-- TIME_WORD_TIMEOUT, 0x2002.01 (02 R78). -/
def timeWordTimeout : Obj := ⟨0x200201, 256⟩
/-- PARENT_TIMEOUT, 0x2002.02 (02 R78). -/
def parentTimeout : Obj := ⟨0x200202, 64⟩
/-- MASTER_TIMEOUT, 0x2002.03 (02 R78). -/
def masterTimeout : Obj := ⟨0x200203, 1024⟩
/-- HOLDOVER_LIMIT, 0x2002.04 (02 R78). -/
def holdoverLimit : Obj := ⟨0x200204, 10000000⟩
/-- COURSE_GRID, 0x2010.01 (02 R78). -/
def courseGrid : Obj := ⟨0x201001, 8⟩
/-- CLOSE_LEAD, 0x2010.02 (02 R78). -/
def closeLead : Obj := ⟨0x201002, 24⟩
/-- FORMATION_LEAD, 0x2010.03 (02 R78). -/
def formationLead : Obj := ⟨0x201003, 12⟩
/-- MARKER_TIMEOUT, 0x2010.04 (02 R78). -/
def markerTimeout : Obj := ⟨0x201004, 2000⟩
/-- BOND_COUNT, 0x2011.00 (02 R78). -/
def bondCount : Obj := ⟨0x201100, 1⟩
/-- BOND_MEMBER, 0x2011.01 to 0x2011.40 (02 R78). -/
def bondMember (i : Nat) : Obj := ⟨0x201101 + i, if i = 0 then 4294967296 else 0⟩
/-- COURSE_NUMBER, 0x2020.01 (02 R78). -/
def courseNumber : Obj := ⟨0x202001, 0⟩
/-- LATE_STARTS, 0x2020.02 (02 R78). -/
def lateStarts : Obj := ⟨0x202002, 0⟩
/-- PENDING_EVENTS, 0x2020.03 (02 R78). -/
def pendingEvents : Obj := ⟨0x202003, 0⟩
/-- COURSE_LOG, 0x2020.04 (02 R78). -/
def courseLog : Obj := ⟨0x202004, 0⟩
/-- GANG_MASK, 0x2030.01 (02 R78). -/
def gangMask : Obj := ⟨0x203001, 15⟩
/-- ENABLE, 0x21hh.01 (02 R78). -/
def hodEnable (i : Nat) : Obj := ⟨0x210001 + 256 * i, 0⟩
/-- RECORDS, 0x21hh.02 (02 R78). -/
def hodRecords (i : Nat) : Obj := ⟨0x210002 + 256 * i, 1024⟩
/-- BASE, 0x21hh.03 (02 R78). -/
def hodBase (i : Nat) : Obj := ⟨0x210003 + 256 * i, 0⟩
/-- RETURN_BASE, 0x21hh.04 (02 R78). -/
def hodReturnBase (i : Nat) : Obj := ⟨0x210004 + 256 * i, 0⟩
/-- TENANT, 0x21hh.05 (02 R78). -/
def hodTenant (i : Nat) : Obj := ⟨0x210005 + 256 * i, 0⟩
/-- SAMPLE_PERIOD, 0x21hh.06 (02 R78). -/
def hodSamplePeriod (i : Nat) : Obj := ⟨0x210006 + 256 * i, 250⟩
/-- SAMPLE_PHASE, 0x21hh.07 (02 R78). -/
def hodSamplePhase (i : Nat) : Obj := ⟨0x210007 + 256 * i, 0⟩
/-- TAKE_LIMIT, 0x21hh.08 (02 R78). -/
def hodTakeLimit (i : Nat) : Obj := ⟨0x210008 + 256 * i, 256⟩
/-- TORN_TIMEOUT, 0x21hh.09 (02 R78). -/
def hodTornTimeout (i : Nat) : Obj := ⟨0x210009 + 256 * i, 10000⟩
/-- CONSUMER_INDEX, 0x21hh.0A (02 R78). -/
def hodConsumerIndex (i : Nat) : Obj := ⟨0x21000A + 256 * i, 0⟩
/-- RETURN_RELEASE, 0x21hh.0B (02 R78). -/
def hodReturnRelease (i : Nat) : Obj := ⟨0x21000B + 256 * i, 0⟩
/-- REJECTED, 0x21hh.0C (02 R78). -/
def hodRejected (i : Nat) : Obj := ⟨0x21000C + 256 * i, 0⟩
/-- BOND_RACK, 0x2012.01 to 0x2012.40 (07 R237). -/
def bondRack (i : Nat) : Obj := ⟨0x201201 + i, 0⟩
/-- HOLDER_AVAILABLE, 0x2013.01 (07 R237). -/
def holderAvailable : Obj := ⟨0x201301, 18446744073709551615⟩
/-- EXCHANGE_SPAN, 0x2040.01 (07 R237). -/
def exchangeSpan : Obj := ⟨0x204001, 20000⟩
/-- CHOICES_PASSED, 0x2041.01 (07 R237). -/
def choicesPassed : Obj := ⟨0x204101, 0⟩
/-- TOKENS_UNPLACED, 0x2041.02 (07 R237). -/
def tokensUnplaced : Obj := ⟨0x204102, 0⟩
/-- TOKENS_SHORT, 0x2041.03 (07 R237). -/
def tokensShort : Obj := ⟨0x204103, 0⟩
/-- TOKENS_SKIPPED, 0x2041.04 (07 R237). -/
def tokensSkipped : Obj := ⟨0x204104, 0⟩
/-- LAYERS_SKIPPED, 0x2041.05 (07 R237). -/
def layersSkipped : Obj := ⟨0x204105, 0⟩
/-- EXPERT_OVERRUNS, 0x2041.06 (07 R237). -/
def expertOverruns : Obj := ⟨0x204106, 0⟩
/-- LAYER_PASSED, 0x2042.01 to 0x2042.FF (07 R237). -/
def layerPassed (i : Nat) : Obj := ⟨0x204201 + i, 0⟩
/-- ROLE, 0x6000.01 (08 R276). -/
def role : Obj := ⟨0x600001, 0⟩
/-- PREFILL_CHUNK, 0x6000.02 (08 R276). -/
def prefillChunk : Obj := ⟨0x600002, 2048⟩
/-- HANDOVER_WAIT, 0x6000.03 (08 R276). -/
def handoverWait : Obj := ⟨0x600003, 2000000⟩
/-- SESSIONS_OPEN, 0x6000.04 (08 R276). -/
def sessionsOpen : Obj := ⟨0x600004, 0⟩
/-- SESSION_TABLE_BASE, 0x6000.05 (08 R276). -/
def sessionTableBase : Obj := ⟨0x600005, 0⟩
/-- TARGET_COUNT, 0x6001.00 (08 R276). -/
def targetCount : Obj := ⟨0x600100, 0⟩
/-- DECODE_TARGET, 0x6001.01 to 0x6001.40 (08 R276). -/
def decodeTarget (i : Nat) : Obj := ⟨0x600101 + i, 0⟩
/-- NEAR_LOW, 0x6002.01 (08 R276). -/
def nearLow : Obj := ⟨0x600201, 16384⟩
/-- NEAR_RESUME, 0x6002.02 (08 R276). -/
def nearResume : Obj := ⟨0x600202, 32768⟩
/-- PARK_PAGES, 0x6002.03 (08 R276). -/
def parkPages : Obj := ⟨0x600203, 4096⟩
/-- PAUSE_LIMIT, 0x6002.04 (08 R276). -/
def pauseLimit : Obj := ⟨0x600204, 16⟩
/-- QUOTA_WAIT, 0x6002.05 (08 R276). -/
def quotaWait : Obj := ⟨0x600205, 5000000⟩
/-- NEAR_FREE, 0x6002.06 (08 R276). -/
def nearFree : Obj := ⟨0x600206, 0⟩
/-- GOAL, 0x6010+c.01 (08 R276). -/
def goal (i : Nat) : Obj := ⟨0x601001 + 256 * i, if i = 0 then 25000 else if i = 1 then 60000 else 0⟩
/-- DEADLINE_ACTION, 0x6010+c.02 (08 R276). -/
def deadlineAction (i : Nat) : Obj := ⟨0x601002 + 256 * i, if i = 0 then 1 else 0⟩
/-- TTL, 0x6010+c.03 (08 R276). -/
def ttl (i : Nat) : Obj := ⟨0x601003 + 256 * i, 600000000⟩
/-- SESSION_CAP, 0x6010+c.04 (08 R276). -/
def sessionCap (i : Nat) : Obj := ⟨0x601004 + 256 * i, 262144⟩
/-- SESSIONS, 0x6010+c.05 (08 R276). -/
def sessions (i : Nat) : Obj := ⟨0x601005 + 256 * i, 0⟩
/-- ACCT_BASE, 0x6020.01 (08 R276). -/
def acctBase : Obj := ⟨0x602001, 0⟩
/-- ACCT_RECORDS, 0x6020.02 (08 R276). -/
def acctRecords : Obj := ⟨0x602002, 65536⟩
/-- ACCT_INDEX, 0x6020.03 (08 R276). -/
def acctIndex : Obj := ⟨0x602003, 0⟩
/-- UNATTRIBUTED_ENGINE, 0x6020.04 (08 R276). -/
def unattributedEngine : Obj := ⟨0x602004, 0⟩
/-- UNATTRIBUTED_ENERGY, 0x6020.05 (08 R276). -/
def unattributedEnergy : Obj := ⟨0x602005, 0⟩
/-- DEFINED, 0x61pp.01 (08 R276). -/
def profDefined (i : Nat) : Obj := ⟨0x610001 + 256 * i, if i = 0 then 1 else 0⟩
/-- TEMPERATURE, 0x61pp.02 (08 R276). -/
def profTemperature (i : Nat) : Obj := ⟨0x610002 + 256 * i, 0⟩
/-- TOP_K, 0x61pp.03 (08 R276). -/
def profTopK (i : Nat) : Obj := ⟨0x610003 + 256 * i, 0⟩
/-- TOP_P, 0x61pp.04 (08 R276). -/
def profTopP (i : Nat) : Obj := ⟨0x610004 + 256 * i, 1065353216⟩
/-- VERIFY_MODE, 0x61pp.05 (08 R276). -/
def profVerifyMode (i : Nat) : Obj := ⟨0x610005 + 256 * i, 0⟩
/-- STOP_TOKEN, 0x61pp.06 to 0x61pp.09 (08 R276). -/
def profStopToken (i j : Nat) : Obj := ⟨0x610006 + 256 * i + j, 4294967295⟩
/-- ACTIVE, 0x62tt.01 (08 R276). -/
def tenActive (i : Nat) : Obj := ⟨0x620001 + 256 * i, 0⟩
/-- CLASS_MASK, 0x62tt.02 (08 R276). -/
def tenClassMask (i : Nat) : Obj := ⟨0x620002 + 256 * i, 15⟩
/-- RETURN_HOD, 0x62tt.03 (08 R276). -/
def tenReturnHod (i : Nat) : Obj := ⟨0x620003 + 256 * i, 0⟩
/-- SESSION_QUOTA, 0x62tt.04 (08 R276). -/
def tenSessionQuota (i : Nat) : Obj := ⟨0x620004 + 256 * i, 262144⟩
/-- QUOTA_CORE, 0x62tt.05 to 0x62tt.08 (08 R276). -/
def tenQuotaCore (i : Nat) : Obj := ⟨0x620005 + 256 * i, 4294967295⟩
/-- QUOTA_QUARTER, 0x62tt.05 to 0x62tt.08 (08 R276). -/
def tenQuotaQuarter (i : Nat) : Obj := ⟨0x620006 + 256 * i, 4294967295⟩
/-- QUOTA_NEAR, 0x62tt.05 to 0x62tt.08 (08 R276). -/
def tenQuotaNear (i : Nat) : Obj := ⟨0x620007 + 256 * i, 4294967295⟩
/-- QUOTA_FAR, 0x62tt.05 to 0x62tt.08 (08 R276). -/
def tenQuotaFar (i : Nat) : Obj := ⟨0x620008 + 256 * i, 4294967295⟩
/-- USE_CORE, 0x62tt.09 to 0x62tt.0C (08 R276). -/
def tenUseCore (i : Nat) : Obj := ⟨0x620009 + 256 * i, 0⟩
/-- USE_QUARTER, 0x62tt.09 to 0x62tt.0C (08 R276). -/
def tenUseQuarter (i : Nat) : Obj := ⟨0x62000A + 256 * i, 0⟩
/-- USE_NEAR, 0x62tt.09 to 0x62tt.0C (08 R276). -/
def tenUseNear (i : Nat) : Obj := ⟨0x62000B + 256 * i, 0⟩
/-- USE_FAR, 0x62tt.09 to 0x62tt.0C (08 R276). -/
def tenUseFar (i : Nat) : Obj := ⟨0x62000C + 256 * i, 0⟩
/-- ENGINE_TOTAL, 0x62tt.0D (08 R276). -/
def tenEngineTotal (i : Nat) : Obj := ⟨0x62000D + 256 * i, 0⟩
/-- HBM_TOTAL, 0x62tt.0E to 0x62tt.10 (08 R276). -/
def tenHbmTotal (i : Nat) : Obj := ⟨0x62000E + 256 * i, 0⟩
/-- SRAM_TOTAL, 0x62tt.0E to 0x62tt.10 (08 R276). -/
def tenSramTotal (i : Nat) : Obj := ⟨0x62000F + 256 * i, 0⟩
/-- FABRIC_TOTAL, 0x62tt.0E to 0x62tt.10 (08 R276). -/
def tenFabricTotal (i : Nat) : Obj := ⟨0x620010 + 256 * i, 0⟩
/-- ENERGY_TOTAL, 0x62tt.11 (08 R276). -/
def tenEnergyTotal (i : Nat) : Obj := ⟨0x620011 + 256 * i, 0⟩
/-- SPLICE, 0x6300.01 (08 R276). -/
def splice : Obj := ⟨0x630001, 0⟩
/-- QUERY_TAG, 0x6301.01 (08 R276). -/
def queryTag : Obj := ⟨0x630101, 0⟩
/-- QUERY_TENANT, 0x6301.02 (08 R276). -/
def queryTenant : Obj := ⟨0x630102, 0⟩
/-- QUERY_LENGTH, 0x6301.03 (08 R276). -/
def queryLength : Obj := ⟨0x630103, 4294967295⟩
/-- QUERY_STATE, 0x6301.04 (08 R276). -/
def queryState : Obj := ⟨0x630104, 0⟩
/-- REGION_COUNT, 0x3001.00 (09 R314). -/
def regionCount : Obj := ⟨0x300100, 1⟩
/-- REGION, 0x3001.01 to 0x3001.40 (09 R314). -/
def region (i : Nat) : Obj := ⟨0x300101 + i, if i = 0 then region0 else 0⟩
/-- SCRUB_PERIOD, 0x3002.01 (09 R314). -/
def scrubPeriod : Obj := ⟨0x300201, 86400⟩
/-- SCRUB_GRID, 0x3002.02 (09 R314). -/
def scrubGrid : Obj := ⟨0x300202, 10000⟩
/-- SCRUB_LEN, 0x3002.03 (09 R314). -/
def scrubLen : Obj := ⟨0x300203, 100⟩
/-- SCRUB_PASSES, 0x3002.04 (09 R314). -/
def scrubPasses : Obj := ⟨0x300204, 0⟩
/-- SCRUB_BEHIND, 0x3002.05 (09 R314). -/
def scrubBehind : Obj := ⟨0x300205, 0⟩
/-- FAR_DEADLINE, 0x3003.01 to 0x3003.04 (09 R314). -/
def farDeadline (i : Nat) : Obj := ⟨0x300301 + i, 0⟩
/-- MERGE_TIMEOUT, 0x3004.01 (09 R314). -/
def mergeTimeout : Obj := ⟨0x300401, 256⟩
/-- HBM_CORRECTED, 0x3010.01 (09 R314). -/
def hbmCorrected : Obj := ⟨0x301001, 0⟩
/-- HBM_UNCORRECTABLE, 0x3010.02 (09 R314). -/
def hbmUncorrectable : Obj := ⟨0x301002, 0⟩
/-- HBM_RETRY_OK, 0x3010.03 (09 R314). -/
def hbmRetryOk : Obj := ⟨0x301003, 0⟩
/-- TWIN_RECOVERIES, 0x3010.04 (09 R314). -/
def twinRecoveries : Obj := ⟨0x301004, 0⟩
/-- ADDR_TYPE, 0x3010.05 (09 R314). -/
def addrType : Obj := ⟨0x301005, 0⟩
/-- ACT_CRC, 0x3010.06 (09 R314). -/
def actCrc : Obj := ⟨0x301006, 0⟩
/-- POISONED, 0x3010.07 (09 R314). -/
def poisoned : Obj := ⟨0x301007, 0⟩
/-- HBM_LOG, 0x3010.08 (09 R314). -/
def hbmLog : Obj := ⟨0x301008, 0⟩
/-- HBM_LOG_CLEAR, 0x3010.09 (09 R314). -/
def hbmLogClear : Obj := ⟨0x301009, 0⟩
/-- SRAM_LOG, 0x3011.01 to 0x3011.05 (09 R314). -/
def sramLog (i : Nat) : Obj := ⟨0x301101 + i, 0⟩
/-- SRAM_CORRECTED, 0x3011.06 (09 R314). -/
def sramCorrected : Obj := ⟨0x301106, 0⟩
/-- SRAM_LOG_OVERFLOW, 0x3011.07 (09 R314). -/
def sramLogOverflow : Obj := ⟨0x301107, 0⟩
/-- SRAM_LOG_CLEAR, 0x3011.08 (09 R314). -/
def sramLogClear : Obj := ⟨0x301108, 0⟩
/-- FALLBACKS_TOTAL, 0x3012.01 (09 R314). -/
def fallbacksTotal : Obj := ⟨0x301201, 0⟩
/-- MARGIN_STACKS, 0xA300.01 (09 R314). -/
def marginStacks : Obj := ⟨0xA30001, 0⟩
/-- MARGIN_MODE, 0xA300.02 (09 R314). -/
def marginMode : Obj := ⟨0xA30002, 0⟩
/-- MARGIN_START, 0xA300.03 (09 R314). -/
def marginStart : Obj := ⟨0xA30003, 0⟩
/-- MARGIN_STATE, 0xA300.04 (09 R314). -/
def marginState : Obj := ⟨0xA30004, 0⟩
/-- MARGIN_RESULT, 0xA300.05 (09 R314). -/
def marginResult : Obj := ⟨0xA30005, 0⟩
/-- KEY_COUNT, 0x8010.00 (10 R343). -/
def keyCount : Obj := ⟨0x801000, 0⟩
/-- KEY_FPR, 0x8010.01 to 0x8010.10 (10 R343). -/
def keyFpr (i : Nat) : Obj := ⟨0x801001 + i, 0⟩
/-- AREA_COUNT, 0x8020.00 (10 R343). -/
def areaCount : Obj := ⟨0x802000, 0⟩
/-- WEIGHT_AREA, 0x8020.01 to 0x8020.04 (10 R343). -/
def weightArea (i : Nat) : Obj := ⟨0x802001 + i, 0⟩
/-- SHARD_OWN, 0x8021.01 (10 R343). -/
def shardOwn : Obj := ⟨0x802101, 0⟩
/-- SHARD_TWIN, 0x8021.02 (10 R343). -/
def shardTwin : Obj := ⟨0x802102, 0⟩
/-- MODEL_TENANT, 0x8021.03 (10 R343). -/
def modelTenant : Obj := ⟨0x802103, 0⟩
/-- WORK_BASE, 0x8021.04 (10 R343). -/
def workBase : Obj := ⟨0x802104, 0⟩
/-- STAGING_BASE, 0x8021.05 (10 R343). -/
def stagingBase : Obj := ⟨0x802105, 0⟩
/-- STAGING_SIZE, 0x8021.06 (10 R343). -/
def stagingSize : Obj := ⟨0x802106, 0⟩
/-- LOAD_MANIFEST, 0x8100.01 (10 R343). -/
def loadManifest : Obj := ⟨0x810001, 0⟩
/-- LOAD_EPOCH, 0x8100.02 (10 R343). -/
def loadEpoch : Obj := ⟨0x810002, 0⟩
/-- LOAD_MODE, 0x8100.03 (10 R343). -/
def loadMode : Obj := ⟨0x810003, 0⟩
/-- LOAD_START, 0x8100.04 (10 R343). -/
def loadStart : Obj := ⟨0x810004, 0⟩
/-- LOAD_ABORT, 0x8100.05 (10 R343). -/
def loadAbort : Obj := ⟨0x810005, 0⟩
/-- LOAD_POST, 0x8100.06 (10 R343). -/
def loadPost : Obj := ⟨0x810006, 0⟩
/-- LOAD_STATE, 0x8100.07 (10 R343). -/
def loadState : Obj := ⟨0x810007, 0⟩
/-- LOAD_STATUS, 0x8100.08 (10 R343). -/
def loadStatus : Obj := ⟨0x810008, 0⟩
/-- LOAD_DETAIL, 0x8100.09 (10 R343). -/
def loadDetail : Obj := ⟨0x810009, 0⟩
/-- LOAD_RELEASED, 0x8100.0A (10 R343). -/
def loadReleased : Obj := ⟨0x81000A, 0⟩
/-- LOAD_IGNORED, 0x8100.0B (10 R343). -/
def loadIgnored : Obj := ⟨0x81000B, 0⟩
/-- COPY_STATE, 0x811k.01 (10 R343). -/
def copyState (i : Nat) : Obj := ⟨0x811001 + 256 * i, 0⟩
/-- COPY_EPOCH, 0x811k.02 (10 R343). -/
def copyEpoch (i : Nat) : Obj := ⟨0x811002 + 256 * i, 0⟩
/-- COPY_FLAGS, 0x811k.03 (10 R343). -/
def copyFlags (i : Nat) : Obj := ⟨0x811003 + 256 * i, 0⟩
/-- COPY_DIGEST, 0x811k.04 (10 R343). -/
def copyDigest (i : Nat) : Obj := ⟨0x811004 + 256 * i, 0⟩
/-- OWN_AREA, 0x811k.05 (10 R343). -/
def ownArea (i : Nat) : Obj := ⟨0x811005 + 256 * i, 255⟩
/-- TWIN_AREA, 0x811k.06 (10 R343). -/
def twinArea (i : Nat) : Obj := ⟨0x811006 + 256 * i, 255⟩
/-- COPY_FREE, 0x811k.07 (10 R343). -/
def copyFree (i : Nat) : Obj := ⟨0x811007 + 256 * i, 0⟩
/-- SWITCH_REQUEST, 0x8120.01 (10 R343). -/
def switchRequest : Obj := ⟨0x812001, 0⟩
/-- SWITCH_STATE, 0x8120.02 (10 R343). -/
def switchState : Obj := ⟨0x812002, 0⟩
/-- SWITCH_CONFIRM, 0x8120.03 (10 R343). -/
def switchConfirm : Obj := ⟨0x812003, 10000⟩
/-- LIVE_EPOCH, 0x8120.04 (10 R343). -/
def liveEpoch : Obj := ⟨0x812004, 0⟩
/-- NODE_ID, 0x4000.01 (11 R389). -/
def nodeId : Obj := ⟨0x400001, 0⟩
/-- PLUMB_STATE, 0x4000.02 (11 R389). -/
def plumbState : Obj := ⟨0x400002, 0⟩
/-- FABRIC_TAG, 0x4000.03 (11 R389). -/
def fabricTag : Obj := ⟨0x400003, 0⟩
/-- FABRIC_K, 0x4000.04 (11 R389). -/
def fabricK : Obj := ⟨0x400004, 6⟩
/-- WIRING, 0x4000.05 (11 R389). -/
def wiring : Obj := ⟨0x400005, 1⟩
/-- EXPECTED_NODES, 0x4000.06 (11 R389). -/
def expectedNodes : Obj := ⟨0x400006, 0⟩
/-- NODES_FOUND, 0x4000.07 (11 R389). -/
def nodesFound : Obj := ⟨0x400007, 0⟩
/-- STANDBY_NODE, 0x4000.08 (11 R389). -/
def standbyNode : Obj := ⟨0x400008, 0⟩
/-- RESTORE_HELD, 0x4000.09 (11 R389). -/
def restoreHeld : Obj := ⟨0x400009, 0⟩
/-- PLUMB_RESTART, 0x4000.0A (11 R389). -/
def plumbRestart : Obj := ⟨0x40000A, 0⟩
/-- GATHER_QUIET, 0x4001.01 (11 R389). -/
def gatherQuiet : Obj := ⟨0x400101, 500⟩
/-- ASSIGN_QUIET, 0x4001.02 (11 R389). -/
def assignQuiet : Obj := ⟨0x400102, 50⟩
/-- REPORT_TIMEOUT, 0x4001.03 (11 R389). -/
def reportTimeout : Obj := ⟨0x400103, 2000⟩
/-- RETRAIN_INTERVAL, 0x4001.04 (11 R389). -/
def retrainInterval : Obj := ⟨0x400104, 1000⟩
/-- REWIDEN_INTERVAL, 0x4001.05 (11 R389). -/
def rewidenInterval : Obj := ⟨0x400105, 10000⟩
/-- LANE_SER_LIMIT, 0x4001.06 (11 R389). -/
def laneSerLimit : Obj := ⟨0x400106, 250000⟩
/-- HOP_LIMIT, 0x4001.07 (11 R389). -/
def hopLimit : Obj := ⟨0x400107, 32⟩
/-- UNREACHABLE, 0x4002.01 (11 R389). -/
def unreachable : Obj := ⟨0x400201, 0⟩
/-- DETOURS, 0x4002.02 (11 R389). -/
def detours : Obj := ⟨0x400202, 0⟩
/-- HOP_DISCARDS, 0x4002.03 (11 R389). -/
def hopDiscards : Obj := ⟨0x400203, 0⟩
/-- PORT_ENABLE, 0x41pp.01 (11 R389). -/
def portPortEnable (i : Nat) : Obj := ⟨0x410001 + 256 * i, 1⟩
/-- PORT_STATE, 0x41pp.02 (11 R389). -/
def portPortState (i : Nat) : Obj := ⟨0x410002 + 256 * i, 0⟩
/-- WIDTH, 0x41pp.03 (11 R389). -/
def portWidth (i : Nat) : Obj := ⟨0x410003 + 256 * i, 0⟩
/-- LANES_FAILED, 0x41pp.04 (11 R389). -/
def portLanesFailed (i : Nat) : Obj := ⟨0x410004 + 256 * i, 0⟩
/-- PEER_SERIAL, 0x41pp.05 (11 R389). -/
def portPeerSerial (i : Nat) : Obj := ⟨0x410005 + 256 * i, 0⟩
/-- PEER_PORT, 0x41pp.06 (11 R389). -/
def portPeerPort (i : Nat) : Obj := ⟨0x410006 + 256 * i, 255⟩
/-- DELAY, 0x41pp.07 (11 R389). -/
def portDelay (i : Nat) : Obj := ⟨0x410007 + 256 * i, 0⟩
/-- FEC_CORRECTED, 0x41pp.08 (11 R389). -/
def portFecCorrected (i : Nat) : Obj := ⟨0x410008 + 256 * i, 0⟩
/-- FLITS_FAILED, 0x41pp.09 (11 R389). -/
def portFlitsFailed (i : Nat) : Obj := ⟨0x410009 + 256 * i, 0⟩
/-- REPLAYS, 0x41pp.0A (11 R389). -/
def portReplays (i : Nat) : Obj := ⟨0x41000A + 256 * i, 0⟩
/-- CTRL_DISCARDED, 0x41pp.0B (11 R389). -/
def portCtrlDiscarded (i : Nat) : Obj := ⟨0x41000B + 256 * i, 0⟩
/-- DEGRADES, 0x41pp.0C (11 R389). -/
def portDegrades (i : Nat) : Obj := ⟨0x41000C + 256 * i, 0⟩
/-- TX_BYTES, 0x41pp.0D (11 R389). -/
def portTxBytes (i : Nat) : Obj := ⟨0x41000D + 256 * i, 0⟩
/-- RX_BYTES, 0x41pp.0E (11 R389). -/
def portRxBytes (i : Nat) : Obj := ⟨0x41000E + 256 * i, 0⟩
/-- LOAD_BOUND, 0x4200.01 (12 R426). -/
def loadBound : Obj := ⟨0x420001, 50⟩
/-- COMBINE_ENABLE, 0x4200.02 (12 R426). -/
def combineEnable : Obj := ⟨0x420002, 1⟩
/-- TIMEOUTS, 0x4200.03 (12 R426). -/
def timeouts : Obj := ⟨0x420003, 0⟩
/-- LATE_RESPONSES, 0x4200.04 (12 R426). -/
def lateResponses : Obj := ⟨0x420004, 0⟩
/-- COMBINED, 0x4200.05 (12 R426). -/
def combined : Obj := ⟨0x420005, 0⟩
/-- REFUSED, 0x4200.06 (12 R426). -/
def refused : Obj := ⟨0x420006, 0⟩
/-- LINTEL_FLUSH, 0x4201.01 (12 R426). -/
def lintelFlush : Obj := ⟨0x420101, 64⟩
/-- BATCHES_SENT, 0x4201.02 (12 R426). -/
def batchesSent : Obj := ⟨0x420102, 0⟩
/-- BATCHED_REQUESTS, 0x4201.03 (12 R426). -/
def batchedRequests : Obj := ⟨0x420103, 0⟩
/-- BRIDGE_ENABLE, 0x4400.01 (12 R426). -/
def bridgeEnable : Obj := ⟨0x440001, 0⟩
/-- PCIE_STATE, 0x4400.02 (12 R426). -/
def pcieState : Obj := ⟨0x440002, 0⟩
/-- PCIE_RATE, 0x4400.03 (12 R426). -/
def pcieRate : Obj := ⟨0x440003, 0⟩
/-- PCIE_WIDTH, 0x4400.04 (12 R426). -/
def pcieWidth : Obj := ⟨0x440004, 0⟩
/-- GROUP_COUNT, 0x4401.00 (12 R426). -/
def groupCount : Obj := ⟨0x440100, 0⟩
/-- GROUP_MEMBER, 0x4401.01 to 0x4401.40 (12 R426). -/
def groupMember (i : Nat) : Obj := ⟨0x440101 + i, 0⟩
/-- WIN_TARGET, 0x46ww.01 (12 R426). -/
def winTarget (i : Nat) : Obj := ⟨0x460001 + 256 * i, 0⟩
/-- WIN_SIZE, 0x46ww.02 (12 R426). -/
def winSize (i : Nat) : Obj := ⟨0x460002 + 256 * i, 0⟩
/-- WIN_TENANT, 0x46ww.03 (12 R426). -/
def winTenant (i : Nat) : Obj := ⟨0x460003 + 256 * i, 0⟩
/-- WIN_ENABLE, 0x46ww.04 (12 R426). -/
def winEnable (i : Nat) : Obj := ⟨0x460004 + 256 * i, 0⟩
/-- HOST_LIMIT_COUNT, 0x4700.00 (12 R426). -/
def hostLimitCount : Obj := ⟨0x470000, 0⟩
/-- HOST_LIMIT, 0x4700.01 to 0x4700.10 (12 R426). -/
def hostLimit (i : Nat) : Obj := ⟨0x470001 + i, 0⟩
/-- MSI_ROUTE, 0x48mm.01 to 0x48mm.20 (12 R426). -/
def msiRoute (i j : Nat) : Obj := ⟨0x480001 + 256 * i + j, 255⟩
/-- IRQ_DROPPED, 0x4801.00 (12 R426). -/
def irqDropped : Obj := ⟨0x480100, 0⟩
/-- MIRROR_STATE, 0x4500.01 (13 R453). -/
def mirrorState : Obj := ⟨0x450001, 0⟩
/-- TWIN_NODE, 0x4500.02 (13 R453). -/
def twinNode : Obj := ⟨0x450002, 0⟩
/-- BEAT_PERIOD, 0x4500.03 (13 R453). -/
def beatPeriod : Obj := ⟨0x450003, 1000⟩
/-- BEAT_LOSS, 0x4500.04 (13 R453). -/
def beatLoss : Obj := ⟨0x450004, 50000⟩
/-- ALIAS_WAIT, 0x4500.05 (13 R453). -/
def aliasWait : Obj := ⟨0x450005, 20000⟩
/-- STALL_LIMIT, 0x4500.06 (13 R453). -/
def stallLimit : Obj := ⟨0x450006, 10000000⟩
/-- COMMITTED_COURSE, 0x4500.07 (13 R453). -/
def committedCourse : Obj := ⟨0x450007, 0⟩
/-- COVER_BASE, 0x4500.08 (13 R453). -/
def coverBase : Obj := ⟨0x450008, 0⟩
/-- COVER_PAGES, 0x4500.09 (13 R453). -/
def coverPages : Obj := ⟨0x450009, 0⟩
/-- RANGE_COUNT, 0x4501.00 (13 R453). -/
def rangeCount : Obj := ⟨0x450100, 0⟩
/-- MIRROR_RANGE, 0x4501.01 to 0x4501.08 (13 R453). -/
def mirrorRange (i : Nat) : Obj := ⟨0x450101 + i, 0⟩
/-- ALIAS_COUNT, 0x4502.01 (13 R453). -/
def aliasCount : Obj := ⟨0x450201, 0⟩
/-- ALIAS_TABLE, 0x4502.02 (13 R453). -/
def aliasTable : Obj := ⟨0x450202, 0⟩
/-- RESTORE_START, 0x4503.01 (13 R453). -/
def restoreStart : Obj := ⟨0x450301, 0⟩
/-- RESTORE_PROGRESS, 0x4503.02 (13 R453). -/
def restoreProgress : Obj := ⟨0x450302, 0⟩
/-- HANDBACK_TICK, 0x4503.03 (13 R453). -/
def handbackTick : Obj := ⟨0x450303, 0⟩
/-- TAKEOVERS, 0x4504.01 (13 R453). -/
def takeovers : Obj := ⟨0x450401, 0⟩
/-- TWIN_FETCHES_SERVED, 0x4504.02 (13 R453). -/
def twinFetchesServed : Obj := ⟨0x450402, 0⟩
/-- BEATS_MISSED, 0x4504.03 (13 R453). -/
def beatsMissed : Obj := ⟨0x450403, 0⟩
/-- RETURN_COMMITTED, 0x21hh.0D (13 R453). -/
def hodReturnCommitted (i : Nat) : Obj := ⟨0x21000D + 256 * i, 0⟩
/-- OP_ACTIVE, 0x5000.01 (14 R485). -/
def opActive : Obj := ⟨0x500001, 5⟩
/-- OP_PREFILL, 0x5000.02 (14 R485). -/
def opPrefill : Obj := ⟨0x500002, 5⟩
/-- OP_DECODE, 0x5000.03 (14 R485). -/
def opDecode : Obj := ⟨0x500003, 5⟩
/-- POWER_CAP, 0x5001.01 (14 R485). -/
def powerCap : Obj := ⟨0x500101, 2200⟩
/-- SUSTAIN_W, 0x5001.02 (14 R485). -/
def sustainW : Obj := ⟨0x500102, 1600⟩
/-- PULLS, 0x5001.03 (14 R485). -/
def pulls : Obj := ⟨0x500103, 0⟩
/-- MEASURED_POWER, 0x5001.04 (14 R485). -/
def measuredPower : Obj := ⟨0x500104, 0⟩
/-- RAMP_LIMIT, 0x5002.01 (14 R485). -/
def rampLimit : Obj := ⟨0x500201, 200⟩
/-- RAMP_EVENT, 0x5002.02 (14 R485). -/
def rampEvent : Obj := ⟨0x500202, 0⟩
/-- FILL_ENABLE, 0x5002.03 (14 R485). -/
def fillEnable : Obj := ⟨0x500203, 1⟩
/-- PRE_RAMP_MAX, 0x5002.04 (14 R485). -/
def preRampMax : Obj := ⟨0x500204, 20000⟩
/-- FALLOW_ENABLE, 0x5003.01 (14 R485). -/
def fallowEnable : Obj := ⟨0x500301, 0⟩
/-- FALLOW_LOW, 0x5003.02 (14 R485). -/
def fallowLow : Obj := ⟨0x500302, 24⟩
/-- FALLOW_HIGH, 0x5003.03 (14 R485). -/
def fallowHigh : Obj := ⟨0x500303, 52⟩
/-- WAKE_STRIDE, 0x5003.04 (14 R485). -/
def wakeStride : Obj := ⟨0x500304, 1⟩
/-- WAKE_PHASE, 0x5003.05 (14 R485). -/
def wakePhase : Obj := ⟨0x500305, 0⟩
/-- WAKE_TIME, 0x5003.06 (14 R485). -/
def wakeTime : Obj := ⟨0x500306, 20⟩
/-- FALLOW_MASK, 0x5003.07 (14 R485). -/
def fallowMask : Obj := ⟨0x500307, 0⟩
/-- SURVIVE_W, 0x5004.01 (14 R485). -/
def surviveW : Obj := ⟨0x500401, 900⟩
/-- SURVIVE_OP, 0x5004.02 (14 R485). -/
def surviveOp : Obj := ⟨0x500402, 2⟩
/-- PG_RELEASE, 0x5004.03 (14 R485). -/
def pgRelease : Obj := ⟨0x500403, 10000⟩
/-- PLINTH_BAD, 0x5004.04 (14 R485). -/
def plinthBad : Obj := ⟨0x500404, 0⟩
/-- TJ_HOLD, 0x5005.01 (14 R485). -/
def tjHold : Obj := ⟨0x500501, 100⟩
/-- TJ_TRIP, 0x5005.02 (14 R485). -/
def tjTrip : Obj := ⟨0x500502, 115⟩
/-- HBM_HOLD, 0x5005.03 (14 R485). -/
def hbmHold : Obj := ⟨0x500503, 95⟩
/-- HBM_TRIP, 0x5005.04 (14 R485). -/
def hbmTrip : Obj := ⟨0x500504, 105⟩
/-- TEMP_MAX, 0x5005.05 to 0x5005.09 (14 R485). -/
def tempMax (i : Nat) : Obj := ⟨0x500505 + i, 0⟩
/-- TEMP_STACK_MAX, 0x5005.0A (14 R485). -/
def tempStackMax : Obj := ⟨0x50050A, 0⟩
/-- WEAR_LEDGER, 0x5006.01 (14 R485). -/
def wearLedger : Obj := ⟨0x500601, 0⟩
/-- WEAR_LIMIT, 0x5006.02 (14 R485). -/
def wearLimit : Obj := ⟨0x500602, 17520⟩
/-- RACK_BEAT, 0x5007.01 (14 R485). -/
def rackBeat : Obj := ⟨0x500701, 0⟩
/-- RACK_TIMEOUT, 0x5007.02 (14 R485). -/
def rackTimeout : Obj := ⟨0x500702, 5000⟩
/-- RACK_STATE, 0x5007.03 (14 R485). -/
def rackState : Obj := ⟨0x500703, 0⟩
/-- SUSTAIN_LEVEL, 0x5009.01 to 0x5009.08 (14 R485). -/
def sustainLevel (i : Nat) : Obj := ⟨0x500901 + i, 0⟩
/-- FAULT_LOG, 0x7000.01 (15 R523). -/
def faultLog : Obj := ⟨0x700001, 0⟩
/-- FAULT_INDEX, 0x7000.02 (15 R523). -/
def faultIndex : Obj := ⟨0x700002, 0⟩
/-- FAULT_LOG_CLEAR, 0x7000.03 (15 R523). -/
def faultLogClear : Obj := ⟨0x700003, 0⟩
/-- FAULTS_DROPPED, 0x7000.04 (15 R523). -/
def faultsDropped : Obj := ⟨0x700004, 0⟩
/-- FAULT_RATE, 0x7000.05 (15 R523). -/
def faultRate : Obj := ⟨0x700005, 16⟩
/-- FAULT_COUNT, 0x7000.06 to 0x7000.0A (15 R523). -/
def faultCount (i : Nat) : Obj := ⟨0x700006 + i, 0⟩
/-- VAUX_STORE, 0x7001.01 (15 R523). -/
def vauxStore : Obj := ⟨0x700101, 0⟩
/-- VAUX_FIRST, 0x7001.02 (15 R523). -/
def vauxFirst : Obj := ⟨0x700102, 0⟩
/-- GRAVE_LAST, 0x7001.03 (15 R523). -/
def graveLast : Obj := ⟨0x700103, 0⟩
/-- GRAVE_CLEAR, 0x7001.04 (15 R523). -/
def graveClear : Obj := ⟨0x700104, 0⟩
/-- CHIP_RESETS, 0x7001.05 (15 R523). -/
def chipResets : Obj := ⟨0x700105, 0⟩
/-- STORM_LIMIT, 0x7001.06 (15 R523). -/
def stormLimit : Obj := ⟨0x700106, 3⟩
/-- STORM_WINDOW, 0x7001.07 (15 R523). -/
def stormWindow : Obj := ⟨0x700107, 600⟩
/-- ERR_STATE, 0x7001.08 (15 R523). -/
def errState : Obj := ⟨0x700108, 0⟩
/-- ERR_CLEAR, 0x7001.09 (15 R523). -/
def errClear : Obj := ⟨0x700109, 0⟩
/-- TRAP_CORE, 0x7002.01 (15 R523). -/
def trapCore : Obj := ⟨0x700201, 0⟩
/-- WATCHDOG_PERIOD, 0x7002.02 (15 R523). -/
def watchdogPeriod : Obj := ⟨0x700202, 100⟩
/-- REACT_LOW, 0x7010.00 to 0x7013.FF (15 R523). -/
def reactLow (i : Nat) : Obj := ⟨0x701000 + i, 1⟩
/-- REACT_HIGH, 0x7014.00 to 0x7017.FF (15 R523). -/
def reactHigh (i : Nat) : Obj := ⟨0x701400 + i, 132⟩
/-- ICX_HOST_LINE, 0x7020.00 to 0x7021.FF (15 R523). -/
def icxHostLine (i : Nat) : Obj := ⟨0x702000 + i, if i = 0 then 0 else if i = 2 then 1 else if i = 3 || i = 4 then 2 else 255⟩
/-- ICX_COALESCE, 0x7022.01 to 0x7022.05 (15 R523). -/
def icxCoalesce (i : Nat) : Obj := ⟨0x702201 + i, 65537⟩
/-- ICX_GROUP_HOLDOFF, 0x7023.01 to 0x7023.20 (15 R523). -/
def icxGroupHoldoff (i : Nat) : Obj := ⟨0x702301 + i, 0⟩
/-- DOZE_ENABLE, 0x7024.01 (15 R523). -/
def dozeEnable : Obj := ⟨0x702401, 1⟩
/-- SERIAL, 0x1000.01 (16 R554). -/
def serial : Obj := ⟨0x100001, 0⟩
/-- ORDER_CODE, 0x1000.02 (16 R554). -/
def orderCode : Obj := ⟨0x100002, 0⟩
/-- MAC_ADDRESS, 0x1000.03 (16 R554). -/
def macAddress : Obj := ⟨0x100003, 0⟩
/-- SILICON_STEP, 0x1000.04 (16 R554). -/
def siliconStep : Obj := ⟨0x100004, 0⟩
/-- FIRMWARE_VERSION, 0x1001.01 (16 R554). -/
def firmwareVersion : Obj := ⟨0x100101, 0⟩
/-- BRIDLE_VERSION, 0x1001.02 (16 R554). -/
def bridleVersion : Obj := ⟨0x100102, 1⟩
/-- DICT_STORE, 0x1010.01 (16 R554). -/
def dictStore : Obj := ⟨0x101001, 0⟩
/-- DICT_DEFAULTS, 0x1010.02 (16 R554). -/
def dictDefaults : Obj := ⟨0x101002, 0⟩
/-- STORE_STATE, 0x1010.03 (16 R554). -/
def storeState : Obj := ⟨0x101003, 0⟩
/-- STORE_GENERATION, 0x1010.04 (16 R554). -/
def storeGeneration : Obj := ⟨0x101004, 0⟩
/-- STORE_REJECTS, 0x1010.05 (16 R554). -/
def storeRejects : Obj := ⟨0x101005, 0⟩
/-- PLCA_ENABLE, 0x1011.01 (16 R554). -/
def plcaEnable : Obj := ⟨0x101101, 0⟩
/-- PLCA_ID, 0x1011.02 (16 R554). -/
def plcaId : Obj := ⟨0x101102, 255⟩
/-- PLCA_TO, 0x1011.03 (16 R554). -/
def plcaTo : Obj := ⟨0x101103, 32⟩
/-- NOTIFY_MAC, 0x1011.04 (16 R554). -/
def notifyMac : Obj := ⟨0x101104, 0⟩
/-- RX_FRAMES, 0x1012.01 (16 R554). -/
def rxFrames : Obj := ⟨0x101201, 0⟩
/-- RX_DISCARDED, 0x1012.02 (16 R554). -/
def rxDiscarded : Obj := ⟨0x101202, 0⟩
/-- TX_FRAMES, 0x1012.03 (16 R554). -/
def txFrames : Obj := ⟨0x101203, 0⟩
/-- REFUSED, 0x1012.04 (16 R554). -/
def bridleRefused : Obj := ⟨0x101204, 0⟩
/-- REPLAYED, 0x1012.05 (16 R554). -/
def replayed : Obj := ⟨0x101205, 0⟩
/-- STATE, 0x1020.01 (16 R554). -/
def state : Obj := ⟨0x102001, 1⟩
/-- STATE_SINCE, 0x1020.02 (16 R554). -/
def stateSince : Obj := ⟨0x102002, 0⟩
/-- STATE_REQUEST, 0x1020.03 (16 R554). -/
def stateRequest : Obj := ⟨0x102003, 0⟩
/-- DICT_ACCESS, 0x1030.01 to 0x1030.0A (16 R554). -/
def dictAccess (i : Nat) : Obj := ⟨0x103001 + i, 15⟩
/-- BRIDLE_MANAGER, 0x1030.0B to 0x1030.0E (16 R554). -/
def bridleManager (i : Nat) : Obj := ⟨0x10300B + i, 0⟩
/-- FW_SLOT, 0x8000.01 (17 R583). -/
def fwSlot : Obj := ⟨0x800001, 0⟩
/-- FW_FALLBACK, 0x8000.02 (17 R583). -/
def fwFallback : Obj := ⟨0x800002, 0⟩
/-- SVN_FUSES, 0x8000.03 (17 R583). -/
def svnFuses : Obj := ⟨0x800003, 0⟩
/-- FW_STAGE_BASE, 0x8000.04 (17 R583). -/
def fwStageBase : Obj := ⟨0x800004, 0⟩
/-- FW_UPDATE, 0x8000.05 (17 R583). -/
def fwUpdate : Obj := ⟨0x800005, 0⟩
/-- FW_UPDATE_STATE, 0x8000.06 (17 R583). -/
def fwUpdateState : Obj := ⟨0x800006, 0⟩
/-- FW_UPDATE_STATUS, 0x8000.07 (17 R583). -/
def fwUpdateStatus : Obj := ⟨0x800007, 0⟩
/-- FW_KS_DIGEST, 0x8000.08 (17 R583). -/
def fwKsDigest : Obj := ⟨0x800008, 0⟩
/-- FW_RT_DIGEST, 0x8000.09 (17 R583). -/
def fwRtDigest : Obj := ⟨0x800009, 0⟩
/-- DEVICE_KEY, 0x8001.01 (17 R583). -/
def deviceKey : Obj := ⟨0x800101, 0⟩
/-- DEVICE_CERT, 0x8001.02 (17 R583). -/
def deviceCert : Obj := ⟨0x800102, 0⟩
/-- ATTEST_NONCE, 0x8002.01 (17 R583). -/
def attestNonce : Obj := ⟨0x800201, 0⟩
/-- ATTEST_STATE, 0x8002.02 (17 R583). -/
def attestState : Obj := ⟨0x800202, 0⟩
/-- ATTEST_REPORT, 0x8002.03 (17 R583). -/
def attestReport : Obj := ⟨0x800203, 0⟩
/-- SYSTEM_TENANT, 0x8030.01 (17 R583). -/
def systemTenant : Obj := ⟨0x803001, 0⟩
/-- KEYSTONE_PENDING, 0x8030.02 (17 R583). -/
def keystonePending : Obj := ⟨0x803002, 0⟩
/-- KEYSTONE_STATUS, 0x8030.03 (17 R583). -/
def keystoneStatus : Obj := ⟨0x803003, 0⟩
/-- KEYSTONE_MODE, 0x8030.04 (17 R583). -/
def keystoneMode : Obj := ⟨0x803004, 0⟩
/-- KEYSTONE_GENERATION, 0x8030.05 (17 R583). -/
def keystoneGeneration : Obj := ⟨0x803005, 0⟩
/-- KEYSTONE_DIGEST, 0x8030.06 (17 R583). -/
def keystoneDigest : Obj := ⟨0x803006, 0⟩
/-- OWNER_FPR, 0x8030.07 (17 R583). -/
def ownerFpr : Obj := ⟨0x803007, 0⟩
/-- TENANT_WINDOW, 0x82tt.01 to 0x82tt.04 (17 R583). -/
def tenantWindow (i j : Nat) : Obj := ⟨0x820001 + 256 * i + j, 0⟩
/-- ACCESS_MASK, 0x82tt.05 (17 R583). -/
def accessMask (i : Nat) : Obj := ⟨0x820005 + 256 * i, 0⟩
/-- CAL_SET, 0x9000.01 (17 R583). -/
def calSet : Obj := ⟨0x900001, 0⟩
/-- CAL_WRITE, 0x9000.02 (17 R583). -/
def calWrite : Obj := ⟨0x900002, 0⟩
/-- CAL_STATE, 0x9000.03 (17 R583). -/
def calState : Obj := ⟨0x900003, 0⟩
/-- CAL_ACTIVE_DIGEST, 0x9000.04 (17 R583). -/
def calActiveDigest : Obj := ⟨0x900004, 0⟩
/-- SELFTEST_ENABLE, 0xA000.01 (17 R583). -/
def selftestEnable : Obj := ⟨0xA00001, 1⟩
/-- SELFTEST_INTERVAL, 0xA000.02 (17 R583). -/
def selftestInterval : Obj := ⟨0xA00002, 60000000⟩
/-- SELFTEST_NEXT, 0xA000.03 (17 R583). -/
def selftestNext : Obj := ⟨0xA00003, 0⟩
/-- SELFTEST_PASSES, 0xA000.04 (17 R583). -/
def selftestPasses : Obj := ⟨0xA00004, 0⟩
/-- SELFTEST_FAILED, 0xA000.05 (17 R583). -/
def selftestFailed : Obj := ⟨0xA00005, 0⟩
/-- ESCAN_PORTS, 0xA400.01 (17 R583). -/
def escanPorts : Obj := ⟨0xA40001, 0⟩
/-- ESCAN_START, 0xA400.02 (17 R583). -/
def escanStart : Obj := ⟨0xA40002, 0⟩
/-- ESCAN_STATE, 0xA400.03 (17 R583). -/
def escanState : Obj := ⟨0xA40003, 0⟩
/-- ESCAN_RESULT, 0xA400.04 (17 R583). -/
def escanResult : Obj := ⟨0xA40004, 0⟩
/-- FBIST_START, 0xA500.01 (17 R583). -/
def fbistStart : Obj := ⟨0xA50001, 0⟩
/-- FBIST_STATE, 0xA500.02 (17 R583). -/
def fbistState : Obj := ⟨0xA50002, 0⟩
/-- FBIST_RESULT, 0xA500.03 (17 R583). -/
def fbistResult : Obj := ⟨0xA50003, 0⟩

end O

/-! ## Tables -/

/-- Object rows, part 0. -/
def objRows0 : List ObjRow := [
  ⟨0x2000, 1, 1, 1, 7, .ro, 0, .any, 0, false⟩,
  ⟨0x2000, 1, 2, 1, 1, .ro, 0, .any, 0, false⟩,
  ⟨0x2000, 1, 3, 1, 1, .ro, 0, .any, 0, false⟩,
  ⟨0x2000, 1, 4, 1, 3, .ro, 0, .mask 131071, 0, false⟩,
  ⟨0x2000, 1, 5, 1, 1, .ro, 0, .span 0 255, 0, false⟩,
  ⟨0x2000, 1, 6, 1, 1, .ro, 0, .span 0 30, 0, false⟩,
  ⟨0x2000, 1, 7, 1, 1, .ro, 0, .span 0 15, 0, false⟩,
  ⟨0x2000, 1, 8, 1, 5, .ro, 0, .any, 0, false⟩,
  ⟨0x2000, 1, 9, 1, 3, .ro, 0, .span 0 10000000, 0, false⟩,
  ⟨0x2000, 1, 10, 1, 7, .wo, 0, .any, 0, false⟩,
  ⟨0x2000, 1, 11, 1, 3, .ro, 0, .any, 0, false⟩,
  ⟨0x2001, 1, 1, 1, 1, .rwd, 0, .span 0 1, 0, false⟩,
  ⟨0x2001, 1, 2, 1, 1, .ro, 0, .span 0 1, 0, false⟩,
  ⟨0x2002, 1, 1, 1, 3, .rwd, 256, .span 64 4096, 0, false⟩,
  ⟨0x2002, 1, 2, 1, 3, .rwd, 64, .parentTimeout, 0, false⟩,
  ⟨0x2002, 1, 3, 1, 3, .rwd, 1024, .span 256 16384, 0, false⟩,
  ⟨0x2002, 1, 4, 1, 3, .const, 10000000, .any, 0, false⟩,
  ⟨0x2010, 1, 1, 1, 2, .rwd, 8, .span 1 1024, 0, false⟩,
  ⟨0x2010, 1, 2, 1, 2, .rwd, 24, .span 4 1000, 0, false⟩,
  ⟨0x2010, 1, 3, 1, 2, .rwd, 12, .formationLead, 0, false⟩,
  ⟨0x2010, 1, 4, 1, 3, .rwd, 2000, .span 100 100000, 0, false⟩,
  ⟨0x2011, 1, 0, 1, 1, .rwd, 1, .span 1 64, 0, false⟩,
  ⟨0x2011, 1, 1, 64, 3, .rwd, 0, .mask 131071, 0, false⟩,
  ⟨0x2020, 1, 1, 1, 4, .ro, 0, .any, 0, false⟩,
  ⟨0x2020, 1, 2, 1, 3, .ro, 0, .any, 0, false⟩,
  ⟨0x2020, 1, 3, 1, 2, .ro, 0, .span 0 1024, 0, false⟩,
  ⟨0x2020, 1, 4, 1, 9, .ro, 0, .any, 262144, false⟩,
  ⟨0x2030, 1, 1, 1, 1, .ro, 15, .mask 15, 0, false⟩,
  ⟨0x2100, 64, 1, 1, 1, .rw, 0, .span 0 1, 0, false⟩,
  ⟨0x2100, 64, 2, 1, 3, .rw, 1024, .pow2 64 65536, 0, false⟩,
  ⟨0x2100, 64, 3, 1, 4, .rw, 0, .hbm 64, 0, false⟩,
  ⟨0x2100, 64, 4, 1, 4, .rw, 0, .hbm 64, 0, false⟩,
  ⟨0x2100, 64, 5, 1, 1, .rw, 0, .span 0 255, 0, false⟩,
  ⟨0x2100, 64, 6, 1, 3, .rw, 250, .span 10 100000, 0, false⟩,
  ⟨0x2100, 64, 7, 1, 3, .rw, 0, .samplePhase, 0, false⟩,
  ⟨0x2100, 64, 8, 1, 2, .rw, 256, .span 1 1024, 0, false⟩,
  ⟨0x2100, 64, 9, 1, 3, .rw, 10000, .span 100 1000000, 0, false⟩,
  ⟨0x2100, 64, 10, 1, 3, .ro, 0, .any, 0, false⟩,
  ⟨0x2100, 64, 11, 1, 3, .rw, 0, .any, 0, false⟩,
  ⟨0x2100, 64, 12, 1, 3, .ro, 0, .any, 0, false⟩,
  ⟨0x2012, 1, 1, 64, 1, .rwd, 0, .span 0 1, 0, false⟩,
  ⟨0x2013, 1, 1, 1, 4, .rw, 18446744073709551615, .any, 0, false⟩,
  ⟨0x2040, 1, 1, 1, 3, .rwd, 20000, .span 0 1000000, 0, false⟩,
  ⟨0x2041, 1, 1, 1, 4, .ro, 0, .any, 0, false⟩,
  ⟨0x2041, 1, 2, 1, 4, .ro, 0, .any, 0, false⟩]

/-- Object rows, part 1. -/
def objRows1 : List ObjRow := [
  ⟨0x2041, 1, 3, 1, 4, .ro, 0, .any, 0, false⟩,
  ⟨0x2041, 1, 4, 1, 4, .ro, 0, .any, 0, false⟩,
  ⟨0x2041, 1, 5, 1, 4, .ro, 0, .any, 0, false⟩,
  ⟨0x2041, 1, 6, 1, 3, .ro, 0, .any, 0, false⟩,
  ⟨0x2042, 1, 1, 255, 3, .ro, 0, .any, 0, false⟩,
  ⟨0x6000, 1, 1, 1, 1, .rwd, 0, .span 0 1, 0, false⟩,
  ⟨0x6000, 1, 2, 1, 2, .rwd, 2048, .span 64 4096, 0, false⟩,
  ⟨0x6000, 1, 3, 1, 3, .rw, 2000000, .span 10000 60000000, 0, false⟩,
  ⟨0x6000, 1, 4, 1, 3, .ro, 0, .span 0 262144, 0, false⟩,
  ⟨0x6000, 1, 5, 1, 4, .rwd, 0, .hbm 2097152, 0, false⟩,
  ⟨0x6001, 1, 0, 1, 1, .rwd, 0, .span 0 64, 0, false⟩,
  ⟨0x6001, 1, 1, 64, 3, .rwd, 0, .mask 131071, 0, false⟩,
  ⟨0x6002, 1, 1, 1, 3, .rw, 16384, .span 0 3145728, 0, false⟩,
  ⟨0x6002, 1, 2, 1, 3, .rw, 32768, .nearResume, 0, false⟩,
  ⟨0x6002, 1, 3, 1, 2, .rwd, 4096, .span 0 4096, 0, false⟩,
  ⟨0x6002, 1, 4, 1, 2, .rw, 16, .span 1 1024, 0, false⟩,
  ⟨0x6002, 1, 5, 1, 3, .rw, 5000000, .span 10000 600000000, 0, false⟩,
  ⟨0x6002, 1, 6, 1, 3, .ro, 0, .span 0 3145728, 0, false⟩,
  ⟨0x6010, 4, 1, 1, 3, .rw, 0, .spanOr 1000 10000000 0, 0, false⟩,
  ⟨0x6010, 4, 2, 1, 1, .rw, 0, .span 0 1, 0, false⟩,
  ⟨0x6010, 4, 3, 1, 3, .rw, 600000000, .span 1000000 4294967295, 0, false⟩,
  ⟨0x6010, 4, 4, 1, 3, .rw, 262144, .span 0 262144, 0, false⟩,
  ⟨0x6010, 4, 5, 1, 3, .ro, 0, .span 0 262144, 0, false⟩,
  ⟨0x6020, 1, 1, 1, 4, .rwd, 0, .hbm 64, 0, false⟩,
  ⟨0x6020, 1, 2, 1, 3, .rwd, 65536, .pow2 1024 1048576, 0, false⟩,
  ⟨0x6020, 1, 3, 1, 4, .ro, 0, .any, 0, false⟩,
  ⟨0x6020, 1, 4, 1, 4, .ro, 0, .any, 0, false⟩,
  ⟨0x6020, 1, 5, 1, 4, .ro, 0, .any, 0, false⟩,
  ⟨0x6100, 64, 1, 1, 1, .rwd, 0, .span 0 1, 0, false⟩,
  ⟨0x6100, 64, 2, 1, 6, .rwd, 0, .f32 0 0x41800000, 0, false⟩,
  ⟨0x6100, 64, 3, 1, 2, .rwd, 0, .span 0 65535, 0, false⟩,
  ⟨0x6100, 64, 4, 1, 6, .rwd, 1065353216, .f32 1 0x3F800000, 0, false⟩,
  ⟨0x6100, 64, 5, 1, 1, .rwd, 0, .span 0 1, 0, false⟩,
  ⟨0x6100, 64, 6, 4, 3, .rwd, 4294967295, .any, 0, false⟩,
  ⟨0x6200, 256, 1, 1, 1, .rw, 0, .span 0 1, 0, false⟩,
  ⟨0x6200, 256, 2, 1, 1, .rw, 15, .mask 15, 0, false⟩,
  ⟨0x6200, 256, 3, 1, 1, .rw, 0, .span 0 63, 0, false⟩,
  ⟨0x6200, 256, 4, 1, 3, .rw, 262144, .span 0 262144, 0, false⟩,
  ⟨0x6200, 256, 5, 4, 3, .rw, 4294967295, .span 0 4294967295, 0, false⟩,
  ⟨0x6200, 256, 9, 4, 3, .ro, 0, .any, 0, false⟩,
  ⟨0x6200, 256, 13, 1, 4, .ro, 0, .any, 0, false⟩,
  ⟨0x6200, 256, 14, 3, 4, .ro, 0, .any, 0, false⟩,
  ⟨0x6200, 256, 17, 1, 4, .ro, 0, .any, 0, false⟩,
  ⟨0x6300, 1, 1, 1, 9, .wo, 0, .any, 32, true⟩,
  ⟨0x6301, 1, 1, 1, 4, .rw, 0, .any, 0, false⟩]

/-- Object rows, part 2. -/
def objRows2 : List ObjRow := [
  ⟨0x6301, 1, 2, 1, 1, .rw, 0, .span 0 255, 0, false⟩,
  ⟨0x6301, 1, 3, 1, 3, .ro, 4294967295, .any, 0, false⟩,
  ⟨0x6301, 1, 4, 1, 1, .ro, 0, .any, 0, false⟩,
  ⟨0x3001, 1, 0, 1, 1, .rwd, 1, .span 1 64, 0, false⟩,
  ⟨0x3001, 1, 1, 64, 4, .rwd, 0, .any, 0, false⟩,
  ⟨0x3002, 1, 1, 1, 3, .rwd, 86400, .span 3600 2592000, 0, false⟩,
  ⟨0x3002, 1, 2, 1, 3, .rwd, 10000, .span 1000 1000000, 0, false⟩,
  ⟨0x3002, 1, 3, 1, 3, .rwd, 100, .scrubLen, 0, false⟩,
  ⟨0x3002, 1, 4, 1, 3, .ro, 0, .any, 0, false⟩,
  ⟨0x3002, 1, 5, 1, 4, .ro, 0, .any, 0, false⟩,
  ⟨0x3003, 1, 1, 4, 2, .rw, 0, .spanOr 2 1000 0, 0, false⟩,
  ⟨0x3004, 1, 1, 1, 2, .const, 256, .any, 0, false⟩,
  ⟨0x3010, 1, 1, 1, 4, .ro, 0, .any, 0, false⟩,
  ⟨0x3010, 1, 2, 1, 4, .ro, 0, .any, 0, false⟩,
  ⟨0x3010, 1, 3, 1, 4, .ro, 0, .any, 0, false⟩,
  ⟨0x3010, 1, 4, 1, 3, .ro, 0, .any, 0, false⟩,
  ⟨0x3010, 1, 5, 1, 3, .ro, 0, .any, 0, false⟩,
  ⟨0x3010, 1, 6, 1, 3, .ro, 0, .any, 0, false⟩,
  ⟨0x3010, 1, 7, 1, 3, .ro, 0, .any, 0, false⟩,
  ⟨0x3010, 1, 8, 1, 9, .ro, 0, .any, 8192, false⟩,
  ⟨0x3010, 1, 9, 1, 1, .wo, 0, .span 1 1, 0, false⟩,
  ⟨0x3011, 1, 1, 5, 9, .ro, 0, .any, 512, false⟩,
  ⟨0x3011, 1, 6, 1, 4, .ro, 0, .any, 0, false⟩,
  ⟨0x3011, 1, 7, 1, 3, .ro, 0, .any, 0, false⟩,
  ⟨0x3011, 1, 8, 1, 1, .wo, 0, .mask 31, 0, false⟩,
  ⟨0x3012, 1, 1, 1, 4, .ro, 0, .any, 0, false⟩,
  ⟨0xA300, 1, 1, 1, 2, .rwd, 0, .any, 0, false⟩,
  ⟨0xA300, 1, 2, 1, 1, .rwd, 0, .span 0 2, 0, false⟩,
  ⟨0xA300, 1, 3, 1, 1, .wo, 0, .span 1 1, 0, false⟩,
  ⟨0xA300, 1, 4, 1, 1, .ro, 0, .any, 0, false⟩,
  ⟨0xA300, 1, 5, 1, 9, .ro, 0, .any, 40960, false⟩,
  ⟨0x8010, 1, 0, 1, 1, .rwk, 0, .span 0 16, 0, false⟩,
  ⟨0x8010, 1, 1, 16, 9, .rwk, 0, .any, 32, true⟩,
  ⟨0x8020, 1, 0, 1, 1, .rwd, 0, .span 0 4, 0, false⟩,
  ⟨0x8020, 1, 1, 4, 4, .rwd, 0, .mask 68719476735, 0, false⟩,
  ⟨0x8021, 1, 1, 1, 2, .rwd, 0, .span 0 63, 0, false⟩,
  ⟨0x8021, 1, 2, 1, 2, .rwd, 0, .span 0 63, 0, false⟩,
  ⟨0x8021, 1, 3, 1, 1, .rwd, 0, .span 0 255, 0, false⟩,
  ⟨0x8021, 1, 4, 1, 4, .rwd, 0, .hbm 2097152, 0, false⟩,
  ⟨0x8021, 1, 5, 1, 4, .rw, 0, .hbm 2097152, 0, false⟩,
  ⟨0x8021, 1, 6, 1, 4, .rw, 0, .span 0 274877906944, 0, false⟩,
  ⟨0x8100, 1, 1, 1, 4, .rw, 0, .aligned 64, 0, false⟩,
  ⟨0x8100, 1, 2, 1, 3, .rw, 0, .span 1 4294967295, 0, false⟩,
  ⟨0x8100, 1, 3, 1, 1, .rw, 0, .span 0 1, 0, false⟩,
  ⟨0x8100, 1, 4, 1, 1, .wo, 0, .span 1 1, 0, false⟩]

/-- Object rows, part 3. -/
def objRows3 : List ObjRow := [
  ⟨0x8100, 1, 5, 1, 1, .wo, 0, .span 1 1, 0, false⟩,
  ⟨0x8100, 1, 6, 1, 4, .wo, 0, .any, 0, false⟩,
  ⟨0x8100, 1, 7, 1, 1, .ro, 0, .any, 0, false⟩,
  ⟨0x8100, 1, 8, 1, 2, .ro, 0, .any, 0, false⟩,
  ⟨0x8100, 1, 9, 1, 3, .ro, 0, .any, 0, false⟩,
  ⟨0x8100, 1, 10, 1, 3, .ro, 0, .any, 0, false⟩,
  ⟨0x8100, 1, 11, 1, 3, .ro, 0, .any, 0, false⟩,
  ⟨0x8110, 2, 1, 1, 1, .ro, 0, .any, 0, false⟩,
  ⟨0x8110, 2, 2, 1, 3, .ro, 0, .any, 0, false⟩,
  ⟨0x8110, 2, 3, 1, 1, .ro, 0, .any, 0, false⟩,
  ⟨0x8110, 2, 4, 1, 9, .ro, 0, .any, 32, false⟩,
  ⟨0x8110, 2, 5, 1, 1, .ro, 255, .span 0 3, 0, false⟩,
  ⟨0x8110, 2, 6, 1, 1, .ro, 255, .span 0 3, 0, false⟩,
  ⟨0x8110, 2, 7, 1, 1, .wo, 0, .span 1 1, 0, false⟩,
  ⟨0x8120, 1, 1, 1, 9, .wo, 0, .any, 16, true⟩,
  ⟨0x8120, 1, 2, 1, 1, .ro, 0, .any, 0, false⟩,
  ⟨0x8120, 1, 3, 1, 3, .rwd, 10000, .span 1000 1000000, 0, false⟩,
  ⟨0x8120, 1, 4, 1, 3, .ro, 0, .any, 0, false⟩,
  ⟨0x4000, 1, 1, 1, 3, .ro, 0, .mask 131071, 0, false⟩,
  ⟨0x4000, 1, 2, 1, 1, .ro, 0, .any, 0, false⟩,
  ⟨0x4000, 1, 3, 1, 4, .ro, 0, .mask 281474976710655, 0, false⟩,
  ⟨0x4000, 1, 4, 1, 1, .rwd, 6, .span 1 16, 0, false⟩,
  ⟨0x4000, 1, 5, 1, 1, .rwd, 1, .span 0 1, 0, false⟩,
  ⟨0x4000, 1, 6, 1, 3, .rwd, 0, .spanOr 2 131072 0, 0, false⟩,
  ⟨0x4000, 1, 7, 1, 3, .ro, 0, .span 0 131072, 0, false⟩,
  ⟨0x4000, 1, 8, 1, 3, .ro, 0, .mask 131071, 0, false⟩,
  ⟨0x4000, 1, 9, 1, 1, .ro, 0, .span 0 1, 0, false⟩,
  ⟨0x4000, 1, 10, 1, 1, .wo, 0, .span 1 1, 0, false⟩,
  ⟨0x4001, 1, 1, 1, 3, .rwd, 500, .span 100 10000, 0, false⟩,
  ⟨0x4001, 1, 2, 1, 3, .rwd, 50, .span 10 1000, 0, false⟩,
  ⟨0x4001, 1, 3, 1, 3, .rwd, 2000, .span 100 60000, 0, false⟩,
  ⟨0x4001, 1, 4, 1, 3, .rwd, 1000, .span 100 60000, 0, false⟩,
  ⟨0x4001, 1, 5, 1, 3, .rwd, 10000, .span 1000 3600000, 0, false⟩,
  ⟨0x4001, 1, 6, 1, 3, .rwd, 250000, .span 1000 4000000, 0, false⟩,
  ⟨0x4001, 1, 7, 1, 1, .const, 32, .any, 0, false⟩,
  ⟨0x4002, 1, 1, 1, 4, .ro, 0, .any, 0, false⟩,
  ⟨0x4002, 1, 2, 1, 4, .ro, 0, .any, 0, false⟩,
  ⟨0x4002, 1, 3, 1, 3, .ro, 0, .any, 0, false⟩,
  ⟨0x4100, 19, 1, 1, 1, .rwd, 1, .span 0 1, 0, false⟩,
  ⟨0x4100, 19, 2, 1, 1, .ro, 0, .any, 0, false⟩,
  ⟨0x4100, 19, 3, 1, 1, .ro, 0, .any, 0, false⟩,
  ⟨0x4100, 19, 4, 1, 1, .ro, 0, .any, 0, false⟩,
  ⟨0x4100, 19, 5, 1, 4, .ro, 0, .mask 281474976710655, 0, false⟩,
  ⟨0x4100, 19, 6, 1, 1, .ro, 255, .span 0 18, 0, false⟩,
  ⟨0x4100, 19, 7, 1, 3, .ro, 0, .any, 0, false⟩]

/-- Object rows, part 4. -/
def objRows4 : List ObjRow := [
  ⟨0x4100, 19, 8, 1, 4, .ro, 0, .any, 0, false⟩,
  ⟨0x4100, 19, 9, 1, 4, .ro, 0, .any, 0, false⟩,
  ⟨0x4100, 19, 10, 1, 4, .ro, 0, .any, 0, false⟩,
  ⟨0x4100, 19, 11, 1, 3, .ro, 0, .any, 0, false⟩,
  ⟨0x4100, 19, 12, 1, 3, .ro, 0, .any, 0, false⟩,
  ⟨0x4100, 19, 13, 1, 4, .ro, 0, .any, 0, false⟩,
  ⟨0x4100, 19, 14, 1, 4, .ro, 0, .any, 0, false⟩,
  ⟨0x4200, 1, 1, 1, 3, .rwd, 50, .span 10 1000, 0, false⟩,
  ⟨0x4200, 1, 2, 1, 1, .rwd, 1, .span 0 1, 0, false⟩,
  ⟨0x4200, 1, 3, 1, 4, .ro, 0, .any, 0, false⟩,
  ⟨0x4200, 1, 4, 1, 4, .ro, 0, .any, 0, false⟩,
  ⟨0x4200, 1, 5, 1, 4, .ro, 0, .any, 0, false⟩,
  ⟨0x4200, 1, 6, 1, 4, .ro, 0, .any, 0, false⟩,
  ⟨0x4201, 1, 1, 1, 2, .rwd, 64, .span 8 4096, 0, false⟩,
  ⟨0x4201, 1, 2, 1, 4, .ro, 0, .any, 0, false⟩,
  ⟨0x4201, 1, 3, 1, 4, .ro, 0, .any, 0, false⟩,
  ⟨0x4400, 1, 1, 1, 1, .rwd, 0, .span 0 1, 0, false⟩,
  ⟨0x4400, 1, 2, 1, 1, .ro, 0, .any, 0, false⟩,
  ⟨0x4400, 1, 3, 1, 1, .ro, 0, .any, 0, false⟩,
  ⟨0x4400, 1, 4, 1, 1, .ro, 0, .any, 0, false⟩,
  ⟨0x4401, 1, 0, 1, 1, .rwd, 0, .spanOr 16 64 0, 0, false⟩,
  ⟨0x4401, 1, 1, 64, 3, .rwd, 0, .mask 131071, 0, false⟩,
  ⟨0x4600, 128, 1, 1, 4, .rw, 0, .winTarget, 0, false⟩,
  ⟨0x4600, 128, 2, 1, 3, .rw, 0, .winSize, 0, false⟩,
  ⟨0x4600, 128, 3, 1, 1, .rw, 0, .span 0 255, 0, false⟩,
  ⟨0x4600, 128, 4, 1, 1, .rw, 0, .span 0 1, 0, false⟩,
  ⟨0x4700, 1, 0, 1, 1, .rwk, 0, .span 0 16, 0, false⟩,
  ⟨0x4700, 1, 1, 16, 9, .rwk, 0, .any, 16, true⟩,
  ⟨0x4800, 64, 1, 32, 1, .rw, 255, .span 0 255, 0, false⟩,
  ⟨0x4801, 1, 0, 1, 3, .ro, 0, .any, 0, false⟩,
  ⟨0x4500, 1, 1, 1, 1, .ro, 0, .any, 0, false⟩,
  ⟨0x4500, 1, 2, 1, 3, .ro, 0, .mask 131071, 0, false⟩,
  ⟨0x4500, 1, 3, 1, 3, .rwd, 1000, .span 100 10000, 0, false⟩,
  ⟨0x4500, 1, 4, 1, 3, .rwd, 50000, .beatLoss, 0, false⟩,
  ⟨0x4500, 1, 5, 1, 3, .rwd, 20000, .span 1000 1000000, 0, false⟩,
  ⟨0x4500, 1, 6, 1, 3, .rwd, 10000000, .span 1000000 100000000, 0, false⟩,
  ⟨0x4500, 1, 7, 1, 4, .ro, 0, .any, 0, false⟩,
  ⟨0x4500, 1, 8, 1, 4, .rwd, 0, .hbm 2097152, 0, false⟩,
  ⟨0x4500, 1, 9, 1, 3, .rwd, 0, .span 0 196608, 0, false⟩,
  ⟨0x4501, 1, 0, 1, 1, .rwd, 0, .span 0 8, 0, false⟩,
  ⟨0x4501, 1, 1, 8, 4, .rwd, 0, .mask 68719476735, 0, false⟩,
  ⟨0x4502, 1, 1, 1, 1, .ro, 0, .span 0 64, 0, false⟩,
  ⟨0x4502, 1, 2, 1, 9, .ro, 0, .any, 512, false⟩,
  ⟨0x4503, 1, 1, 1, 1, .wo, 0, .span 1 1, 0, false⟩,
  ⟨0x4503, 1, 2, 1, 3, .ro, 0, .span 0 1000, 0, false⟩]

/-- Object rows, part 5. -/
def objRows5 : List ObjRow := [
  ⟨0x4503, 1, 3, 1, 7, .ro, 0, .any, 0, false⟩,
  ⟨0x4504, 1, 1, 1, 3, .ro, 0, .any, 0, false⟩,
  ⟨0x4504, 1, 2, 1, 3, .ro, 0, .any, 0, false⟩,
  ⟨0x4504, 1, 3, 1, 3, .ro, 0, .any, 0, false⟩,
  ⟨0x2100, 64, 13, 1, 3, .ro, 0, .any, 0, false⟩,
  ⟨0x5000, 1, 1, 1, 1, .ro, 5, .span 0 7, 0, false⟩,
  ⟨0x5000, 1, 2, 1, 1, .rw, 5, .span 0 7, 0, false⟩,
  ⟨0x5000, 1, 3, 1, 1, .rw, 5, .span 0 7, 0, false⟩,
  ⟨0x5001, 1, 1, 1, 2, .rw, 2200, .span 600 2200, 0, false⟩,
  ⟨0x5001, 1, 2, 1, 2, .const, 1600, .any, 0, false⟩,
  ⟨0x5001, 1, 3, 1, 3, .ro, 0, .any, 0, false⟩,
  ⟨0x5001, 1, 4, 1, 2, .ro, 0, .span 0 4000, 0, false⟩,
  ⟨0x5002, 1, 1, 1, 3, .rw, 200, .span 10 100000, 0, false⟩,
  ⟨0x5002, 1, 2, 1, 9, .wo, 0, .any, 16, true⟩,
  ⟨0x5002, 1, 3, 1, 1, .rw, 1, .span 0 1, 0, false⟩,
  ⟨0x5002, 1, 4, 1, 3, .rw, 20000, .span 0 1000000, 0, false⟩,
  ⟨0x5003, 1, 1, 1, 1, .rw, 0, .span 0 1, 0, false⟩,
  ⟨0x5003, 1, 2, 1, 1, .rw, 24, .span 1 63, 0, false⟩,
  ⟨0x5003, 1, 3, 1, 1, .rw, 52, .fallowHigh, 0, false⟩,
  ⟨0x5003, 1, 4, 1, 1, .rw, 1, .span 1 64, 0, false⟩,
  ⟨0x5003, 1, 5, 1, 1, .rw, 0, .wakePhase, 0, false⟩,
  ⟨0x5003, 1, 6, 1, 2, .const, 20, .any, 0, false⟩,
  ⟨0x5003, 1, 7, 1, 1, .ro, 0, .mask 15, 0, false⟩,
  ⟨0x5004, 1, 1, 1, 2, .rw, 900, .span 600 1600, 0, false⟩,
  ⟨0x5004, 1, 2, 1, 1, .rw, 2, .span 0 5, 0, false⟩,
  ⟨0x5004, 1, 3, 1, 3, .rw, 10000, .span 1000 10000000, 0, false⟩,
  ⟨0x5004, 1, 4, 1, 3, .ro, 0, .any, 0, false⟩,
  ⟨0x5005, 1, 1, 1, 5, .rw, 100, .span 70 110, 0, false⟩,
  ⟨0x5005, 1, 2, 1, 5, .const, 115, .any, 0, false⟩,
  ⟨0x5005, 1, 3, 1, 5, .rw, 95, .span 70 100, 0, false⟩,
  ⟨0x5005, 1, 4, 1, 5, .const, 105, .any, 0, false⟩,
  ⟨0x5005, 1, 5, 5, 5, .ro, 0, .any, 0, false⟩,
  ⟨0x5005, 1, 10, 1, 5, .ro, 0, .any, 0, false⟩,
  ⟨0x5006, 1, 1, 1, 3, .ro, 0, .span 0 17520, 0, false⟩,
  ⟨0x5006, 1, 2, 1, 3, .const, 17520, .any, 0, false⟩,
  ⟨0x5007, 1, 1, 1, 3, .wo, 0, .any, 0, false⟩,
  ⟨0x5007, 1, 2, 1, 3, .rw, 5000, .span 1000 600000, 0, false⟩,
  ⟨0x5007, 1, 3, 1, 1, .ro, 0, .any, 0, false⟩,
  ⟨0x5009, 1, 1, 8, 1, .ro, 0, .span 1 64, 0, false⟩,
  ⟨0x7000, 1, 1, 1, 9, .ro, 0, .any, 16384, false⟩,
  ⟨0x7000, 1, 2, 1, 4, .ro, 0, .any, 0, false⟩,
  ⟨0x7000, 1, 3, 1, 1, .wo, 0, .span 1 1, 0, false⟩,
  ⟨0x7000, 1, 4, 1, 4, .ro, 0, .any, 0, false⟩,
  ⟨0x7000, 1, 5, 1, 2, .rw, 16, .span 1 1000, 0, false⟩,
  ⟨0x7000, 1, 6, 5, 4, .ro, 0, .any, 0, false⟩]

/-- Object rows, part 6. -/
def objRows6 : List ObjRow := [
  ⟨0x7001, 1, 1, 1, 9, .ro, 0, .any, 1024, false⟩,
  ⟨0x7001, 1, 2, 1, 9, .ro, 0, .any, 16, false⟩,
  ⟨0x7001, 1, 3, 1, 9, .ro, 0, .any, 16, false⟩,
  ⟨0x7001, 1, 4, 1, 1, .wo, 0, .span 1 1, 0, false⟩,
  ⟨0x7001, 1, 5, 1, 3, .ro, 0, .any, 0, false⟩,
  ⟨0x7001, 1, 6, 1, 1, .const, 3, .any, 0, false⟩,
  ⟨0x7001, 1, 7, 1, 3, .const, 600, .any, 0, false⟩,
  ⟨0x7001, 1, 8, 1, 1, .ro, 0, .any, 0, false⟩,
  ⟨0x7001, 1, 9, 1, 1, .wo, 0, .span 1 1, 0, false⟩,
  ⟨0x7002, 1, 1, 1, 1, .rw, 0, .span 0 3, 0, false⟩,
  ⟨0x7002, 1, 2, 1, 3, .rwd, 100, .span 10 10000, 0, false⟩,
  ⟨0x7010, 4, 0, 256, 1, .rw, 1, .react, 0, false⟩,
  ⟨0x7014, 4, 0, 256, 1, .rwk, 132, .react3, 0, false⟩,
  ⟨0x7020, 2, 0, 256, 1, .rw, 255, .spanOr 0 31 255, 0, false⟩,
  ⟨0x7022, 1, 1, 5, 3, .rw, 65537, .coalesce, 0, false⟩,
  ⟨0x7023, 1, 1, 32, 2, .rw, 0, .span 0 65535, 0, false⟩,
  ⟨0x7024, 1, 1, 1, 1, .rw, 1, .span 0 1, 0, false⟩,
  ⟨0x1000, 1, 1, 1, 4, .const, 0, .mask 281474976710655, 0, false⟩,
  ⟨0x1000, 1, 2, 1, 8, .const, 0, .any, 64, false⟩,
  ⟨0x1000, 1, 3, 1, 4, .const, 0, .mask 281474976710655, 0, false⟩,
  ⟨0x1000, 1, 4, 1, 2, .const, 0, .mask 65535, 0, false⟩,
  ⟨0x1001, 1, 1, 1, 8, .ro, 0, .any, 64, false⟩,
  ⟨0x1001, 1, 2, 1, 1, .const, 1, .any, 0, false⟩,
  ⟨0x1010, 1, 1, 1, 1, .wo, 0, .span 1 1, 0, false⟩,
  ⟨0x1010, 1, 2, 1, 1, .wo, 0, .span 1 1, 0, false⟩,
  ⟨0x1010, 1, 3, 1, 1, .ro, 0, .any, 0, false⟩,
  ⟨0x1010, 1, 4, 1, 3, .ro, 0, .any, 0, false⟩,
  ⟨0x1010, 1, 5, 1, 3, .ro, 0, .any, 0, false⟩,
  ⟨0x1011, 1, 1, 1, 1, .rw, 0, .span 0 1, 0, false⟩,
  ⟨0x1011, 1, 2, 1, 1, .rw, 255, .span 1 255, 0, false⟩,
  ⟨0x1011, 1, 3, 1, 1, .rw, 32, .span 1 255, 0, false⟩,
  ⟨0x1011, 1, 4, 1, 4, .rw, 0, .mask 281474976710655, 0, false⟩,
  ⟨0x1012, 1, 1, 1, 3, .ro, 0, .any, 0, false⟩,
  ⟨0x1012, 1, 2, 1, 3, .ro, 0, .any, 0, false⟩,
  ⟨0x1012, 1, 3, 1, 3, .ro, 0, .any, 0, false⟩,
  ⟨0x1012, 1, 4, 1, 3, .ro, 0, .any, 0, false⟩,
  ⟨0x1012, 1, 5, 1, 3, .ro, 0, .any, 0, false⟩,
  ⟨0x1020, 1, 1, 1, 1, .ro, 1, .any, 0, false⟩,
  ⟨0x1020, 1, 2, 1, 7, .ro, 0, .any, 0, false⟩,
  ⟨0x1020, 1, 3, 1, 1, .wo, 0, .span 4 7, 0, false⟩,
  ⟨0x1030, 1, 1, 10, 1, .rwk, 15, .mask 15, 0, false⟩,
  ⟨0x1030, 1, 11, 4, 4, .rwk, 0, .mask 281474976710655, 0, false⟩,
  ⟨0x8000, 1, 1, 1, 1, .ro, 0, .span 0 1, 0, false⟩,
  ⟨0x8000, 1, 2, 1, 1, .ro, 0, .span 0 1, 0, false⟩,
  ⟨0x8000, 1, 3, 1, 1, .ro, 0, .span 0 63, 0, false⟩]

/-- Object rows, part 7. -/
def objRows7 : List ObjRow := [
  ⟨0x8000, 1, 4, 1, 4, .rw, 0, .hbm 2097152, 0, false⟩,
  ⟨0x8000, 1, 5, 1, 3, .wo, 0, .span 4096 16777216, 0, false⟩,
  ⟨0x8000, 1, 6, 1, 1, .ro, 0, .any, 0, false⟩,
  ⟨0x8000, 1, 7, 1, 1, .ro, 0, .span 0 5, 0, false⟩,
  ⟨0x8000, 1, 8, 1, 9, .ro, 0, .any, 32, false⟩,
  ⟨0x8000, 1, 9, 1, 9, .ro, 0, .any, 32, false⟩,
  ⟨0x8001, 1, 1, 1, 9, .const, 0, .any, 1312, false⟩,
  ⟨0x8001, 1, 2, 1, 9, .const, 0, .any, 3788, false⟩,
  ⟨0x8002, 1, 1, 1, 9, .wo, 0, .any, 32, true⟩,
  ⟨0x8002, 1, 2, 1, 1, .ro, 0, .any, 0, false⟩,
  ⟨0x8002, 1, 3, 1, 9, .ro, 0, .any, 2740, false⟩,
  ⟨0x8030, 1, 1, 1, 1, .rwk, 0, .span 0 255, 0, false⟩,
  ⟨0x8030, 1, 2, 1, 9, .wo, 0, .any, 65536, false⟩,
  ⟨0x8030, 1, 3, 1, 1, .ro, 0, .span 0 6, 0, false⟩,
  ⟨0x8030, 1, 4, 1, 1, .ro, 0, .any, 0, false⟩,
  ⟨0x8030, 1, 5, 1, 3, .ro, 0, .any, 0, false⟩,
  ⟨0x8030, 1, 6, 1, 9, .ro, 0, .any, 32, false⟩,
  ⟨0x8030, 1, 7, 1, 9, .ro, 0, .any, 32, false⟩,
  ⟨0x8200, 256, 1, 4, 9, .rwk, 0, .any, 16, true⟩,
  ⟨0x8200, 256, 5, 1, 3, .rwk, 0, .mask 31, 0, false⟩,
  ⟨0x9000, 1, 1, 1, 9, .ro, 0, .any, 43776, false⟩,
  ⟨0x9000, 1, 2, 1, 9, .wo, 0, .any, 43776, true⟩,
  ⟨0x9000, 1, 3, 1, 1, .ro, 0, .any, 0, false⟩,
  ⟨0x9000, 1, 4, 1, 9, .ro, 0, .any, 32, false⟩,
  ⟨0xA000, 1, 1, 1, 1, .rw, 1, .span 0 1, 0, false⟩,
  ⟨0xA000, 1, 2, 1, 3, .rw, 60000000, .span 1000000 4294967295, 0, false⟩,
  ⟨0xA000, 1, 3, 1, 2, .ro, 0, .span 0 383, 0, false⟩,
  ⟨0xA000, 1, 4, 1, 4, .ro, 0, .any, 0, false⟩,
  ⟨0xA000, 1, 5, 1, 9, .ro, 0, .any, 48, false⟩,
  ⟨0xA400, 1, 1, 1, 3, .rwd, 0, .mask 524287, 0, false⟩,
  ⟨0xA400, 1, 2, 1, 1, .wo, 0, .span 1 1, 0, false⟩,
  ⟨0xA400, 1, 3, 1, 1, .ro, 0, .any, 0, false⟩,
  ⟨0xA400, 1, 4, 1, 9, .ro, 0, .any, 1216, false⟩,
  ⟨0xA500, 1, 1, 1, 1, .wo, 0, .span 1 1, 0, false⟩,
  ⟨0xA500, 1, 2, 1, 1, .ro, 0, .any, 0, false⟩,
  ⟨0xA500, 1, 3, 1, 9, .ro, 0, .any, 64, false⟩]

/-- Every object row. -/
def objRows : List ObjRow := objRows0 ++ objRows1 ++ objRows2 ++ objRows3 ++ objRows4 ++ objRows5 ++ objRows6 ++ objRows7

/-- The row that holds an object, if it exists. -/
def objRow (key : Nat) : Option ObjRow :=
  objRows.find? (fun r => decide (r.idx ≤ key / 256) && decide (key / 256 < r.idx + r.n) &&
    decide (r.sub ≤ key % 256) && decide (key % 256 < r.sub + r.subs))

/-- Some object has this index. -/
def idxExists (idx : Nat) : Bool := objRows.any (fun r => decide (r.idx ≤ idx) && decide (idx < r.idx + r.n))

/-- The default of a numeric object. -/
def dfltOf (key : Nat) : Nat :=
  if key = O.regionCount.key then O.regionCount.dflt
  else if key / 256 = 0x3001 then (O.region (key % 256 - 1)).dflt
  else if 0x6010 ≤ key / 256 ∧ key / 256 ≤ 0x6013 ∧ key % 256 = 1 then (O.goal (key / 256 - 0x6010)).dflt
  else if 0x6010 ≤ key / 256 ∧ key / 256 ≤ 0x6013 ∧ key % 256 = 2 then (O.deadlineAction (key / 256 - 0x6010)).dflt
  else if key = 0x201101 then 4294967296
  else if key = 0x610001 then 1
  else if key / 256 = 0x7020 then (O.icxHostLine (key % 256)).dflt
  else match objRow key with
    | some r => r.dflt
    | none => 0

end Sys2Proof.Machine
end

