-- ==== Sys2Proof/Machine/State.lean ====
section
/-! DEFINITION. The state of the package as plain data: one structure per unit of the package, and State over them.
Every dictionary object that a rule does not give a home of its own here lives in the object store (`DictUnit.nums`,
`DictUnit.blobs`) under its index.sub number; INVENTORY.md lists every piece with its rule and reset value. -/

namespace Sys2Proof.Machine

/-! ## Names the manual fixes -/

/-- The eleven package states (00_scope.md Table 0.5), in code order. -/
inductive PkgState where
  | off | halt | boot | align | ready | serving | draining | drained | covering | stopped | grave
  deriving DecidableEq, Repr

/-- CLOCK_STATE (02 Table 2.6). -/
inductive ClockState where
  | unlocked | locked | holdover
  deriving DecidableEq, Repr

/-- CLOCK_ROLE (02 Table 2.6). -/
inductive ClockRole where
  | follower | master | standby
  deriving DecidableEq, Repr

/-- Session states (08 Table 8.4), in code order. -/
inductive SessState where
  | free | prefill | shipping | active | held | parking | parked | satchelling | satchelled | feeding
  deriving DecidableEq, Repr

/-- Copy slot states (10 Table 10.4). -/
inductive CopyState where
  | absent | loading | ready | live | outgoing
  deriving DecidableEq, Repr

/-- LOAD_STATE (10 Table 10.8). -/
inductive LoadState where
  | idle | active | done | refused | twinWait | twinPhase
  deriving DecidableEq, Repr

/-- SWITCH_STATE (10 Table 10.8). -/
inductive SwitchState where
  | none | pending | confirmed | done | cancelled
  deriving DecidableEq, Repr

/-- PLUMB_STATE (11 Table 11.13). -/
inductive PlumbState where
  | idle | gather | assigning | reporting | joining | settled | isolated
  deriving DecidableEq, Repr

/-- PORT_STATE (11 Table 11.13). -/
inductive PortState where
  | down | training | active | miswired | foreign | disabled
  deriving DecidableEq, Repr

/-- The training state of a port that is TRAINING (11 Table 11.8). -/
inductive TrainState where
  | idle | detect | equalise | deskew | exchange
  deriving DecidableEq, Repr

/-- MIRROR_STATE (13 Table 13.4). -/
inductive MirrorState where
  | none | syncing | mirroring | covering | restoring | uncovered
  deriving DecidableEq, Repr

/-- STEAL_STATE of a core (04 Table 4.9). -/
inductive StealState where
  | active | leaving | withdrawn | test
  deriving DecidableEq, Repr

/-- STATE of an ashlar's state word (04 Table 4.7). -/
inductive RunState where
  | waiting | ready | running | retired
  deriving DecidableEq, Repr

/-- The stage the boot has reached (17 Table 17.9, STAGE). -/
inductive BootStage where
  | rom | keystone | runtimeLoad | hbmTraining | runtime
  deriving DecidableEq, Repr

/-- How the dictionary server stands (16 R537): stopped, serving the control cores only, open to every path. -/
inductive ServerState where
  | stopped | controlOnly | running
  deriving DecidableEq, Repr

/-! ## Package and pins -/

/-- The package state and the signal lands (00_scope.md R12 to R16; 18 Table 18.4). -/
structure PkgUnit where
  st : PkgState := .halt
  since : Tick := 0
  /-- The state held when the current tick began, and the transition taken in it (R16). -/
  tickStart : PkgState := .halt
  taken : Option PkgState := none
  /-- A STATE_REQUEST waiting for the next tick boundary (16 R532). -/
  request : Option PkgState := none
  /-- The twin was declared failed in this tick and this package takes over (R16). -/
  declared : Bool := false
  vaux : Bool := true
  resetN : Bool := false
  pwrGood : Bool := false
  coolOk : Bool := false
  /-- ERR_N asserted, since when, and its release asked for within the 10 µs it is held (15 R494). -/
  err : Bool := false
  errAt : Nat := 0
  errDue : Bool := false
  /-- READY has been entered since HALT was last left (14 R482). -/
  everReady : Bool := false
  /-- The management domain's own timer, in microseconds since VAUX rose (15 R503). -/
  now : Nat := 0
  deriving DecidableEq, Repr

/-! ## Course clock -/

/-- The latest valid time word of a port (02 R36). -/
structure WordSeen where
  port : Port := 0
  heard : Tick := 0
  hops : Nat := 0
  hold : Bool := false
  deriving DecidableEq, Repr

/-- An event scheduled for a tick (02 R53, R54). The first three are requested events. -/
inductive Ev where
  | handoff
  | weightSwitch (epoch : W32)
  | ramp (limit cap : Nat)
  | switchConfirm
  | cutoff (covered : Bool)
  | start (covered : Bool)
  | preRamp
  deriving DecidableEq, Repr

/-- One scheduled event. -/
structure Sched where
  due : Tick := 0
  ev : Ev
  deriving DecidableEq, Repr

/-- The course-clock unit (02). -/
structure ClockUnit where
  tick : Tick := 0
  phase : BitVec 10 := 0
  /-- The package holds a tick count (R54: locked, or originated as master, since it left HALT). -/
  held : Bool := false
  /-- A count runs: taken from a first time word, or originated. -/
  counting : Bool := false
  mode : ClockState := .unlocked
  /-- The holdover is the package's own (R41), and by how much the count leads its parent's, as of the latest word. -/
  selfHold : Bool := false
  ahead : Tick := 0
  role : ClockRole := .follower
  /-- The node is originating time words. -/
  originating : Bool := false
  master : Node := 0
  epoch : Byte := 0
  hops : Nat := 0
  parent : Option Port := none
  words : List WordSeen := []
  /-- The count less the parent's delay-corrected count, in 1/1,024 tick (R35, PHASE_ERROR). -/
  phaseError : Int := 0
  lockRun : Nat := 0
  holdElapsed : Nat := 0
  /-- The own-count tick of the last valid word on any port. -/
  lastWord : Option Tick := none
  cclkValid : Bool := false
  cclkGood : Nat := 0
  cclkSum : Nat := 0
  cclkEdges : Nat := 0
  events : List Sched := []
  deriving DecidableEq, Repr

/-! ## Hods and courses -/

/-- A hod record taken at a sampling (02 Table 2.3), waiting for admission. -/
structure TakenRec where
  hod : Nat := 0
  seq : W32 := 0
  op : Byte := 0
  cls : Nat := 0
  draftMax : Nat := 0
  profile : Nat := 0
  tag : W64 := 0
  tokenAddr : W64 := 0
  count : Nat := 0
  maxNew : Nat := 0
  seed : W64 := 0
  deadline : Tick := 0
  tenant : Nat := 0
  deriving DecidableEq, Repr

/-- A return record due (02 Table 2.5); its return sequence is given when it is written. -/
structure RetRec where
  tag : W64 := 0
  /-- Slot of the session it is of, 262,144 for a record of no session. -/
  slot : Nat := 262144
  course : W64 := 0
  status : Nat := 0
  flags : Byte := 0
  /-- DEADLINE of its session, where LATE is still to be decided at the close; 0 none. -/
  deadline : Tick := 0
  position : W32 := 0
  tokens : List W32 := []
  deriving DecidableEq, Repr

/-- What a hod keeps beyond its objects (02 R63, R66, R67; 13 Table 13.2). -/
structure HodRt where
  tornSince : Option Tick := none
  /-- The tick of the last sampling. -/
  sampled : Option Tick := none
  retSeq : W32 := 0
  /-- Records due and not yet written, in the order they became due (R67). -/
  waiting : List RetRec := []
  /-- Rejections since the last close, in take order. -/
  rejects : List RetRec := []
  /-- Records refused at admission since the last close, in take order (R66). -/
  refused : List RetRec := []
  /-- One past the last record admitted or rejected. -/
  admitted : W32 := 0
  deriving DecidableEq, Repr

/-- A row of the course token table (05 R163). -/
structure TokenRow where
  slot : Nat := 0
  position : Nat := 0
  kvPos : Nat := 0
  csession : Nat := 0
  speculative : Bool := false
  token : W32 := 0
  deriving DecidableEq, Repr

/-- A close marker held (02 R69). -/
structure Marker where
  node : Node := 0
  course : W64 := 0
  close : Tick := 0
  deriving DecidableEq, Repr

/-- A close not yet committed (13 R432): its course and the return sequences of the hods at it. -/
structure Commit where
  course : W64 := 0
  seqs : List (Nat × Nat) := []
  deriving DecidableEq, Repr

/-- A page that a course seals: the open slot it leaves and the sealed slot given to it at the formation (05 R162, R165). -/
structure Sealing where
  slot : Nat := 0
  draft : Bool := false
  layer : Nat := 0
  page : Nat := 0
  from_ : W64 := 0
  addr : W64 := 0
  deriving DecidableEq, Repr

/-- One stream of courses: own or covered (02, 13 R447). -/
structure Stream where
  /-- A course is running. -/
  running : Bool := false
  /-- The running course, or the last one closed. -/
  course : W64 := 0
  /-- No course has run since the stream began. -/
  fresh : Bool := false
  nominal : Tick := 0
  startT : Tick := 0
  closeT : Tick := 0
  /-- The next course's number, its nominal start when computed, and whether it is formed. -/
  next : W64 := 0
  nextNominal : Option Tick := none
  formed : Bool := false
  rows : List TokenRow := []
  sessions : List Nat := []
  markers : List Marker := []
  /-- Bond indices in the current membership (R71). -/
  members : W64 := 0
  /-- Holder availability latched at the cut-off (07 R222). -/
  avail : W64 := 0
  late : Bool := false
  markerMissing : Bool := false
  fenceDone : Bool := false
  /-- Nominal starts of the stream's courses, newest first (08 R255). -/
  history : List Tick := []
  /-- Formations since the last pause, saturating (08 R256, R258). -/
  sincePause : Nat := 0
  opStart : Nat := 0
  gangStart : BitVec 4 := 0
  copySlot : Nat := 0
  unplaced : Nat := 0
  fallbacks : Nat := 0
  /-- Slots whose session used the cheaper path, and slots that met poison (09 R299, R308). -/
  fellBack : List Nat := []
  poisoned : List Nat := []
  /-- (slot, bond index) pairs: a row of the session was placed on an expert of that member (13 R449). -/
  placedOn : List (Nat × Nat) := []
  /-- Per layer: choices passed over, tokens left UNPLACED, placed SHORT, SKIPPED (07 R219). -/
  layerPassed : SMap Nat := []
  layerUnplaced : SMap Nat := []
  layerShort : SMap Nat := []
  layerSkipped : SMap Nat := []
  /-- Instances of COLLECT whose words the members have been sent (04 R123). -/
  sentWords : List Nat := []
  /-- Pages that the course's park segment moves (08 R260): slot, draft root, layer, page, far-tier slot. -/
  parking : List (Nat × Bool × Nat × Nat × W64) := []
  /-- Pages that the course seals: both slots of each are held until its close. -/
  sealing : List Sealing := []
  /-- Copy slot the next course runs on (R75). -/
  nextSlot : Nat := 0
  /-- The first course that may run the stream's sessions (13 R446), and the members that have sent REJOIN in the course (R450). -/
  sessionsFrom : W64 := 0
  rejoins : List Node := []
  /-- Closes not yet committed, oldest first. -/
  commits : List Commit := []
  deriving DecidableEq, Repr

/-- Course scheduler and hods. -/
structure CourseUnit where
  own : Stream := {}
  covered : Stream := {}
  hods : SMap HodRt := []
  taken : List TakenRec := []
  gang : BitVec 4 := 0xF
  /-- Course records, oldest first, at most 4,096 (02 R77). -/
  log : List (List Byte) := []
  exchangeOpen : Bool := false
  /-- Waiting splice request (08 R268). -/
  splice : Option (List Byte) := none
  /-- Parity of the course whose start tick passed last (09 R287); false before the first. -/
  lastOdd : Bool := false
  /-- The stream whose course started last (13 R447). -/
  lastRan : Option Bool := none
  /-- The position in the target list at which a round begins: that after the target last granted a session (08 R240). -/
  lastTarget : Nat := 0
  /-- Count for SHIPMENT identifiers (05 Table 5.7). -/
  shipCount : Nat := 0
  deriving DecidableEq, Repr

/-! ## Templates, credits, cores -/

/-- An ashlar's state word (04 Table 4.7). -/
structure InstWord where
  st : RunState := .waiting
  faulted : Nat := 0
  holder : Option (Fin 384) := none
  outstanding : Nat := 0
  deriving DecidableEq, Repr

/-- A skip-table entry (07 R231). -/
structure SkipEntry where
  skipped : Bool := false
  masked : Bool := false
  handle : Nat := 0
  deriving DecidableEq, Repr

/-- The credit state of one stream and parity (04 Table 4.10): counters, state words, the ROWS the course gave its
block-table copy, the skip table. A counter not listed is 0; a word not listed is as prepared (R126). -/
structure Parity where
  course : Option W64 := none
  /-- Copy slot whose template it was prepared from (R126). -/
  slot : Nat := 0
  counters : SMap Nat := []
  words : SMap InstWord := []
  rows : SMap Nat := []
  skips : SMap SkipEntry := []
  /-- Ashlars READY with no holder because every queue was full, or held until the start tick (R132, R139), each with the quarter at
  whose next pop it is placed: the quarter whose queues were full, 4 any quarter. -/
  unplaced : List (Nat × Nat) := []
  deriving DecidableEq, Repr

/-- A deque entry (04 R136). -/
structure Entry where
  covered : Bool := false
  odd : Bool := false
  inst : Nat := 0
  deriving DecidableEq, Repr

/-- A matrix core (04 R136 to R149). Deques list the top entry first. -/
structure Core where
  st : StealState := .active
  leave : Bool := false
  forTest : Bool := false
  rejoin : Bool := false
  failed : Bool := false
  /-- A block reset awaits its signature test (15 Table 15.5). -/
  awaitTest : Bool := false
  deque : List Entry := []
  running : Option Entry := none
  /-- Every write of the running instance has been acknowledged (R130). -/
  done : Bool := false
  retired : W32 := 0
  steals : W32 := 0
  misses : W32 := 0
  busy : W32 := 0
  shown : Nat := 0
  waits : Bool := false
  deriving DecidableEq, Repr

/-- Credit units and cores (04). -/
structure CreditUnit where
  own0 : Parity := {}
  own1 : Parity := {}
  cov0 : Parity := {}
  cov1 : Parity := {}
  cores : SMap Core := []
  /-- Overflow queues of the four quarters, head first (R139). -/
  overflow : SMap (List Entry) := []
  /-- The hub's totals of the quarters' depths, as last refreshed (R142). -/
  hub : SMap Nat := []
  /-- Next core of the self-test rotation and when the last slot began (17 R577). -/
  testLast : Option Tick := none
  deriving DecidableEq, Repr

/-- The router engine (07 R214 to R219, R226): fill counts and the next tile per layer, requests held, transfers
staged, and what of (stream, course, sender, ashlar) has been applied already (13 R445). -/
structure RouterEngine where
  fill : SMap Nat := []
  nextTile : SMap Nat := []
  waiting : List (Bool × Nat) := []
  accepted : List (Bool × Nat) := []
  staged : List (Bool × ExpertMsg) := []
  /-- Expert slots whose input block is written: stream, course, layer, slot (R226). -/
  gathered : List (Bool × W64 × Nat × Nat) := []
  seen : List (Bool × W64 × Node × Nat) := []
  deriving DecidableEq, Repr

/-! ## Sessions -/

/-- A page entry (05 Table 5.4). -/
structure PageEntry where
  addr : W64 := 0
  rotBase : W32 := 0
  st : Nat := 0
  far : Bool := false
  deriving DecidableEq, Repr

/-- A KV root (05 Table 5.3) with its page table, keyed by layer × 4,096 + page. -/
structure Root where
  length : Nat := 0
  setEnd : Nat := 0
  scaffold : Nat := 0
  form : Bool := false
  layers : Nat := 0
  ptPages : Nat := 0
  heads : Nat := 0
  dim : Nat := 0
  ptBase : W64 := 0
  pages : SMap PageEntry := []
  deriving DecidableEq, Repr

/-- A scaffold strip (06 Table 6.1). -/
structure Strip where
  course : W64 := 0
  first : Nat := 0
  depth : Nat := 0
  reject : Bool := false
  drafts : List W32 := []
  qbase : W64 := 0
  deriving DecidableEq, Repr

/-- What the sender of a hand-over keeps for a session (08 R240 to R243; 05 R185 to R187). -/
structure Ship where
  /-- The target asked or granted, and its position in the target list. -/
  target : Option Node := none
  index : Nat := 0
  /-- Since when the session has been in SHIPPING without a grant. -/
  since : Tick := 0
  tries : Nat := 0
  granted : Bool := false
  grantAt : Tick := 0
  recordAt : Option Tick := none
  /-- Targets that have declined in the present round. -/
  declined : Nat := 0
  id : W64 := 0
  mainRecs : List (List Byte) := []
  draftRecs : List (List Byte) := []
  deriving DecidableEq, Repr

/-- A session descriptor (08 Table 8.3) and what the control cores keep with it. -/
structure Session where
  tag : W64 := 0
  seed : W64 := 0
  deadline : Tick := 0
  lastCourse : W64 := 0
  expiry : Tick := 0
  waitSince : Tick := 0
  st : SessState := .free
  heldFrom : SessState := .free
  cls : Nat := 0
  tenant : Nat := 0
  hod : Nat := 0
  profile : Nat := 0
  draftMax : Nat := 0
  depth : Nat := 0
  dry : Nat := 0
  full : Nat := 0
  idle : Nat := 0
  probe : Bool := false
  nextToken : Option W32 := none
  maxLeft : Nat := 0
  main : Root := {}
  draft : Root := {}
  inputAddr : W64 := 0
  inputLeft : Nat := 0
  /-- Runs of input tokens still to be processed (address, count), and how many of them come before NEXT_TOKEN's row (R247, R263). -/
  segs : List (W64 × Nat) := []
  nextAfter : Nat := 0
  posOffset : Nat := 0
  stripAddr : W64 := 0
  strip : Strip := {}
  satchel : W64 := 0
  satchelCount : Nat := 0
  generated : Nat := 0
  late : Bool := false
  covered : Bool := false
  /-- End reasons that apply at the next close (08 Table 8.6). -/
  reasons : List Nat := []
  /-- Tokens confirmed in the running course, and the depth the adaptation returned (06 R196, R201). -/
  confirmed : List W32 := []
  verified : Nat := 0
  accepted : Nat := 0
  /-- Pages moved to the far tier so far while PARKING. -/
  moved : Nat := 0
  quotaSince : Option Tick := none
  /-- Near-tier page slots reserved and not yet given, of each root (08 R248). -/
  resMain : Nat := 0
  resDraft : Nat := 0
  ship : Ship := {}
  deriving DecidableEq, Repr

/-- A shipment being received (05 R186 to R190): its page records with their payloads, and once accepted its length. -/
structure Shipment where
  id : W64 := 0
  src : Node := 0
  firstAt : Tick := 0
  recs : List (List Byte × List Byte) := []
  /-- Once its closing record has been checked: LENGTH, FORM and the pages installed, or the check it failed. -/
  accepted : Option Nat := none
  form : Bool := false
  pages : SMap PageEntry := []
  /-- Bytes of one of its open page slots. -/
  slotBytes : Nat := 0
  failed : Nat := 0
  tag : W64 := 0
  tenant : Nat := 0
  deriving DecidableEq, Repr

/-- A grant a target holds (08 R241). -/
structure GrantHold where
  slot : Nat := 0
  src : Node := 0
  tag : W64 := 0
  tenant : Nat := 0
  heldAt : Tick := 0
  pages : Nat := 0
  /-- The open-page size of the pages reserved (R274). -/
  bytes : Nat := 0
  deriving DecidableEq, Repr

/-- Bytes moved in an accounting window (08 R270): HBM, SRAM, fabric. -/
structure MovedBytes where
  hbm : Nat := 0
  sram : Nat := 0
  fabric : Nat := 0
  deriving DecidableEq, Repr

/-- Sessions, shipments and accounting (05, 06, 08). -/
structure SessionUnit where
  table : SMap Session := []
  shipments : List Shipment := []
  grants : List GrantHold := []
  discarded : Nat := 0
  /-- CORE_BUSY increments since the last close, and those of the own and of the covered stream's accounting window (08 R270). -/
  engine : Nat := 0
  engineOwn : Nat := 0
  engineCov : Nat := 0
  /-- Bytes moved in the own and in the covered stream's window (08 R270). -/
  movedOwn : MovedBytes := {}
  movedCov : MovedBytes := {}
  /-- KV pages moved per tenant in the window (08 R271); a covered stream's tenant counts at 256 more. -/
  movedPages : SMap Nat := []
  /-- Serial of the next page slot the control cores give out. -/
  slotSerial : Nat := 0
  deriving DecidableEq, Repr

/-! ## Memory -/

/-- A merge buffer entry (09 R290): word address, byte mask, bytes, META of the latest write. -/
structure MergeEntry where
  word : Nat := 0
  mask : W32 := 0
  data : List Byte := []
  tag : BitVec 16 := 0
  deriving DecidableEq, Repr

/-- What a controller last delivered to a waiting requester (09 R284 to R300). -/
structure ReadReply where
  who : Requester
  addr : Nat := 0
  data : List Byte := []
  poisoned : Bool := false
  late : Bool := false
  deriving DecidableEq, Repr

/-- An SRAM error log entry (09 Table 9.4). -/
structure SramLog where
  addr : Nat := 0
  first : Tick := 0
  last : Tick := 0
  count : Nat := 0
  syndrome : BitVec 16 := 0
  symbol : Nat := 0
  deriving DecidableEq, Repr

/-- A read that waits for the twin's granule (09 R296). -/
structure TwinWait where
  who : Option Requester := none
  word : Nat := 0
  /-- SOURCE of the log (Table 9.5): 0 a read, 1 a read-modify-write, 2 scrub. -/
  source : Nat := 0
  deriving DecidableEq, Repr

/-- Stacked memory and on-chip SRAM (09). `mem` holds the bytes of HBM and of the SRAM window by local address, `chk`
the XOR of a word's stored check bytes with its valid ones (by word address), `tags` META of activation words. -/
structure MemUnit where
  mem : List Host.Cell := []
  chk : SMap W32 := []
  tags : SMap (BitVec 16) := []
  sramChk : SMap (BitVec 16) := []
  /-- Open merge entries of stack n, oldest first. -/
  merge : SMap (List MergeEntry) := []
  log : List (List Byte) := []
  logSeq : W32 := 0
  /-- Tick of the first address-type event per pseudo-channel, stack × 32 + channel (R300). -/
  addrEvents : SMap Tick := []
  scrubOpen : Bool := false
  scrubAt : Tick := 0
  scrubPos : SMap Nat := []
  /-- Words left of the open window's quota, words carried from earlier windows, passes completed, by pseudo-channel. -/
  scrubLeft : SMap Nat := []
  scrubCarry : SMap Nat := []
  scrubPassed : SMap Nat := []
  waits : List TwinWait := []
  reply : Option ReadReply := none
  sramLogs : SMap (List SramLog) := []
  /-- Words delivered to instances as poisoned since their twin fetch failed (R297): an instance no longer waits for them. -/
  lost : List Nat := []
  /-- (slot, draft root, layer, page) answered LATE in the running course (R308). -/
  latePages : List (Nat × Bool × Nat × Nat) := []
  marginMask : BitVec 16 := 0
  deriving DecidableEq, Repr

/-! ## Weights -/

/-- A TEMPLATE chunk a copy holds: its bytes, ADDR fields as the chunk has them, and its layout (10 R318). -/
structure Segment where
  bytes : List Byte := []
  lay : TemplateLayout := {}
  deriving DecidableEq, Repr

/-- A copy slot (10 R321, Table 10.8). -/
structure Copy where
  st : CopyState := .absent
  epoch : W32 := 0
  thin : Bool := false
  digest : List Byte := []
  own : Option Nat := none
  twin : Option Nat := none
  swTick : Tick := 0
  templ : Option Template := none
  twinTempl : Option Template := none
  ownSeg : Option Segment := none
  draftSeg : Option Segment := none
  twinSeg : Option Segment := none
  placed : List Placed := []
  vocab : Nat := 0
  layers : Nat := 0
  geometry : Nat := 0
  draftLayers : Nat := 0
  draftGeometry : Nat := 0
  deriving DecidableEq, Repr

/-- The largest magnitude found so far for a tensor, and its chunk head (10 R331). -/
structure TensorSeen where
  tensor : Nat := 0
  head : List Byte := []
  /-- Largest magnitude so far, in units of 2^−167. -/
  largest : Nat := 0
  bad : Bool := false
  /-- Index of its latest chunk. -/
  last : Nat := 0
  deriving DecidableEq, Repr

/-- The tannery and the switch (10). -/
structure WeightUnit where
  k0 : Copy := {}
  k1 : Copy := {}
  load : LoadState := .idle
  slot : Nat := 0
  thin : Bool := false
  manifest : List Byte := []
  posts : List W64 := []
  converted : List Nat := []
  tensors : List TensorSeen := []
  sw : SwitchState := .none
  swTick : Tick := 0
  swEpoch : W32 := 0
  notices : List (Node × Tick × W32 × List Byte) := []
  deriving DecidableEq, Repr

/-! ## Links, routing, Plumbline -/

/-- A packet waiting in a port's queue, with the combining record it stands for. -/
structure QPkt where
  pkt : Packet
  group : Option W32 := none
  expert : Bool := false
  deriving DecidableEq, Repr

/-- One virtual channel of a port: sender's credits and queue, receiver's freed count (11 R357 to R361). -/
structure Vc where
  avail : Int := 0
  total : Nat := 0
  sent : Nat := 0
  freedSeen : Nat := 0
  freed : Nat := 0
  queue : List QPkt := []
  /-- Slots of a packet begun and not yet sent in full; slots received of a packet not yet complete. -/
  sending : List (List Byte) := []
  partly : List Byte := []
  deriving DecidableEq, Repr

/-- A Traruig port (11). -/
structure PortRt where
  st : PortState := .down
  train : TrainState := .idle
  /-- When the training state, and the training attempt, began (management timer). -/
  since : Nat := 0
  tried : Option Nat := none
  txLanes : Byte := 0
  rxLanes : Byte := 0
  locked : Byte := 0
  failed : Byte := 0
  txSeq : BitVec 10 := 0
  rxNext : BitVec 10 := 0
  acked : BitVec 10 := 0
  waiting : Bool := false
  /-- The replay buffer: FSEQ and flit, oldest first; the flits to send again. -/
  buffer : List (BitVec 10 × List Byte) := []
  resend : List (List Byte) := []
  vcs : SMap Vc := []
  creditVc : Nat := 0
  words : List (BitVec 128) := []
  /-- Flits still to send before the next CONTROL flit may go (R362), and the place in the 16-slot cycle. -/
  controlRest : Nat := 0
  cycle : Nat := 0
  failRun : Nat := 0
  /-- Symbols that FEC corrected in the last millisecond: when (management timer), and on which lane (R365). -/
  symErrs : List (Nat × Nat) := []
  echoBest : Option Nat := none
  echoCount : Nat := 0
  /-- Groups asked of the peer and not yet moved to (R366), oldest first; the group this end moves to at its next flit boundary; a
  LANE_MAP that waits for a change in progress (R369). -/
  rxWant : List Byte := []
  txMap : Option (BitVec 96) := none
  nextMap : Option (BitVec 96) := none
  /-- When the port last re-adapted its inactive lanes (R367). -/
  rewidened : Nat := 0
  peerSerial : BitVec 48 := 0
  peerPort : Nat := 0
  peerPhase : Nat := 0
  peerNode : Node := 0
  answer : Option (BitVec 96) := none
  deriving DecidableEq, Repr

/-- A binomial child's REPORT (11 Table 11.10). -/
structure Report where
  port : Port := 0
  node : Node := 0
  serial : BitVec 48 := 0
  cand : Node := 0
  count : Nat := 0
  faults : Nat := 0
  deriving DecidableEq, Repr

/-- Plumbline (11 R378 to R388). -/
structure PlumbUnit where
  st : PlumbState := .idle
  best : BitVec 48 := 0
  bestHops : Nat := 0
  /-- When best last changed, when the last ASSIGN came, when the wait under REPORT_TIMEOUT began (management timer). -/
  bestAt : Nat := 0
  assignAt : Nat := 0
  waitFrom : Option Nat := none
  ident : Option Node := none
  m : Node := 0
  /-- A round of reports runs: at discovery, or called by a new master (R382, R387). -/
  round : Bool := false
  reports : List Report := []
  reported : Bool := false
  tag : BitVec 48 := 0
  standby : Option Node := none
  found : Nat := 0
  callSeen : Option (BitVec 96) := none
  fabricSeen : Option (BitVec 96) := none
  restoreHeld : Bool := false
  joinAt : Nat := 0
  deriving DecidableEq, Repr

/-- A combining record (12 R402): its constituents in queue order with their operands. -/
structure CombineRec where
  tag : W32 := 0
  op : Byte := 0
  size : Nat := 0
  parts : List (Node × W32 × W64) := []
  /-- When the group left its queue. -/
  forwarded : Option Tick := none
  deriving DecidableEq, Repr

/-- Ports, router and Plumbline. -/
structure LinkUnit where
  ports : SMap PortRt := []
  /-- ACTIVE ports and their widths as the router last computed its routes (11 R376). -/
  routes : List (Port × Nat) := []
  aliases : List (Node × Node) := []
  /-- Packets received whole on a port and not yet routed. -/
  arrived : List (Port × Packet) := []
  combine : List CombineRec := []
  plumb : PlumbUnit := {}
  /-- FABRIC_K and WIRING in force since reset (11 R389). -/
  k : Nat := 0
  twist : Bool := false
  deriving DecidableEq, Repr

/-! ## Fabric requesters, lintels, host bridge -/

/-- A request in flight at a requester of this package (12 R405, R408). -/
structure OutReq where
  tag : W32 := 0
  who : Requester
  addr : W64 := 0
  op : Byte := 0
  size : Nat := 0
  issued : Tick := 0
  deriving DecidableEq, Repr

/-- A near gateway's pending batch and a far gateway's entries and returns (12 R411 to R415). -/
structure Gateway where
  batchNext : W32 := 0
  near : List Packet := []
  /-- Requests reissued: own TAG, ORIG_SRC, ORIG_TAG, BATCH, INDEX, OP; requests held; completion records due. -/
  entries : List (W32 × Node × W32 × W32 × Nat × Byte) := []
  waiting : List (W32 × Nat × BatchReq) := []
  returns : List LintelRec := []
  deriving DecidableEq, Repr

/-- One fabric request that a host access is split into: its TAG once issued, its status and data once complete. -/
structure HostPart where
  addr : W64 := 0
  op : Byte := 0
  size : Nat := 0
  data : List Byte := []
  opA : W64 := 0
  opB : W64 := 0
  tag : Option W32 := none
  done : Option (Byte × List Byte) := none
  deriving DecidableEq, Repr

/-- A host access in flight (12 R419 to R422), its parts in address order. -/
structure HostOp where
  id : Nat := 0
  isWrite : Bool := false
  isAtomic : Bool := false
  relaxed : Bool := false
  tenant : Byte := 0
  parts : List HostPart := []
  deriving DecidableEq, Repr

/-- Fabric requesters, gateways and the host bridge (12). -/
structure FabricUnit where
  outs : List OutReq := []
  gens : SMap Nat := []
  restUntil : SMap Nat := []
  timeouts : List (Node × Tick) := []
  /-- No fabric request goes out before this time of the management timer (R408). -/
  readyAt : Nat := 0
  lastDone : Option (Requester × FabResp) := none
  /-- Requests that a control core may not issue yet, oldest first (R391, R397). -/
  ctlWait : List (Fin 4 × BatchReq) := []
  /-- LOADs that read a word whose twin is asked, with the node they name (09 R296). -/
  held : List (Node × BatchReq) := []
  g0 : Gateway := {}
  g1 : Gateway := {}
  hostOps : List HostOp := []
  hostNext : Nat := 0
  storeErr : W32 := 0
  ur : W32 := 0
  /-- The MSI-X table's words (4 × vector + word), and the pending-bit array. -/
  msix : SMap Nat := []
  msixPend : BitVec 256 := 0
  deriving DecidableEq, Repr

/-! ## Messages -/

/-- The contents of a message whose layout the manual leaves to its type. -/
inductive Body where
  | closeMarker (course : W64) (close : Tick)
  | grant (course : W64) (counter : BitVec 18) (amount : Nat) (inst : Nat)
  | expert (m : ExpertMsg)
  | expertReturn (m : ExpertMsg)
  | collect (course : W64) (inst : Nat) (handle : W32) (data : List Byte)
  | pageRecord (rec payload : List Byte)
  | closingRecord (rec : List Byte)
  | handover (rec : List Byte)
  | reply (rec : List Byte)
  | switchNotice (name : Node) (due : Tick) (epoch : W32) (digest : List Byte)
  | switchCancel (epoch : W32)
  | twinFetch (epoch : W32) (part : Bool) (ownBase twinBase off : Nat)
  | twinData (granule : Option (List Byte))
  | mirror (r : MirrorRec)
  | mirrorClose (r : MirrorCloseRec)
  | mirrorAck (course : W64)
  /-- The sender's tick and state, with its mirror ranges and COVER_PAGES (13 R429). -/
  | beat (tick : Tick) (state : Nat) (ranges : List W64) (cover : W32)
  | failNotice (kind : Byte)
  | aliasSet (failed : Node) (cover : Option Node) (seq : W32)
  | aliasAck (seq : W32)
  | rejoin (identity : Node) (closed members : W64)
  | shardDown (node : Node)
  | restore (m : RestoreMsg)
  | request (op : Byte) (r : FabReq)
  | response (r : FabResp)
  | hostIrq (line : Nat)
  /-- The empty marker of a zero-length KV_SHIP or COLLECT (04 R134). -/
  | marker (course : W64) (inst : Nat) (counter : Option (BitVec 18))
  deriving DecidableEq, Repr

/-! ## Mirror pair -/

/-- A takeover in progress or done (13 R438 to R446). -/
structure Takeover where
  failed : Node := 0
  declared : Tick := 0
  acks : List Node := []
  lastAck : Tick := 0
  imported : Bool := false
  answers : List (Node × W64 × W64) := []
  expect : Nat := 0
  seq : W32 := 0
  deriving DecidableEq, Repr

/-- A restore at either end (13 R452). -/
structure Restore where
  /-- The step of R452 reached. -/
  step : Nat := 0
  /-- Bytes of the own part and of the twin part of the package being restored. -/
  own : Nat := 0
  twin : Nat := 0
  epoch : W32 := 0
  digest : List Byte := []
  lay : CopyLayout := {}
  fetched : Nat := 0
  total : Nat := 0
  acks : Nat := 0
  handback : Option Tick := none
  lastAck : Tick := 0
  deriving DecidableEq, Repr

/-- A transfer or remote grant retained for a bond member (13 R444). -/
structure Retained where
  covered : Bool := false
  dest : Node := 0
  course : W64 := 0
  body : Body
  deriving DecidableEq, Repr

/-- A transfer that an instance has made and that goes out when its retirement is accepted (04 R130): where it goes, whether a copy is
retained for the member (R444), and the root of a page record (slot, draft). -/
structure Sending where
  covered : Bool := false
  odd : Bool := false
  inst : Nat := 0
  dest : Node := 0
  body : Body
  retain : Bool := false
  root : Option (Nat × Bool) := none
  deriving DecidableEq, Repr

/-- A committed image of a node's serving state (13 R431): its sessions with their pages where this package keeps them, its objects,
its last SCHEDULER record. -/
structure MirrorImage where
  sessions : SMap Session := []
  nums : SMap Nat := []
  sched : List Byte := []
  deriving DecidableEq, Repr

/-- A run of mirror records sent and not yet acknowledged (13 R431, R432): its stream, the course of its CLOSE, a full image or not. -/
structure AwaitAck where
  covered : Bool := false
  course : W64 := 0
  image : Bool := false
  deriving DecidableEq, Repr

/-- The mirror engine (13). -/
structure MirrorUnit where
  st : MirrorState := .none
  /-- Records of the twin that no CLOSE has followed, and the twin's image. -/
  incoming : List MirrorRec := []
  image : MirrorImage := {}
  /-- The same for this package's own identity, while it is being restored (R452). -/
  restoring : List MirrorRec := []
  restored : MirrorImage := {}
  /-- Runs of records sent and not yet acknowledged, oldest first. -/
  awaiting : List AwaitAck := []
  /-- Streams whose full image goes out at their next close. -/
  imageDue : List Bool := []
  /-- The twin's mirror ranges, and a cover area too small for them on either side (R429). -/
  twinRanges : List W64 := []
  sizeBad : Bool := false
  /-- Restore packets that wait while M is not ACTIVE (R451). -/
  heldM : List Body := []
  /-- TWIN_SILENT has been raised since the last beat (R436). -/
  silent : Bool := false
  twinClosed : Option W64 := none
  twinMembers : W64 := 0
  twinGreatest : W64 := 0
  lastBeat : Option Tick := none
  twinFailed : Bool := false
  committed : Option W64 := none
  committedTick : Tick := 0
  covered : Option Node := none
  takeover : Option Takeover := none
  restore : Option Restore := none
  retained : List Retained := []
  /-- Transfers made and not yet sent (04 R130). -/
  outbox : List Sending := []
  aliasSeq : W32 := 0
  /-- The own and the covered sessions as of the last CLOSE sent (Table 13.2: what changed since). -/
  sent : SMap Session := []
  sentCover : SMap Session := []
  /-- Keys of objects written since the previous CLOSE (Table 13.2, OBJECTS). -/
  written : List Nat := []
  /-- The covered node's objects: those of its image at the import, as the covered stream has changed them since. -/
  coverNums : SMap Nat := []
  deriving DecidableEq, Repr

/-! ## Power -/

/-- The values of an accepted telemetry frame (14 Table 14.3). -/
structure Tele where
  vcore : Nat := 0
  icore : Nat := 0
  vmem : Nat := 0
  imem : Nat := 0
  vaux : Nat := 0
  iaux : Nat := 0
  cap : Nat := 0
  tplinth : Nat := 0
  vcoreOk : Bool := false
  vmemOk : Bool := false
  vauxOk : Bool := false
  settled : Bool := false
  inputLow : Bool := false
  hot : Bool := false
  deriving DecidableEq, Repr

/-- The rein of one quarter (14 R466 to R473). -/
structure Rein where
  level : Nat := 64
  source : Nat := 7
  thermal : Nat := 64
  host : Nat := 64
  deriving DecidableEq, Repr

/-- What a protective pull's hold rests on (14 R470, R471): the excess ledger, the current ledger, or neither. -/
inductive HoldCause where
  | peak
  | excess
  | current
  deriving DecidableEq, Repr

/-- A hold after a pull (14 R471): its cause, and when its 1,000 ticks end. -/
structure Hold where
  cause : HoldCause := .peak
  until_ : Tick := 0
  deriving DecidableEq, Repr

/-- The power and thermal manager (14). -/
structure PowerUnit where
  op : Nat := 5
  /-- A step up waits for SETTLED (R464). -/
  stepping : Option Nat := none
  /-- Setpoints in mV and the CMD of the next command frame; the first frame after entry to BOOT applies them (18 R596). -/
  vcoreSet : Nat := 740
  vmemSet : Nat := 1100
  cmd : Nat := 1
  /-- The tick whose command frame last applied set points. -/
  cmdAt : Option Tick := none
  tele : Option Tele := none
  /-- Consecutive ticks without an accepted frame, and whether one came in this tick. -/
  missed : Nat := 0
  gotFrame : Bool := false
  p : Nat := 0
  reins : SMap Rein := []
  /-- Holds in force, oldest first, and whether each ledger was at its budget at the last update of the rein (R470, R471). -/
  holds : List Hold := []
  excessFull : Bool := false
  currentFull : Bool := false
  pull : Bool := false
  supplyPull : Bool := false
  /-- Since when the supply pull's causes have been absent. -/
  clearSince : Option Tick := none
  silent : Bool := false
  lost : Bool := false
  fill : Bool := false
  floor : Nat := 0
  /-- Mean power of the last course that a pre-ramp climbs to (R475). -/
  preTarget : Option Nat := none
  /-- Excess ledger: interval numbers counted within the window; the running interval's sum and ticks. -/
  excess : List Nat := []
  ivNumber : Nat := 0
  ivSum : Nat := 0
  ivTicks : Nat := 0
  /-- Current ledger: the ticks counted since BOOT, as ages. -/
  current : List Nat := []
  ticksSeen : Nat := 0
  energySum : Nat := 0
  energyCarry : Nat := 0
  /-- The same of the covered stream's windows. -/
  coverSum : Nat := 0
  coverCarry : Nat := 0
  energyTotal : Nat := 0
  totalCarry : Nat := 0
  hiLatch : W32 := 0
  railBad : Nat := 0
  overRun : Nat := 0
  op7Ticks : Nat := 0
  charged : Bool := false
  lastMean : Nat := 0
  courseSum : Nat := 0
  courseTicks : Nat := 0
  wakeAsked : List (Fin 4) := []
  waking : List (Fin 4 × Tick) := []
  fallow : BitVec 4 := 0
  /-- Quarters awake that join the gang at the next course start (R478). -/
  joining : BitVec 4 := 0
  /-- Course closes since each quarter's last wake, where it has had one (R477). -/
  sinceWake : SMap Nat := []
  busyLog : List (Nat × Nat) := []
  /-- When the running RACK_TIMEOUT period began (management timer). -/
  rackFrom : Option Nat := none
  deriving DecidableEq, Repr

/-! ## Faults and interrupts -/

/-- A fault message before its REACTION is known (15 Table 15.2). -/
structure FaultMsg where
  tick : Tick := 0
  source : Nat := 0
  part : Nat := 0
  kind : Byte := 0
  cls : Nat := 0
  addr : BitVec 47 := 0
  seq : Nat := 0
  /-- Not of the message: the entry its source, a core, was running when it raised the fault (04 R146). -/
  running : Option Entry := none
  deriving DecidableEq, Repr

/-- The fault collector (15). -/
structure FcuUnit where
  intake : List FaultMsg := []
  urgent : List FaultMsg := []
  heldBack : List FaultMsg := []
  log : List (BitVec 128) := []
  seqs : SMap Nat := []
  rate : SMap Nat := []
  rateAt : Nat := 0
  overflowed : List Nat := []
  store : List (BitVec 128) := []
  first : Option (BitVec 128) := none
  /-- Traps waiting, with the control core each goes to. -/
  traps : List (Nat × BitVec 128) := []
  kicks : SMap Nat := []
  inject : List W32 := []
  resets : List Nat := []
  resetting : List (Nat × Nat) := []
  deriving DecidableEq, Repr

/-- The interrupt controller (15). Bitmaps over the 512 sources. -/
structure IcxUnit where
  prigroup : Nat := 3
  restored : Bool := false
  doze : Bool := false
  en : BitVec 512 := 0
  pend : BitVec 512 := 0
  hpend : BitVec 512 := 0
  active : BitVec 512 := 0
  latch : BitVec 512 := 0
  /-- Priorities (reset 0x80) and core routes (CORE of R509); HOST_LINE, HOLDOFF, COUNT and TIME are objects
  0x7020 to 0x7023. -/
  pri : SMap Nat := []
  core : SMap Nat := []
  /-- Active stacks of the four control cores, top first. -/
  running : SMap (List Nat) := []
  holdEnds : SMap Tick := []
  coalCount : SMap Nat := []
  coalFirst : SMap Tick := []
  deriving DecidableEq, Repr

/-! ## Dictionary and Bridle -/

/-- A BLOB being written in segments over Bridle (16 R546) or STOREs through the window (R551). -/
structure Staging where
  mac : BitVec 48 := 0
  key : Key
  data : List Byte := []
  since : Nat := 0
  deriving DecidableEq, Repr

/-- A kept WRITE response (16 R544). -/
structure Kept where
  mac : BitVec 48 := 0
  seq : Nat := 0
  pdu : List Byte := []
  deriving DecidableEq, Repr

/-- The dictionary server and the Bridle responder (16). -/
structure DictUnit where
  nums : SMap Nat := []
  blobs : SMap (List Byte) := []
  /-- RESULT of a writable object: code and count (R553). -/
  results : SMap (Nat × Nat) := []
  server : ServerState := .stopped
  staging : Option Staging := none
  snaps : List Staging := []
  window : List Staging := []
  kept : List Kept := []
  notifySeq : BitVec 16 := 0
  /-- A NOTIFY is due at the end of the tick (R548). -/
  notifyDue : Bool := false
  lastStore : Option (BitVec 128) := none
  discover : Option (Nat × BitVec 48 × Nat) := none
  /-- READ and WRITE requests that hold a place in the request queue, up to the end of the tick (R543). -/
  queued : Nat := 0
  /-- An image write has begun and not finished: the values copied (R530). -/
  imaging : Option (SMap Nat × SMap (List Byte)) := none
  deriving DecidableEq, Repr

/-! ## Security engine and flash -/

/-- A stored dictionary image (16 R530). -/
structure Image where
  generation : Nat := 0
  nums : SMap Nat := []
  blobs : SMap (List Byte) := []
  valid : Bool := false
  deriving DecidableEq, Repr

/-- The flash write in progress (17 R556). -/
inductive FlashJob where
  | firmware (image : List Byte)
  | keystone (rec : List Byte)
  | calibration (set : List Byte)
  deriving DecidableEq, Repr

/-- The flash die and the security engine (17). -/
structure SecUnit where
  fwA : List Byte := []
  fwB : List Byte := []
  selector : Bool := false
  ks0 : List Byte := []
  ks1 : List Byte := []
  /-- The calibration set, and the set loaded at this boot: none before its check and on safe defaults (R575, R576). -/
  cal : List Byte := []
  calUse : List Byte := []
  img0 : Image := {}
  img1 : Image := {}
  wear : Nat := 0
  graveLast : Option (BitVec 128) := none
  fuses : Nat := 0
  job : Option FlashJob := none
  stage : BootStage := .rom
  slotB : Bool := false
  fallback : Bool := false
  lock : Bool := false
  ksMode : Nat := 0
  ksUsed : Option Bool := none
  calDefaults : Bool := false
  ksFirmware : List Byte := []
  rtFirmware : List Byte := []
  commitSvn : Bool := false
  imageSvn : Nat := 0
  attest : Option (List Byte) := none
  deriving DecidableEq, Repr

/-! ## What leaves the package -/

/-- One thing the package has sent. -/
inductive OutMsg where
  | send (dest : Node) (b : Body)
  /-- A restore packet put straight onto port M, without alias lookup (13 R451). -/
  | sendM (b : Body)
  | control (port : Port) (w : BitVec 128)
  /-- A flit, by lane (11 R350). -/
  | flit (port : Port) (lanes : List (Nat × List Symbol))
  | forward (port : Port) (p : Packet)
  | deliver (p : Packet)
  | discard (p : Packet) (status : Byte)
  | frame (dest : BitVec 48) (pdu : List Byte)
  | plinth (w : W64)
  | hostData (id : Nat) (data : List Byte)
  | hostAbort (id : Nat)
  | hostUnsupported
  | msix (vector : Nat)
  | errN (asserted : Bool)
  /-- The value a register or window read returns to its requester. -/
  | answer (who : Requester) (v : W64)
  deriving DecidableEq, Repr

/-! ## The whole -/

/-- The package. -/
structure State where
  pkg : PkgUnit
  clk : ClockUnit
  crs : CourseUnit
  cred : CreditUnit
  eng : RouterEngine
  ses : SessionUnit
  mem : MemUnit
  wts : WeightUnit
  lnk : LinkUnit
  fab : FabricUnit
  mir : MirrorUnit
  pwr : PowerUnit
  fcu : FcuUnit
  icx : IcxUnit
  dict : DictUnit
  sec : SecUnit
  /-- Everything sent, oldest first (the model's own record of the package's outputs). -/
  out : List OutMsg
  /-- The counter the free values are drawn with (the model's own; log entry 4). -/
  free : Nat
  /-- Commands waiting, first in, first out. -/
  pending : List Instr
  deriving DecidableEq, Repr

/-- The machine right after reset: auxiliary power has just risen, the package is in HALT (00_scope.md R12, Table 0.5; 18
R600), the flash die and the fuses hold what the factory left (log entry 5), both keystone slots erased (17 R563), and every
other unit is as its fields' defaults say. The queue is empty. -/
def State.reset : State where
  pkg := {}
  clk := {}
  crs := {}
  cred := {}
  eng := {}
  ses := {}
  mem := {}
  wts := {}
  lnk := {}
  fab := {}
  mir := {}
  pwr := {}
  fcu := {}
  icx := {}
  dict := {}
  sec := { fwA := Config.factoryFwA, fwB := Config.factoryFwB, cal := Config.factoryCal, fuses := Config.factoryFuses.toNat }
  out := []
  free := 0
  pending := []

/-- Why the model stops. The package never stops: each command has a next state (NOTES.md, Stops). The one
constructor is the model's own and no command raises it: it is safe. -/
inductive Fault where
  /-- Raised by nothing: the package's own faults are fault messages to the FCU (15_faults_and_interrupts.md). Safe. -/
  | unreachable
  deriving DecidableEq, Repr

/-- Why a command has no meaning here. -/
inductive Refusal where
  /-- Raised by exec for a row that has no meaning yet; safe, for nothing can be proved of it. -/
  | notModelled (mnemonic : String)
  deriving DecidableEq, Repr

end Sys2Proof.Machine
end

