-- ==== Sys2Proof/Machine/Mem.lean ====
section
/-! DEFINITION. Bytes of memory in canonical form, the address decode of HBM and SRAM, their word codes, and the merge
buffers (09_stacked_memory.md R277 to R293, R298, R301, R302; 01_package_overview.md R24, R26). -/

namespace Sys2Proof.Machine

/-! ## Bytes -/

/-- The byte at an address; an unlisted address reads 0 (R281; SRAM: log entry 3). -/
def cellGet (m : List Host.Cell) (a : Nat) : Byte := SMap.get 0 m a

/-- Store a byte, keeping the canonical form. -/
def cellPut (m : List Host.Cell) (a : Nat) (b : Byte) : List Host.Cell := SMap.set 0 m a b

/-- n bytes from an address up. -/
def cellsGet (m : List Host.Cell) (a : Nat) : Nat → List Byte
  | 0 => []
  | n + 1 => cellGet m a :: cellsGet m (a + 1) n

/-- Store bytes from an address up. -/
def cellsPut (m : List Host.Cell) (a : Nat) : List Byte → List Host.Cell
  | [] => m
  | b :: r => cellsPut (cellPut m a b) (a + 1) r

/-- Remove every byte in a set of addresses. -/
def cellsClear (m : List Host.Cell) (p : Nat → Bool) : List Host.Cell := m.filter (fun c => !p c.1)

/-- The canonical form of memory. -/
abbrev Memory.wf (m : List Host.Cell) : Prop := SMap.wf 0 m = true

/-! ## The local address map (01 Table 1.4, Table 1.5) -/

/-- First address above HBM. -/
def hbmTop : Nat := 0x006000000000
/-- First address of the SRAM window. -/
def sramBase : Nat := 0x400000000000
/-- First address above it. -/
def sramTop : Nat := 0x400040000000
/-- First address of the dictionary window. -/
def dictBase : Nat := 0x7E0000000000
/-- First address of the control-register space. -/
def cregBase : Nat := 0x7F0000000000
/-- Local addresses have 47 bits. -/
def localTop : Nat := 0x800000000000

/-- The spaces of Table 1.4. -/
inductive Space where
  | hbm | sram | dict | creg | unmapped
  deriving DecidableEq, Repr

/-- The space a local address lies in (R24). -/
def space (a : Nat) : Space :=
  if a < hbmTop then .hbm
  else if sramBase ≤ a ∧ a < sramTop then .sram
  else if dictBase ≤ a ∧ a < cregBase then .dict
  else if cregBase ≤ a ∧ a < localTop then .creg
  else .unmapped

/-- Quarter of an SRAM address (R26). -/
def sramQuarter (a : Nat) : Nat := (a - sramBase) / 0x10000000
/-- Offset within the quarter's part of the window. -/
def sramOffset (a : Nat) : Nat := (a - sramBase) % 0x10000000
/-- Core store base of Qq.Cnn. -/
def coreStore (q nn : Nat) : Nat := sramBase + q * 0x10000000 + nn * 0x200000
/-- Quarter store base of Qq. -/
def quarterStore (q : Nat) : Nat := sramBase + q * 0x10000000 + 0x0C000000

/-! ## HBM address decode (R277, R278) -/

/-- A physical location. -/
structure Loc where
  stack : Nat
  pch : Nat
  bank : Nat
  row : Nat
  col : Nat
  deriving DecidableEq, Repr

/-- Memory page of an address. -/
def pageOf (a : Nat) : Nat := a / 0x200000
/-- Home quarter of an address. -/
def homeQuarter (a : Nat) : Nat := pageOf a % 4
/-- Table 9.1. -/
def locate (a : Nat) : Loc :=
  let p' := pageOf a / 4
  let g := bits a 20 8
  let w := bits a 7 5
  let c := (g % 128) ^^^ (p' % 128)
  let gp := p' * 64 + g / 128
  { stack := 4 * homeQuarter a + c / 32, pch := c % 32, bank := gp / 4 % 64, row := gp / 256, col := gp % 4 * 8 + w }
/-- The 34-bit value L. -/
def Loc.l (x : Loc) : Nat := x.stack * 2 ^ 30 + x.pch * 2 ^ 25 + x.bank * 2 ^ 19 + x.row * 2 ^ 5 + x.col
/-- The address at a location: the inverse of Table 9.1. -/
def Loc.addr (x : Loc) : Nat :=
  let gp := x.row * 256 + x.bank * 4 + x.col / 8
  let p' := gp / 64
  let c := x.stack % 4 * 32 + x.pch
  let g := gp % 64 * 128 + (c ^^^ (p' % 128))
  (p' * 4 + x.stack / 4) * 0x200000 + g * 256 + x.col % 8 * 32

/-! ## Regions (R280) -/

/-- Region classes. -/
inductive RClass where
  | weights | state | activation
  deriving DecidableEq, Repr

/-- A numeric object. -/
def State.num (s : State) (o : Obj) : Nat := SMap.get o.dflt s.dict.nums o.key

/-- The regions in use: first page, pages, class, far tier. -/
def State.regions (s : State) : List (Nat × Nat × RClass × Bool) :=
  (List.range (s.num O.regionCount)).map (fun i =>
    let v := s.num (O.region i)
    (bits v 17 0, bits v 35 18,
      (match bits v 37 36 with | 0 => RClass.weights | 1 => .state | _ => .activation), bit v 38))

/-- Class of a page. -/
def State.pageClass (s : State) (p : Nat) : RClass :=
  match s.regions.find? (fun r => decide (r.1 ≤ p) && decide (p < r.1 + r.2.1)) with
  | some r => r.2.2.1
  | none => .state

/-- A page lies in a far-tier region. -/
def State.pageFar (s : State) (p : Nat) : Bool :=
  match s.regions.find? (fun r => decide (r.1 ≤ p) && decide (p < r.1 + r.2.1)) with
  | some r => r.2.2.2
  | none => false

/-! ## Word codes -/

/-- Virtual symbols V0 … V3 of a location (R283). -/
def virtualSyms (l : Nat) : List Nat :=
  let t := crc24 l
  let v1 := t % 256
  let v2 := t / 256 % 256
  let v3 := t / 65536
  [v1 ^^^ v2 ^^^ v3, v1, v2, v3]

/-- The four check bytes c0 … c3 of data at a location (R282). -/
def rsWordChecks (l : Nat) (d : List Byte) : List Byte :=
  let syms := ((fit 32 d).map BitVec.toNat ++ virtualSyms l).reverse
  (rsChecks 4 syms).map (BitVec.ofNat 8)

/-- CRC of an activation word (R286). -/
def actCrc (l : Nat) (d : List Byte) (tag : BitVec 16) : Nat :=
  crc16 (beBytes 5 l ++ fit 32 d ++ leBytes 2 tag.toNat)

/-- The valid check bytes of a word of a class. -/
def validChecks (c : RClass) (l : Nat) (d : List Byte) (tag : BitVec 16) : List Byte :=
  match c with
  | .activation => leBytes 2 (actCrc l d tag) ++ leBytes 2 tag.toNat
  | _ => rsWordChecks l d

/-- The check-byte change that marks poison (R298): c0 with 0xFF and c1 with 0x01. -/
def poisonXor : W32 := 0x01FF

/-- XOR lists of bytes. -/
def xorBytes (a b : List Byte) : List Byte := List.zipWith (· ^^^ ·) a b

/-- What a controller makes of the 36 symbols it read (R284, R286). -/
inductive ReadClass where
  | clean
  | correctable (symbol : Nat) (syn : Nat)
  | addrType
  | symType
  | crcBad (diff : Nat)
  deriving DecidableEq, Repr

/-- R284: classify the stored symbols against the intended location. `syms`: c0 … c3, d0 … d31. -/
def classify (l : Nat) (syms : List Byte) : ReadClass × List Nat :=
  let r := syms.map BitVec.toNat ++ virtualSyms l
  let s := syndromes 4 r
  let s0 := s.getD 0 0
  if s.all (· == 0) then (.clean, s)
  else if s0 = 0 then (.addrType, s)
  else
    let fits := (List.range 36).find? (fun j =>
      let b := gfPow j
      s.getD 1 0 == gfMul s0 b && s.getD 2 0 == gfMul (s.getD 1 0) b && s.getD 3 0 == gfMul (s.getD 2 0) b)
    match fits with
    | some j => (.correctable j s0, s)
    | none => (.symType, s)

/-! ## The stored words of a stack -/

/-- Data bytes of a stored word. -/
def MemUnit.word (m : MemUnit) (w : Nat) : List Byte := cellsGet m.mem w 32

/-- META of a stored activation word. -/
def MemUnit.tag (m : MemUnit) (w : Nat) : BitVec 16 := SMap.get 0 m.tags w

/-- Check bytes c0 … c3 as stored. -/
def State.checksOf (s : State) (w : Nat) : List Byte :=
  xorBytes (validChecks (s.pageClass (pageOf w)) (locate w).l (s.mem.word w) (s.mem.tag w))
    (leBytes 4 (SMap.get 0 s.mem.chk w).toNat)

/-- Store a full word with valid check bytes. -/
def State.storeWord (s : State) (w : Nat) (d : List Byte) (tag : BitVec 16) : State :=
  let tag := if s.pageClass (pageOf w) = .activation then tag else 0
  { s with mem := { s.mem with
      mem := cellsPut s.mem.mem w (fit 32 d), chk := SMap.set 0 s.mem.chk w 0, tags := SMap.set 0 s.mem.tags w tag
      lost := s.mem.lost.filter (· != w) } }

/-- Store a word poisoned (R298). -/
def State.storePoison (s : State) (w : Nat) (d : List Byte) (tag : BitVec 16) : State :=
  let t := s.storeWord w d tag
  { t with mem := { t.mem with chk := SMap.set 0 t.mem.chk w poisonXor } }

/-- A stored word as a clean reading of the array gives it: corrected, or none when uncorrectable. -/
def State.decodeWord (s : State) (w : Nat) : Option (List Byte) :=
  let x := SMap.get 0 s.mem.chk w
  let d := s.mem.word w
  if x = 0 then some d
  else
    match s.pageClass (pageOf w) with
    | .activation => none
    | _ =>
      match (classify (locate w).l (s.checksOf w ++ d)).1 with
      | .clean => some d
      | .correctable j e => if j < 4 then some d else some (setAt d (j - 4) (d.getD (j - 4) 0 ^^^ BitVec.ofNat 8 e))
      | _ => none

/-! ## Merge buffers (R290 to R293) -/

/-- Open entries of a stack. -/
def MemUnit.entries (m : MemUnit) (st : Nat) : List MergeEntry := SMap.get [] m.merge st

/-- Replace the open entries of a stack. -/
def MemUnit.setEntries (m : MemUnit) (st : Nat) (l : List MergeEntry) : MemUnit :=
  { m with merge := SMap.set [] m.merge st l }

/-- Bytes of a word with an entry's bytes laid over them. -/
def overlay (d : List Byte) (e : MergeEntry) : List Byte :=
  (List.range 32).map (fun i => if e.mask.getLsbD i then e.data.getD i 0 else d.getD i 0)

/-- The open entry of a word. -/
def MemUnit.entryOf (m : MemUnit) (w : Nat) : Option MergeEntry :=
  (m.entries (locate w).stack).find? (fun e => e.word == w)

/-- META with PARTIAL set (R287). -/
def partialTag (t : BitVec 16) : BitVec 16 := t ||| 0x4000

/-- Cut bytes at an address into the parts that fall in single words of `size` bytes. -/
def cutWords (size : Nat) : Nat → Nat → List Byte → List (Nat × Nat × List Byte)
  | 0, _, _ => []
  | n + 1, a, d =>
    if d.isEmpty then []
    else
      let off := a % size
      let k := Nat.min (size - off) d.length
      (a - off, off, d.take k) :: cutWords size n (a + k) (d.drop k)

/-- The parity bit and scale exponent a write carries (R287). -/
def mkTag (odd : Bool) (scaleExp : Nat) : BitVec 16 := BitVec.ofNat 16 (b2n odd * 32768 + scaleExp % 256)

/-- A word as a reader receives it: merged bytes, and whether it is marked poisoned (zero bytes then). -/
def State.readWord (s : State) (w : Nat) : List Byte × Bool :=
  match s.decodeWord w with
  | none => (zeros 32, true)
  | some d => (match s.mem.entryOf w with | some e => overlay d e | none => d, false)

/-- Read bytes of HBM, with whether any word was poisoned. -/
def State.hbmGet (s : State) (a n : Nat) : List Byte × Bool :=
  (cutWords 32 (n + 1) a (zeros n)).foldl (fun acc x =>
    let r := s.readWord x.1
    (acc.1 ++ (r.1.drop x.2.1).take x.2.2.length, acc.2 || r.2)) ([], false)

/-! ## SRAM words (R301, R302) -/

/-- t of a word (R301). -/
def sramT (w : Nat) : Nat := crc8 32 ((w - sramBase) / 16)

/-- The two check bytes of an SRAM word. -/
def sramChecks (w : Nat) (d : List Byte) : List Byte :=
  let t := sramT w
  (rsChecks 2 (((fit 16 d).map BitVec.toNat ++ [t, t]).reverse)).map (BitVec.ofNat 8)

/-- Syndromes of an SRAM word read: c0, c1, d0 … d15. -/
def sramSyndromes (w : Nat) (syms : List Byte) : Nat × Nat :=
  let t := sramT w
  let s := syndromes 2 (syms.map BitVec.toNat ++ [t, t])
  (s.getD 0 0, s.getD 1 0)

/-- R302: none clean, some (some j) correctable at j, some none uncorrectable. -/
def sramClass (w : Nat) (syms : List Byte) : Option (Option Nat) :=
  let (s0, s1) := sramSyndromes w syms
  if s0 = 0 ∧ s1 = 0 then none
  else if s0 = 0 then some none
  else some ((List.range 18).find? (fun j => s1 == gfMul s0 (gfPow j)))

/-- Store bytes in SRAM: the words written hold valid check bytes. -/
def State.sramPut (s : State) (a : Nat) (d : List Byte) : State :=
  { s with mem := { s.mem with
      mem := cellsPut s.mem.mem a d,
      sramChk := (cutWords 16 (d.length + 1) a d).foldl (fun m x => SMap.set 0 m x.1 0) s.mem.sramChk } }

/-- Read bytes of SRAM. -/
def State.sramGet (s : State) (a n : Nat) : List Byte := cellsGet s.mem.mem a n

/-- Initialise whole stacks under R281: zero data and valid check bytes. -/
def MemUnit.initStacks (m : MemUnit) (mask : Nat) : MemUnit :=
  let hit := fun a => decide (a < hbmTop) && bit mask (locate a).stack
  { m with
    mem := cellsClear m.mem hit
    chk := m.chk.filter (fun c => !hit c.1)
    tags := m.tags.filter (fun c => !hit c.1)
    merge := m.merge.filter (fun e => !bit mask e.1) }

/-- Initialise pages under R281. -/
def MemUnit.initPages (m : MemUnit) (p : Nat → Bool) : MemUnit :=
  let hit := fun a => decide (a < hbmTop) && p (pageOf a)
  { m with
    mem := cellsClear m.mem hit
    chk := m.chk.filter (fun c => !hit c.1)
    tags := m.tags.filter (fun c => !hit c.1)
    merge := (m.merge.map (fun e => (e.1, e.2.filter (fun x => !hit x.word)))).filter (fun e => !e.2.isEmpty) }

end Sys2Proof.Machine
end

