-- ==== Sys2Proof/Machine/Ops.lean ====
section
/-! DEFINITION. Operations every unit shares: objects, outputs, fault messages (15 R486 to R500), interrupt events
(15 R508 to R518), package states (00 R12 to R16) and what entering each of them does. -/

namespace Sys2Proof.Machine

/-! ## Objects -/

/-- Write a numeric object. -/
def State.setNum (s : State) (o : Obj) (v : Nat) : State :=
  { s with dict := { s.dict with nums := SMap.set o.dflt s.dict.nums o.key v } }

/-- Add to a counter of w bits. -/
def State.bump (s : State) (o : Obj) (w : Nat := 32) (n : Nat := 1) : State :=
  s.setNum o ((s.num o + n) % 2 ^ w)

/-- The bytes of a STR or BLOB object. -/
def State.blob (s : State) (o : Obj) : List Byte := SMap.get [] s.dict.blobs o.key

/-- Write a STR or BLOB object. -/
def State.setBlob (s : State) (o : Obj) (b : List Byte) : State :=
  { s with dict := { s.dict with blobs := SMap.set [] s.dict.blobs o.key b } }

/-- Remove objects from the store, so that they read as their defaults. -/
def State.dropObjects (s : State) (p : Nat → Bool) : State :=
  { s with dict := { s.dict with
      nums := s.dict.nums.filter (fun e => !p e.1), blobs := s.dict.blobs.filter (fun e => !p e.1) } }

/-! ## Ticks, outputs, free values -/

/-- The tick a message or a record carries: the count, or 0 when none is held (16 R554). -/
def State.now (s : State) : Tick := if s.clk.held then s.clk.tick else 0

/-- Milliseconds and microseconds of the management domain's timer. -/
def State.us (s : State) : Nat := s.pkg.now

/-- NODE_ID, 0 when the package has none (11 Table 11.13). -/
def State.node (s : State) : Node := s.lnk.plumb.ident.getD 0

/-- Send something out of the package. -/
def State.emit (s : State) (m : OutMsg) : State := { s with out := s.out ++ [m] }

/-- Send a message to a node. -/
def State.send (s : State) (dest : Node) (b : Body) : State := s.emit (.send dest b)

/-- Add to the bytes moved. -/
def MovedBytes.add (m : MovedBytes) (hbm sram fabric : Nat) : MovedBytes := { hbm := m.hbm + hbm, sram := m.sram + sram, fabric := m.fabric + fabric }

/-- Bytes moved, in every accounting window that runs (08 R270). -/
def State.tally (s : State) (hbm sram fabric : Nat) : State :=
  { s with ses := { s.ses with movedOwn := s.ses.movedOwn.add hbm sram fabric, movedCov := s.ses.movedCov.add hbm sram fabric } }

/-- A fresh free value (log entry 4). -/
def State.drawNat (s : State) : Nat × State := (Config.freeNat s.free, { s with free := s.free + 1 })

/-- Fresh free bytes (log entry 4). -/
def State.drawBytes (s : State) (n : Nat) : List Byte × State :=
  (fit n (Config.freeBytes s.free n), { s with free := s.free + 1 })

/-- BOND_MEMBER i (0 to 63): the default of the first is the package's own node. -/
def State.bondMember (s : State) (i : Nat) : Node :=
  let v := s.num (O.bondMember i)
  if v = 2 ^ 32 then s.node else BitVec.ofNat 17 v

/-- The bond, in index order (02 R68). -/
def State.bond (s : State) : List Node := (List.range (s.num O.bondCount)).map s.bondMember

/-- Index of a node in the bond. -/
def State.bondIndex (s : State) (n : Node) : Option Nat := (s.bond).findIdx? (· == n)

/-- The twin's node: node XOR 0x8 (13 R427). -/
def State.twinNode (s : State) : Node := s.node ^^^ 8

/-! ## Fault messages -/

/-- Fault sources that have one number (15 Table 15.1). -/
def srcStack (n : Nat) : Nat := 0x180 + n
/-- Credit unit of quarter q. -/
def srcCredit (q : Nat) : Nat := 0x190 + q
/-- Quarter store of quarter q. -/
def srcQuarter (q : Nat) : Nat := 0x194 + q
/-- Fabric requester of quarter q. -/
def srcRequester (q : Nat) : Nat := 0x198 + q
/-- Link port p. -/
def srcPort (p : Nat) : Nat := 0x1A0 + p
/-- Link router. -/
def srcRouter : Nat := 0x1B4
/-- Lintel gateways. -/
def srcLintel : Nat := 0x1B5
/-- Router engine. -/
def srcEngine : Nat := 0x1B6
/-- Course scheduler. -/
def srcSched : Nat := 0x1B7
/-- Course-clock unit. -/
def srcClock : Nat := 0x1B8
/-- Tannery. -/
def srcTannery : Nat := 0x1B9
/-- Security engine. -/
def srcSec : Nat := 0x1BA
/-- Dictionary server. -/
def srcDict : Nat := 0x1BB
/-- Mirror engine. -/
def srcMirror : Nat := 0x1BC
/-- Host bridge. -/
def srcBridge : Nat := 0x1BD
/-- Power and thermal manager. -/
def srcPower : Nat := 0x1BE
/-- Plinth link. -/
def srcPlinth : Nat := 0x1BF
/-- Control core c. -/
def srcControl (c : Nat) : Nat := 0x1C0 + c
/-- FCU. -/
def srcFcu : Nat := 0x1C4
/-- ICX. -/
def srcIcx : Nat := 0x1C5
/-- Hub SRAM. -/
def srcHubSram : Nat := 0x1C6
/-- Pin filters. -/
def srcPins : Nat := 0x3A2

/-- A fault message as its 128 bits (R487, Table 15.2). -/
def FaultMsg.bits (m : FaultMsg) (reaction : Nat) : BitVec 128 :=
  BitVec.ofNat 128 (m.tick.toNat * 2 ^ 80 + m.part % 64 * 2 ^ 74 + m.source % 1024 * 2 ^ 64 + m.kind.toNat * 2 ^ 56 +
    m.cls % 8 * 2 ^ 53 + reaction % 8 * 2 ^ 50 + m.addr.toNat * 2 ^ 3 + m.seq % 8)

/-- ADDRESS of an ashlar instance (R489). -/
def instAddr (inst : Nat) (odd : Bool) : Nat := inst % 2 ^ 20 + b2n odd * 2 ^ 20

/-- Keep the newest entries of a ring. -/
def ringPush {β : Type} (n : Nat) (l : List β) (x : β) : List β := keepLast n (l ++ [x])

/-- ERR_N: assert it (R494). A new assertion is an occasion for NOTIFY (16 R548). -/
def State.assertErr (s : State) : State :=
  if s.pkg.err then s
  else { s with pkg := { s.pkg with err := true, errAt := s.pkg.now, errDue := false }, dict := { s.dict with notifyDue := true }, out := s.out ++ [.errN true] }

/-- Release ERR_N, once it has been held for 10 µs. -/
def State.releaseErr (s : State) : State :=
  if !s.pkg.err then s
  else if s.pkg.now < s.pkg.errAt + 10 then { s with pkg := { s.pkg with errDue := true } }
  else { s with pkg := { s.pkg with err := false, errDue := false }, out := s.out ++ [.errN false] }

/-- Write a message to the VAUX store (R498): an occasion for NOTIFY. -/
def State.vauxStore (s : State) (w : BitVec 128) (cls : Nat) : State :=
  { s with
    fcu := { s.fcu with
      store := ringPush 64 s.fcu.store w
      first := if cls ≥ 3 ∧ s.fcu.first = none then some w else s.fcu.first }
    dict := { s.dict with notifyDue := true, lastStore := some w } }

/-- Map entry of a source: REACT and ERR, REACT3 and ERR3 (R492), held in objects 0x7010 to 0x7017. -/
def State.reactLow (s : State) (src : Nat) : Nat := s.num (O.reactLow src)
/-- The class-3 part of a map entry. -/
def State.reactHigh (s : State) (src : Nat) : Nat := s.num (O.reactHigh src)

/-- ERR_N is to be asserted for a recorded message (R494). -/
def State.errFor (s : State) (src cls : Nat) : Bool :=
  if cls ≥ 4 then true
  else if cls = 3 then bit (s.reactHigh src) 7
  else bit (s.reactLow src) 7

/-- The reaction of the map and the class (R491, R492). -/
def State.reactionOf (s : State) (src cls : Nat) : Nat :=
  if cls ≥ 4 then 5
  else if cls = 3 then Nat.max 4 (s.reactHigh src % 8)
  else Nat.max (if cls = 2 then 3 else 0) (s.reactLow src % 8)

/-- Hub and quarter sources raise nothing in these states, and the management domain records for itself (R500). -/
def PkgState.mgmtOnly (p : PkgState) : Bool := p == .halt || p == .stopped || p == .grave

/-- Raise a fault (R488, R496, R497, R500): the message joins the intake queue, or bypasses it in classes 3 and 4; an
FCU_OVERFLOW joins the messages the FCU writes itself. -/
def State.raise (s : State) (source part kind cls addr : Nat) : State :=
  if s.pkg.st = .off then s
  else if s.pkg.st.mgmtOnly && decide (source < 0x3A0) then s
  else
    let seq := (SMap.get 0 s.fcu.seqs source + 1) % 8
    let m : FaultMsg := {
      tick := s.now, source := source, part := part, kind := BitVec.ofNat 8 kind, cls := cls
      addr := BitVec.ofNat 47 addr, seq := seq
      running := if source < 384 then (SMap.get {} s.cred.cores source).running else none }
    let s := { s with fcu := { s.fcu with seqs := SMap.set 0 s.fcu.seqs source seq } }
    if s.pkg.st.mgmtOnly then
      let s := s.vauxStore (m.bits 0) cls
      if s.errFor source cls then s.assertErr else s
    else if cls ≥ 3 then { s with fcu := { s.fcu with urgent := s.fcu.urgent ++ [m] } }
    else if s.fcu.intake.length < 64 then { s with fcu := { s.fcu with intake := s.fcu.intake ++ [m] } }
    else if cls = 2 then { s with fcu := { s.fcu with heldBack := s.fcu.heldBack ++ [m] } }
    else
      let s := s.bump O.faultsDropped 64
      if s.fcu.overflowed.contains source then s
      else
        let q := (SMap.get 0 s.fcu.seqs srcFcu + 1) % 8
        let o : FaultMsg := { m with source := srcFcu, part := 0, kind := 0x01, cls := 0, addr := BitVec.ofNat 47 source, seq := q }
        { s with fcu := { s.fcu with
            overflowed := s.fcu.overflowed ++ [source], urgent := s.fcu.urgent ++ [o]
            seqs := SMap.set 0 s.fcu.seqs srcFcu q } }

/-! ## Interrupt events -/

/-- Reset CORE of a source (Table 15.8 note). -/
def coreDflt (src : Nat) : Nat :=
  if src = 0 ∨ (2 ≤ src ∧ src ≤ 4) ∨ (0x10 ≤ src ∧ src ≤ 0x13) then 0 else 0xFF

/-- CORE of a source. -/
def State.coreRoute (s : State) (src : Nat) : Nat := SMap.get (coreDflt src) s.icx.core src
/-- HOST_LINE of a source. -/
def State.hostLine (s : State) (src : Nat) : Nat := s.num (O.icxHostLine src)
/-- Set a bit of a 512-bit map. -/
def setBit512 (m : BitVec 512) (i : Nat) (v : Bool) : BitVec 512 :=
  if v then m ||| BitVec.ofNat 512 (2 ^ i) else m &&& ~~~ (BitVec.ofNat 512 (2 ^ i))

/-- A group is held off (R517); group 0 never is. -/
def State.heldOff (s : State) (g : Nat) : Bool := g != 0 && (SMap.find s.icx.holdEnds g).isSome

/-- Start the hold-off of a source's group (R517). -/
def State.startHoldoff (s : State) (src : Nat) : State :=
  let g := src / 16
  let h := s.num (O.icxGroupHoldoff g)
  if g = 0 ∨ h = 0 then s
  else { s with icx := { s.icx with holdEnds := SMap.put s.icx.holdEnds g (s.clk.tick + BitVec.ofNat 48 h) } }

/-- Deliver a host-pending source (R516; 12 R416: a package in no group only clears the bit). -/
def State.hostDeliver (s : State) (src : Nat) : State :=
  if s.icx.hpend.getLsbD src then
    let line := s.hostLine src
    let s := { s with icx := { s.icx with hpend := setBit512 s.icx.hpend src false } }
    let s := if s.num O.groupCount = 0 then s else s.send (BitVec.ofNat 17 (s.num (O.groupMember 0))) (.hostIrq line)
    s.startHoldoff src
  else s

/-- The two effects of an event (R510), then delivery to the host when nothing holds it off (R516). -/
def State.icxFire (s : State) (src : Nat) : State :=
  let core := s.coreRoute src != 0xFF && s.icx.en.getLsbD src
  let host := s.hostLine src != 0xFF
  let s := { s with icx := { s.icx with
      pend := if core then setBit512 s.icx.pend src true else s.icx.pend
      hpend := if host then setBit512 s.icx.hpend src true else s.icx.hpend } }
  if host && (decide (src < 5) || !s.heldOff (src / 16)) then s.hostDeliver src else s

/-- An underlying event of a source: sources 0 to 4 coalesce (R518). -/
def State.icxApply (s : State) (src : Nat) : State :=
  if src < 5 then
    let c := SMap.get 0 s.icx.coalCount src + 1
    let lim := s.num (O.icxCoalesce src) / 65536 % 256
    if c ≥ lim then
      { s with icx := { s.icx with coalCount := SMap.set 0 s.icx.coalCount src 0, coalFirst := SMap.del s.icx.coalFirst src } }.icxFire src
    else
      { s with icx := { s.icx with
          coalCount := SMap.set 0 s.icx.coalCount src c
          coalFirst := if c = 1 then SMap.put s.icx.coalFirst src s.clk.tick else s.icx.coalFirst } }
  else s.icxFire src

/-- An event of a source (R510): latched while the hub dozes (R520), nothing while the hub is held in reset or halted. -/
def State.icxEvent (s : State) (src : Nat) : State :=
  if s.pkg.st = .off ∨ s.pkg.st.mgmtOnly then s
  else if s.icx.doze then { s with icx := { s.icx with latch := setBit512 s.icx.latch src true } }
  else s.icxApply src

/-! ## Ports -/

/-- A port's running state. -/
def State.port (s : State) (p : Nat) : PortRt := SMap.get {} s.lnk.ports p
/-- Replace a port's running state. -/
def State.setPort (s : State) (p : Nat) (r : PortRt) : State := { s with lnk := { s.lnk with ports := SMap.set {} s.lnk.ports p r } }

/-- Width a port sends on, WIDTH of Table 11.13 (log entry 40). -/
def PortRt.width (r : PortRt) : Nat := popcount 8 r.txLanes.toNat

/-- Replace a port's state; a change of PORT_STATE or WIDTH raises the port's event (15 Table 15.7). -/
def State.putPort (s : State) (p : Nat) (r : PortRt) : State :=
  let old := s.port p
  let s := s.setPort p r
  if old.st = r.st ∧ old.width = r.width then s else s.icxEvent (0x090 + p)

/-- A port back in DOWN: what it held is lost but for packets not yet begun, which the router sends elsewhere (11 R353, R376). -/
def PortRt.down (r : PortRt) : PortRt :=
  { tried := r.tried, vcs := (r.vcs.filter (fun e => e.2.queue != [])).map (fun e => (e.1, { queue := e.2.queue })) }

/-- The eye scan's ports train again, where they are enabled (17 R580). -/
def State.freeScanned (s : State) : State :=
  (onBits 19 (s.num O.escanPorts)).foldl (fun t p =>
    let r := (t.port p).down
    t.putPort p (if t.num (O.portPortEnable p) = 0 then { r with st := .disabled } else r)) s

/-- MIRROR_STATE changes: an event of TWIN_EVENT (15 Table 15.7). -/
def State.setMirror (s : State) (st : MirrorState) : State :=
  let t := { s with mir := { s.mir with st := st } }
  if s.mir.st = st then t else t.icxEvent 0x003

/-! ## Package states (Table 0.5) -/

/-- Table 0.5: the package may move from a to b. STOPPED to GRAVE is the model's choice (log entry 8): the GRAVE row enters from any
state except OFF, while the STOPPED row and R14 leave STOPPED for HALT or OFF alone. -/
def edge (a b : PkgState) : Bool :=
  match b with
  | .off => a != .off
  | .halt => a != .grave && a != .halt
  | .boot => a == .halt
  | .align => a == .boot
  | .ready => a == .align || a == .drained
  | .serving => a == .ready || a == .covering
  | .draining => a == .serving || a == .covering
  | .drained => a == .draining || a == .ready
  | .covering => a == .ready || a == .serving
  | .stopped => a != .off && a != .grave && a != .stopped
  | .grave => a != .off && a != .grave

/-- The order of R16. -/
def PkgState.rank : PkgState → Nat
  | .off => 0
  | .grave => 1
  | .stopped => 2
  | .halt => 3
  | .draining => 4
  | .covering => 5
  | .drained => 6
  | .serving => 7
  | .ready => 8
  | .align => 9
  | .boot => 10

/-- The code of Table 0.5. -/
def PkgState.code : PkgState → Nat
  | .off => 0
  | .halt => 1
  | .boot => 2
  | .align => 3
  | .ready => 4
  | .serving => 5
  | .draining => 6
  | .drained => 7
  | .covering => 8
  | .stopped => 9
  | .grave => 10

/-- Objects that the management domain holds through a chip reset (16 R537, R554; 15 R498, R503). -/
def vauxHeld (key : Nat) : Bool := key / 256 == 0x1001 || key / 256 == 0x1011 || key / 256 == 0x1012 || key / 256 == 0x7001

/-- One past the last byte of some tensors of a copy. -/
def Copy.top (c : Copy) (p : Placed → Bool) : Nat := (c.placed.filter p).foldl (fun a x => Nat.max a (x.offset + x.bytes)) 0

/-- First 2 MiB boundary after the last tensor byte of the own part (R322). -/
def Copy.templateBase (c : Copy) : Nat := roundUp (c.top (fun p => !p.part)) 0x200000

/-- The segments of a copy in the order they lie in its own part, each with the area it is relocated against (R322, R323). -/
def Copy.segments (c : Copy) : List (Segment × Option Nat) :=
  (c.ownSeg.map (fun g => (g, c.own))).toList ++ (c.draftSeg.map (fun g => (g, c.own))).toList ++ (c.twinSeg.map (fun g => (g, c.twin))).toList

/-- Bytes of a copy's templates. -/
def Copy.templateBytes (c : Copy) : Nat := sumNat (c.segments.map (fun g => g.1.bytes.length))

/-- Bytes of a part of a copy, from its base on: false the own part, to the end of its templates; true the twin part. -/
def Copy.extent (c : Copy) (part : Bool) : Nat :=
  if part then c.top (·.part) else if c.segments.isEmpty then c.top (fun p => !p.part) else c.templateBase + c.templateBytes

/-- The runs of bytes a copy has: part, offset, bytes. -/
def Copy.runs (c : Copy) : List (Bool × Nat × Nat) :=
  c.placed.map (fun p => (p.part, p.offset, p.bytes)) ++ (if c.segments.isEmpty then [] else [(false, c.templateBase, c.templateBytes)])

/-- A copy has a byte in a page of a set. -/
def Copy.inPages (c : Copy) (pages : Nat → Bool) (areas : Nat → Nat × Nat) : Bool :=
  c.runs.any (fun r => match (if r.1 then c.twin else c.own) with
    | none => false
    | some i => decide (0 < r.2.2) &&
      (List.range ((r.2.1 + r.2.2 - 1) / 0x200000 + 1 - r.2.1 / 0x200000)).any (fun k => pages ((areas i).1 + r.2.1 / 0x200000 + k)))

/-- First page and pages of weight area i (10 Table 10.8; 1-based object, 0-based here). -/
def State.area (s : State) (i : Nat) : Nat × Nat :=
  let v := s.num (O.weightArea i)
  (bits v 17 0, bits v 35 18)

/-- Copies with a byte in some page become absent (09 R281, R312). -/
def State.loseCopies (s : State) (pages : Nat → Bool) : State :=
  let f := fun (c : Copy) => if c.st != .absent && c.inPages pages s.area then ({} : Copy) else c
  { s with wts := { s.wts with k0 := f s.wts.k0, k1 := f s.wts.k1 } }

/-- A memory page has a word on one of the stacks of a mask: its home quarter's four stacks. -/
def pageOnStacks (mask : Nat) (p : Nat) : Bool := (mask / 2 ^ (4 * (p % 4))) % 16 != 0

/-- What the end of a margining does to the tested stacks (R312). -/
def State.afterMargin (s : State) : State :=
  let mask := s.mem.marginMask.toNat
  let s := { s with mem := { s.mem.initStacks mask with marginMask := 0 }, pwr := { s.pwr with vmemSet := 1100, cmd := if s.pwr.vmemSet = 1100 then s.pwr.cmd else 1 } }
  s.loseCopies (pageOnStacks mask)

/-- A state transition aborts a running intrusive test. -/
def State.abortTests (s : State) : State :=
  let s := if s.num O.marginState = 1 then (s.setNum O.marginState 3).afterMargin else s
  let s := if s.num O.escanState = 1 then (s.setNum O.escanState 3).freeScanned else s
  if s.num O.fbistState = 1 then s.setNum O.fbistState 3 else s

/-- What a chip reset, or entry to HALT by any way, does to the hub and the quarters: they return to their reset state. HBM
and SRAM keep their bytes (HBM is written anew in BOOT), open merge entries are lost (R293); the management domain, the
flash die and the fuses keep theirs. -/
def State.hubReset (s : State) : State :=
  { s with
    clk := {}, crs := {}, cred := {}, eng := {}, ses := {}, wts := {}, lnk := {}, fab := {}, mir := {}, pwr := {}, icx := {}
    mem := { mem := s.mem.mem, chk := s.mem.chk, tags := s.mem.tags, sramChk := s.mem.sramChk }
    fcu := { store := s.fcu.store, first := s.fcu.first, resets := s.fcu.resets, seqs := s.fcu.seqs.filter (fun e => decide (e.1 ≥ 0x3A0)) }
    dict := { s.dict with
      nums := s.dict.nums.filter (fun e => vauxHeld e.1), blobs := s.dict.blobs.filter (fun e => vauxHeld e.1)
      results := s.dict.results.filter (fun e => vauxHeld e.1), server := .stopped, window := [], imaging := none }
    sec := { s.sec with
      job := none, stage := .rom, lock := false, fallback := false, calDefaults := false, calUse := [], ksMode := 0, ksUsed := none
      attest := none, ksFirmware := [], rtFirmware := [] } }

/-- What loss of VAUX leaves: the flash die and the fuses (01 R23; 17 R555, R559). -/
def State.powerLost (s : State) : State :=
  { s with
    pkg := { st := .off, vaux := false, resetN := s.pkg.resetN, pwrGood := s.pkg.pwrGood, coolOk := s.pkg.coolOk }
    clk := {}, crs := {}, cred := {}, eng := {}, ses := {}, mem := {}, wts := {}, lnk := {}, fab := {}, mir := {}, pwr := {}
    fcu := {}, icx := {}, dict := {}
    sec := { s.sec with
      job := none, stage := .rom, lock := false, slotB := false, fallback := false, calDefaults := false, calUse := [], ksMode := 0, ksUsed := none
      attest := none, ksFirmware := [], rtFirmware := [], commitSvn := false, imageSvn := 0 } }

/-- Fence the engines (15 R501): the rein of every quarter is 0. -/
def State.fence (s : State) : State :=
  { s with pwr := { s.pwr with reins := (List.range 4).map (fun q => (q, { level := 0, source := 0 })) } }

/-- A slot's copy. -/
def WeightUnit.copy (w : WeightUnit) (k : Nat) : Copy := if k = 0 then w.k0 else w.k1
/-- Replace a slot's copy. -/
def WeightUnit.setCopy (w : WeightUnit) (k : Nat) (c : Copy) : WeightUnit := if k = 0 then { w with k0 := c } else { w with k1 := c }

/-- A load runs. -/
def LoadState.runs (l : LoadState) : Bool := l == .active || l == .twinWait || l == .twinPhase

/-- The end of a load by a failure (10 R327): status, detail, the slot ABSENT. -/
def State.abortLoad (s : State) (status detail : Nat) : State :=
  if !s.wts.load.runs then s
  else
    let s := (s.setNum O.loadStatus status).setNum O.loadDetail detail
    let w := s.wts
    let s := { s with wts := { w.setCopy w.slot {} with load := .refused, posts := [], converted := [], tensors := [] } }
    s.icxEvent 0x071

/-- A message of class 2 to 4 that has reached the FCU and whose reaction a reset or a stop forestalls is recorded with REACTION 0
(15 R498, R499). -/
def State.saveFault (s : State) (m : FaultMsg) : State :=
  let t := s.vauxStore (m.bits 0) m.cls
  if t.errFor m.source m.cls then t.assertErr else t

/-- The messages of classes 2 to 4 in the FCU at entry to HALT: of those that wait there, only classes 0 and 1 are lost (R498; log entry
61). -/
def State.saveFaults (s : State) : State :=
  ((s.fcu.urgent ++ s.fcu.intake ++ s.fcu.heldBack).filter (fun m => decide (m.cls ≥ 2))).foldl State.saveFault s

/-- Entry to a state: what the rules tie to the entry itself. The entry to HALT resets the hub, the entry to OFF loses VAUX,
STOPPED and GRAVE stop the dictionary server, fence the engines, lose the open merge entries and abandon the outstanding fabric requests
(12 R410). -/
def State.enter (s : State) (t : PkgState) : State :=
  let s := s.abortTests
  let s := match t with
    | .off => s.powerLost
    | .halt => s.saveFaults.hubReset
    | .stopped | .grave =>
      let s := s.abortLoad 0x0C 0
      { s.fence with
        dict := { s.dict with server := .stopped, window := [] }
        mem := { s.mem with merge := [] }
        fab := { s.fab with outs := [], ctlWait := [], held := [], hostOps := [] } }
    | _ => s
  let occasion := t != .off
  { s with
    pkg := { s.pkg with
      st := t
      since := if t = .off then 0 else s.now
      everReady := s.pkg.everReady && t != .halt || t == .ready }
    dict := { s.dict with notifyDue := s.dict.notifyDue || occasion } }

/-- The transition a rule calls for (R12, R16). A transition taken earlier in the tick stands against another that the tick's
first state also allowed, unless the new target comes first in R16's order; a transition that only the present state
allows belongs to a later tick (log entry 8). A waiting STATE_REQUEST whose target comes first discards this one. -/
def State.transition (s : State) (t : PkgState) : State :=
  let p := s.pkg
  match p.taken with
  | some t0 =>
    if edge p.tickStart t then
      if t.rank < t0.rank && edge p.st t then { s.enter t with pkg := { (s.enter t).pkg with taken := some t, tickStart := p.tickStart } } else s
    else if edge p.st t then
      { s.enter t with pkg := { (s.enter t).pkg with tickStart := p.st, taken := some t } }
    else s
  | none =>
    let outranked := match p.request with
      | some r => edge p.st r && decide (r.rank < t.rank)
      | none => false
    if edge p.st t && !outranked then
      { s.enter t with pkg := { (s.enter t).pkg with tickStart := p.st, taken := some t } }
    else s

/-- At the end of a tick a STATE_REQUEST is discarded when another transition of the tick comes first in R16's order, or when the
tick's declaration of the twin's failure has begun a takeover, which comes before all targets but DRAINING (R16). -/
def State.settleRequest (s : State) : State :=
  let p := s.pkg
  let drop := { s with pkg := { p with request := none } }
  match p.request with
  | none => s
  | some r =>
    let beaten := match p.taken with
      | some t0 => !(edge p.tickStart r && edge p.st r && decide (r.rank < t0.rank))
      | none => false
    if beaten || (p.declared && decide (PkgState.covering.rank < r.rank)) then drop else s

/-- A tick boundary has passed since the last transition (R16): the pin filters and boot delays that lead to a transition outlast a
tick. The requests queued in the tick have been served (16 R543; log entry 54). -/
def State.newTick (s : State) : State :=
  { s with pkg := { s.pkg with tickStart := s.pkg.st, taken := none, declared := false }, dict.queued := 0 }

/-- The package runs courses: SERVING, COVERING or DRAINING. -/
def PkgState.runs (p : PkgState) : Bool := p == .serving || p == .covering || p == .draining

/-- The hub runs: every state from BOOT on that is not STOPPED or GRAVE. -/
def PkgState.hubRuns (p : PkgState) : Bool := !(p == .off || p == .halt || p == .stopped || p == .grave)

/-- CLOCK_STATE changed, and the events of Table 15.7 for a change of clock fields. -/
def State.clockEvent (s : State) (n : Nat) : State := s.icxEvent (0x060 + n)

/-! ## Pulls of fields out of bytes -/

/-- Little-endian U16, U32, U64 at an offset. -/
def u16 (l : List Byte) (o : Nat) : Nat := fieldLe l o 2
/-- Little-endian U32. -/
def u32 (l : List Byte) (o : Nat) : Nat := fieldLe l o 4
/-- Little-endian U64. -/
def u64 (l : List Byte) (o : Nat) : Nat := fieldLe l o 8
/-- U8. -/
def u8 (l : List Byte) (o : Nat) : Nat := (l.getD o 0).toNat

/-- The local part of a fabric address (01 R24). -/
def localOf (a : Nat) : Nat := a % 2 ^ 47
/-- The node part of a fabric address. -/
def nodeOf (a : Nat) : Node := BitVec.ofNat 17 (a / 2 ^ 47)
/-- A fabric address. -/
def fabAddr (n : Node) (l : Nat) : W64 := BitVec.ofNat 64 (n.toNat * 2 ^ 47 + l % 2 ^ 47)

end Sys2Proof.Machine
end

