-- ==== Sys2Proof/Machine/Merge.lean ====
section
/-! DEFINITION. What an HBM controller does with a word it reads (09_stacked_memory.md R284 to R300, R310), the merge buffer
(R290 to R293), and memory as the engines reach it. -/

namespace Sys2Proof.Machine

/-! ## Lost shards (13 R448) -/

/-- A session takes an end reason, which applies at the next close (08 R249). -/
def Session.because (x : Session) (code : Nat) : Session := if x.reasons.contains code then x else { x with reasons := x.reasons ++ [code] }

/-- Give an end reason to the sessions a condition selects. -/
def State.endSessions (s : State) (p : Nat → Session → Bool) (code : Nat) : State :=
  { s with ses := { s.ses with
      table := s.ses.table.map (fun e => if e.2.st != .free && p e.1 e.2 then (e.1, e.2.because code) else e) } }

/-- The bond of the twin as its image gives it. -/
def State.twinBond (s : State) : List Node :=
  let nums := if s.mir.covered.isSome then s.mir.coverNums else s.mir.image.nums
  (List.range (SMap.get 1 nums O.bondCount.key)).map (fun i =>
    let o := O.bondMember i
    let v := SMap.get o.dflt nums o.key
    if v = 2 ^ 32 then s.twinNode else BitVec.ofNat 17 v)

/-- A shard becomes unavailable on node n (R448): SHARD_DOWN to the members of n's bond, SHARD_LOST, the end of the shard's
sessions held here, and DRAINING when the shard is the package's own. -/
def State.shardLost (s : State) (n : Node) (members : List Node) (covered : Bool) : State :=
  let s := (members.filter (fun m => m != s.node)).foldl (fun t m => t.send m (.shardDown n)) s
  let s := (s.raise srcMirror 0 0x73 2 n.toNat).icxEvent 0x004
  let s := s.endSessions (fun _ x => x.covered == covered) 0x21
  if n = s.node then s.transition .draining else s

/-! ## Error records and counters (R310) -/

/-- Write a record to the HBM error log (Table 9.5). -/
def State.hbmRecord (s : State) (w typ source syn : Nat) : State :=
  let x := locate w
  let seq := s.mem.logSeq + 1
  let r := leBytes 8 s.now.toNat ++ leBytes 8 w ++ leBytes 1 x.stack ++ leBytes 1 x.pch ++ leBytes 1 x.bank ++ leBytes 1 typ ++
    leBytes 2 x.row ++ leBytes 1 x.col ++ leBytes 1 source ++ leBytes 4 syn ++ leBytes 4 seq.toNat
  { s with mem := { s.mem with log := ringPush 256 s.mem.log r, logSeq := seq } }.icxEvent 0x0B0

/-- A fault of the controller of a word, naming its local address. -/
def State.memFault (s : State) (w kind cls : Nat) : State := s.raise (srcStack (locate w).stack) (locate w).pch kind cls w

/-! ## One reading of a word -/

/-- The 36 stored symbols the array returned for a word: those stored at the address it selected, with what changed. -/
def State.rawSymbols (s : State) (w : Nat) (r : RawRead) : List Byte :=
  let p := r.place.getD w / 32 * 32
  let syms := s.checksOf p ++ s.mem.word p
  r.flips.foldl (fun l f => setAt l f.1 (l.getD f.1 0 ^^^ f.2)) syms

/-- A reading as the controller classifies it (R284, R286): the outcome, the syndrome word of the log, the data. -/
structure Reading where
  cls : ReadClass
  syn : Nat
  data : List Byte
  deriving DecidableEq, Repr

/-- Classify what the array returned for a word. -/
def State.reading (s : State) (w : Nat) (r : RawRead) : Reading :=
  let syms := s.rawSymbols w r
  let d := syms.drop 4
  let l := (locate w).l
  match s.pageClass (pageOf w) with
  | .activation =>
    let got := u16 syms 0
    let want := actCrc l d (BitVec.ofNat 16 (u16 syms 2))
    if got = want then ⟨.clean, 0, d⟩ else ⟨.crcBad (got ^^^ want), got ^^^ want, d⟩
  | _ =>
    let c := classify l syms
    let syn := c.2.foldr (fun x acc => acc * 256 + x) 0
    match c.1 with
    | .correctable j e => ⟨c.1, syn, if j < 4 then d else setAt d (j - 4) (d.getD (j - 4) 0 ^^^ BitVec.ofNat 8 e)⟩
    | k => ⟨k, syn, d⟩

/-- The outcome lets the word be delivered. -/
def ReadClass.good : ReadClass → Bool
  | .clean => true
  | .correctable _ _ => true
  | _ => false

/-- What the requester of a word gets. -/
inductive Delivery where
  | bytes (d : List Byte)
  | poisoned
  | nothing
  | waits
  deriving DecidableEq, Repr

/-- Deliver a correctable word (R295): counted, written back, re-read once; the log record is sticky when the re-read shows
the same error. -/
def State.correctWord (s : State) (w source : Nat) (r : Reading) (again : RawRead) : State :=
  let s := (s.bump O.hbmCorrected 64).storeWord w r.data 0
  let sticky := match r.cls with
    | .correctable _ _ => (s.reading w again).cls == r.cls && (s.reading w again).syn == r.syn
    | _ => false
  s.hbmRecord w (if sticky then 1 else 0) source r.syn

/-- Store a word poisoned, counted and logged (R298, R310). -/
def State.poisonWord (s : State) (w : Nat) (d : List Byte) (source : Nat) : State :=
  ((s.storePoison w d (s.mem.tag w)).bump O.poisoned 32).hbmRecord w 6 source 0

/-- Base address of an area, 0 when the copy has none. -/
def State.areaBase (s : State) (a : Option Nat) : Nat := match a with | none => 0 | some i => (s.area i).1 * 0x200000

/-- The copy and part (false own, true twin) a word lies in: the copy, the part, and the part's base address. -/
def State.copyAt (s : State) (w : Nat) : Option (Copy × Bool × Nat) :=
  let look := fun (c : Copy) => [false, true].findSome? (fun part =>
    let area := if part then c.twin else c.own
    let base := s.areaBase area
    if area.isSome ∧ base ≤ w ∧ w < base + c.extent part then some (c, part, base) else none)
  (look s.wts.k0).or (look s.wts.k1)

/-- The shard of a WEIGHTS word has no good twin copy (R297): MEM_UNRECOVERED and the path of R448, for the covered node when the word
lies in a twin part that this package covers from. -/
def State.unrecovered (s : State) (w : Nat) : State :=
  let t := s.memFault w 0x42 2
  match s.copyAt w, s.mir.covered with
  | some (_, true, _), some n => if s.pkg.st = .covering then t.shardLost n s.twinBond true else t.shardLost s.twinNode s.twinBond true
  | some (_, true, _), none => t.shardLost s.twinNode s.twinBond true
  | _, _ => t.shardLost s.node s.bond false

/-- TYPE of the log record of a reading that is not to be delivered (Table 9.5). -/
def ReadClass.badType : ReadClass → Nat
  | .crcBad _ => 4
  | .addrType => 3
  | _ => 2

/-- A word both of whose readings are uncorrectable (R296, R300). -/
def State.badWord (s : State) (w source : Nat) (who : Option Requester) (r r2 : Reading) : Delivery × State :=
  let addrType := r.cls == .addrType && r2.cls == .addrType
  match s.pageClass (pageOf w) with
  | .activation => (.nothing, (s.bump O.actCrc).memFault w 0x43 3)
  | c =>
    let s := s.bump O.hbmUncorrectable 64
    let ch := (locate w).stack * 32 + (locate w).pch
    let second := addrType && (match SMap.find s.mem.addrEvents ch with
      | some t => decide (Tick.since s.clk.tick t ≤ 1000000)
      | none => false)
    let s := if addrType then s.bump O.addrType else s
    if second then (.nothing, s.memFault w 0x44 3)
    else
      let s := if addrType then { s with mem := { s.mem with addrEvents := SMap.put s.mem.addrEvents ch s.clk.tick } } else s
      match c with
      | .weights =>
        match s.copyAt w with
        | none => (.poisoned, (s.poisonWord w r.data source).unrecovered w)
        | some (k, part, base) =>
          let g := w / 256 * 256
          let asked := s.mem.waits.any (fun x => x.word / 256 * 256 == g)
          let x : TwinWait := { who := who, word := w, source := source }
          let s := if s.mem.waits.contains x then s else { s with mem := { s.mem with waits := s.mem.waits ++ [x] } }
          (.waits, if asked then s else s.send s.twinNode (.twinFetch k.epoch part (s.areaBase k.own) (s.areaBase k.twin) (g - base)))
      | _ => (.poisoned, (s.poisonWord w r.data source).memFault w 0x41 1)

/-- A controller reads a word (R284, R295, R296): `first` and `again` are what the array returns. `source` is the log's: 0 read,
1 read-modify-write, 2 scrub; a re-read is 3. Every uncorrectable reading is recorded (R310). -/
def State.readPath (s : State) (w source : Nat) (who : Option Requester) (first again : RawRead) : Delivery × State :=
  let s := s.tally 32 0 0
  let r := s.reading w first
  match r.cls with
  | .clean => (.bytes r.data, s)
  | .correctable _ _ => (.bytes r.data, s.correctWord w source r again)
  | _ =>
    let s := s.hbmRecord w r.cls.badType source r.syn
    let r2 := s.reading w again
    match r2.cls with
    | .clean => (.bytes r2.data, (s.bump O.hbmRetryOk 64).memFault w 0x40 0)
    | .correctable _ _ => (.bytes r2.data, ((s.bump O.hbmRetryOk 64).memFault w 0x40 0).correctWord w 3 r2 { flips := again.after })
    | _ => (s.hbmRecord w r2.cls.badType 3 r2.syn).badWord w source who r r2

/-! ## The merge buffer -/

/-- Remove a word's entry. -/
def State.dropEntry (s : State) (w : Nat) : State :=
  let st := (locate w).stack
  { s with mem := s.mem.setEntries st ((s.mem.entries st).filter (fun e => e.word != w)) }

/-- Store a word whose read-modify-write found it unrecoverable: the merged word, poisoned (R293). -/
def State.storeMerged (s : State) (e : MergeEntry) : State :=
  (s.dropEntry e.word).storePoison e.word (overlay (s.mem.word e.word) e) (partialTag e.tag)

/-- Write an entry by read-modify-write (R291, R293). While the twin is asked for a WEIGHTS word the entry stays open. -/
def State.flushEntry (s : State) (e : MergeEntry) (first again : RawRead) : State :=
  match s.readPath e.word 1 none first again with
  | (.bytes d, t) => (t.dropEntry e.word).storeWord e.word (overlay d e) (partialTag e.tag)
  | (.waits, t) => t
  | (.poisoned, t) => t.storeMerged e
  | (.nothing, t) => ((t.storeMerged e).bump O.poisoned 32).hbmRecord e.word 6 1 0

/-- An entry waits for the twin. -/
def MemUnit.asks (m : MemUnit) (e : MergeEntry) : Bool := m.waits.any (fun x => x.word == e.word && x.source == 1)

/-- Open an entry, the oldest written first when all 64 are in use (R291): the oldest that does not wait for its twin. When all wait, the
new entry is written at once. -/
def State.openEntry (s : State) (e : MergeEntry) : State :=
  let st := (locate e.word).stack
  let add := fun (t : State) => { t with mem := t.mem.setEntries st (t.mem.entries st ++ [e]) }
  if (s.mem.entries st).length < 64 then add s
  else
    let t := (s.mem.entries st).foldl (fun (u : State) x =>
      if (u.mem.entries st).length < 64 || u.mem.asks x then u else u.flushEntry x {} {}) s
    if (t.mem.entries st).length < 64 then add t else t.flushEntry e {} {}

/-- One write into one word (R290 to R292): `d` at byte `off`. -/
def State.writeWord (s : State) (w off : Nat) (d : List Byte) (tag : BitVec 16) : State :=
  if off = 0 ∧ d.length = 32 then (s.dropEntry w).storeWord w d tag
  else
    let old : MergeEntry := (s.mem.entryOf w).getD { word := w, data := zeros 32 }
    let e : MergeEntry := {
      word := w, tag := tag, data := patch old.data off d
      mask := old.mask ||| BitVec.ofNat 32 ((2 ^ d.length - 1) * 2 ^ off) }
    if e.mask = 0xFFFFFFFF then (s.dropEntry w).storeWord w e.data tag
    else if (s.mem.entryOf w).isSome then
      let st := (locate w).stack
      { s with mem := s.mem.setEntries st ((s.mem.entries st).map (fun x => if x.word == w then e else x)) }
    else s.openEntry e

/-- Write bytes to HBM, word by word. -/
def State.hbmPut (s : State) (a : Nat) (d : List Byte) (tag : BitVec 16) : State :=
  (cutWords 32 (d.length + 1) a d).foldl (fun t x => t.writeWord x.1 x.2.1 x.2.2 tag) (s.tally d.length 0 0)

/-- Write every open entry of a stack (R293). -/
def State.flushStack (s : State) (st : Nat) : State := (s.mem.entries st).foldl (fun t e => t.flushEntry e {} {}) s

/-- Write every open entry. -/
def State.flushAll (s : State) : State := (List.range 16).foldl State.flushStack s

/-! ## Either memory, as an engine reaches it by local address -/

/-- PARITY of the course whose start tick passed last (R287); 0 before the first course. -/
def State.oddNow (s : State) : Bool := s.crs.lastOdd

/-- Every entry of the merge buffers is written. -/
def State.allFlushed (s : State) : Bool := s.mem.merge.all (fun e => e.2.isEmpty)

/-- Words of HBM in some runs of bytes that read as uncorrectable. -/
def State.badIn (s : State) (l : List (Nat × Nat)) : List Nat :=
  (l.flatMap (fun x => if space x.1 = .hbm then
    ((cutWords 32 (x.2 + 1) x.1 (zeros x.2)).map (·.1)).filter (fun w => (s.readWord w).2) else [])).eraseDups

/-- Bytes of some runs that lie in HBM, or in SRAM. -/
def bytesIn (sp : Space) (l : List (Nat × Nat)) : Nat := sumNat ((l.filter (fun x => space x.1 == sp)).map (·.2))

/-- Each word of some runs of bytes that reads as uncorrectable takes the path of R296. -/
def State.badPaths (s : State) (l : List (Nat × Nat)) : State :=
  ((s.badIn l).filter (fun w => !s.mem.lost.contains w)).foldl (fun t w => (t.readPath w 0 none {} {}).2) s

/-- The bytes of some runs are counted as read (08 R270). -/
def State.tallyReads (s : State) (l : List (Nat × Nat)) : State := s.tally (bytesIn .hbm l) (bytesIn .sram l) 0

/-- An engine reads runs of bytes. -/
def State.readBad (s : State) (l : List (Nat × Nat)) : State := (s.badPaths l).tallyReads l

/-- The reader of a word gets nothing yet: an activation word that failed its CRC, or a WEIGHTS word whose twin is asked (R296). -/
def State.withheld (s : State) (w : Nat) : Bool :=
  match s.pageClass (pageOf w) with
  | .activation => true
  | .weights => (s.copyAt w).isSome && !s.mem.lost.contains w
  | .state => false

/-- Read n bytes of HBM or SRAM, with poison. -/
def State.peek (s : State) (a n : Nat) : List Byte × Bool :=
  if space a = .sram then (s.sramGet a n, false) else s.hbmGet a n

/-- Write bytes with the PARITY of a course and a SCALE_EXP (R287). -/
def State.pokeAs (s : State) (odd : Bool) (scaleExp a : Nat) (d : List Byte) : State :=
  if space a = .sram then (s.sramPut a d).tally 0 d.length 0 else s.hbmPut a d (mkTag odd scaleExp)

/-- Write bytes with META of the current course and no scale (R287). -/
def State.poke (s : State) (a : Nat) (d : List Byte) : State := s.pokeAs s.oddNow 0 a d

/-- SCALE_EXP of an A8 row with its scale beside it: bits 30 to 23 of the scale (R287). -/
def scaleExpOf (l : List Byte) : Nat := bits (u32 l (l.length - 4)) 30 23

/-- Read a little-endian number. -/
def State.peekLe (s : State) (a n : Nat) : Nat := ofLe (s.peek a n).1

end Sys2Proof.Machine
end

