-- ==== Sys2Proof/Machine/DictBase.lean ====
section
/-! DEFINITION. The checks of a dictionary write (16 R525 to R528, R533 to R537, Table 16.4), the stored set (R530, R531), and
the record of its outcome (R553). The effects of the owning rules are in the family files and in ObjectWrite.lean. -/

namespace Sys2Proof.Machine

/-! ## Error codes (16 Table 16.5) -/

namespace Err
/-- OK. -/
def ok : Nat := 0
/-- NO_OBJECT. -/
def noObject : Nat := 1
/-- NO_SUBINDEX. -/
def noSubindex : Nat := 2
/-- READ_ONLY. -/
def readOnly : Nat := 3
/-- WRITE_ONLY. -/
def writeOnly : Nat := 4
/-- ACCESS. -/
def access : Nat := 5
/-- KEYSTONE. -/
def keystone : Nat := 6
/-- NOT_DRAINED. -/
def notDrained : Nat := 7
/-- TYPE. -/
def type : Nat := 8
/-- RANGE. -/
def range : Nat := 9
/-- UNAVAILABLE. -/
def unavailable : Nat := 0xA
/-- BUSY. -/
def busy : Nat := 0xB
/-- SEGMENT. -/
def segment : Nat := 0xC
/-- TICK_PAST. -/
def tickPast : Nat := 0x10
/-- TICK_FAR. -/
def tickFar : Nat := 0x11
/-- HOLDOVER. -/
def holdover : Nat := 0x12
/-- HOD_ENABLED. -/
def hodEnabled : Nat := 0x13
/-- REGION_OVERLAP. -/
def regionOverlap : Nat := 0x14
/-- AREA. -/
def area : Nat := 0x15
/-- EPOCH. -/
def epoch : Nat := 0x16
/-- NOT_SERVING_STATE. -/
def notServingState : Nat := 0x17
/-- NOT_READY. -/
def notReady : Nat := 0x18
/-- SWITCH_PENDING. -/
def switchPending : Nat := 0x19
/-- WINDOW. -/
def window : Nat := 0x1A
/-- STATE. -/
def state : Nat := 0x1B
/-- NO_TWIN. -/
def noTwin : Nat := 0x1C
/-- RACK_SILENT. -/
def rackSilent : Nat := 0x1D
/-- SPLICE_PENDING. -/
def splicePending : Nat := 0x20
/-- SPLICE_STATE. -/
def spliceState : Nat := 0x21
/-- SPLICE_ALIGN. -/
def spliceAlign : Nat := 0x22
/-- SPLICE_DRAFT. -/
def spliceDraft : Nat := 0x23
/-- SPLICE_LIMIT. -/
def spliceLimit : Nat := 0x24
end Err

/-! ## Types and ranges (R525) -/

/-- Bytes of a numeric type code. -/
def typeBytes (ty : Nat) : Nat :=
  match ty with
  | 1 => 1
  | 2 => 2
  | 4 => 8
  | 7 => 8
  | _ => 4

/-- The object is a STR or a BLOB. -/
def ObjRow.isBytes (r : ObjRow) : Bool := decide (r.ty ≥ 8)

/-- A power of two within bounds. -/
def isPow2 (v : Nat) : Bool := v != 0 && 2 ^ Nat.log2 v == v

/-- A numeric value lies within its object's own Range, taken alone or against the objects it names (R525, R527 check 6).
The bits of an F32 of the same sign order as the numbers do. -/
def State.inRange (s : State) (r : ObjRow) (key v : Nat) : Bool :=
  (if r.ty = 6 then decide (v % 2 ^ 31 ≤ 0x7F7FFFFF) else true) && (if r.ty = 7 then decide (v < 2 ^ 48) else true) &&
  (match r.rng with
  | .any => true
  | .span lo hi => decide (lo ≤ v) && decide (v ≤ hi)
  | .spanOr lo hi x => (decide (lo ≤ v) && decide (v ≤ hi)) || v == x
  | .pow2 lo hi => isPow2 v && decide (lo ≤ v) && decide (v ≤ hi)
  | .mask m => v &&& m == v
  | .hbm a => decide (v < hbmTop) && v % a == 0
  | .aligned n => v % n == 0
  | .f32 lo hi => decide (lo ≤ v) && decide (v ≤ hi) || (lo == 0 && v == 2 ^ 31)
  | .react => v &&& 0x87 == v && decide (v % 8 ≤ 4)
  | .react3 => v &&& 0x87 == v && (v % 8 == 4 || v % 8 == 5)
  | .coalesce => decide (v < 2 ^ 24) && decide (1 ≤ v / 65536) && decide (1 ≤ v % 65536)
  | .winSize => if key / 256 < 0x4640 then decide (v ≤ 1024) else decide (v ≤ 16384)
  | .winTarget => if key / 256 < 0x4640 then v % 0x200000 == 0 else v % 0x10000 == 0
  | .parentTimeout => decide (16 ≤ v) && decide (v + 16 ≤ s.num O.timeWordTimeout)
  | .formationLead => decide (2 ≤ v) && decide (v + 2 ≤ s.num O.closeLead)
  | .samplePhase => decide (v < s.num (O.hodSamplePeriod (key / 256 - 0x2100)))
  | .nearResume => decide (s.num O.nearLow ≤ v) && decide (v ≤ 3145728)
  | .scrubLen => decide (10 ≤ v) && decide (v ≤ s.num O.scrubGrid)
  | .fallowHigh => decide (s.num O.fallowLow < v) && decide (v ≤ 64)
  | .wakePhase => decide (v < s.num O.wakeStride)
  | .beatLoss => decide (10 * s.num O.beatPeriod ≤ v) && decide (v ≤ 1000000))

/-- The objects whose range names this one, and the object named by theirs. -/
def dependents (key : Nat) : List Nat :=
  if key = O.timeWordTimeout.key then [O.parentTimeout.key]
  else if key = O.closeLead.key then [O.formationLead.key]
  else if key / 256 / 256 = 0x21 ∧ key % 256 = 6 then [key + 1]
  else if key = O.nearLow.key then [O.nearResume.key]
  else if key = O.scrubGrid.key then [O.scrubLen.key]
  else if key = O.fallowLow.key then [O.fallowHigh.key]
  else if key = O.wakeStride.key then [O.wakePhase.key]
  else if key = O.beatPeriod.key then [O.beatLoss.key]
  else []

/-- The value held in the object store. -/
def State.rawNum (s : State) (key : Nat) : Nat := s.num ⟨key, dfltOf key⟩

/-- Store a number under its object's default. -/
def State.storeNum (s : State) (key v : Nat) : State := s.setNum ⟨key, dfltOf key⟩ v

/-- An object's held value is within its range. -/
def State.heldInRange (s : State) (key : Nat) : Bool :=
  match objRow key with
  | some r => s.inRange r key (s.rawNum key)
  | none => true

/-! ## Who may reach an object -/

/-- The control-core path (R533). -/
def isControl (p : Path) : Bool := match p with | .control _ => true | _ => false

/-- Objects held in the management domain (R537). -/
def mgmtObject (key : Nat) : Bool :=
  key / 256 == 0x1000 || key / 256 == 0x1001 || key / 256 == 0x1011 || key / 256 == 0x1012 || key / 256 == 0x7001 ||
    key == 0x102001 || key == 0x102002

/-- DICT_ACCESS of the range an object lies in (R534). -/
def State.dictAccessOf (s : State) (key : Nat) : Nat := s.num (O.dictAccess (key / 256 / 4096 - 1))

/-- The path may write (or read) the object's range (R533 to R535). -/
def State.pathMay (s : State) (p : Path) (key : Nat) (isWrite : Bool) : Bool :=
  let a := s.dictAccessOf key
  match p with
  | .control _ => true
  | .fabric _ _ => bit a (if isWrite then 3 else 2)
  | .bridle mac =>
    let ms := (List.range 4).map (fun i => s.num (O.bridleManager i))
    bit a (if isWrite then 1 else 0) && (!isWrite || ms.all (· == 0) || ms.any (fun m => m != 0 && m == mac.toNat))

/-- The block that holds the object runs in the present state (R537). -/
def State.servedOn (s : State) (p : Path) (key : Nat) : Bool :=
  match p with
  | .bridle _ => s.pkg.st != .off && (mgmtObject key || s.dict.server == .running)
  | .control _ => s.dict.server != .stopped
  | .fabric _ _ => s.dict.server == .running

/-- Refused in STOPPED and GRAVE (R13). -/
def State.writesShut (s : State) : Bool := s.pkg.st == .stopped || s.pkg.st == .grave

/-- Orders 1 to 3 of Table 16.4, which reads share. -/
def State.reachError (s : State) (p : Path) (key : Nat) (isWrite : Bool) : Nat :=
  if key / 256 < 0x1000 ∨ 0xB000 ≤ key / 256 ∨ idxExists (key / 256) = false then Err.noObject
  else if (objRow key).isNone then Err.noSubindex
  else if !s.pathMay p key isWrite || (isWrite && s.writesShut) then Err.access
  else if !s.servedOn p key then Err.unavailable
  else Err.ok

/-- A tenant window is empty, or its two fabric addresses name one node and lie in HBM (17 R567). -/
def tenantWindowOk (b : List Byte) : Bool :=
  let lo := u64 b 0
  let hi := u64 b 8
  decide (hi < lo) || (lo == 0 && hi == 0) || (lo / 2 ^ 47 == hi / 2 ^ 47 && decide (lo % 2 ^ 47 < hbmTop) && decide (hi % 2 ^ 47 < hbmTop))

/-- The object is a TENANT_WINDOW. -/
def isTenantWindow (key : Nat) : Bool := decide (0x8200 ≤ key / 256) && decide (key / 256 ≤ 0x82FF) && decide (1 ≤ key % 256) && decide (key % 256 ≤ 4)

/-- Orders 5 and 6 of Table 16.4: length, type code and range. -/
def State.valueError (s : State) (r : ObjRow) (key typ : Nat) (v : ObjVal) : Nat :=
  if typ ≠ 0 ∧ typ ≠ r.ty then Err.type
  else match v with
    | .bytes b =>
      if !r.isBytes || decide (b.length > r.size) then Err.type
      else if r.fixed && b.length != r.size || isTenantWindow key && !tenantWindowOk b then Err.range
      else Err.ok
    | .num n =>
      if r.isBytes || decide (n ≥ 2 ^ (8 * typeBytes r.ty)) then Err.type
      else if !s.inRange r key n then Err.range
      else if (dependents key).any (fun k => !(s.storeNum key n).heldInRange k) then Err.range
      else Err.ok

/-- Orders 1 to 6 of Table 16.4 for a write of `v` with type code `typ` (0: none carried). -/
def State.writeError (s : State) (p : Path) (key : Nat) (typ : Nat) (v : ObjVal) : Nat :=
  let e := s.reachError p key true
  if e ≠ Err.ok then e
  else match objRow key with
    | none => Err.noSubindex
    | some r =>
      if r.acc = .ro ∨ r.acc = .const then Err.readOnly
      else if r.acc == .rwk && (s.sec.lock || !isControl p) then Err.keystone
      else if r.acc = .rwd ∧ s.pkg.st ≠ .drained then Err.notDrained
      else s.valueError r key typ v

/-- The write raised KEYSTONE_WRITE: LOCK is 1 and the object is RWK (17 R564). -/
def State.keystoneFault (s : State) (key : Nat) : State :=
  if s.sec.lock then s.raise srcDict 0 0x92 1 (dictBase + key / 256 * 0x1000000 + key % 256 * 0x10000) else s

/-- Record the outcome of a write in the object's RESULT (R553). -/
def State.recordResult (s : State) (key code : Nat) : State :=
  match objRow key with
  | none => s
  | some r =>
    if r.acc = .ro ∨ r.acc = .const then s
    else
      let old := SMap.get (0, 0) s.dict.results key
      { s with dict := { s.dict with results := SMap.set (0, 0) s.dict.results key (code, (old.2 + 1) % 65536) } }

/-- Store the value of a write that every check passed. -/
def State.storeVal (s : State) (key : Nat) (v : ObjVal) : State :=
  match v with
  | .num n => s.storeNum key n
  | .bytes b => { s with dict := { s.dict with blobs := SMap.set [] s.dict.blobs key b } }

/-! ## The stored set (R530, R531) -/

/-- RWD objects, and RW objects of index 0x1011 and of the ranges 0x3000, 0x5000 and 0x7000. -/
def inStoredSet (key : Nat) : Bool :=
  match objRow key with
  | none => false
  | some r =>
    r.acc == .rwd || (r.acc == .rw &&
      (key / 256 == 0x1011 || key / 256 / 4096 == 3 || key / 256 / 4096 == 5 || key / 256 / 4096 == 7))

/-- The values of the stored set that differ from their defaults: what an image holds (the rest hold their defaults). -/
def State.storedValues (s : State) : SMap Nat × SMap (List Byte) :=
  (s.dict.nums.filter (fun e => inStoredSet e.1), s.dict.blobs.filter (fun e => inStoredSet e.1))

/-- The objects that a relation of R531 ties: the object and those its range names. -/
def relationKeys (hods : List Nat) : List (List Nat) :=
  [[O.parentTimeout.key, O.timeWordTimeout.key], [O.formationLead.key, O.closeLead.key], [O.scrubLen.key, O.scrubGrid.key],
   [O.fallowHigh.key, O.fallowLow.key], [O.wakePhase.key, O.wakeStride.key], [O.beatLoss.key, O.beatPeriod.key]] ++
  hods.map (fun h => [(O.hodSamplePhase h).key, (O.hodSamplePeriod h).key])

/-- One pass of R531's second step: relations that fail return their objects to their defaults, each counted. -/
def State.relationPass (s : State) : State :=
  (relationKeys []).foldl (fun t ks =>
    match ks with
    | k :: _ =>
      if t.heldInRange k then t
      else ks.foldl (fun u j => (u.storeNum j (dfltOf j)).bump O.storeRejects) t
    | [] => t) s

/-- A stored number passes check 5 and its own range taken alone (R531): a range that names another object is judged in
the second step, against a state of defaults here. -/
def storedOk (key v : Nat) (s : State) : Bool :=
  match objRow key with
  | none => false
  | some r =>
    decide (v < 2 ^ (8 * typeBytes r.ty)) && !r.isBytes &&
      (match r.rng with
      | .parentTimeout => decide (16 ≤ v)
      | .formationLead => decide (2 ≤ v)
      | .scrubLen => decide (10 ≤ v)
      | .fallowHigh => decide (v ≤ 64)
      | .beatLoss => decide (v ≤ 1000000)
      | .samplePhase | .nearResume | .wakePhase => true
      | _ => s.inRange r key v)

/-- Load the image of highest generation (R531). -/
def State.loadStored (s : State) : State :=
  let cand := [s.sec.img0, s.sec.img1].filter (fun i => i.valid)
  match maxBy (fun i => i.generation) cand with
  | none => s
  | some img =>
    let s := s.setNum O.storeGeneration img.generation
    let s := img.nums.foldl (fun t e => if storedOk e.1 e.2 t then t.storeNum e.1 e.2 else t.bump O.storeRejects) s
    (List.range 7).foldl (fun t _ => t.relationPass) s

end Sys2Proof.Machine
end

