-- ==== Sys2Proof/Machine/Keccak.lean ====
section
/-! DEFINITION. SHA3-256, SHAKE128 and SHAKE256, the FIPS 202 functions the manual names (03 R104; 10 R316; 16 R530; 17 R558). The state is
five planes of five 64-bit lanes. -/

namespace Sys2Proof.Machine

/-- Rotate a 64-bit lane left. -/
def rol64 (n v : Nat) : Nat := v * 2 ^ n % 2 ^ 64 + v / 2 ^ (64 - n)

/-- Bring the elements of a list n places to the front. -/
def turn (n : Nat) (l : List Nat) : List Nat := l.drop n ++ l.take n

/-- How far step rho turns each lane: a list for each plane y, by x. -/
def rhoTurns : List (List Nat) :=
  [[0, 1, 62, 28, 27], [36, 44, 6, 55, 20], [3, 10, 43, 25, 39], [41, 45, 15, 21, 8], [18, 2, 61, 56, 14]]

/-- Step theta: the parities of the two neighbouring columns go into every lane. -/
def theta (a : List (List Nat)) : List (List Nat) :=
  let c := a.foldl (List.zipWith (· ^^^ ·)) (List.replicate 5 0)
  a.map (List.zipWith (· ^^^ ·) (List.zipWith (fun l r => l ^^^ rol64 1 r) (turn 4 c) (turn 1 c)))

/-- Steps rho and pi: lane (x, y) is turned and goes to (y, 2x + 3y). -/
def rhoPi (a : List (List Nat)) : List (List Nat) :=
  let b := List.zipWith (List.zipWith rol64) rhoTurns a
  (List.range 5).map (fun y => (List.range 5).map (fun x => (b.getD x []).getD ((x + 3 * y) % 5) 0))

/-- Step chi in a plane. -/
def chi (p : List Nat) : List Nat :=
  List.zipWith (· ^^^ ·) p (List.zipWith (fun b c => (b ^^^ (2 ^ 64 - 1)) &&& c) (turn 1 p) (turn 2 p))

/-- Step iota: a constant into lane (0, 0). -/
def iota (rc : Nat) (a : List (List Nat)) : List (List Nat) :=
  match a with
  | (h :: p) :: r => ((h ^^^ rc) :: p) :: r
  | other => other

/-- A step of the register the constants come from, x^8 + x^6 + x^5 + x^4 + 1. -/
def lfsr (r : Nat) : Nat := if r < 128 then 2 * r else 2 * r ^^^ 0x171

/-- The constant of a round and the register after it: step j gives bit 2^j - 1. -/
def roundConstant (r : Nat) : Nat × Nat :=
  (List.range 7).foldl (fun x j => (x.1 + x.2 % 2 * 2 ^ (2 ^ j - 1), lfsr x.2)) (0, r)

/-- Some rounds of Keccak-f[1600]. -/
def keccakRounds : Nat → Nat → List (List Nat) → List (List Nat)
  | 0, _, a => a
  | n + 1, r, a =>
    let k := roundConstant r
    keccakRounds n k.2 (iota k.1 ((rhoPi (theta a)).map chi))

/-- The permutation: 24 rounds. -/
def keccakF (a : List (List Nat)) : List (List Nat) := keccakRounds 24 1 a

/-- A block of bytes as planes. -/
def planes (b : List Byte) : List (List Nat) :=
  (List.range 5).map (fun y => (List.range 5).map (fun x => fieldLe b (8 * (x + 5 * y)) 8))

/-- The bytes of the state. -/
def planeBytes (a : List (List Nat)) : List Byte := (a.flatten.map (leBytes 8)).flatten

/-- Take in a padded message, `rate` bytes at a time. -/
def takeIn (rate : Nat) : Nat → List Byte → List (List Nat) → List (List Nat)
  | 0, _, a => a
  | n + 1, l, a => takeIn rate n (l.drop rate) (keccakF (List.zipWith (List.zipWith (· ^^^ ·)) a (planes (l.take rate))))

/-- Give out some blocks of `rate` bytes. -/
def giveOut (rate : Nat) : Nat → List (List Nat) → List Byte
  | 0, _ => []
  | n + 1, a => (planeBytes a).take rate ++ giveOut rate n (keccakF a)

/-- Fill a message to whole blocks: the domain byte first, the last bit set. -/
def fillBlocks (rate : Nat) (dom : Byte) (l : List Byte) : List Byte :=
  let m := l ++ [dom]
  let whole := m ++ zeros (ceilDiv m.length rate * rate - m.length)
  whole.dropLast ++ [whole.getLastD 0 ||| 0x80]

/-- The first n bytes of the sponge of a message. -/
def hashBytes (rate : Nat) (dom : Byte) (l : List Byte) (n : Nat) : List Byte :=
  let p := fillBlocks rate dom l
  (giveOut rate (ceilDiv n rate) (takeIn rate (p.length / rate) p (List.replicate 5 (List.replicate 5 0)))).take n

/-- SHA3-256. -/
def sha3 (l : List Byte) : List Byte := hashBytes 136 0x06 l 32

/-- The first n bytes of SHAKE128. -/
def shake128 (l : List Byte) (n : Nat) : List Byte := hashBytes 168 0x1F l n

/-- The first n bytes of SHAKE256. -/
def shake256 (l : List Byte) (n : Nat) : List Byte := hashBytes 136 0x1F l n

end Sys2Proof.Machine
end

