-- ==== Sys2Proof/Machine/Fp.lean ====
section
/-! DEFINITION. The arithmetic of 03_low_precision_arithmetic.md: FP32 under R96, the primitives of Table 3.4, the
composites of Table 3.5, long accumulators, requantisation, BF16, weight blocks and sampling draws. Every finite FP32
value is an integer number of units of 2^−149, so sums and products are exact integers until their one rounding. -/

namespace Sys2Proof.Machine

/-- An FP32 value on its way through an ashlar, with the ARITH_RANGE condition met so far (R96). -/
structure Fx where
  v : W32
  r : Bool
  deriving DecidableEq, Repr

/-- A value that has met no ARITH_RANGE. -/
def fx (v : W32) : Fx := ⟨v, false⟩

/-- The largest finite magnitude (R96). -/
def fpMax : Nat := 0x7F7FFFFF

/-- Sign bit of an FP32 word. -/
def fneg (w : W32) : Bool := bit w.toNat 31

/-- Magnitude bits. -/
def fmag (w : W32) : Nat := w.toNat % 2 ^ 31

/-- Infinite or NaN. -/
def fbad (w : W32) : Bool := fmag w > fpMax

/-- Assemble sign and magnitude. -/
def fmk (neg : Bool) (mag : Nat) : W32 := BitVec.ofNat 32 ((if neg then 2 ^ 31 else 0) + mag)

/-- A signed zero. -/
def fzero (neg : Bool) : W32 := fmk neg 0

/-- An operand as R96 takes it: an infinite or NaN one is +0, with ARITH_RANGE. -/
def fin (w : W32) : Fx := if fbad w then ⟨0, true⟩ else ⟨w, false⟩

/-- The magnitude of a finite value in units of 2^−149. -/
def magUnits (m : Nat) : Nat :=
  let e := m / 2 ^ 23
  let f := m % 2 ^ 23
  if e = 0 then f else (2 ^ 23 + f) * 2 ^ (e - 1)

/-- A finite value in units of 2^−149. -/
def units (w : W32) : Int := if fneg w then -(magUnits (fmag w) : Int) else (magUnits (fmag w) : Int)

/-- Quotient rounded to the nearest integer, ties to even. -/
def divEven (n d : Nat) : Nat :=
  let q := n / d
  let r := n % d
  if 2 * r > d || (2 * r == d && q % 2 == 1) then q + 1 else q

/-- ⌊log2 (n ÷ d)⌋ for positive n and d. -/
def log2Ratio (n d : Nat) : Int :=
  let k : Int := (Nat.log2 n : Int) - (Nat.log2 d : Int)
  let low := if k ≥ 0 then decide (n < d * 2 ^ k.toNat) else decide (n * 2 ^ (-k).toNat < d)
  if low then k - 1 else k

/-- Round the positive value (n ÷ d) × 2^−149 to FP32 under R96. -/
def rneUnits (neg : Bool) (n d : Nat) : Fx :=
  if n = 0 then fx (fzero neg)
  else
    let k := log2Ratio n d - 23
    let e := k.toNat
    let q := divEven n (d * 2 ^ e)
    let m := if e = 0 then q else e * 2 ^ 23 + q
    if m > fpMax then ⟨fmk neg fpMax, true⟩ else fx (fmk neg m)

/-- Round an exact integer number of units ÷ d; zero becomes a zero of the given sign. -/
def rneInt (zneg : Bool) (i : Int) (d : Nat) : Fx :=
  if i = 0 then fx (fzero zneg) else rneUnits (i < 0) i.natAbs d

/-- Weight of 2^149 units: the value 1.0. -/
def one149 : Nat := 2 ^ 149

/-- Join the ARITH_RANGE conditions of operands into a result. -/
def Fx.also (x : Fx) (b : Bool) : Fx := ⟨x.v, x.r || b⟩

/-- Put both operands through R96's operand rule. -/
def fbin (f : W32 → W32 → Fx) (a b : Fx) : Fx :=
  let x := fin a.v
  let y := fin b.v
  (f x.v y.v).also (a.r || b.r || x.r || y.r)

/-- Put one operand through R96's operand rule. -/
def funary (f : W32 → Fx) (a : Fx) : Fx :=
  let x := fin a.v
  (f x.v).also (a.r || x.r)

/-! ## Primitives of Table 3.4 (R99) -/

/-- x + y. -/
def addW (x y : W32) : Fx := rneInt (fneg x && fneg y) (units x + units y) 1
/-- x × y. -/
def mulW (x y : W32) : Fx := rneInt (fneg x != fneg y) (units x * units y) one149
/-- x × y + z, one rounding. -/
def fmaW (x y z : W32) : Fx :=
  rneInt ((fneg x != fneg y) && fneg z) (units x * units y + units z * (one149 : Int)) one149
/-- x ÷ y. -/
def divW (x y : W32) : Fx :=
  if units y = 0 then ⟨fmk (units x != 0 && fneg x != fneg y) fpMax, true⟩
  else rneInt (fneg x != fneg y) (if fneg x != fneg y then -((units x).natAbs * one149 : Nat) else ((units x).natAbs * one149 : Nat))
    (units y).natAbs
/-- Add. -/
def fadd : Fx → Fx → Fx := fbin addW
/-- Negation of a sign bit, exact. -/
def fminus (a : Fx) : Fx := ⟨a.v ^^^ 0x80000000, a.r⟩
/-- Subtract. -/
def fsub (a b : Fx) : Fx := fadd a (if fbad b.v then b else fminus b)
/-- Multiply. -/
def fmul : Fx → Fx → Fx := fbin mulW
/-- Fused multiply and add. -/
def ffma (a b c : Fx) : Fx :=
  let x := fin a.v
  let y := fin b.v
  let z := fin c.v
  (fmaW x.v y.v z.v).also (a.r || b.r || c.r || x.r || y.r || z.r)
/-- Divide. -/
def fdiv : Fx → Fx → Fx := fbin divW
/-- 1.0. -/
def fone : W32 := 0x3F800000
/-- Reciprocal. -/
def recipW (x : W32) : Fx :=
  if units x = 0 then ⟨fmk (fneg x) fpMax, true⟩ else divW fone x
/-- Reciprocal. -/
def frecip : Fx → Fx := funary recipW

/-- ⌊√n⌋ by Newton's iteration from above, `k` steps. -/
def isqrtGo (n : Nat) : Nat → Nat → Nat
  | 0, x => x
  | k + 1, x =>
    let y := (x + n / x) / 2
    if y < x then isqrtGo n k y else x
/-- ⌊√n⌋. -/
def isqrt (n : Nat) : Nat := if n = 0 then 0 else isqrtGo n (2 * Nat.log2 n + 2) (2 ^ (Nat.log2 n / 2 + 1))

/-- Round √(n ÷ d) × 2^−149 for positive n and d: the root of (n ÷ d) × 2^(2g), its last bit made sticky. -/
def rneRoot (n d : Nat) : Fx :=
  let g := 512
  let s := n * 2 ^ (2 * g) / d
  let r := isqrt s
  let st := if r * r = s && n * 2 ^ (2 * g) % d = 0 then 2 * r else 2 * r + 1
  rneUnits false st (2 ^ (g + 1))

/-- √x: x = u × 2^−149, so √x = √(u × 2^149) × 2^−149. −0 stays −0. -/
def sqrtW (x : W32) : Fx :=
  if units x < 0 then ⟨0, true⟩
  else if units x = 0 then fx x
  else rneRoot ((units x).natAbs * one149) 1
/-- 1 ÷ √x. -/
def rsqrtW (x : W32) : Fx :=
  if units x = 0 then ⟨fmk false fpMax, true⟩
  else if units x < 0 then ⟨0, true⟩
  else rneRoot (2 ^ 447) (units x).natAbs
/-- Square root. -/
def fsqrt : Fx → Fx := funary sqrtW
/-- Reciprocal square root. -/
def frsqrt : Fx → Fx := funary rsqrtW

/-! ## Functions in fixed point: F fraction bits, far past the closest approach of any FP32 argument to a rounding
boundary (log entry 20) -/

/-- Fraction bits. -/
def fxF : Nat := 640
/-- 1.0 in fixed point. -/
def fx1 : Int := 2 ^ 640

/-- Fixed-point product, rounded toward −∞. -/
def fxMul (a b : Int) : Int := a * b / fx1

/-- Σ_{i} x^i ÷ i! from term t of index i, n terms. -/
def expTerms (x : Int) : Nat → Nat → Int → Int
  | 0, _, _ => 0
  | n + 1, i, t => t + expTerms x n (i + 1) (fxMul t x / (i + 1 : Nat))

/-- Square n times. -/
def fxSquares : Nat → Int → Int
  | 0, a => a
  | n + 1, a => fxSquares n (fxMul a a)

/-- e^x for |x| ≤ 256 in fixed point: (e^(x ÷ 2^10))^(2^10). -/
def fxExp (x : Int) : Int := fxSquares 10 (expTerms (x / 1024) 120 0 fx1)

/-- Σ z^(2k+1) ÷ (2k+1), n terms. -/
def atanhTerms (z2 : Int) : Nat → Nat → Int → Int
  | 0, _, _ => 0
  | n + 1, k, t => t / (2 * k + 1 : Nat) + atanhTerms z2 n (k + 1) (fxMul t z2)

/-- ln of a ratio m = a ÷ b in [2⁄3, 4⁄3]: 2 atanh((a − b) ÷ (a + b)). -/
def fxLn (a b : Nat) : Int :=
  let z := ((a : Int) - b) * fx1 / ((a + b : Nat) : Int)
  2 * atanhTerms (fxMul z z) 150 0 z

/-- ln 2 = 2 atanh(1⁄3). -/
def fxLn2 : Int :=
  let z := fx1 / 3
  2 * atanhTerms (fxMul z z) 220 0 z

/-- Σ (−1)^k z^(2k+1) ÷ (2k+1) for z = 1 ÷ q. -/
def atanInv (q : Nat) : Nat → Nat → Int → Int
  | 0, _, _ => 0
  | n + 1, k, t => t / (2 * k + 1 : Nat) - atanInv q n (k + 1) (t / (q * q : Nat))

/-- π by Machin's formula. -/
def fxPi : Int := 4 * (4 * atanInv 5 150 0 (fx1 / 5) - atanInv 239 60 0 (fx1 / 239))

/-- sin x for 0 ≤ x ≤ 2: Σ (−1)^k x^(2k+1) ÷ (2k+1)!. -/
def sinTerms (x2 : Int) : Nat → Nat → Int → Int
  | 0, _, _ => 0
  | n + 1, k, t => t - sinTerms x2 n (k + 1) (fxMul t x2 / ((2 * k + 2) * (2 * k + 3) : Nat))

/-- Round a fixed-point value to FP32; zero becomes +0. -/
def rneFix (v : Int) : Fx := rneInt false (v * (one149 : Int)) (2 ^ 640)

/-- An FP32 value in fixed point, exactly. -/
def toFix (x : W32) : Int := units x * 2 ^ 491

/-- e^x. -/
def expW (x : W32) : Fx :=
  if units x = 0 then fx fone
  else if toFix x > 200 * fx1 then ⟨fmk false fpMax, true⟩
  else if toFix x < -200 * fx1 then fx 0
  else rneFix (fxExp (toFix x))

/-- 2^x: the integer part exactly, the fraction by e^(f ln 2). -/
def exp2W (x : W32) : Fx :=
  if toFix x > 200 * fx1 then ⟨fmk false fpMax, true⟩
  else if toFix x < -200 * fx1 then fx 0
  else
    let n := toFix x / fx1
    let f := toFix x - n * fx1
    let e := if f = 0 then fx1 else fxExp (fxMul f fxLn2)
    if n ≥ 0 then rneFix (e * 2 ^ n.toNat) else rneInt false (e * (one149 : Int)) (2 ^ (640 + (-n).toNat))

/-- The binary exponent and the ratio of a positive number of units: u × 2^−149 = (a ÷ b) × 2^e, a ÷ b in [2⁄3, 4⁄3]. -/
def splitLog (u : Nat) : Nat × Nat × Int :=
  let k := Nat.log2 u
  if 3 * u < 4 * 2 ^ k then (u, 2 ^ k, (k : Int) - 149) else (u, 2 ^ (k + 1), (k : Int) - 148)

/-- ln x. -/
def logW (x : W32) : Fx :=
  if units x = 0 then ⟨fmk true fpMax, true⟩
  else if units x < 0 then ⟨0, true⟩
  else
    let (a, b, e) := splitLog (units x).natAbs
    rneFix (fxLn a b + e * fxLn2)

/-- log2 x. -/
def log2W (x : W32) : Fx :=
  if units x = 0 then ⟨fmk true fpMax, true⟩
  else if units x < 0 then ⟨0, true⟩
  else
    let (a, b, e) := splitLog (units x).natAbs
    rneFix (fxLn a b * fx1 / fxLn2 + e * fx1)

/-- tanh x = (e^2x − 1) ÷ (e^2x + 1); the sign of a zero stays. -/
def tanhW (x : W32) : Fx :=
  if units x = 0 then fx x
  else if toFix x > 16 * fx1 then fx fone
  else if toFix x < -16 * fx1 then fx (fone ||| 0x80000000)
  else
    let t := fxExp (2 * toFix x)
    rneFix ((t - fx1) * fx1 / (t + fx1))

/-- sin(π r) for a fixed-point r, its zeros with the given sign. -/
def sinpiFix (zneg : Bool) (r : Int) : Fx :=
  let r := r % (2 * fx1)
  let neg := r ≥ fx1
  let h := if neg then r - fx1 else r
  let h := if 2 * h > fx1 then fx1 - h else h
  if h = 0 then fx (fzero zneg)
  else if 2 * h = fx1 then fx (fmk neg 0x3F800000)
  else
    let a := fxMul h fxPi
    let s := sinTerms (fxMul a a) 120 0 a
    rneFix (if neg then -s else s)

/-- sin(πx). -/
def sinpiW (x : W32) : Fx := sinpiFix (fneg x) (toFix x)
/-- cos(πx). -/
def cospiW (x : W32) : Fx := sinpiFix false (toFix x + fx1 / 2)

/-- e^x. -/
def fexp : Fx → Fx := funary expW
/-- 2^x. -/
def fexp2 : Fx → Fx := funary exp2W
/-- ln x. -/
def flog : Fx → Fx := funary logW
/-- log2 x. -/
def flog2 : Fx → Fx := funary log2W
/-- tanh x. -/
def ftanh : Fx → Fx := funary tanhW
/-- sin(πx). -/
def fsinpi : Fx → Fx := funary sinpiW
/-- cos(πx). -/
def fcospi : Fx → Fx := funary cospiW

/-! ## Order (R103) -/

/-- A number that orders finite FP32 values, −0 below +0. -/
def fkey (w : W32) : Int := if fneg w then -(fmag w : Int) - 1 else (fmag w : Int)

/-- Index of the largest value, the lowest among equals; none for an empty list. -/
def argMax (l : List W32) : Option Nat :=
  (l.foldl (fun (acc : Nat × Option (Nat × Int)) w =>
    let k := fkey w
    (acc.1 + 1, match acc.2 with
      | none => some (acc.1, k)
      | some (i, b) => if k > b then some (acc.1, k) else some (i, b))) (0, none)).2.map (·.1)

/-- The largest of two. -/
def fmaxW (a b : W32) : W32 := if fkey b > fkey a then b else a
/-- The smallest of two. -/
def fminW (a b : W32) : W32 := if fkey b < fkey a then b else a

/-! ## Long accumulators (R101, R102) -/

/-- The exact sum in units of 2^−149, and whether an operand was infinite or NaN. -/
def longSum (l : List Fx) : Int × Bool :=
  l.foldl (fun (acc : Int × Bool) a => let x := fin a.v; (acc.1 + units x.v, acc.2 || a.r || x.r)) (0, false)

/-- Round a long accumulator once. -/
def roundLong (s : Int × Bool) : Fx := (rneInt false s.1 1).also s.2

/-- lsum. -/
def lsum (l : List Fx) : Fx := roundLong (longSum l)

/-- A long accumulator as its 40-byte little-endian word. -/
def longBytes (i : Int) : List Byte := leBytes 40 (ofSigned 320 i)

/-- A 40-byte word as a long accumulator. -/
def ofLongBytes (l : List Byte) : Int := toSigned 320 (ofLe (fit 40 l))

/-! ## BF16 (R98) and FP16 -/

/-- Widen BF16 to FP32. -/
def ofBf16 (b : Nat) : W32 := BitVec.ofNat 32 (b % 65536 * 65536)

/-- Round to BF16, ties to even, saturating at 0x7F7F with ARITH_RANGE. -/
def toBf16 (a : Fx) : Nat × Bool :=
  let x := fin a.v
  let q := divEven (fmag x.v) 65536
  let big := decide (q > 0x7F7F)
  ((if fneg x.v then 32768 else 0) + (if big then 0x7F7F else q), a.r || x.r || big)

/-- The magnitude of a finite FP16 value in units of 2^−24. -/
def half24 (h : Nat) : Nat :=
  let e := bits h 14 10
  let f := bits h 9 0
  if e = 0 then f else (1024 + f) * 2 ^ (e - 1)

/-- The smallest FP16 value not below n ÷ d (units of 2^−24), at most 65,504. -/
def ceilHalf (n d : Nat) : Nat :=
  let rec go (k h : Nat) : Nat :=
    match k with
    | 0 => h
    | k + 1 =>
      let h' := h + 2 ^ k
      if h' ≤ 0x7BFF && half24 h' * d < n then go k h' else go k h
  if n = 0 then 0 else Nat.min 0x7BFF (go 15 0 + 1)

/-! ## Composites of Table 3.5 (R100) -/

/-- sigmoid(x). -/
def fsigmoid (x : Fx) : Fx := frecip (fadd (fx fone) (fexp (fminus x)))
/-- silu(x). -/
def fsilu (x : Fx) : Fx := fmul x (fsigmoid x)
/-- gelu(x), tanh form. -/
def fgelu (x : Fx) : Fx :=
  let u := fmul (fmul x x) x
  let v := ffma (fx 0x3D372713) u x
  let w := fmul (fx 0x3F4C422A) v
  fmul (fmul (fx 0x3F000000) x) (fadd (fx fone) (ftanh w))

/-- A count as FP32. -/
def fnat (n : Nat) : Fx := rneUnits false (n * one149) 1

/-- The largest of a row, R96's operand rule applied. -/
def rowMax (l : List Fx) : Fx :=
  match l with
  | [] => fx 0
  | a :: r => r.foldl (fun m b => ⟨fmaxW m.v (fin b.v).v, m.r || b.r || (fin b.v).r⟩) ((fin a.v).also a.r)

/-- softmax of a row. -/
def fsoftmax (l : List Fx) : List Fx :=
  let mu := rowMax l
  let e := l.map (fun x => fexp (fsub x mu))
  let s := lsum e
  e.map (fun y => fdiv y s)

/-- RMS norm of a row. -/
def rmsNorm (l g : List Fx) (eps : Fx) : List Fx :=
  let ss := lsum (l.map (fun x => fmul x x))
  let r := frsqrt (fadd (fdiv ss (fnat l.length)) eps)
  List.zipWith (fun x gi => fmul (fmul x r) gi) l g

/-- Centred norm of a row. -/
def centredNorm (l g b : List Fx) (eps : Fx) : List Fx :=
  let mu := fdiv (lsum l) (fnat l.length)
  let d := l.map (fun x => fsub x mu)
  let v := fdiv (lsum (d.map (fun x => fmul x x))) (fnat l.length)
  let r := frsqrt (fadd v eps)
  List.zipWith (fun x (p : Fx × Fx) => ffma (fmul x r) p.1 p.2) d (List.zip g b)

/-! ## Requantisation (R97) -/

/-- Codes of a row under R97 with limit q (127; 7 for a K4V4 key), and its scale. Where m ÷ q rounds to 0 the manual states no
quotient: the magnitude is a free value, clamped as step 3 says. -/
def requantCodes (q : Nat) (l : List Fx) : List Int × Fx :=
  let xs := l.map (fun x => fin x.v)
  let rng := l.any (·.r) || xs.any (·.r)
  let us := xs.map (fun x => units x.v)
  let m := us.foldl (fun a u => Nat.max a u.natAbs) 0
  if m = 0 then (us.map (fun _ => 0), ⟨fone, rng⟩)
  else
    let sc := rneUnits false m q
    let d := magUnits (fmag sc.v)
    (us.map (fun u =>
      let c := Nat.min q (if d = 0 then Config.tinyCode u.natAbs else divEven u.natAbs d)
      if u < 0 then -(c : Int) else (c : Int)), sc.also rng)

/-! ## Weight blocks (R82 to R95) -/

/-- Weight formats (Table 3.1), numbered as the bundle and the descriptor do: 0 W2, 1 WT, 2 W1, 3 W4. -/
inductive WFmt where
  | w2 | wt | w1 | w4
  deriving DecidableEq, Repr

/-- Data bytes of a block (Table 3.1). -/
def WFmt.blockBytes : WFmt → Nat
  | .w2 => 16
  | .wt => 13
  | .w1 => 8
  | .w4 => 32

/-- Weight j of a block, none for a reserved byte (R82, R83). -/
def WFmt.weight (f : WFmt) (d : List Byte) (j : Nat) : Option Int :=
  let at_ := fun k => (d.getD k 0).toNat
  match f with
  | .w2 => some (2 * ((at_ (j / 4) / 4 ^ (j % 4)) % 4 : Nat) - 3)
  | .w1 => some (2 * ((at_ (j / 8) / 2 ^ (j % 8)) % 2 : Nat) - 1)
  | .w4 => some (toSigned 4 (at_ (j / 2) / 16 ^ (j % 2)))
  | .wt =>
    let v := at_ (j / 5)
    if v > 242 || (j / 5 == 12 && v > 80) then none else some (((v / 3 ^ (j % 5)) % 3 : Nat) - 1)

/-- The term of one block for an accumulator (R92): Σ w a × σ × 2^E over the valid elements; none when the block's
scale or a trit byte is reserved (R85). `a` holds the activations of the block, absent ones 0. -/
def blockTerm (f : WFmt) (scale : Byte) (d : List Byte) (a : List Int) : Option Int :=
  let ws := (List.range 64).map (f.weight d)
  if scale = 0 || ws.any Option.isNone then none
  else
    let p := (List.range 64).foldl (fun (s : Int) j => s + (ws.getD j none).getD 0 * a.getD j 0) 0
    some (p * ((8 + bits scale.toNat 2 0 : Nat) : Int) * 2 ^ bits scale.toNat 7 3)

/-- An accumulator as its 16-byte word (R94): bits 127 to 72 repeat bit 71. -/
def accBytes (a : Int) : List Byte := leBytes 16 (ofSigned 128 a)

/-- A 16-byte word as an accumulator. -/
def ofAccBytes (l : List Byte) : Int := toSigned 72 (ofLe (fit 16 l))

/-- The final step (R95) of an accumulator, with the tensor scale and the token scale. -/
def finishAcc (a : Int) (sw sa : W32) : Fx :=
  let c := fmul (fx sw) (fx sa)
  let y := rneInt false (a * units c.v) (2 ^ 18)
  y.also c.r

/-- A tensor scale that R89 accepts: positive and finite. -/
def goodScale (w : W32) : Bool := !fneg w && fmag w != 0 && !fbad w

/-! ## Draws (R104, R105) -/

/-- The 24-bit integer U of draw (domain, index) for position n: u = U × 2^−24. -/
def drawU (seed tag : W64) (tenant : Nat) (domain : Nat) (n index : Nat) : Nat :=
  let msg := leBytes 8 seed.toNat ++ leBytes 8 tag.toNat ++ leBytes 1 tenant ++ leBytes 1 domain ++ zeros 2 ++
    leBytes 4 n ++ leBytes 4 index
  ofLe (shake128 msg 4) / 256

/-- The smallest index whose exact prefix exceeds u × T (R105), over weights in units; none when T is zero. -/
def drawIndex (l : List Nat) (u : Nat) : Option Nat :=
  let t := sumNat l
  if t = 0 then none
  else
    ((l.foldl (fun (acc : Nat × Nat × Option Nat) p =>
      let s := acc.2.1 + p
      (acc.1 + 1, s, match acc.2.2 with
        | some i => some i
        | none => if s * 2 ^ 24 > u * t then some acc.1 else none)) (0, 0, none)).2.2)

end Sys2Proof.Machine
end

