-- ==== Sys2Proof/Machine/Kv.lean ====
section
/-! DEFINITION. Tenant memory windows (17 R567, R568); sessions in memory and their KV pages: page geometry (05 R151 to R161), quantisation (05 R152 to R157), session
descriptors (08 Table 8.3), page slots, quotas (08 R274) and ownership of an address. -/

namespace Sys2Proof.Machine

/-! ## Tenant windows (17 R567, R568) -/

/-- The windows of a tenant that name a node, as local first and last addresses (R567). -/
def State.windowsOf (s : State) (t : Nat) (n : Node) : List (Nat × Nat) :=
  (List.range 4).filterMap (fun j =>
    let b := s.blob (O.tenantWindow t j)
    let lo := u64 b 0
    let hi := u64 b 8
    let named := lo / 2 ^ 47 == hi / 2 ^ 47 && (lo / 2 ^ 47 == 0x1FFFF || lo / 2 ^ 47 == n.toNat)
    if named && decide (lo ≤ hi) && !(lo == 0 && hi == 0) && decide (localOf hi < hbmTop) then some (localOf lo, localOf hi) else none)

/-- The windows that name this package. -/
def State.windows (s : State) (t : Nat) : List (Nat × Nat) := s.windowsOf t s.node

/-- How far the windows cover from an address on, at most n windows further. -/
def reach (ws : List (Nat × Nat)) : Nat → Nat → Nat
  | 0, a => a
  | n + 1, a => match ws.find? (fun w => decide (w.1 ≤ a) && decide (a ≤ w.2)) with
    | some w => reach ws n (w.2 + 1)
    | none => a

/-- A run of bytes of a node lies wholly within the tenant's windows that name the node, taken together (R568). -/
def State.inWindowsOf (s : State) (t : Nat) (n : Node) (a len : Nat) : Bool := len == 0 || decide (reach (s.windowsOf t n) 5 a ≥ a + len)

/-- A run of HBM bytes lies wholly within the tenant's windows that name this package, taken together (R568). -/
def State.inWindows (s : State) (t a len : Nat) : Bool := len == 0 || decide (reach (s.windows t) 5 a ≥ a + len)

/-! ## Page geometry -/

/-- Blocks of a sealed page (Table 5.1). -/
def Root.nb (r : Root) : Nat := 2 * r.heads * (r.dim / 64)
/-- Bytes of a sealed page: K8V8 (block 4,096) or K4V4 (block 2,048) (Table 5.2). -/
def Root.sealedBytes (r : Root) (k4 : Bool) : Nat := r.nb * (if k4 then 2048 else 4096) + roundUp (2 * r.nb) 64
/-- TR, the bytes of an open row slot (R158). -/
def Root.tr (r : Root) : Nat := roundUp (r.heads * (2 * r.dim + 4)) 64
/-- Bytes of an open page. -/
def Root.openBytes (r : Root) : Nat := 64 * r.tr
/-- Bytes of a page in the form of its entry (Table 5.4). -/
def Root.pageBytes (r : Root) (st : Nat) : Nat :=
  match st with
  | 1 => r.openBytes
  | 2 => r.sealedBytes false
  | 3 => r.sealedBytes true
  | _ => 0
/-- Key of a page in the root's page table: layer × 4,096 + page. -/
def pageKey (layer page : Nat) : Nat := layer * 4096 + page
/-- The entry of a page. -/
def Root.page (r : Root) (layer page : Nat) : PageEntry := SMap.get {} r.pages (pageKey layer page)
/-- GEOMETRY (Table 5.3). -/
def Root.geometry (r : Root) : Nat := (r.heads - 1) * 256 + (r.dim / 64 - 1) * 64
/-- Pages that n positions take. -/
def pagesFor (n : Nat) : Nat := ceilDiv n 64

/-! ## Images in memory -/

/-- A root's 32 bytes (Table 5.3); all zero for a root that is not in use. -/
def Root.image (r : Root) (slot tenant : Nat) : List Byte :=
  if r.layers = 0 then zeros 32
  else
    leBytes 4 r.length ++ leBytes 4 r.setEnd ++ leBytes 1 r.scaffold ++ leBytes 1 (b2n r.form) ++ leBytes 2 r.layers ++
    leBytes 2 r.ptPages ++ leBytes 2 r.geometry ++ leBytes 8 r.ptBase.toNat ++ leBytes 4 slot ++ leBytes 1 tenant ++ zeros 3

/-- A page entry's 16 bytes (Table 5.4). -/
def PageEntry.image (e : PageEntry) : List Byte :=
  leBytes 8 e.addr.toNat ++ leBytes 4 e.rotBase.toNat ++ leBytes 1 e.st ++ leBytes 1 (b2n e.far) ++ zeros 2

/-- Codes of Table 8.4. -/
def SessState.code : SessState → Nat
  | .free => 0
  | .prefill => 1
  | .shipping => 2
  | .active => 3
  | .held => 4
  | .parking => 5
  | .parked => 6
  | .satchelling => 7
  | .satchelled => 8
  | .feeding => 9

/-- Some page of a session lies in the far tier. -/
def Session.far (x : Session) : Bool := x.main.pages.any (fun e => e.2.far) || x.draft.pages.any (fun e => e.2.far)

/-- The session descriptor's 256 bytes (Table 8.3). -/
def Session.descriptor (x : Session) (slot reason : Nat) : List Byte :=
  let depth := x.depth + x.dry * 16 + x.full * 64 + x.idle * 256 + b2n x.probe * 16384
  leBytes 8 x.tag.toNat ++ leBytes 8 x.seed.toNat ++ leBytes 8 x.deadline.toNat ++ leBytes 8 x.lastCourse.toNat ++
  leBytes 8 x.expiry.toNat ++ leBytes 8 x.waitSince.toNat ++ leBytes 1 x.st.code ++ leBytes 1 x.cls ++ leBytes 1 x.tenant ++
  leBytes 1 x.hod ++ leBytes 1 x.profile ++ leBytes 1 x.draftMax ++ leBytes 2 depth ++
  leBytes 4 ((x.nextToken.getD 0).toNat) ++ leBytes 4 x.maxLeft ++ x.main.image slot x.tenant ++ x.draft.image slot x.tenant ++
  leBytes 8 x.inputAddr.toNat ++ leBytes 4 x.inputLeft ++ leBytes 4 x.posOffset ++ leBytes 8 x.stripAddr.toNat ++
  leBytes 8 x.satchel.toNat ++ leBytes 4 x.generated ++ leBytes 1 reason ++ leBytes 1 (b2n x.late + 2 * b2n x.far) ++ zeros 90

/-- The descriptor of an open session: END_REASON is 0. -/
def Session.image (x : Session) (slot : Nat) : List Byte := if x.st = .free then zeros 256 else x.descriptor slot 0

/-- The scaffold strip's 64 bytes (Table 6.1), SSTAMP last. -/
def Strip.image (p : Strip) : List Byte :=
  leBytes 8 p.course.toNat ++ leBytes 4 p.first ++ leBytes 1 p.depth ++ leBytes 1 (b2n p.reject) ++ zeros 2 ++
  fit 32 ((p.drafts.map (fun d => leBytes 4 d.toNat)).flatten) ++ leBytes 8 p.qbase.toNat ++ zeros 4 ++ leBytes 4 p.course.toNat

/-- A session. -/
def State.session (s : State) (slot : Nat) : Session := SMap.get {} s.ses.table slot

/-- Replace a session: the control cores keep its descriptor in the session table in memory (R246). -/
def State.putSession (s : State) (slot : Nat) (x : Session) : State :=
  { s with ses := { s.ses with table := SMap.set {} s.ses.table slot x } }.poke (s.num O.sessionTableBase + 256 * slot) (x.image slot)

/-- Free a session's slot: its descriptor stays in memory as the session left it, STATE FREE, with the reason it ended for (R246, R249;
log entry 67). -/
def State.freeDescriptor (s : State) (slot reason : Nat) : State :=
  { s with ses := { s.ses with table := SMap.set {} s.ses.table slot {} } }.poke (s.num O.sessionTableBase + 256 * slot)
    (({ s.session slot with st := .free } : Session).descriptor slot reason)

/-- Free the slots of every covered session that leaves this package. -/
def State.dropCovered (s : State) : State :=
  ((s.ses.table.filter (fun e => e.2.covered)).map (·.1)).foldl (fun t k => t.freeDescriptor k 0) s

/-- Change a session. -/
def State.editSession (s : State) (slot : Nat) (f : Session → Session) : State := s.putSession slot (f (s.session slot))

/-- A root of a session: false main, true draft. -/
def Session.root (x : Session) (draft : Bool) : Root := if draft then x.draft else x.main
/-- Replace a root. -/
def Session.setRoot (x : Session) (draft : Bool) (r : Root) : Session := if draft then { x with draft := r } else { x with main := r }

/-- Write a page entry of a session, in the root and in the page table in memory (R161); SFLAGS[1] of the descriptor follows (R246). -/
def State.putPage (s : State) (slot : Nat) (draft : Bool) (layer page : Nat) (e : PageEntry) : State :=
  let x := s.session slot
  let r := x.root draft
  let r' := { r with pages := SMap.set {} r.pages (pageKey layer page) e }
  let y := x.setRoot draft r'
  let s := ({ s with ses := { s.ses with table := SMap.set {} s.ses.table slot y } }).poke
    (localOf r.ptBase.toNat + 16 * (layer * r.ptPages + page)) e.image
  if y.far = x.far then s else s.poke (s.num O.sessionTableBase + 256 * slot + 0xA5) (leBytes 1 (b2n y.late + 2 * b2n y.far))

/-- Write a session's scaffold strip (R197). -/
def State.putStrip (s : State) (slot : Nat) (p : Strip) : State :=
  let x := s.session slot
  { s with ses := { s.ses with table := SMap.set {} s.ses.table slot { x with strip := p } } }.poke (localOf x.stripAddr.toNat) p.image

/-- R204: the strip's DEPTH becomes 0. -/
def State.dropStrip (s : State) (slot : Nat) : State :=
  let p := (s.session slot).strip
  s.putStrip slot { p with depth := 0, drafts := [] }

/-- The open sessions, ascending slot. -/
def State.sessionsOpen (s : State) : List (Nat × Session) := s.ses.table.filter (fun e => e.2.st != .free)

/-- The session of a tag and tenant. -/
def State.byTag (s : State) (tag : W64) (tenant : Nat) : Option Nat :=
  (s.sessionsOpen.find? (fun e => e.2.tag == tag && e.2.tenant == tenant)).map (·.1)

/-- Vocabulary of the LIVE copy. -/
def State.liveCopy (s : State) : Copy := if s.wts.k0.st = .live then s.wts.k0 else s.wts.k1
/-- Bytes of a REJECT region: eight vectors of V FP32 values (R197). -/
def State.rejectBytes (s : State) : Nat := 32 * s.liveCopy.vocab

/-! ## Whose address it is (09 R299, R306) -/

/-- An address lies within n bytes from base; no region lies at base 0. -/
def inRun (a : Nat) (base : W64) (n : Nat) : Bool := base != 0 && decide (localOf base.toNat ≤ a) && decide (a < localOf base.toNat + n)

/-- A root has a page over an address. -/
def Root.owns (r : Root) (a : Nat) : Bool := r.pages.any (fun e => inRun a e.2.addr (r.pageBytes e.2.st))

/-- A session's KV pages, strip, REJECT region or satchel lie over an address. -/
def State.owns (s : State) (x : Session) (a : Nat) : Bool :=
  x.main.owns a || x.draft.owns a || inRun a x.stripAddr 64 || inRun a x.satchel 16384 || inRun a x.strip.qbase s.rejectBytes

/-- A lost word ends its session at the next close with KV_FAULT (0x22). -/
def State.kvFault (s : State) (a : Nat) : State := s.endSessions (fun _ x => s.owns x a) 0x22

/-! ## Pools and quotas (08 R257, R274, R275) -/

/-- Memory pages of STATE class of a tier. -/
def State.statePages (s : State) (far : Bool) : Nat :=
  let rs := s.regions
  let inR := fun (p : Nat × Nat × RClass × Bool) => Nat.min p.2.1 (196608 - p.1)
  let named := sumNat ((rs.filter (fun r => r.2.2.1 == .state && r.2.2.2 == far)).map inR)
  if far then named else named + (196608 - Nat.min 196608 (sumNat (rs.map inR)))

/-- Page slots a session holds in a tier. -/
def Session.slots (x : Session) (far : Bool) : Nat :=
  (x.main.pages.filter (fun e => e.2.st != 0 && e.2.far == far)).length + (x.draft.pages.filter (fun e => e.2.st != 0 && e.2.far == far)).length

/-- The pages that some course is sealing. -/
def State.sealings (s : State) : List Sealing := s.crs.own.sealing ++ s.crs.covered.sealing

/-- NEAR_FREE: sixteen page slots for each near-tier STATE page, less those held and reserved (log entry 30); a page being sealed holds
two. -/
def State.nearFree (s : State) : Nat :=
  16 * s.statePages false - sumNat (s.sessionsOpen.map (fun e => e.2.slots false + e.2.resMain + e.2.resDraft)) -
    sumNat (s.ses.grants.map (·.pages)) - s.sealings.length

/-- Free far-tier slots. -/
def State.farFree (s : State) : Nat := 16 * s.statePages true - sumNat (s.sessionsOpen.map (fun e => e.2.slots true + b2n (e.2.satchel != 0)))

/-- Bytes of a root's page slots in a tier. -/
def Root.bytesIn (r : Root) (far : Bool) : Nat :=
  sumNat ((r.pages.filter (fun e => e.2.far == far)).map (fun e => r.pageBytes e.2.st))

/-- Bytes of the slot that a page being sealed holds beside the one its entry names (R274). -/
def Session.sealBytes (x : Session) (p : Sealing) : Nat :=
  let r := x.root p.draft
  if (r.page p.layer p.page).addr = p.addr then r.openBytes else r.sealedBytes r.form

/-- Near-HBM use of a session in bytes (R274). -/
def State.nearUse (s : State) (slot : Nat) (x : Session) : Nat :=
  sumNat ((s.sealings.filter (fun p => p.slot == slot)).map x.sealBytes) + x.main.bytesIn false + x.draft.bytesIn false + x.resMain * x.main.openBytes + x.resDraft * x.draft.openBytes + 64 +
    (if x.strip.qbase = 0 then 0 else s.rejectBytes)

/-- Far-HBM use of a session in bytes. -/
def Session.farUse (x : Session) : Nat := x.main.bytesIn true + x.draft.bytesIn true + (if x.satchel = 0 then 0 else 16384)

/-- Near use of a stream's tenant in KiB, rounded up (R274), with more bytes asked for: its sessions, and its hand-over reservations. -/
def State.tenantNear (s : State) (covered : Bool) (t more : Nat) : Nat :=
  let held := if covered then [] else s.ses.grants.filter (fun g => g.tenant == t)
  ceilDiv (sumNat ((s.sessionsOpen.filter (fun e => e.2.covered == covered && e.2.tenant == t)).map (fun e => s.nearUse e.1 e.2)) +
    sumNat (held.map (·.bytes)) + more) 1024
/-- Far use of a stream's tenant in KiB, rounded up. -/
def State.tenantFar (s : State) (covered : Bool) (t more : Nat) : Nat :=
  ceilDiv (sumNat ((s.sessionsOpen.filter (fun e => e.2.covered == covered && e.2.tenant == t)).map (fun e => e.2.farUse)) + more) 1024

/-- CORE_BUSY increments, in every window that runs (R270). -/
def State.countBusy (s : State) (n : Nat) : State :=
  { s with ses := { s.ses with engine := s.ses.engine + n, engineOwn := s.ses.engineOwn + n, engineCov := s.ses.engineCov + n } }

/-- Accounting of a stream begins anew: no window runs before the stream opens (log entry 70). -/
def State.newWindow (s : State) (covered : Bool) : State :=
  if covered then { s with ses := { s.ses with engineCov := 0, movedCov := {} }, pwr := { s.pwr with coverSum := 0 } }
  else { s with ses := { s.ses with engineOwn := 0, movedOwn := {} }, pwr := { s.pwr with energySum := 0 } }

/-! ## Places in memory for sessions (R159; 06 R197) -/

/-- Bytes of a root's page table. -/
def Root.tableBytes (r : Root) : Nat := 16 * r.layers * r.ptPages

/-- The runs of bytes a root holds: its page table and its pages' slots. -/
def Root.runs (r : Root) : List (Nat × Nat) :=
  (localOf r.ptBase.toNat, r.tableBytes) :: r.pages.map (fun e => (localOf e.2.addr.toNat, r.pageBytes e.2.st))

/-- The runs of bytes a session holds. -/
def Session.runs (x : Session) (rejectBytes : Nat) : List (Nat × Nat) :=
  x.main.runs ++ x.draft.runs ++ [(localOf x.stripAddr.toNat, 64), (localOf x.satchel.toNat, if x.satchel = 0 then 0 else 16384),
    (localOf x.strip.qbase.toNat, if x.strip.qbase = 0 then 0 else rejectBytes)]

/-- Every run of bytes that is some session's: those of the sessions here and of the images kept, both slots of a page being sealed, the
far slots of pages being parked, and the pages of shipments. -/
def State.heldRuns (s : State) : List (Nat × Nat) :=
  let both := s.ses.table ++ s.mir.image.sessions ++ s.mir.restored.sessions
  both.flatMap (fun e => e.2.runs s.rejectBytes) ++
  s.sealings.flatMap (fun p =>
    let r := (s.session p.slot).root p.draft
    [(localOf p.from_.toNat, r.openBytes), (localOf p.addr.toNat, r.sealedBytes r.form)]) ++
  (s.crs.own.parking ++ s.crs.covered.parking).map (fun p => (localOf p.2.2.2.2.toNat, ((s.session p.1).root p.2.1).openBytes)) ++
  s.ses.shipments.flatMap (fun h => h.pages.map (fun e => (localOf e.2.addr.toNat, h.slotBytes)))

/-- Two runs of bytes share one. -/
def meets (a b : Nat × Nat) : Bool := decide (a.1 < b.1 + b.2) && decide (b.1 < a.1 + a.2)

/-- Every memory page of a run is of STATE class and of a tier. -/
def State.stateRun (s : State) (far : Bool) (a n : Nat) : Bool :=
  (List.range (pageOf (a + n - 1) + 1 - pageOf a)).all (fun k => s.pageClass (pageOf a + k) == .state && s.pageFar (pageOf a + k) == far)

/-- A place for n bytes of a tenant's session (R159, R197): 64-byte aligned, in HBM of STATE class of the tier, in the tenant's windows, and
no other session's. The windows of a covered node's tenants name that node, so they bind the own stream's sessions only (log entry 7). -/
def State.placeOk (s : State) (used : List (Nat × Nat)) (covered : Bool) (tenant : Nat) (far : Bool) (n a : Nat) : Bool :=
  a != 0 && a % 64 == 0 && decide (a + n ≤ hbmTop) && s.stateRun far a n && (covered || s.inWindows tenant a n) && !used.any (meets (a, n))

/-- The next place the control cores' firmware gives to n bytes of a tenant's session: the one it chooses where that is fit, else the first
that is, behind a run in use or at the foot of a window or a region (log entry 7). `more`: runs given out and not yet entered. -/
def State.newSlot (s : State) (covered : Bool) (tenant : Nat) (far : Bool) (n : Nat) (more : List (Nat × Nat) := []) : W64 × State :=
  let used := more ++ s.heldRuns
  let ok := s.placeOk used covered tenant far n
  let first := Config.slotAddr s.ses.slotSerial far
  let feet := used.map (fun r => roundUp (r.1 + r.2) 64) ++ (s.windows tenant).map (fun w => roundUp w.1 64) ++ s.regions.map (fun r => r.1 * 0x200000) ++ [64]
  let a := if ok first.toNat then first else BitVec.ofNat 64 ((feet.find? ok).getD first.toNat)
  (a, { s with ses := { s.ses with slotSerial := s.ses.slotSerial + 1 } })

/-- The places of a session beside its pages: the page tables of its roots, its strip, its REJECT region. -/
structure Places where
  main : W64 := 0
  draft : W64 := 0
  strip : W64 := 0
  reject : W64 := 0
  deriving DecidableEq, Repr

/-- Give a session these places; a root not in use has no page table, and a session in MATCH no REJECT region. -/
def State.newPlaces (s : State) (covered : Bool) (tenant : Nat) (m d : Root) (rej : Bool) : Places × State :=
  let a := s.newSlot covered tenant false m.tableBytes
  let u := [(a.1.toNat, m.tableBytes)]
  let b := a.2.newSlot covered tenant false d.tableBytes u
  let u := (b.1.toNat, d.tableBytes) :: u
  let c := b.2.newSlot covered tenant false 64 u
  let u := (c.1.toNat, 64) :: u
  let q := c.2.newSlot covered tenant false (if rej then s.rejectBytes else 0) u
  ({ main := if m.layers = 0 then 0 else a.1, draft := if d.layers = 0 then 0 else b.1, strip := c.1, reject := if rej then q.1 else 0 }, q.2)

/-- Give a page a slot: an open near one for page j of a layer, ROT_BASE 64j (R162). -/
def State.givePage (s : State) (slot : Nat) (draft : Bool) (layer page : Nat) : State :=
  let x := s.session slot
  let a := s.newSlot x.covered x.tenant false (x.root draft).openBytes
  let t := a.2.putPage slot draft layer page { addr := a.1, rotBase := BitVec.ofNat 32 (64 * page), st := 1, far := false }
  t.editSession slot (fun x => if draft then { x with resDraft := x.resDraft - 1 } else { x with resMain := x.resMain - 1 })

/-! ## Quantisation of KV (05 R152 to R155) -/

/-- A KV scale code is reserved (R152). -/
def halfBad (h : Nat) : Bool := bit h 15 || bits h 14 10 == 31

/-- R153 on values in units of 1 ÷ (2^24 × unit): the codes, the FP16 scale and whether ARITH_RANGE is raised. -/
def kvQuant (q unit : Nat) (xs : List Int) : List Int × Nat × Bool :=
  let m := xs.foldl (fun a x => Nat.max a x.natAbs) 0
  if m = 0 then (xs.map (fun _ => 0), 0, false)
  else
    let h := ceilHalf m (q * unit)
    let beyond := decide (half24 h * q * unit < m)
    (xs.map (fun x =>
      let c := Nat.min q (divEven x.natAbs (half24 h * unit))
      if x < 0 then -(c : Int) else (c : Int)), h, beyond)

/-- An open row's bytes for one head (R154, R158): key codes, value codes, the two scales. -/
def openHead (k v : List W32) : List Byte × Bool :=
  let f := fun (l : List W32) => kvQuant 127 (2 ^ 125) (l.map (fun w => units (fin w).v))
  let a := f k
  let b := f v
  let code := fun (l : List Int) => l.map (fun c => BitVec.ofNat 8 (ofSigned 8 c))
  (code a.1 ++ code b.1 ++ leBytes 2 a.2.1 ++ leBytes 2 b.2.1, a.2.2 || b.2.2 || (k ++ v).any fbad)

/-- Where a stored vector of 64·c elements lies and how its codes are read: codes with the scale of each. -/
structure KvVec where
  codes : List Int
  scales : List Nat
  poison : Bool
  deriving DecidableEq, Repr

/-- A signed byte. -/
def signed8 (b : Byte) : Int := toSigned 8 b.toNat

/-- Read the key (or value) vector of one head at one position through its page entry (R156 to R158, R184). -/
def State.readKv (s : State) (r : Root) (e : PageEntry) (head : Nat) (value : Bool) (row : Nat) : KvVec :=
  let a := localOf e.addr.toNat
  let v := b2n value
  if e.st = 1 then
    let p := s.peek (a + row * r.tr + head * (2 * r.dim + 4)) (2 * r.dim + 4)
    { codes := ((p.1.drop (v * r.dim)).take r.dim).map signed8
      scales := List.replicate (r.dim / 64) (u16 p.1 (2 * r.dim + 2 * v)), poison := p.2 }
  else
    let k4 := e.st == 3
    let per := (List.range (r.dim / 64)).map (fun c =>
      let beta := (2 * head + v) * (r.dim / 64) + c
      let b := if k4 then 2048 else 4096
      let d := s.peek (a + beta * b + row * (if k4 then 32 else 64)) (if k4 then 32 else 64)
      let sc := s.peek (a + r.nb * b + 2 * beta) 2
      let codes := if k4 then (d.1.map (fun x => [toSigned 4 (x.toNat % 16), toSigned 4 (x.toNat / 16)])).flatten else d.1.map signed8
      (codes, ofLe sc.1, d.2 || sc.2))
    { codes := (per.map (·.1)).flatten, scales := per.map (·.2.1), poison := per.any (·.2.2) }

/-- Exact values of a vector in units of 2^−24, reserved scales giving 0 (R152). -/
def KvVec.exact (k : KvVec) : List Int :=
  (List.range k.codes.length).map (fun i =>
    let h := k.scales.getD (i / 64) 0
    if halfBad h then 0 else k.codes.getD i 0 * (half24 h : Int))



/-- Pack a block's codes as bytes or nibbles (R157). -/
def packCodes (k4 : Bool) (l : List Int) : List Byte :=
  if k4 then (List.range (l.length / 2)).map (fun i =>
    BitVec.ofNat 8 (ofSigned 4 (l.getD (2 * i) 0) + 16 * ofSigned 4 (l.getD (2 * i + 1) 0)))
  else l.map (fun c => BitVec.ofNat 8 (ofSigned 8 c))

/-- A sealed page made out of 64 exact rows (R155, R156): `rows head value row` gives the exact values in units of 2^−24. -/
def sealPage (r : Root) (k4 : Bool) (rows : Nat → Bool → Nat → List Int) : List Byte × Bool :=
  let blocks := (List.range r.heads).flatMap (fun h => [false, true].flatMap (fun v => (List.range (r.dim / 64)).map (fun c =>
    kvQuant (if k4 then 7 else 127) 1 ((List.range 64).flatMap (fun row => ((rows h v row).drop (64 * c)).take 64)))))
  ((blocks.map (fun b => packCodes k4 b.1)).flatten ++
    fit (roundUp (2 * r.nb) 64) ((blocks.map (fun b => leBytes 2 b.2.1)).flatten), blocks.any (fun b => b.2.2))

/-- The rows of a page, each read once. A row or block whose scale code is reserved gives zeros, as it does to a score (R152); sealing and
KV_REPACK raise no ARITH_SCALE for it (DESIGN CHOICE, log entry 27: R155 says neither). -/
def State.pageRows (s : State) (r : Root) (e : PageEntry) : Nat → Bool → Nat → List Int :=
  fun h v row => (s.readKv r e h v row).exact

end Sys2Proof.Machine
end

