-- ==== Sys2Proof/Machine/MlDsa.lean ====
section
/-! DEFINITION. ML-DSA-44 verification, pure form with the empty context string, the FIPS 204 function that 10_weights_and_tannery.md R316
names. A polynomial is its 256 coefficients modulo q; the transform gives its values at the odd powers of zeta. -/

namespace Sys2Proof.Machine.MlDsa

/-- The modulus. -/
def q : Nat := 8380417
/-- Twice gamma2: the width of a high-bits class. -/
def width : Nat := 190464

/-- Sum of two polynomials. -/
def add (a b : List Nat) : List Nat := List.zipWith (fun x y => (x + y) % q) a b
/-- Difference of two polynomials. -/
def sub (a b : List Nat) : List Nat := List.zipWith (fun x y => (x + (q - y)) % q) a b
/-- Product coefficient by coefficient. -/
def mul (a b : List Nat) : List Nat := List.zipWith (fun x y => x * y % q) a b

/-- The first n powers of b. -/
def powers (b : Nat) (n : Nat) : List Nat := ((List.range n).foldl (fun (acc : List Nat × Nat) _ => (acc.2 :: acc.1, acc.2 * b % q)) ([], 1)).1.reverse

/-- The powers of zeta, the 512th root of unity 1753. -/
def zetas : List Nat := powers 1753 512

/-- The eight bits of a number in reverse. -/
def bitRev (i : Nat) : Nat := (List.range 8).foldl (fun acc j => 2 * acc + i / 2 ^ j % 2) 0

/-- Value of a polynomial at b. -/
def value (a : List Nat) (b : Nat) : Nat := a.foldr (fun c acc => (c + b * acc) % q) 0

/-- The transform: entry i is the value at zeta to the power 2 bitRev i + 1. -/
def ntt (a : List Nat) : List Nat := (List.range 256).map (fun i => value a (zetas.getD (2 * bitRev i + 1) 0))

/-- The polynomial of a transform: 8347681 is the inverse of 256. -/
def inverse (t : List Nat) : List Nat :=
  let u := (List.range 256).map (fun m => t.getD (bitRev m) 0)
  (List.range 256).map (fun j =>
    let w := value u (zetas.getD ((1024 - 2 * j) % 512) 0)
    w * zetas.getD ((512 - j) % 512) 0 % q * 8347681 % q)

/-- Fields of w bits, least significant first. -/
def unpack (w n : Nat) (l : List Byte) : List Nat := let v := ofLe l; (List.range n).map (fun i => v / 2 ^ (w * i) % 2 ^ w)

/-- The uniform polynomial of a seed: three bytes make a candidate of 23 bits, those below q are taken. -/
def uniform (seed : List Byte) : List Nat :=
  ((unpack 24 672 (shake128 seed 2016)).map (· % 2 ^ 23)).filter (fun c => decide (c < q)) |>.take 256

/-- The challenge of 39 signs that a commitment hash stands for. -/
def challenge (c : List Byte) : List Nat :=
  let h := shake256 c 1088
  let signs := fieldLe h 0 8
  let step := fun (acc : List Nat × List Byte) (i : Nat) =>
    let rest := acc.2.dropWhile (fun b => decide (b.toNat > i))
    let j := (rest.headD 0).toNat
    let p := setAt acc.1 i (acc.1.getD j 0)
    (setAt p j (if signs / 2 ^ (i - 217) % 2 = 1 then q - 1 else 1), rest.drop 1)
  (((List.range 39).map (217 + ·)).foldl step (List.replicate 256 0, h.drop 8)).1

/-- Positions of one polynomial's hints: strictly rising. -/
def rising : List Nat → Bool
  | [] => true
  | [_] => true
  | a :: b :: r => decide (a < b) && rising (b :: r)

/-- The hints of the four polynomials, none when they are not in their one form. -/
def hints (l : List Byte) : Option (List (List Nat)) :=
  let n := l.map BitVec.toNat
  let ends := (List.range 4).map (fun i => n.getD (80 + i) 0)
  let starts := 0 :: ends
  let parts := (List.range 4).map (fun i => ((n.take (ends.getD i 0)).drop (starts.getD i 0)))
  let used := ends.getD 3 0
  if (List.range 4).all (fun i => decide (starts.getD i 0 ≤ ends.getD i 0)) && decide (used ≤ 80) && parts.all rising &&
    ((n.take 80).drop used).all (· == 0) then some parts else none

/-- High bits of a coefficient, one up or down where a hint stands. -/
def useHint (hint : Bool) (r : Nat) : Nat :=
  let low := r % width
  let up := decide (low > width / 2)
  let top := if up then r / width + 1 else r / width
  -- the class of q - 1 is 0, with a remainder below 0
  let high := if top = 44 then 0 else top
  let below := up || low == 0
  if !hint then high else if below then (high + 43) % 44 else (high + 1) % 44

/-- Norm of a coefficient modulo q. -/
def norm (c : Nat) : Nat := Nat.min c (q - c)

/-- Verification of a signature over a message by a key. -/
def verify (key msg sig : List Byte) : Bool :=
  match hints (slice sig 2336 84) with
  | none => false
  | some hs =>
    let rho := slice key 0 32
    let z := (List.range 4).map (fun i => (unpack 18 256 (slice sig (32 + 576 * i) 576)).map (fun v => (131072 + q - v) % q))
    let zs := z.map ntt
    let c := slice sig 0 32
    let cs := ntt (challenge c)
    let w := (List.range 4).map (fun r =>
      let t := ntt ((unpack 10 256 (slice key (32 + 320 * r) 320)).map (fun v => v * 8192 % q))
      let az := (List.range 4).foldl (fun acc s => add acc (mul (uniform (rho ++ leBytes 1 s ++ leBytes 1 r)) (zs.getD s []))) (List.replicate 256 0)
      let p := inverse (sub az (mul cs t))
      (List.range 256).map (fun j => useHint ((hs.getD r []).contains j) (p.getD j 0)))
    let packed := (w.map (fun p => leBytes 192 (p.foldr (fun v acc => v + 64 * acc) 0))).flatten
    let mu := shake256 (shake256 key 64 ++ zeros 2 ++ msg) 64
    z.all (fun p => p.all (fun v => decide (norm v < 130994))) && shake256 (mu ++ packed) 32 == c

end Sys2Proof.Machine.MlDsa
end

