-- ==== Sys2Proof/Machine/Security.lean ====
section
/-! DEFINITION. The security engine: firmware images, keystone records, attestation, calibration, self-test and flash writes
(17_boot_security_calibration.md R555 to R583; 16 R530). -/

namespace Sys2Proof.Machine

/-- All bytes are zero. -/
def allZero (l : List Byte) : Bool := l.all (· == 0)

/-! ## Firmware images (R557, R558) -/

/-- SVN of an image. -/
def imgSvn (i : List Byte) : Nat := u16 i 0x006
/-- The keystone firmware part. -/
def imgKs (i : List Byte) : List Byte := slice i (u32 i 0x010) (u32 i 0x014)
/-- The runtime firmware part. -/
def imgRt (i : List Byte) : List Byte := slice i (u32 i 0x018) (u32 i 0x01C)

/-- The fixed fields match Table 17.2. -/
def imgFixed (i : List Byte) : Bool :=
  u32 i 0 == 0x46574C58 && u16 i 4 == 1 && decide (imgSvn i ≤ 63) && decide (u32 i 8 ≤ 1) && u32 i 0x0C == 0 &&
    decide (0x1000 ≤ u32 i 0x10) && decide (u32 i 0x10 + u32 i 0x14 ≤ 0x1000000) &&
    decide (0x1000 ≤ u32 i 0x14) && decide (u32 i 0x14 ≤ 0x100000) &&
    decide (0x1000 ≤ u32 i 0x18) && decide (u32 i 0x18 + u32 i 0x1C ≤ 0x1000000) &&
    decide (0x1000 ≤ u32 i 0x1C) && decide (u32 i 0x1C ≤ 0xE00000) && allZero (slice i 0x80 128)

/-- The number of the first condition of R558 that an image fails, 0 when it is valid. -/
def State.imageFault (s : State) (i : List Byte) : Nat :=
  let key := slice i 0x100 1312
  let fpr := sha3 key
  if !imgFixed i then 1
  else if fpr != Config.romFingerprint false && fpr != Config.romFingerprint true then 2
  else if !MlDsa.verify key (sha3 (slice i 0 0x620)) (slice i 0x620 2420) then 3
  else if imgSvn i < s.sec.fuses then 4
  else if sha3 (imgKs i) != slice i 0x20 32 || sha3 (imgRt i) != slice i 0x40 32 then 5
  else 0

/-- A flash slot's image. -/
def SecUnit.slot (u : SecUnit) (b : Bool) : List Byte := if b then u.fwB else u.fwA

/-- A flash write runs (R556): a further one is refused with BUSY. -/
def State.flashBusy (s : State) : Bool := s.sec.job.isSome || s.dict.imaging.isSome

/-- States in which the security engine takes no update (R560; R530 for DICT_STORE). -/
def PkgState.noFlash (p : PkgState) : Bool :=
  match p with
  | .off | .halt | .boot | .align | .stopped | .grave => true
  | _ => false

/-- What the ROM does with a slot whose image is valid: its parts are copied to hub SRAM and the keystone firmware runs. -/
def State.bootFrom (s : State) (b fallback : Bool) : State :=
  let i := s.sec.slot b
  { s with sec := { s.sec with
      slotB := b, fallback := fallback, stage := .keystone, ksFirmware := imgKs i, rtFirmware := imgRt i
      commitSvn := bit (u32 i 8) 0, imageSvn := imgSvn i } }.setBlob O.firmwareVersion
        (((slice i 0x60 32).reverse.dropWhile (· == 0)).reverse)

/-- The boot ROM stage (R562). -/
def State.bootRom (s : State) : State :=
  let b := s.sec.selector
  if s.imageFault (s.sec.slot b) = 0 then s.bootFrom b false
  else if s.imageFault (s.sec.slot (!b)) = 0 then s.bootFrom (!b) true
  else { s with sec := { s.sec with fallback := true } }.raise srcSec 0 0x90 4 0

/-- A write to FW_UPDATE of length n (R560). -/
def State.fwUpdate (s : State) (n : Nat) : Nat × State :=
  if s.pkg.st.noFlash then (Err.state, s)
  else if s.flashBusy then (Err.busy, s)
  else
    let img := (s.peek (s.num O.fwStageBase) n).1
    let f := s.imageFault img
    if f ≠ 0 then (Err.ok, (s.setNum O.fwUpdateState 4).setNum O.fwUpdateStatus f)
    else (Err.ok, ({ s with sec := { s.sec with job := some (.firmware img) } }.setNum O.fwUpdateState 2).setNum O.fwUpdateStatus 0)

/-! ## Keystone records (R566, R569 to R571) -/

/-- An entry of a keystone record. -/
structure KsEntry where
  key : Nat
  typ : Nat
  val : List Byte
  deriving DecidableEq, Repr

/-- Parse n entries; the rest of the bytes, or none when one runs past them or a reserved byte is not zero. -/
def ksEntries : Nat → List Byte → Option (List KsEntry × List Byte)
  | 0, l => some ([], l)
  | n + 1, l =>
    let len := u16 l 4
    let size := 8 + roundUp len 8
    if l.length < size || u16 l 6 != 0 || !allZero ((l.drop (8 + len)).take (roundUp len 8 - len)) then none
    else
      match ksEntries n (l.drop size) with
      | none => none
      | some (es, r) => some ({ key := u16 l 0 * 256 + u8 l 2, typ := u8 l 3, val := (l.drop 8).take len } :: es, r)

/-- The record meets R569 and Table 17.5, and its length equals BYTES. -/
def ksParse (rec : List Byte) : Option (List KsEntry) :=
  if u32 rec 0 == 0x4E54534B && u16 rec 4 == 1 && decide (u16 rec 6 ≤ 4096) && u32 rec 8 != 0 && u32 rec 0xC == rec.length &&
      decide (rec.length ≤ 65536) && decide (64 + 3732 ≤ rec.length) && decide (u64 rec 0x30 < 2 ^ 48) && u64 rec 0x38 == 0 then
    match ksEntries (u16 rec 6) ((rec.take (rec.length - 3732)).drop 64) with
    | some (es, []) => some es
    | _ => none
  else none

/-- The signer's key, and the signature verifies over everything before it. -/
def ksKey (rec : List Byte) : List Byte := slice rec (rec.length - 3732) 1312
/-- The signature verifies. -/
def ksSigned (rec : List Byte) : Bool :=
  MlDsa.verify (ksKey rec) (sha3 (rec.take (rec.length - 2420))) (slice rec (rec.length - 2420) 2420)
/-- SERIAL is 0 or the package's own. -/
def ksSerial (rec : List Byte) : Bool := u64 rec 0x30 == 0 || u64 rec 0x30 == Config.serial.toNat

/-- A slot holds a valid record (R570). -/
def ksValid (rec : List Byte) : Bool := (ksParse rec).isSome && ksSigned rec && ksSerial rec

/-- Objects of Table 17.4. -/
def ksObject (key : Nat) : Bool :=
  (decide (0x103001 ≤ key) && decide (key ≤ 0x10300E)) || (decide (0x470000 ≤ key) && decide (key ≤ 0x470010)) ||
  (decide (0x701400 ≤ key) && decide (key ≤ 0x7017FF)) || (decide (0x801000 ≤ key) && decide (key ≤ 0x801010)) || key == 0x803001 ||
  (decide (0x8200 ≤ key / 256) && decide (key / 256 ≤ 0x82FF) && decide (1 ≤ key % 256) && decide (key % 256 ≤ 5))

/-- An entry's value in the form of its object. -/
def KsEntry.obj (e : KsEntry) : ObjVal :=
  match objRow e.key with
  | some r => if !r.isBytes && e.val.length == typeBytes r.ty then .num (ofLe e.val) else .bytes e.val
  | none => .bytes e.val

/-- An entry passes checks 5 and 6 of Table 16.4. -/
def State.ksEntryOk (s : State) (e : KsEntry) : Bool :=
  match objRow e.key with
  | none => false
  | some r => s.valueError r e.key e.typ e.obj == Err.ok

/-- The record in use. -/
def SecUnit.ksRecord (u : SecUnit) : List Byte :=
  match u.ksUsed with
  | none => []
  | some b => if b then u.ks1 else u.ks0

/-- Write a record's entries to the objects of Table 17.4, through the control-core path (R563). -/
def State.applyKeystone (s : State) (es : List KsEntry) : State :=
  (es.filter (fun e => ksObject e.key)).foldl (fun t e =>
    let code := t.writeError (.control 0) e.key e.typ e.obj
    (if code = Err.ok then t.storeVal e.key e.obj else t).recordResult e.key code) s

/-- Set KEYSTONE_LOCK, and hand control to the runtime firmware. -/
def State.lockKeystone (s : State) : State := { s with sec := { s.sec with lock := true, stage := .runtimeLoad } }

/-- Select the keystone record and write its values (R563, R570). -/
def State.selectKeystone (s : State) : State :=
  let v0 := ksValid s.sec.ks0
  let v1 := ksValid s.sec.ks1
  let bad := fun (t : State) (b : Bool) => t.raise srcSec 0 0x92 1 (if b then 0x02010000 else 0x02000000)
  if v0 || v1 then
    let use1 := v1 && (!v0 || decide (u32 s.sec.ks1 8 > u32 s.sec.ks0 8))
    let rec_ := if use1 then s.sec.ks1 else s.sec.ks0
    let s := { s with sec := { s.sec with ksMode := 0, ksUsed := some use1 } }
    let s := s.setNum O.keystoneGeneration (u32 rec_ 8)
    let s := s.applyKeystone ((ksParse rec_).getD [])
    let s := if !v0 && !s.sec.ks0.isEmpty then bad s false else s
    if !v1 && !s.sec.ks1.isEmpty then bad s true else s
  else if s.sec.ks0.isEmpty && s.sec.ks1.isEmpty then { s with sec := { s.sec with ksMode := 1, ksUsed := none } }
  else
    let s := { s with sec := { s.sec with ksMode := 2, ksUsed := none } }
    (List.range 10).foldl (fun t i => t.setNum (O.dictAccess i) 1) s

/-- OWNER_FPR of the record in use. -/
def State.ownerFpr (s : State) : List Byte := if s.sec.ksMode = 0 then slice s.sec.ksRecord 0x10 32 else zeros 32

/-- Number of the first check of R571 that a pending record fails, 0 when it passes. -/
def State.ksPendingFault (s : State) (rec : List Byte) : Nat :=
  match ksParse rec with
  | none => 1
  | some es =>
    if !ksSerial rec then 2
    else if u32 rec 8 ≤ s.num O.keystoneGeneration then 3
    else if sha3 (ksKey rec) != (if s.sec.ksMode = 1 then slice rec 0x10 32 else s.ownerFpr) then 4
    else if !ksSigned rec then 5
    else if es.any (fun e => !ksObject e.key || !s.ksEntryOk e) || !((es.map (·.key)).eraseDups.length == es.length) then 6
    else 0

/-- A write to KEYSTONE_PENDING (R571). -/
def State.keystonePending (s : State) (rec : List Byte) : Nat × State :=
  if s.sec.ksMode = 2 then (Err.range, s)
  else if s.flashBusy then (Err.busy, s)
  else
    let f := s.ksPendingFault rec
    let s := s.setNum O.keystoneStatus f
    if f ≠ 0 then (Err.range, s) else (Err.ok, { s with sec := { s.sec with job := some (.keystone rec) } })

/-! ## Attestation (R573, Table 17.6) -/

/-- Codes of Table 10.4. -/
def CopyState.code : CopyState → Nat
  | .absent => 0
  | .loading => 1
  | .ready => 2
  | .live => 3
  | .outgoing => 4

/-- CAL_ACTIVE_DIGEST: of the set in use, zero on safe defaults. -/
def State.calDigest (s : State) : List Byte := if s.sec.calUse.isEmpty then zeros 32 else sha3 s.sec.calUse

/-- KEYSTONE_DIGEST: of the record in use, zero unless RECORD. -/
def State.ksDigest (s : State) : List Byte := if s.sec.ksMode = 0 ∧ s.sec.ksUsed.isSome then sha3 s.sec.ksRecord else zeros 32

/-- Bytes 0x000 to 0x13F of the report. -/
def State.attestBody (s : State) (nonce : List Byte) : List Byte :=
  leBytes 4 0x52545341 ++ leBytes 2 1 ++ leBytes 2 (b2n s.sec.fallback + 2 * b2n s.sec.calDefaults + 4 * s.sec.ksMode) ++
  leBytes 8 Config.serial.toNat ++ leBytes 8 (if s.clk.mode = .locked then s.clk.tick.toNat else 0) ++ leBytes 4 s.node.toNat ++
  leBytes 1 s.pkg.st.code ++ zeros 3 ++ fit 32 nonce ++ sha3 s.sec.ksFirmware ++ sha3 s.sec.rtFirmware ++ s.ksDigest ++ s.calDigest ++
  fit 32 s.ownerFpr ++ fit 32 s.wts.k0.digest ++ fit 32 s.wts.k1.digest ++ leBytes 4 s.wts.k0.epoch.toNat ++
  leBytes 4 s.wts.k1.epoch.toNat ++ leBytes 1 s.wts.k0.st.code ++ leBytes 1 s.wts.k1.st.code ++ leBytes 1 s.sec.fuses ++ zeros 1 ++
  leBytes 2 s.sec.imageSvn ++ zeros 2 ++ leBytes 4 (s.num O.keystoneGeneration) ++ zeros 12

/-- SILICON_STEP: the stepping letter and the metal revision (16 R608). -/
def siliconStep : Nat := (0x41 + Config.siliconStep.toNat / 256 % 26) * 256 + Config.siliconStep.toNat % 256

/-- DEVICE_CERT (R572). -/
def deviceCert : List Byte :=
  leBytes 8 Config.serial.toNat ++ leBytes 8 Config.mac.toNat ++ leBytes 2 siliconStep ++ zeros 6 ++ fit 1312 Config.deviceKey ++
    fit 32 Config.issuerFpr ++ fit 2420 Config.certSignature

/-- A write to ATTEST_NONCE (R573). -/
def State.attestNonce (s : State) (nonce : List Byte) : Nat × State :=
  if s.num O.attestState = 1 then (Err.busy, s)
  else (Err.ok, { s with sec := { s.sec with attest := some (s.attestBody nonce) } }.setNum O.attestState 1)

/-- ATTEST_DONE: the signed report is written and ATTEST_STATE becomes 2 (R573). -/
def attestDone (s : State) : State :=
  match s.sec.attest with
  | none => s
  | some b => ({ s with sec := { s.sec with attest := none } }.setBlob O.attestReport (b ++ fit 2420 (Config.deviceSign (sha3 b)))).setNum O.attestState 2

/-! ## Calibration (R574 to R576) -/

/-- Issue cap of an operating point (14 Table 14.4). -/
def issueCap (p : Nat) : Nat :=
  match p with
  | 0 => 24
  | 1 => 48
  | 4 => 48
  | 6 => 48
  | _ => 64

/-- A signed U16 field of a calibration set. -/
def i16 (l : List Byte) (o : Nat) : Int := toSigned 16 (u16 l o)

/-- A set meets Table 17.7, SERIAL and digest included. -/
def calOk (c : List Byte) : Bool :=
  c.length == 43776 && u32 c 0 == 0x4C414343 && u16 c 4 == 1 && u16 c 6 == 0 && u32 c 8 == 43776 && u32 c 0xC == 0 &&
  u64 c 0x10 == Config.serial.toNat && allZero (slice c 0x18 40) &&
  (List.range 512).all (fun i => allZero (slice c (0x40 + 80 * i + 72) 8)) &&
  (List.range 52).all (fun i => decide (-160 ≤ i16 c (0xAA40 + 2 * i)) && decide (i16 c (0xAA40 + 2 * i) ≤ 160)) &&
  (List.range 9).all (fun i => decide (-50 ≤ i16 c (0xAAA8 + 2 * i)) && decide (i16 c (0xAAA8 + 2 * i) ≤ 50)) &&
  (List.range 8).all (fun i => decide (1 ≤ u8 c (0xAABA + i)) && decide (u8 c (0xAABA + i) ≤ issueCap i)) &&
  allZero (slice c 0xAAC2 30) && sha3 (c.take 0xAAE0) == slice c 0xAAE0 32

/-- Safe SUSTAIN_LEVEL of a point (Table 17.8). -/
def safeSustain (p : Nat) : Nat := [24, 40, 48, 48, 40, 48, 32, 24].getD p 24

/-- SUSTAIN_LEVEL of a point: of the set in use, or the safe default. -/
def State.sustain (s : State) (p : Nat) : Nat := if s.sec.calUse.isEmpty then safeSustain p else u8 s.sec.calUse (0xAABA + p)

/-- Sensor offset in 1/16 °C: sensors 0 to 35, then stacks (36 to 51); 8 °C is added to every reading on safe defaults. -/
def State.sensorOffset (s : State) (i : Nat) : Int := if s.sec.calUse.isEmpty then 128 else i16 s.sec.calUse (0xAA40 + 2 * i)

/-- Plinth trim in mV: points 0 to 7, then VMEM. -/
def State.trim (s : State) (i : Nat) : Int := if s.sec.calUse.isEmpty then 0 else i16 s.sec.calUse (0xAAA8 + 2 * i)

/-- The runtime firmware's check of the set (R576). -/
def State.checkCal (s : State) : State :=
  if calOk s.sec.cal then { s with sec := { s.sec with calUse := s.sec.cal } }
  else ({ s with sec := { s.sec with calDefaults := true } }.setNum O.calState 1).raise srcSec 0 0x91 1 0

/-- A write to CAL_WRITE (R575). -/
def State.calWrite (s : State) (set : List Byte) : Nat × State :=
  if s.pkg.st ≠ .drained then (Err.notDrained, s)
  else if s.flashBusy then (Err.busy, s)
  else if !calOk set then (Err.range, s)
  else (Err.ok, { s with sec := { s.sec with job := some (.calibration set) } })

/-! ## The end of a flash write -/

/-- FLASH_WRITE_DONE: the write in progress has been read back, well or not (R560, R571, R575). -/
def flashWriteDone (s : State) (good : Bool) : State :=
  match s.sec.job with
  | none => s
  | some (.firmware img) =>
    let s := { s with sec := { s.sec with
        job := none
        fwA := if s.sec.slotB then (if good then img else []) else s.sec.fwA
        fwB := if s.sec.slotB then s.sec.fwB else (if good then img else [])
        selector := if good then !s.sec.slotB else s.sec.selector } }
    if good then s.setNum O.fwUpdateState 3 else (s.setNum O.fwUpdateState 4).setNum O.fwUpdateStatus 5
  | some (.keystone rec) =>
    let to1 := s.sec.ksUsed == some false
    { s with sec := { s.sec with
        job := none
        ks0 := if to1 then s.sec.ks0 else if good then rec else s.sec.ks0
        ks1 := if to1 then (if good then rec else s.sec.ks1) else s.sec.ks1 } }
  | some (.calibration set) => { s with sec := { s.sec with job := none, cal := if good then set else s.sec.cal } }

/-! ## Intrusive tests (R579 to R581) and the result of a core's test (R578) -/

/-- Another intrusive test runs. -/
def State.testRunning (s : State) : Bool :=
  s.num O.marginState == 1 || s.num O.escanState == 1 || s.num O.fbistState == 1

/-- A write that starts an intrusive test (R311, R579): refused with NOT_DRAINED, or with BUSY while another runs. -/
def State.testRefusal (s : State) : Nat :=
  if s.pkg.st ≠ .drained then Err.notDrained else if s.testRunning then Err.busy else Err.ok

/-- ESCAN_START: each named port goes to DISABLED (R580). -/
def State.escanStart (s : State) : Nat × State :=
  let e := s.testRefusal
  if e ≠ Err.ok then (e, s)
  else (Err.ok, (onBits 19 (s.num O.escanPorts)).foldl (fun t p => t.putPort p { (t.port p).down with st := .disabled }) (s.setNum O.escanState 1))

/-- ESCAN_DONE: one entry a lane, its margins free values; each port retrains (R580). -/
def escanDone (s : State) : State :=
  if s.num O.escanState ≠ 1 then s
  else
    let ports := onBits 19 (s.num O.escanPorts)
    let lanes := (ports.map (fun p => (List.range 8).map (fun l => (p, l)))).flatten
    let r := lanes.foldl (fun (acc : List Byte × State) x =>
      let d := acc.2.drawBytes 4
      (acc.1 ++ leBytes 1 x.1 ++ leBytes 1 x.2 ++ d.1 ++ zeros 2, d.2)) ([], s)
    (r.2.freeScanned.setBlob O.escanResult r.1).setNum O.escanState 2

/-- FBIST_START (R579, R581). -/
def State.fbistStart (s : State) : Nat × State :=
  let e := s.testRefusal
  if e ≠ Err.ok then (e, s) else (Err.ok, s.setNum O.fbistState 1)

/-- Set the bits of a list of cores in a 48-byte bitmap. -/
def coreBitmap (l : List (Fin 384)) : List Byte := leBytes 48 (l.foldl (fun a c => a ||| 2 ^ c.val) 0)

/-- FBIST_DONE: SRAM and HBM contents are gone, every copy is ABSENT, HBM is initialised, and the result is reported
(R581). -/
def fbistDone (s : State) (failed : List (Fin 384)) (stores : BitVec 4) (hbm : BitVec 16) (errors : W32) : State :=
  if s.num O.fbistState ≠ 1 then s
  else
    let s := { s with mem := { s.mem with mem := [], chk := [], tags := [], sramChk := [], merge := [] }, wts := { s.wts with k0 := {}, k1 := {} } }
    let s := (s.setBlob O.fbistResult (fit 64 (coreBitmap failed ++ leBytes 1 stores.toNat ++ leBytes 2 hbm.toNat ++ leBytes 4 errors.toNat))).setNum O.fbistState 2
    failed.foldl (fun t c => t.raise c.val 0 0x93 2 0) s

/-- A core's running state. -/
def State.coreAt (s : State) (g : Nat) : Core := SMap.get {} s.cred.cores g
/-- Replace a core's running state. -/
def State.setCore (s : State) (g : Nat) (c : Core) : State := { s with cred := { s.cred with cores := SMap.set {} s.cred.cores g c } }

/-- SELFTEST_DONE of the core in TEST (R578): a pass sets REJOIN, a failure leaves it WITHDRAWN until the next reset. -/
def selftestDone (s : State) (g : Nat) (pass : Bool) : State :=
  let c := s.coreAt g
  if c.st ≠ .test then s
  else if pass then
    (s.setCore g { c with rejoin := true, awaitTest := false }).bump O.selftestPasses 64
  else
    let old := ofLe (s.blob O.selftestFailed)
    ((s.setCore g { c with st := .withdrawn, failed := true, awaitTest := false }).setBlob O.selftestFailed
      (leBytes 48 (old ||| 2 ^ g))).raise g 0 0x93 2 0

/-! ## The commands -/

/-- ATTEST_DONE. -/
def execAttestDone (s : State) : Host.Outcome State Fault Refusal :=
  .next (attestDone s)
/-- ESCAN_DONE. -/
def execEscanDone (s : State) : Host.Outcome State Fault Refusal :=
  .next (escanDone s)
/-- FLASH_WRITE_DONE. -/
def execFlashWriteDone (good : Bool) (s : State) : Host.Outcome State Fault Refusal :=
  .next (flashWriteDone s good)
/-- FBIST_DONE. -/
def execFbistDone (failedCores : List (Fin 384)) (stores : BitVec 4) (hbm : BitVec 16) (errors : W32) (s : State) : Host.Outcome State Fault Refusal :=
  .next (fbistDone s failedCores stores hbm errors)
/-- SELFTEST_DONE. -/
def execSelftestDone (q : Fin 4) (nn : Fin 96) (pass : Bool) (s : State) : Host.Outcome State Fault Refusal :=
  .next (selftestDone s (q.val * 96 + nn.val) pass)

end Sys2Proof.Machine
end

