-- ==== Sys2Proof/Machine/Hbm.lean ====
section
/-! DEFINITION. The memory commands: HBM and SRAM reads and writes, twin recovery, scrub windows, the region table, the error logs
and margining (09_stacked_memory.md R279 to R313). -/

namespace Sys2Proof.Machine

/-- Global number of a core. -/
def coreNo (q : Fin 4) (nn : Fin 96) : Nat := q.val * 96 + nn.val

/-- Answer a waiting requester of a word. -/
def State.deliver (s : State) (who : Requester) (w : Nat) (d : List Byte) (poisoned : Bool) : State :=
  let d := match s.mem.entryOf w with
    | some e => if poisoned then d else overlay d e
    | none => d
  { s with mem := { s.mem with reply := some { who := who, addr := w, data := d, poisoned := poisoned, late := false } } }

/-- HBM_READ of the word that holds an address: what the array returns at the first reading and at the re-read come with the
command (R284, R292, R295, R296, R300). -/
def hbmRead (s : State) (who : Requester) (addr : BitVec 47) (first again : RawRead) : State :=
  let w := addr.toNat / 32 * 32
  if space w ≠ .hbm then s
  else match s.readPath w 0 (some who) first again with
    | (.bytes d, t) => t.deliver who w d false
    | (.poisoned, t) => t.deliver who w (zeros 32) true
    | (_, t) => t

/-- META a write by a requester carries (R287): a core's running instance gives the parity of its course and its scale; the router engine's
writes for a transfer are part of EXPERT_TRANSFER and EXPERT_RETURN, and carry its course's. -/
def State.writerTag (s : State) (who : Requester) (scaleExp : Byte) : BitVec 16 :=
  match who with
  | .core q nn =>
    let odd := match (s.coreAt (coreNo q nn)).running with
      | some e => e.odd
      | none => s.oddNow
    mkTag odd scaleExp.toNat
  | _ => mkTag s.oddNow 0

/-- HBM_WRITE (R290 to R293). -/
def hbmWrite (s : State) (who : Requester) (addr : BitVec 47) (data : List Byte) (scaleExp : Byte) : State :=
  if space addr.toNat = .hbm ∧ addr.toNat + data.length ≤ hbmTop then s.hbmPut addr.toNat data (s.writerTag who scaleExp) else s

/-- MERGE_TIMEOUT: the oldest entry of a stack's merge buffer is written (R291). -/
def mergeTimeout (s : State) (stack : Fin 16) (first again : RawRead) : State :=
  match s.mem.entries stack.val with
  | [] => s
  | e :: _ => s.flushEntry e first again

/-- Deliver to every requester that waits for a word of a granule. -/
def State.deliverWaiters (s : State) (ws : List TwinWait) (poisoned : Bool) : State :=
  ws.foldl (fun t x => match x.who with
    | some who => t.deliver who x.word (if poisoned then zeros 32 else t.mem.word x.word) poisoned
    | none => t) s

/-- The read-modify-writes that wait for a granule go on: with the recovered word, or into a poisoned one (R293). -/
def State.resumeMerges (s : State) (ws : List TwinWait) (ok : Bool) : State :=
  (ws.filter (fun x => x.source == 1)).foldl (fun t x => match t.mem.entryOf x.word with
    | some e => if ok then t.flushEntry e {} {} else t.storeMerged e
    | none => t) s

/-- TWIN_DATA for a granule (R296, R297): on success its eight words are rewritten and re-read. `again` is the re-read of the
word first waited for. -/
def twinData (s : State) (addr : BitVec 47) (ok : Bool) (granule : List Byte) (again : RawRead) : State :=
  let g := addr.toNat / 256 * 256
  let ws := s.mem.waits.filter (fun x => x.word / 256 * 256 == g)
  match ws with
  | [] => s
  | w0 :: _ =>
    let s := { s with mem := { s.mem with waits := s.mem.waits.filter (fun x => x.word / 256 * 256 != g) } }
    let words := (List.range 8).map (fun i => g + 32 * i)
    let good := ok && granule.length == 256
    let s := if good then words.foldl (fun t w => t.storeWord w ((granule.drop (w - g)).take 32) 0) s else s
    let rawOf := fun (w : Nat) => if w = w0.word then again else ({} : RawRead)
    let bad := words.filter (fun w => (s.reading w (rawOf w)).cls != .clean || (!good && ws.any (fun x => x.word == w)))
    if good && bad.isEmpty then
      ((((s.bump O.twinRecoveries).hbmRecord w0.word 5 w0.source 0).memFault w0.word 0x41 1).deliverWaiters ws false).resumeMerges ws true
    else
      let s := bad.foldl (fun t w => t.poisonWord w (t.mem.word w) w0.source) s
      let s := { s with mem := { s.mem with lost := (s.mem.lost ++ bad).eraseDups } }
      ((s.unrecovered w0.word).deliverWaiters ws true).resumeMerges ws false

/-- The stream a session runs in. -/
def State.streamOf (s : State) (covered : Bool) : Stream := if covered then s.crs.covered else s.crs.own

/-- FAR_READ_DEADLINE: the read of a far page of a session's main or draft root, unserved at its deadline tick, is answered LATE (R307,
R308). -/
def farReadDeadline (s : State) (slot : Nat) (draft : Bool) (layer page : Nat) : State :=
  let x := s.session slot
  let st := s.streamOf x.covered
  let d := s.num (O.farDeadline x.cls)
  let e := (x.root draft).page layer page
  if x.st ≠ .free ∧ st.running ∧ st.sessions.contains slot ∧ d ≠ 0 ∧ e.far ∧ e.st ≠ 0 ∧ Tick.since s.clk.tick st.startT ≥ d ∧
      !s.mem.latePages.contains (slot, draft, layer, page) then
    { s with mem := { s.mem with latePages := s.mem.latePages ++ [(slot, draft, layer, page)] } }
  else s

/-! ## On-chip SRAM -/

/-- Log a correction of an SRAM word in its die's log (R303). -/
def State.sramCorrected (s : State) (w symbol syndrome : Nat) : State :=
  let s := s.bump O.sramCorrected 64
  let die := sramQuarter w
  let l := SMap.get [] s.mem.sramLogs die
  let set := fun (t : State) l => { t with mem := { t.mem with sramLogs := SMap.set [] t.mem.sramLogs die l } }
  let syn := BitVec.ofNat 16 syndrome
  if l.any (fun e => e.addr == w) then
    set s (l.map (fun e => if e.addr = w then
      { e with last := s.now, count := Nat.min (e.count + 1) 0xFFFFFFFF, syndrome := syn, symbol := symbol } else e))
  else if l.length < 16 then
    (set s (l ++ [{ addr := w, first := s.now, last := s.now, count := 1, syndrome := syn, symbol := symbol }])).icxEvent 0x0B1
  else s.bump O.sramLogOverflow

/-- The fault of an uncorrectable SRAM word (R304): class 2 under the core in its staging area, class 3 elsewhere. -/
def State.sramUe (s : State) (w : Nat) : State :=
  let o := sramOffset w
  let q := sramQuarter w
  if o < 0x0C000000 then
    let nn := o / 0x200000
    s.raise (q * 96 + nn) 0 0x47 (if o % 0x200000 ≥ 0x10000 then 2 else 3) w
  else s.raise (srcQuarter q) 0 0x47 3 w

/-- SRAM_READ of a word (R301 to R304). -/
def sramRead (s : State) (who : Requester) (addr : BitVec 47) (raw : RawRead) : State :=
  let w := addr.toNat / 16 * 16
  if space w ≠ .sram then s
  else
    let s := s.tally 0 16 0
    let p := raw.place.getD w / 16 * 16
    let d := s.sramGet p 16
    let chk := xorBytes (sramChecks p d) (leBytes 2 (SMap.get 0 s.mem.sramChk p).toNat)
    let syms := raw.flips.foldl (fun l f => setAt l f.1 (l.getD f.1 0 ^^^ f.2)) (chk ++ d)
    let syn := sramSyndromes w syms
    let reply := fun (t : State) d => { t with mem := { t.mem with reply := some ⟨who, w, d, false, false⟩ } }
    match sramClass w syms with
    | none => reply s (syms.drop 2)
    | some (some j) =>
      let fixed := setAt syms j (syms.getD j 0 ^^^ BitVec.ofNat 8 syn.1)
      reply (s.sramCorrected w j (syn.2 * 256 + syn.1)) (fixed.drop 2)
    | some none => s.sramUe w

/-! ## Patrol scrub -/

/-- Words of WEIGHTS and STATE regions on a pseudo-channel of a stack: 512 for each such page of its home quarter (R305). -/
def State.scrubWords (s : State) (stack : Nat) : Nat :=
  let q := stack / 4
  let act := s.regions.filter (fun r => r.2.2.1 == .activation)
  let pagesIn := fun (r : Nat × Nat × RClass × Bool) =>
    let hi := Nat.min 196608 (r.1 + r.2.1)
    (hi + 3 - q) / 4 - (r.1 + 3 - q) / 4
  512 * (49152 - Nat.min 49152 (sumNat (act.map pagesIn)))

/-- The quota Q of a stack's channels (R305). -/
def State.scrubQuota (s : State) (stack : Nat) : Nat :=
  ceilDiv (s.scrubWords stack * s.num O.scrubGrid) (s.num O.scrubPeriod * 1000000)

/-- SCRUB_WINDOW_OPEN at a multiple of SCRUB_GRID (R305). -/
def scrubWindowOpen (s : State) : State :=
  if s.pkg.st.hubRuns && s.clk.counting && !s.mem.scrubOpen && s.clk.tick.toNat % s.num O.scrubGrid == 0 then
    let left := (List.range 512).foldl (fun m c => SMap.set 0 m c (s.scrubQuota (c / 32))) []
    { s with mem := { s.mem with scrubOpen := true, scrubAt := s.clk.tick, scrubLeft := left } }
  else s

/-- SCRUB_WINDOW_CLOSE, SCRUB_LEN ticks after the opening: words short of the quota are carried on and added to SCRUB_BEHIND
(R305, R306). -/
def scrubWindowClose (s : State) : State :=
  if s.mem.scrubOpen ∧ s.clk.tick = s.mem.scrubAt + BitVec.ofNat 48 (s.num O.scrubLen) then
    let carry := s.mem.scrubLeft.foldl (fun m e => SMap.set 0 m e.1 (SMap.get 0 m e.1 + e.2)) s.mem.scrubCarry
    let short := sumNat (s.mem.scrubLeft.map (·.2))
    ({ s with mem := { s.mem with scrubOpen := false, scrubLeft := [], scrubCarry := carry } }).bump O.scrubBehind 64 short
  else s

/-- The next page in quarter at or after p whose class is scrubbed, none up to the end. -/
def State.nextScrubPage (s : State) (q : Nat) : Nat → Nat → Option Nat
  | 0, _ => none
  | n + 1, p =>
    if p ≥ 49152 then none
    else if s.pageClass (p * 4 + q) = .activation then s.nextScrubPage q n (p + 1)
    else some p

/-- Address of the word numbered n (G × 8 + word) of a channel. -/
def scrubAddr (stack pch n : Nat) : Nat :=
  let g := n / 8
  Loc.addr { stack := stack, pch := pch, bank := g / 4 % 64, row := g / 256, col := g % 4 * 8 + n % 8 }

/-- The next word to scrub on a channel and whether the reading wrapped: none when the channel has no such word. -/
def State.scrubNext (s : State) (stack pch : Nat) : Option (Nat × Bool) :=
  let q := stack / 4
  let pos := SMap.get 0 s.mem.scrubPos (stack * 32 + pch)
  match s.nextScrubPage q 49152 (pos / 512) with
  | some p => some (if p = pos / 512 then pos else p * 512, false)
  | none => (s.nextScrubPage q 49152 0).map (fun p => (p * 512, true))

/-- Passes of the slowest channel. -/
def State.slowestScrub (s : State) : Nat :=
  (List.range 512).foldl (fun m c => Nat.min m (SMap.get 0 s.mem.scrubPassed c)) (SMap.get 0 s.mem.scrubPassed 0)

/-- SCRUB_READ of a channel's next word (R305, R306). -/
def scrubRead (s : State) (stack : Fin 16) (pch : Fin 32) (first again : RawRead) : State :=
  let c := stack.val * 32 + pch.val
  let left := SMap.get 0 s.mem.scrubLeft c
  let carry := SMap.get 0 s.mem.scrubCarry c
  if !s.mem.scrubOpen || (left == 0 && carry == 0) then s
  else match s.scrubNext stack.val pch.val with
    | none => s
    | some (n, wrapped) =>
      let w := scrubAddr stack.val pch.val n
      let was := s.slowestScrub
      let s := { s with mem := { s.mem with
          scrubLeft := SMap.set 0 s.mem.scrubLeft c (left - 1)
          scrubCarry := if left = 0 then SMap.set 0 s.mem.scrubCarry c (carry - 1) else s.mem.scrubCarry
          scrubPos := SMap.set 0 s.mem.scrubPos c (n + 1)
          scrubPassed := if wrapped then SMap.set 0 s.mem.scrubPassed c (SMap.get 0 s.mem.scrubPassed c + 1) else s.mem.scrubPassed } }
      let s := if wrapped && s.slowestScrub != was then (s.setNum O.scrubPasses (s.slowestScrub % 2 ^ 32)).icxEvent 0x0B2 else s
      match s.readPath w 2 none first again with
      | (.poisoned, t) => t.kvFault w
      | (_, t) => t

/-! ## The region table and the logs (owning rules of dictionary writes) -/

/-- An entry is as Table 9.2 lays it out. -/
def regionOk (v : Nat) : Bool :=
  decide (v < 2 ^ 39) && bits v 37 36 != 3 && decide (1 ≤ bits v 35 18) && decide (bits v 17 0 + bits v 35 18 ≤ 196608)

/-- Two runs of pages meet. -/
def runsMeet (a b : Nat × Nat) : Bool := decide (a.1 < b.1 + b.2) && decide (b.1 < a.1 + a.2)

/-- Some two runs of a list overlap. -/
def anyMeet : List (Nat × Nat) → Bool
  | [] => false
  | a :: r => r.any (runsMeet a) || anyMeet r

/-- The regions in use as runs. -/
def State.regionRuns (s : State) : List (Nat × Nat) := s.regions.map (fun r => (r.1, r.2.1))

/-- Pages at which the class of a page can change between two region tables. -/
def regionEdges (s t : State) : List Nat :=
  (0 :: (s.regionRuns ++ t.regionRuns).flatMap (fun r => [r.1, r.1 + r.2])).filter (fun p => decide (p < 196608))

/-- A byte range lies wholly in pages a condition accepts, when the condition is constant between the edges. -/
def State.inState (s : State) (base len : Nat) : Bool :=
  let lo := pageOf base
  let hi := pageOf (base + len - 1)
  decide (base + len ≤ hbmTop) && s.pageClass lo == .state &&
    ((regionEdges s s).filter (fun p => decide (lo < p) && decide (p ≤ hi))).all (fun p => s.pageClass p == .state)

/-- Request and return rings of a hod. -/
def State.hodRings (s : State) (h : Nat) : List (Nat × Nat) :=
  let n := s.num (O.hodRecords h) * 64
  [(s.num (O.hodBase h), n), (s.num (O.hodReturnBase h), n)]

/-- The hods that are enabled. -/
def State.enabledHods (s : State) : List Nat := (List.range 64).filter (fun h => s.num (O.hodEnable h) == 1)

/-- A write of the region table (R280, R281, R79, R338), value and class of pages checked. -/
def State.regionWrite (s : State) (key v : Nat) : Nat × State :=
  let entry := key ≠ O.regionCount.key
  let i := key - O.regionCount.key
  if entry ∧ !regionOk v then (Err.range, s)
  else
    let t := s.storeNum key v
    let inUse := !entry || decide (i ≤ s.num O.regionCount)
    if inUse && anyMeet t.regionRuns then (Err.regionOverlap, s)
    else if s.enabledHods.any (fun h => (s.hodRings h).any (fun r => !t.inState r.1 r.2)) then (Err.window, s)
    else
      let changed := fun p => s.pageClass p != t.pageClass p
      let some := (regionEdges s t).any changed
      if some && (s.wts.k0.st == .outgoing || s.wts.k1.st == .outgoing) then (Err.busy, s)
      else if some then (Err.ok, { t with mem := t.mem.initPages changed }.loseCopies changed)
      else (Err.ok, t)

/-- HBM_LOG_CLEAR (R310). -/
def State.hbmLogClear (s : State) : Nat × State := (Err.ok, { s with mem := { s.mem with log := [] } })

/-- SRAM_LOG_CLEAR: bit d clears die d (R303). -/
def State.sramLogClear (s : State) (v : Nat) : Nat × State :=
  (Err.ok, { s with mem := { s.mem with sramLogs := s.mem.sramLogs.filter (fun e => !bit v e.1) } })

/-! ## Margining -/

/-- MARGIN_START (R311, R579). A VMEM sweep begins at 1.04 V (R313). -/
def State.marginStart (s : State) : Nat × State :=
  let e := s.testRefusal
  if e ≠ Err.ok then (e, s)
  else
    let t := { s.setNum O.marginState 1 with mem := { s.mem with marginMask := BitVec.ofNat 16 (s.num O.marginStacks) } }
    (Err.ok, if s.num O.marginMode = 2 then { t with pwr := { t.pwr with vmemSet := 1040, cmd := 1 } } else t)

/-- One record of MARGIN_RESULT (Table 9.6): its verdict and margins are free values, the voltages of mode 2 among the steps of 10 mV from 1.04 V to 1.16 V (R313). -/
def State.marginRecord (s : State) (stack pch : Nat) : List Byte × State :=
  let mode := s.num O.marginMode
  let d := s.drawBytes 73
  let pass := (d.1.getD 0 0).toNat % 2
  let lo := (d.1.getD 1 0).toNat % 13
  let hi := lo + (d.1.getD 2 0).toNat % (13 - lo)
  let pins := if mode = 2 then leBytes 2 (1040 + 10 * lo) ++ leBytes 2 (1040 + 10 * hi) ++ zeros 68 else d.1.drop 1
  (leBytes 1 stack ++ leBytes 1 pch ++ leBytes 1 mode ++ leBytes 1 pass ++ pins ++ zeros 4, d.2)

/-- MARGIN_DONE, completed or aborted (R312, R313). -/
def marginDone (s : State) (aborted : Bool) : State :=
  if s.num O.marginState ≠ 1 then s
  else if aborted then ((s.setNum O.marginState 3).afterMargin).icxEvent 0x0B3
  else
    let chans := (onBits 16 s.mem.marginMask.toNat).flatMap (fun st => (List.range 32).map (fun p => (st, p)))
    let r := chans.foldl (fun (acc : List Byte × State) c =>
      let x := acc.2.marginRecord c.1 c.2
      (acc.1 ++ x.1, x.2)) ([], s)
    (((r.2.setBlob O.marginResult r.1).setNum O.marginState 2).afterMargin).icxEvent 0x0B3

/-! ## The commands -/

/-- HBM_READ. -/
def execHbmRead (who : Requester) (addr : BitVec 47) (first again : RawRead) (s : State) : Host.Outcome State Fault Refusal :=
  .next (hbmRead s who addr first again)
/-- HBM_WRITE. -/
def execHbmWrite (who : Requester) (addr : BitVec 47) (data : List Byte) (scaleExp : Byte) (s : State) : Host.Outcome State Fault Refusal :=
  .next (hbmWrite s who addr data scaleExp)
/-- MERGE_TIMEOUT. -/
def execMergeTimeout (stack : Fin 16) (first again : RawRead) (s : State) : Host.Outcome State Fault Refusal :=
  .next (mergeTimeout s stack first again)
/-- FAR_READ_DEADLINE. -/
def execFarReadDeadline (slot : BitVec 18) (layer : RootLayer) (page : Nat) (s : State) : Host.Outcome State Fault Refusal :=
  .next (farReadDeadline s slot.toNat layer.draft layer.layer page)
/-- SRAM_READ. -/
def execSramRead (who : Requester) (addr : BitVec 47) (raw : RawRead) (s : State) : Host.Outcome State Fault Refusal :=
  .next (sramRead s who addr raw)
/-- SCRUB_READ. -/
def execScrubRead (stack : Fin 16) (pch : Fin 32) (first again : RawRead) (s : State) : Host.Outcome State Fault Refusal :=
  .next (scrubRead s stack pch first again)
/-- MARGIN_DONE. -/
def execMarginDone (aborted : Bool) (s : State) : Host.Outcome State Fault Refusal := .next (marginDone s aborted)

end Sys2Proof.Machine
end

