-- ==== Sys2Proof/Machine/Flags.lean ====
section
/-! DEFINITION. The status fields the package computes: the interrupt controller's choice of source (15 R511 to R513) and the
words of its status registers, FCU_STATUS and the rest of Tables 15.8 and 15.9. -/

namespace Sys2Proof.Machine

/-- Priority of a source; reset 0x80 (Table 15.8). -/
def State.pri (s : State) (src : Nat) : Nat := SMap.get 0x80 s.icx.pri src
/-- Group priority PRI[7:p] (R511). -/
def State.groupPri (s : State) (src : Nat) : Nat := s.pri src / 2 ^ s.icx.prigroup
/-- Active stack of a control core, top first. -/
def State.icxStack (s : State) (c : Nat) : List Nat := SMap.get [] s.icx.running c
/-- Running priority of a core: 256 for an empty stack, above every group (R512). -/
def State.runningPri (s : State) (c : Nat) : Nat :=
  match s.icxStack c with
  | [] => 256
  | t :: _ => s.groupPri t

/-- Source claimable by core c (R512). -/
def State.claimable (s : State) (c src : Nat) : Bool :=
  s.icx.en.getLsbD src && s.icx.pend.getLsbD src && !s.icx.active.getLsbD src && s.coreRoute src == c &&
    !s.heldOff (src / 16) && decide (s.groupPri src < s.runningPri c)

/-- All sources, in the order R512 picks among equals. -/
def sources : List Nat := List.range 512

/-- The most urgent of a list of sources: by group priority, sub-priority (together the 8-bit priority), then number. -/
def State.mostUrgent (s : State) (l : List Nat) : Option Nat :=
  l.foldl (fun best src => match best with
    | none => some src
    | some b => if s.pri src < s.pri b then some src else some b) none

/-- The source the ICX picks for core c (R512). -/
def State.pick (s : State) (c : Nat) : Option Nat := s.mostUrgent (sources.filter (s.claimable c))

/-- Some source claimable by some core. -/
def State.anyClaimable (s : State) : List Nat :=
  sources.filter (fun src => (List.range 4).any (fun c => s.claimable c src))

/-- ICX_STATUS: ANY, RESTORED, DOZE (0 when read) and TOP. -/
def State.icxStatus (s : State) : Nat :=
  b2n (!s.anyClaimable.isEmpty) * 2 ^ 31 + b2n s.icx.restored * 2 ^ 10 + (s.mostUrgent s.anyClaimable).getD 0

/-- FCU_STATUS: ERR, TRAPS and INTAKE. -/
def State.fcuStatus (s : State) : Nat :=
  b2n s.pkg.err * 2 ^ 31 + s.fcu.traps.length * 2 ^ 16 + s.fcu.intake.length

/-- ICX_RUNNING of core c: DEPTH and GROUP. -/
def State.icxRunning (s : State) (c : Nat) : Nat :=
  (s.icxStack c).length * 256 + (if (s.icxStack c).isEmpty then 0xFF else s.runningPri c)

/-- ICX_STACK word i of core c: entries 2i and 2i + 1 from the bottom. -/
def State.icxStackWord (s : State) (c i : Nat) : Nat :=
  let l := (s.icxStack c).reverse
  l.getD (2 * i) 0 + l.getD (2 * i + 1) 0 * 2 ^ 16

/-- SEC_STATUS (17 Table 17.9). -/
def State.secStatus (s : State) : Nat :=
  let stage := match s.sec.stage with | .rom => 0 | .keystone => 1 | .runtimeLoad => 2 | .hbmTraining => 3 | .runtime => 4
  s.sec.fuses * 2 ^ 24 + stage * 2 ^ 16 + s.sec.ksMode * 2 ^ 6 + b2n s.sec.calDefaults * 2 ^ 5 + b2n s.sec.fallback * 2 ^ 4 +
    b2n s.sec.slotB * 2 ^ 3

/-- Rein of a quarter. -/
def State.rein (s : State) (q : Nat) : Rein := SMap.get {} s.pwr.reins q

/-- PWR_REINq (14 Table 14.8). -/
def State.reinWord (s : State) (q : Nat) : Nat :=
  let r := s.rein q
  r.source * 2 ^ 16 + r.level * 2 ^ 7 + r.host

/-- PWR_STATUS (14 Table 14.8): RAMPED when code 5 set the level of some quarter. -/
def State.pwrStatus (s : State) : Nat :=
  let ramped := (List.range 4).any (fun q => (s.rein q).source == 5)
  s.pwr.p / 1000 % 65536 * 2 ^ 16 + s.pwr.op * 2 ^ 9 + b2n s.pkg.pwrGood * 2 ^ 8 + b2n s.pkg.coolOk * 2 ^ 7 + b2n s.pwr.fill * 2 ^ 6 +
    b2n s.pwr.pull * 2 ^ 5 + b2n ramped * 2 ^ 4

end Sys2Proof.Machine
end

