-- ==== Sys2Proof/Machine/Icx.lean ====
section
/-! DEFINITION. The interrupt controller's commands (15_faults_and_interrupts.md R509 to R521). -/

namespace Sys2Proof.Machine

/-- The requester is one of the package's own control cores. -/
def isCtl (who : Requester) : Bool := match who with | .control _ => true | _ => false

/-- A register write that only the control cores may make, refused: a protection fault naming the register (R521, R522),
raised under the link router (12 R607). -/
def State.refuseReg (s : State) (offset : Nat) : State := s.raise srcRouter 0 0x06 1 (cregBase + offset)

/-- A read returns a value to its requester. -/
def State.answer (s : State) (who : Requester) (v : Nat) : State := s.emit (.answer who (BitVec.ofNat 64 v))

/-- Any access ends doze: state is restored and latched events are applied (R520). -/
def State.wake (s : State) : State :=
  if s.icx.doze then
    let l := s.icx.latch
    let s := { s with icx := { s.icx with doze := false, restored := true, latch := 0 } }
    (sources.filter l.getLsbD).foldl State.icxApply s
  else s

/-- A read of ICX_CLAIM of core c: by that core itself it claims the picked source, by any other it returns 0 (R513). -/
def State.claim (s : State) (who : Requester) (c : Fin 4) : Nat × State :=
  if who ≠ .control c then (0, s)
  else if (s.icxStack c).length ≥ 16 then (0, s)
  else match s.pick c with
    | none => (0, s)
    | some src =>
      let s := { s with icx := { s.icx with
          pend := setBit512 s.icx.pend src false
          active := setBit512 s.icx.active src true
          running := SMap.set [] s.icx.running c (src :: s.icxStack c) } }
      (2 ^ 31 + src, s.startHoldoff src)

/-- ICX_CLAIM: a read by core c of its own register (R513). -/
def icxClaim (s : State) (who : Requester) (c : Fin 4) : State :=
  let x := s.wake.claim who c
  x.2.answer who x.1

/-- ICX_EOI of source v at core c (R514). -/
def icxEoi (s : State) (who : Requester) (c : Fin 4) (v : W32) : State :=
  let s := s.wake
  let src := v.toNat % 512
  if !isCtl who then s.refuseReg (0x03100D04 + 0x40 * c.val)
  else match s.icxStack c with
    | [] => s.raise srcIcx 0 0x02 1 (src + 0x1FF * 2 ^ 16)
    | t :: rest =>
      if t = src then
        { s with icx := { s.icx with active := setBit512 s.icx.active src false, running := SMap.set [] s.icx.running c rest } }
      else s.raise srcIcx 0 0x02 1 (src + t * 2 ^ 16)

/-- The bits of a 32-bit write in place in a 512-bit map. -/
def wordBits (w : Fin 16) (v : W32) : BitVec 512 := BitVec.ofNat 512 (v.toNat * 2 ^ (32 * w.val))

/-- ICX_PEND_SET: sets pending bits; host-pending bits are untouched (R510). -/
def icxPendSet (s : State) (who : Requester) (w : Fin 16) (v : W32) : State :=
  let s := s.wake
  if !isCtl who then s.refuseReg (0x03100180 + 4 * w.val)
  else { s with icx := { s.icx with pend := s.icx.pend ||| wordBits w v } }

/-- ICX_PEND_CLR. -/
def icxPendClr (s : State) (who : Requester) (w : Fin 16) (v : W32) : State :=
  let s := s.wake
  if !isCtl who then s.refuseReg (0x031001C0 + 4 * w.val)
  else { s with icx := { s.icx with pend := s.icx.pend &&& ~~~ (wordBits w v) } }

/-- ICX_EN_SET. -/
def icxEnSet (s : State) (who : Requester) (w : Fin 16) (v : W32) : State :=
  let s := s.wake
  if !isCtl who then s.refuseReg (0x03100100 + 4 * w.val)
  else { s with icx := { s.icx with en := s.icx.en ||| wordBits w v } }

/-- ICX_EN_CLR. -/
def icxEnClr (s : State) (who : Requester) (w : Fin 16) (v : W32) : State :=
  let s := s.wake
  if !isCtl who then s.refuseReg (0x03100140 + 4 * w.val)
  else { s with icx := { s.icx with en := s.icx.en &&& ~~~ (wordBits w v) } }

/-- ICX_SW_SET raises an event of a software line 0x100 to 0x1FF; other values are ignored (R521). Which fabric stores reach
it is the check of 12 R394, made before. -/
def icxSwSet (s : State) (v : W32) : State :=
  let s := s.wake
  if v.toNat % 512 < 0x100 then s else s.icxEvent (v.toNat % 512)

/-- Insert a source in the order of R512. -/
def State.insertUrgent (s : State) (x : Nat) : List Nat → List Nat
  | [] => [x]
  | a :: r => if s.pri x < s.pri a then x :: a :: r else a :: s.insertUrgent x r

/-- HOLDOFF_EXPIRY of a group: its host-pending sources are delivered together, one HOST_IRQ for each distinct line, in the
order of R512, and the hold-off starts anew (R516, R517). While the hub dozes nothing is delivered (R519). -/
def holdoffExpiry (s : State) (g : Fin 32) : State :=
  match SMap.find s.icx.holdEnds g with
  | none => s
  | some due =>
    if !Tick.atLeast s.clk.tick due || s.icx.doze then s
    else
      let s := { s with icx := { s.icx with holdEnds := SMap.del s.icx.holdEnds g } }
      let ready := ((List.range 16).map (fun i => 16 * g.val + i)).filter s.icx.hpend.getLsbD
      let order := ready.foldl (fun l x => s.insertUrgent x l) []
      let lines := (order.map s.hostLine).eraseDups
      let t := { s with icx := { s.icx with hpend := order.foldl (fun m x => setBit512 m x false) s.icx.hpend } }
      let t := if t.num O.groupCount = 0 then t
        else lines.foldl (fun u l => u.send (BitVec.ofNat 17 (u.num (O.groupMember 0))) (.hostIrq l)) t
      match order with
      | [] => t
      | x :: _ => t.startHoldoff x

/-- COALESCE_TIMEOUT of a source: TIME ticks after the first accumulated event, its event is generated (R518). -/
def coalesceTimeout (s : State) (src : Fin 5) : State :=
  match SMap.find s.icx.coalFirst src with
  | none => s
  | some f =>
    let limit := s.num (O.icxCoalesce src) % 65536
    if !s.icx.doze && Tick.atLeast s.clk.tick f && decide (limit ≤ Tick.since s.clk.tick f) then
      { s with icx := { s.icx with coalCount := SMap.set 0 s.icx.coalCount src 0, coalFirst := SMap.del s.icx.coalFirst src } }.icxFire src
    else s

/-- An event is due within n ticks (02 Table 2.2). -/
def State.eventWithin (s : State) (n : Nat) : Bool :=
  s.clk.events.any (fun e => Tick.atLeast e.due s.clk.tick && decide (Tick.since e.due s.clk.tick ≤ n))

/-- A wake grant, or the opening or closing of a scrub window, comes within n ticks (02 Table 2.2; 14 R478; 09 R305). -/
def State.windowWithin (s : State) (n : Nat) : Bool :=
  (List.range n).any (fun k =>
    let t := (s.clk.tick + BitVec.ofNat 48 (k + 1)).toNat
    t % s.num O.scrubGrid == 0 ||
      (s.mem.scrubOpen && BitVec.ofNat 48 t == s.mem.scrubAt + BitVec.ofNat 48 (s.num O.scrubLen)) ||
      (!s.pwr.wakeAsked.isEmpty && t % 50 == 0 && t / 50 % s.num O.wakeStride == s.num O.wakePhase))

/-- DOZE_ENTER (R519): the command says that the four control cores wait for an interrupt. -/
def dozeEnter (s : State) : State :=
  if s.num O.dozeEnable = 1 ∧ (s.pkg.st = .ready ∨ s.pkg.st = .drained) ∧ s.anyClaimable = [] ∧ !s.eventWithin 100 ∧ !s.windowWithin 100 ∧
      !s.icx.doze then
    { s with icx := { s.icx with doze := true } }
  else s

/-- DOZE_WAKE (R520). -/
def dozeWake (s : State) : State := s.wake

/-! ## The commands -/

/-- ICX_CLAIM. -/
def execIcxClaim (who : Requester) (c : Fin 4) (s : State) : Host.Outcome State Fault Refusal :=
  .next (icxClaim s who c)
/-- ICX_EOI. -/
def execIcxEoi (who : Requester) (c : Fin 4) (v : W32) (s : State) : Host.Outcome State Fault Refusal :=
  .next (icxEoi s who c v)
/-- ICX_PEND_SET. -/
def execIcxPendSet (who : Requester) (w : Fin 16) (v : W32) (s : State) : Host.Outcome State Fault Refusal :=
  .next (icxPendSet s who w v)
/-- ICX_PEND_CLR. -/
def execIcxPendClr (who : Requester) (w : Fin 16) (v : W32) (s : State) : Host.Outcome State Fault Refusal :=
  .next (icxPendClr s who w v)
/-- ICX_EN_SET. -/
def execIcxEnSet (who : Requester) (w : Fin 16) (v : W32) (s : State) : Host.Outcome State Fault Refusal :=
  .next (icxEnSet s who w v)
/-- ICX_EN_CLR. -/
def execIcxEnClr (who : Requester) (w : Fin 16) (v : W32) (s : State) : Host.Outcome State Fault Refusal :=
  .next (icxEnClr s who w v)
/-- HOLDOFF_EXPIRY. -/
def execHoldoffExpiry (g : Fin 32) (s : State) : Host.Outcome State Fault Refusal :=
  .next (holdoffExpiry s g)
/-- COALESCE_TIMEOUT. -/
def execCoalesceTimeout (src : Fin 5) (s : State) : Host.Outcome State Fault Refusal :=
  .next (coalesceTimeout s src)
/-- DOZE_ENTER. -/
def execDozeEnter (s : State) : Host.Outcome State Fault Refusal :=
  .next (dozeEnter s)
/-- DOZE_WAKE. -/
def execDozeWake (s : State) : Host.Outcome State Fault Refusal :=
  .next (dozeWake s)
/-- ICX_SW_SET: the requester has passed the checks of 12 R394 (R521). -/
def execIcxSwSet (_who : Requester) (v : W32) (s : State) : Host.Outcome State Fault Refusal :=
  .next (icxSwSet s v)

end Sys2Proof.Machine
end

