-- ==== Sys2Proof/Machine/Template.lean ====
section
/-! DEFINITION. The course template: instances, handles, the checks of Table 4.2
(04_cores_ashlars_and_stealing.md R113 to R121; 05 R151, R166, R178; 07 R208, R210, R233, R236). -/

namespace Sys2Proof.Machine

/-! ## Instances and handles -/

/-- Bases B_d of the descriptors' instance numbers (R119), with the descriptors. -/
def numbered (ds : List Descriptor) : List (Nat × Descriptor) :=
  (ds.foldl (fun (acc : Nat × List (Nat × Descriptor)) d => (acc.1 + d.count, acc.2 ++ [(acc.1, d)])) (0, [])).2

/-- Instances of a template: the sum of the COUNT fields. -/
def Template.instances (t : Template) : Nat := sumNat (t.descs.map (·.count))

/-- The descriptor of an instance, and its number within it. -/
def Template.find (t : Template) (inst : Nat) : Option (Descriptor × Nat) :=
  ((numbered t.descs).find? (fun p => decide (p.1 ≤ inst) && decide (inst < p.1 + p.2.count))).map (fun p => (p.2, inst - p.1))

/-- A handle field in instance i: none for 0xFFFF_FFFF, plus i when REL (R119). -/
def handleOf (h : W32) (i : Nat) : Option Nat :=
  if h = 0xFFFFFFFF then none else some (h.toNat % 2 ^ 18 + (if bit h.toNat 31 then i else 0))

/-- A counter field in instance i. -/
def CreditRef.at (c : CreditRef) (i : Nat) : Nat := c.counter + (if c.rel then i else 0)

/-- Handle k (0 to 3) of a descriptor. -/
def Descriptor.h (d : Descriptor) (k : Nat) : W32 :=
  match k with
  | 0 => d.h0
  | 1 => d.h1
  | 2 => d.h2
  | _ => d.h3

/-! ## Reading the bytes of a template (Tables 4.3, 4.4) -/

/-- A wait or grant word of a descriptor. -/
def readCredit (w : Nat) : CreditRef := { amount := bits w 31 20, rel := bit w 19, counter := bits w 17 0 }

/-- A 64-byte descriptor. -/
def readAshlar (b : List Byte) : Descriptor :=
  let nw := u8 b 2 % 8
  let ng := u8 b 3 % 4
  let ws := (List.range 4).map (fun k => u32 b (8 + 4 * k))
  let gs := (List.range 2).map (fun k => u32 b (0x18 + 4 * k))
  let w := fun (o : Nat) => BitVec.ofNat 32 (u32 b o)
  { kind := b.getD 0 0, final := bit (u8 b 1) 0, skippable := bit (u8 b 1) 1, count := bits (u32 b 4) 31 20, index := bits (u32 b 4) 19 0
    waits := (ws.take nw).map readCredit, grants := (gs.take ng).map readCredit
    h0 := w 0x20, h1 := w 0x24, h2 := w 0x28, h3 := w 0x2C, p0 := w 0x30, p1 := w 0x34, p2 := w 0x38, p3 := w 0x3C
    reserved := u8 b 1 / 4 != 0 || u8 b 2 / 8 != 0 || decide (nw > 4) || u8 b 3 / 4 != 0 || decide (ng > 2) ||
      (ws.take nw ++ gs.take ng).any (fun v => bit v 18) || (ws.drop nw ++ gs.drop ng).any (· != 0) }

/-- A 32-byte block-table entry. -/
def readBlock (b : List Byte) : BlockEntry :=
  { addr := BitVec.ofNat 64 (u64 b 0), rows := u32 b 8, rowBytes := u32 b 0xC, stride := u32 b 0x10, format := b.getD 0x14 0
    courseRows := bit (u8 b 0x15) 0, producerRows := bit (u8 b 0x15) 1, external := bit (u8 b 0x15) 2, skipGroup := u16 b 0x16
    skipAlias := u32 b 0x18, tile := u16 b 0x1C, reserved := u8 b 0x15 / 8 != 0 || u16 b 0x1E != 0 }

/-- Both arrays of a layout lie in a chunk of n bytes. -/
def TemplateLayout.fits (l : TemplateLayout) (n : Nat) : Bool :=
  decide (8 ≤ n) && decide (l.descAt + 64 * l.descs ≤ n) && decide (l.blockAt + 32 * l.blocks ≤ n)

/-- A decoded TEMPLATE chunk under its layout, the descriptors in the order of their template indices (R119). -/
def readTemplate (l : TemplateLayout) (main draft : Geometry) (vocab : Nat) (d : List Byte) : Template :=
  let descs := sortBy (fun x : Descriptor => x.index) ((List.range l.descs).map (fun i => readAshlar (slice d (l.descAt + 64 * i) 64)))
  { descs := descs, blocks := (List.range l.blocks).map (fun i => readBlock (slice d (l.blockAt + 32 * i) 32))
    coreBytes := u32 d 0, quarterBytes := u32 d 4, main := main, draft := draft, vocab := vocab
    parkSegment := l.parkSegment, summariser := l.summariser, staging := l.staging, mainInst := sumNat (descs.map (·.count)) }

/-- Rows declared for the staging region of an expert slot and a source. -/
def Template.stagingFor (t : Template) (slot source : Nat) : Nat :=
  ((t.staging.find? (fun x => x.1 == slot && x.2.1 == source)).map (·.2.2)).getD 0

/-! ## Operands by kind (Table 4.6) -/

/-- Which parameters a kind uses (Table 4.6), as a count from P0; 4 and above use all. -/
def paramsUsed (kind : Nat) : Nat :=
  [0, 4, 2, 4, 2, 3, 4, 3, 2, 2, 2, 4, 1, 2, 1, 1, 1, 1, 0, 2, 2, 1, 0, 3, 1, 0, 3, 2, 1].getD kind 0

/-- Parameters of a descriptor. -/
def Descriptor.params (d : Descriptor) : List Nat := [d.p0.toNat, d.p1.toNat, d.p2.toNat, d.p3.toNat]

/-- The blocks an instance writes, by kind: H2, except where Table 4.6 names another output or none on this package. -/
def Descriptor.outputs (d : Descriptor) (i : Nat) : List Nat :=
  let hs := match d.kind.toNat with
    | 0x0E => [d.h2, d.h3]
    | 0x06 | 0x07 | 0x13 | 0x14 | 0x1B => []
    | _ => [d.h2]
  hs.filterMap (fun h => handleOf h i)

/-- n handles from a field on. -/
def handleRun (h : W32) (i n : Nat) : List Nat :=
  match handleOf h i with
  | none => []
  | some k => (List.range n).map (fun j => k + j)

/-- The blocks an instance reads, by kind. ACC_COMBINE, LSUM_COMBINE, ATTN_MERGE (05 R181) and the updates of RESIDUAL_ADD lie on
consecutive handles. -/
def Descriptor.inputs (d : Descriptor) (i : Nat) : List Nat :=
  let one := fun (h : W32) => handleRun h i 1
  match d.kind.toNat with
  | 0x02 => handleRun d.h0 i d.p0.toNat ++ one d.h1 ++ one d.h3
  | 0x04 | 0x18 => handleRun d.h0 i d.p0.toNat
  | 0x08 | 0x0A | 0x0F | 0x10 | 0x11 | 0x13 | 0x14 | 0x16 | 0x1A | 0x1C => one d.h0 ++ one d.h1
  | 0x0C | 0x0E | 0x15 | 0x17 | 0x19 => one d.h0
  | 0x0D => one d.h0 ++ handleRun d.h1 i (Nat.max 1 d.p0.toNat) ++ one d.h3
  | 0x1B => []
  | _ => one d.h0 ++ one d.h1 ++ one d.h3

/-- All instances: number, descriptor, number within it. -/
def Template.all (t : Template) : List (Nat × Descriptor × Nat) :=
  (numbered t.descs).flatMap (fun p => (List.range p.2.count).map (fun i => (p.1 + i, p.2, i)))

/-! ## The checks of Table 4.2 -/

/-- A geometry lies in Table 5.1. -/
def Geometry.ok (g : Geometry) : Bool :=
  decide (1 ≤ g.layers) && decide (g.layers ≤ 256) && decide (1 ≤ g.heads) && decide (g.heads ≤ 64) &&
    [64, 128, 192, 256].contains g.dim && decide (1 ≤ g.group) && decide (g.group ≤ 16)

/-- Check 1 on a descriptor. -/
def Descriptor.ok (d : Descriptor) : Bool :=
  let k := d.kind.toNat
  decide (1 ≤ k) && decide (k ≤ 0x1C) && decide (1 ≤ d.count) && decide (d.count ≤ 4095) &&
  decide (d.waits.length ≤ 4) && decide (d.grants.length ≤ 2) &&
  (d.waits ++ d.grants).all (fun c => decide (1 ≤ c.amount) && decide (c.amount ≤ 4095)) &&
  [d.h0, d.h1, d.h2, d.h3].all (fun h => h == 0xFFFFFFFF || h.toNat / 2 ^ 18 % 2 ^ 13 == 0) &&
  (d.params.drop (paramsUsed k)).all (· == 0) &&
  !d.reserved && (!d.final || (k == 0x1B && d.count == 1)) && !(d.skippable && k == 0x13) &&
  !((k == 3 || k == 0x0B) && (d.p2.toNat == 0 || decide (d.p2.toNat > 65536))) &&
  !(k == 5 && (d.p0.toNat == 0 || decide (d.p0.toNat > 8) || d.p1.toNat == 0 || decide (d.p1.toNat > 64) || decide (d.p0.toNat > d.p1.toNat))) &&
  !(k == 0x17 && (d.p1.toNat == 0 || decide (d.p1.toNat > 32) || d.count != 1))

/-- Check 1. -/
def Template.check1 (t : Template) : Bool :=
  decide (t.descs.length ≤ 1048576) && decide (t.instances ≤ 524288) && decide (t.blocks.length ≤ 262144) &&
  t.descs.all Descriptor.ok && (t.descs.filter (·.final)).length == 1 && t.main.ok && (t.draft.layers == 0 || t.draft.ok) &&
  t.blocks.all (fun b => decide (1 ≤ b.format.toNat) && decide (b.format.toNat ≤ 0x0E) && decide (b.rowBytes ≤ b.stride) &&
    decide (b.rows ≤ 65536) && decide (b.tile ≤ 63) && !b.reserved)

/-- A row of a placement table (07 Table 7.1) that R210 refuses. -/
def badPlacement (bond row : Nat) : Bool :=
  let h0 := bits row 5 0
  let h1 := bits row 17 12
  h0 == 0x3F || decide (h0 ≥ bond) || (h1 != 0x3F && decide (h1 ≥ bond))

/-- The placement tables of a template: the H3 blocks of every instance of ROUTER_TOPK, EXPERT_SCATTER and EXPERT_GATHER (07 R210),
with the experts a ROUTER_TOPK reads. -/
def Template.placements (t : Template) : List (Nat × Nat) :=
  (t.descs.filter (fun d => d.kind == 5 || d.kind == 6 || d.kind == 7)).flatMap (fun d =>
    (List.range d.count).filterMap (fun i => (handleOf d.h3 i).map (fun h => (h, if d.kind == 5 then d.p1.toNat else 0))))

/-- Check 2: handles and counters after REL for the first and the last instance, and the rows of the placement tables. -/
def Template.check2 (s : State) (t : Template) : Bool :=
  t.descs.all (fun d => [0, d.count - 1].all (fun i =>
    (d.inputs i ++ d.outputs i ++ [d.h0, d.h1, d.h2, d.h3].filterMap (fun h => handleOf h i)).all (fun h => decide (h < t.blocks.length)) &&
    (d.waits ++ d.grants).all (fun c => decide (c.at i ≤ 262143)))) &&
  t.placements.eraseDups.all (fun p =>
    match t.blocks[p.1]? with
    | none => true
    | some b => (List.range (Nat.max b.rows p.2)).all (fun e =>
        !badPlacement (s.num O.bondCount) (s.peekLe (localOf b.addr.toNat + e * b.stride) 4)))

/-- Bytes a block spans in memory. -/
def BlockEntry.span (b : BlockEntry) : Nat := if b.rows = 0 then b.rowBytes else (b.rows - 1) * b.stride + b.rowBytes

/-- Check 3: every block lies in the local map and, as R568 allows a target of the model tenant, in its windows in HBM or in the on-chip
SRAM window when its mask bit is set. -/
def Template.check3 (s : State) (t : Template) : Bool :=
  t.blocks.all (fun b =>
    let a := localOf b.addr.toNat
    match space a with
    | .hbm => decide (a + b.span ≤ hbmTop) && s.inWindows (s.num O.modelTenant) a b.span
    | .sram => decide (a + b.span ≤ sramTop) && bit (s.num (O.accessMask (s.num O.modelTenant))) 0
    | _ => false)

/-- The instance that writes a handle. -/
def Template.writer (t : Template) (h : Nat) : Option (Descriptor × Nat) :=
  (t.all.find? (fun x => (x.2.1.outputs x.2.2).contains h)).map (·.2)

/-- Blocks that contribute to an element of a block of partial words: those of its MATMUL, or of every member's words in a COLLECT, at
most n combinations deep (03 R93). -/
def Template.reduced (t : Template) : Nat → Nat → Nat
  | 0, _ => 0
  | n + 1, h =>
    match t.writer h with
    | none => 0
    | some (d, i) =>
      match d.kind.toNat with
      | 0x01 => d.p1.toNat
      | 0x1A => d.p1.toNat * ((handleOf d.h0 i).map (t.reduced n)).getD 0
      | _ => 0

/-- Check 4: blocks of one matrix reduction, every partial accumulator combined under 03 R94 counted. -/
def Template.check4 (t : Template) : Bool :=
  t.all.all (fun x =>
    let d := x.2.1
    match d.kind.toNat with
    | 0x01 => decide (d.p1.toNat ≤ 1048576)
    | 0x02 => decide (sumNat ((handleRun d.h0 x.2.2 d.p0.toNat).map (t.reduced t.descs.length)) ≤ 1048576)
    | 0x1A => decide (d.p1.toNat * ((handleOf d.h0 x.2.2).map (t.reduced t.descs.length)).getD 0 ≤ 1048576)
    | _ => true)

/-- The instance belongs to the draft model's segment. -/
def Template.isDraft (t : Template) (inst : Nat) : Bool := t.draft.layers != 0 && decide (inst ≥ t.mainInst)

/-- A choice list lies within another block: the same handle, or an address among the block's rows. -/
def Template.within (t : Template) (h k : Nat) : Bool :=
  h == k || (match t.blocks[h]?, t.blocks[k]? with
    | some x, some b => decide (localOf b.addr.toNat ≤ localOf x.addr.toNat) &&
        decide (localOf x.addr.toNat < localOf b.addr.toNat + (if b.courseRows then 64 * b.stride else b.span))
    | _, _ => false)

/-- The ROUTER_TOPK that writes a choice list, or a tile of one: a list over several tiles is a block over the tiles' blocks (07 R213,
R218; log entry 32). -/
def Template.routerOf (t : Template) (h : Option Nat) : Option (Descriptor × Nat) :=
  let find := fun (p : Nat → Bool) => (t.all.find? (fun x => x.2.1.kind.toNat == 5 && (handleOf x.2.1.h2 x.2.2).any p)).map (·.2)
  h.bind (fun k => (find (· == k)).or (find (fun j => t.within j k)))

/-- Instances that read a handle. -/
def Template.readers (t : Template) (h : Nat) : List (Nat × Descriptor × Nat) := t.all.filter (fun x => (x.2.1.inputs x.2.2).contains h)

/-- The words of a block are read by exactly one instance, of a kind, or by one COLLECT, whose total is then held to the same rule. -/
def Template.closedBy (t : Template) (kind : Nat) (h : Nat) : Bool :=
  match t.readers h with
  | [r] => r.2.1.kind.toNat == kind || r.2.1.kind.toNat == 0x1A
  | _ => false

/-- Check 5: the words of every MATMUL of mode 1 and of every COLLECT of accumulator words are read by one ACC_COMBINE, and every block
of long words is closed by one LSUM_COMBINE. COLLECT adds the words that members send before they are finished (R123), so it may stand
between (log entry 26). -/
def Template.check5 (t : Template) : Bool :=
  t.all.all (fun x =>
    let d := x.2.1
    (d.outputs x.2.2).all (fun h =>
      if (d.kind.toNat = 1 ∧ d.p3.toNat = 1) ∨ (d.kind.toNat = 0x1A ∧ d.p2.toNat = 0) then t.closedBy 2 h
      else match t.blocks[h]? with
        | some b => b.format.toNat != 0x0B || t.closedBy 0x18 h
        | none => true))

/-- Grants all instances can make to a counter. -/
def Template.granted (t : Template) (c : Nat) : Nat :=
  sumNat (t.descs.flatMap (fun d => d.grants.map (fun g =>
    if g.rel then (if g.counter ≤ c ∧ c < g.counter + d.count then g.amount else 0)
    else if g.counter = c then g.amount * d.count else 0)))

/-- The exchange counters, which bond members feed (R114's closing words): those that the sending instances name at their destinations,
since every member's template numbers them alike (log entry 32). -/
def Template.external (t : Template) (c : Nat) : Bool :=
  t.descs.any (fun d => match d.kind.toNat with
    | 0x06 => decide (d.p1.toNat ≤ c) && decide (c < d.p1.toNat + 64)
    | 0x07 => d.p1.toNat == c
    | 0x1A => d.p0.toNat == c
    | 0x1B => d.p0.toNat == 1 && d.p1.toNat == c
    | _ => false)

/-- What members grant an exchange counter: the greatest threshold the template declares for it. -/
def Template.declared (t : Template) (c : Nat) : Nat :=
  if t.external c then
    (t.all.flatMap (fun x => (x.2.1.waits.filter (fun w => w.at x.2.2 == c)).map (·.amount))).foldl Nat.max 0
  else 0

/-- Check 6. -/
def Template.check6 (t : Template) : Bool :=
  t.all.all (fun x => x.2.1.waits.all (fun w => decide (w.amount ≤ t.granted (w.at x.2.2) + t.declared (w.at x.2.2))))

/-- Instances that grant a counter some instance waits on: the predecessors of an instance. -/
def Template.preds (t : Template) (x : Nat × Descriptor × Nat) : List Nat :=
  let cs := x.2.1.waits.map (fun w => w.at x.2.2)
  (t.all.filter (fun y => y.2.1.grants.any (fun g => cs.contains (g.at y.2.2)))).map (·.1)

/-- Ancestors of an instance, closed under predecessors in at most n rounds. -/
def Template.closure (t : Template) : Nat → List Nat → List Nat
  | 0, l => l
  | n + 1, l =>
    let more := (t.all.filter (fun x => l.contains x.1)).flatMap t.preds
    let l' := (l ++ more).eraseDups
    if l'.length = l.length then l else t.closure n l'

/-- Ancestors of an instance, itself left out unless a cycle leads back to it. -/
def Template.ancestors (t : Template) (x : Nat × Descriptor × Nat) : List Nat := t.closure t.instances (t.preds x)

/-- Check 7: no instance is its own ancestor. -/
def Template.check7 (t : Template) : Bool := t.all.all (fun x => !(t.ancestors x).contains x.1)

/-- Check 8: every instance but the fence is an ancestor of it. -/
def Template.check8 (t : Template) : Bool :=
  match t.all.find? (fun x => x.2.1.final) with
  | none => false
  | some f => let a := t.ancestors f; t.all.all (fun x => x.1 == f.1 || a.contains x.1)

/-- The GATE_MASK instances whose groups include one (07 R232). -/
def Template.gatesOf (t : Template) (g : Nat) : List (Nat × Descriptor × Nat) :=
  t.all.filter (fun x => x.2.1.kind.toNat == 0x17 && decide (x.2.1.p0.toNat ≤ g) && decide (g < x.2.1.p0.toNat + x.2.1.p1.toNat))

/-- Check 9: a block that is not EXTERNAL is written once and read by descendants of its writer; a skip group has one GATE_MASK (07
R233), from which descends every instance that reads or is written under the group (R135, 07 R236). -/
def Template.check9 (t : Template) : Bool :=
  (List.range t.blocks.length).all (fun h =>
    match t.blocks[h]? with
    | none => true
    | some b => b.external ||
      (match t.all.filter (fun x => (x.2.1.outputs x.2.2).contains h) with
      | [] => true
      | [w] => (t.readers h).all (fun r => (t.ancestors r).contains w.1)
      | _ => false)) &&
  (List.range 65536).all (fun n => n == 0 || decide ((t.gatesOf n).length ≤ 1)) &&
  t.all.all (fun x => (x.2.1.inputs x.2.2 ++ x.2.1.outputs x.2.2 ++ (handleOf x.2.1.h2 x.2.2).toList).all (fun h =>
    match t.blocks[h]? with
    | none => true
    | some b => b.skipGroup == 0 || (t.gatesOf b.skipGroup).all (fun g => (t.ancestors x).contains g.1)))

/-- Check 10. -/
def Template.check10 (t : Template) : Bool :=
  (t.all.flatMap (fun x => x.2.1.grants.map (fun g => g.at x.2.2))).all (fun c => decide (t.granted c + t.declared c ≤ 65535))

/-- Number of the first failed check, 0 when none fails (R114). -/
def Template.fault (s : State) (t : Template) : Nat :=
  if !t.check1 then 1
  else if !t.check2 s then 2
  else if !t.check3 s then 3
  else if !t.check4 then 4
  else if !t.check5 then 5
  else if !t.check6 then 6
  else if !t.check7 then 7
  else if !t.check8 then 8
  else if !t.check9 then 9
  else if !t.check10 then 10
  else 0

/-! ## Rotary parameters and their rates (05 R173, R174) -/

/-- A rotary parameter block (Table 5.6). -/
structure Rotary where
  base : W32
  scale : W32
  rot : Nat
  split : Bool
  dim : Nat
  tau : W32
  heads : Nat
  group : Nat
  deriving DecidableEq, Repr

/-- Read a rotary parameter block: R = D × ROT_NUM ÷ 64. -/
def readRotary (l : List Byte) : Rotary :=
  { base := BitVec.ofNat 32 (u32 l 0), scale := BitVec.ofNat 32 (u32 l 4), rot := u16 l 0xA * u8 l 8 / 64, split := u8 l 9 == 1
    dim := u16 l 0xA, tau := BitVec.ofNat 32 (u32 l 0xC), heads := u8 l 0x10, group := u8 l 0x11 }

/-- The rate of pair i, in half-turns per position (R174). -/
def Rotary.omega (p : Rotary) (i : Nat) : Fx :=
  let f := rneUnits false (2 * i * one149) p.rot
  fdiv (fexp2 (fmul (fminus f) (flog2 (fx p.base)))) (fmul (fx 0x40490FDB) (fx p.scale))

/-- The rates of all pairs. -/
def Rotary.omegas (p : Rotary) : List Fx := (List.range (p.rot / 2)).map p.omega

/-- The rotary blocks a template names: H3 of ATTEND and ROTARY_SCORE, and what is read in their place when they are skipped. -/
def Template.rotaryBlocks (t : Template) : List Nat :=
  let hs := (t.all.filter (fun x => x.2.1.kind.toNat == 0x03 || x.2.1.kind.toNat == 0x0B)).filterMap (fun x => handleOf x.2.1.h3 x.2.2)
  (hs ++ (hs.filterMap (fun h => t.blocks[h]?)).map (·.skipAlias)).eraseDups

/-- Compute and keep the rates of a template's rotary blocks (R174). -/
def Template.withRates (s : State) (t : Template) : Template :=
  { t with rates := t.rotaryBlocks.foldl (fun m h => match t.blocks[h]? with
      | none => m
      | some b => SMap.put m h ((readRotary (s.peek (localOf b.addr.toNat) 64).1).omegas.map (fun w => (w.v, w.r)))) [] }

/-! ## Relocation (10 R323) -/

/-- Relocate a block address: none for another area code, or when ADDR[59:47] is not zero. -/
def relocate (node : Node) (part work : Nat) (a : W64) : Option W64 :=
  let off := a.toNat % 2 ^ 47
  if bits a.toNat 59 47 ≠ 0 then none
  else match a.toNat / 2 ^ 60 with
    | 0 => some (fabAddr node off)
    | 1 => some (fabAddr node (part + off))
    | 2 => some (fabAddr node (work + off))
    | _ => none

/-- The address of a relocated block as a chunk would hold it: within the part as an offset from its base, elsewhere as it stands. -/
def unrelocate (part size : Nat) (a : W64) : W64 :=
  let l := localOf a.toNat
  BitVec.ofNat 64 (if part ≤ l ∧ l < part + size then 2 ^ 60 + (l - part) else l)

/-- A chunk with every ADDR of its block table put through a function. -/
def mapAddrs (l : TemplateLayout) (d : List Byte) (f : W64 → W64) : List Byte :=
  (List.range l.blocks).foldl (fun b i =>
    let o := l.blockAt + 32 * i
    patch b o (leBytes 8 (f (BitVec.ofNat 64 (u64 d o))).toNat)) d

/-- A chunk as it is written into a copy; none when an address is refused. -/
def relocateChunk (l : TemplateLayout) (d : List Byte) (node : Node) (part work : Nat) : Option (List Byte) :=
  if (List.range l.blocks).any (fun i => (relocate node part work (BitVec.ofNat 64 (u64 d (l.blockAt + 32 * i)))).isNone) then none
  else some (mapAddrs l d (fun a => (relocate node part work a).getD a))

/-- The draft model's segment follows the shard's template: its handles and counters are numbered in the whole (10 R318; log entry 33). -/
def Template.append (t d : Template) : Template := { t with descs := t.descs ++ d.descs, blocks := t.blocks ++ d.blocks, draft := d.draft }

end Sys2Proof.Machine
end

