-- ==== Sys2Proof/Machine/Cores.lean ====
section
/-! DEFINITION. Credits, retirement, deques, stealing and withdrawal (04_cores_ashlars_and_stealing.md R112, R116, R117, R120,
R125 to R149), for the own and the covered stream (13 R445, R447). -/

namespace Sys2Proof.Machine

/-! ## Streams, their objects and parities -/

/-- An object as a stream sees it: the package's own, or the covered node's (13 R442). -/
def State.cnum (s : State) (covered : Bool) (o : Obj) : Nat := if covered then SMap.get o.dflt s.mir.coverNums o.key else s.num o

/-- Write an object of a stream. -/
def State.setCnum (s : State) (covered : Bool) (o : Obj) (v : Nat) : State :=
  if covered then { s with mir := { s.mir with coverNums := SMap.set o.dflt s.mir.coverNums o.key v } } else s.setNum o v

/-- The node a stream runs as. -/
def State.streamNode (s : State) (covered : Bool) : Node := if covered then s.mir.covered.getD s.twinNode else s.node

/-- The bond of a stream, in index order (02 R68). -/
def State.bondOf (s : State) (covered : Bool) : List Node :=
  if covered then (List.range (s.cnum true O.bondCount)).map (fun i =>
    let v := s.cnum true (O.bondMember i)
    if v = 2 ^ 32 then s.streamNode true else BitVec.ofNat 17 v)
  else s.bond

/-- Index of a node in a stream's bond. -/
def State.indexIn (s : State) (covered : Bool) (n : Node) : Option Nat := (s.bondOf covered).findIdx? (· == n)

/-- Replace a stream. -/
def State.setStream (s : State) (covered : Bool) (st : Stream) : State :=
  if covered then { s with crs := { s.crs with covered := st } } else { s with crs := { s.crs with own := st } }

/-- Course parity (R115). -/
def oddOf (course : W64) : Bool := course.toNat % 2 == 1

/-- The credit state of a stream and parity (Table 4.10). -/
def State.parity (s : State) (covered odd : Bool) : Parity :=
  match covered, odd with
  | false, false => s.cred.own0
  | false, true => s.cred.own1
  | true, false => s.cred.cov0
  | true, true => s.cred.cov1

/-- Replace the credit state of a stream and parity. -/
def State.setParity (s : State) (covered odd : Bool) (p : Parity) : State :=
  match covered, odd with
  | false, false => { s with cred := { s.cred with own0 := p } }
  | false, true => { s with cred := { s.cred with own1 := p } }
  | true, false => { s with cred := { s.cred with cov0 := p } }
  | true, true => { s with cred := { s.cred with cov1 := p } }

/-- The template of a stream on a copy slot: the own part's, or for a covered course the twin part's (10 R323). -/
def State.templateOn (s : State) (covered : Bool) (slot : Nat) : Option Template :=
  if covered then (s.wts.copy slot).twinTempl else (s.wts.copy slot).templ

/-- An empty template. -/
def noTemplate : Template := {
  descs := [], blocks := [], coreBytes := 0, quarterBytes := 0, main := {}, draft := {}, vocab := 0, parkSegment := false, summariser := false
  staging := [], mainInst := 0 }

/-- The template a parity was prepared from. -/
def State.templ (s : State) (covered odd : Bool) : Template :=
  (s.templateOn covered (s.parity covered odd).slot).getD noTemplate

/-! ## Blocks in a course (R115 to R117, R120) -/

/-- Course tokens in tile j of a course of n tokens (R116). -/
def tileRows (n j : Nat) : Nat := Nat.min 64 (n - 64 * j)

/-- Skip-table entry of a group. -/
def Parity.skip (p : Parity) (g : Nat) : SkipEntry := SMap.get {} p.skips g

/-- The handle read in place of h when its group is skipped (R117). -/
def State.resolve (s : State) (covered odd : Bool) (h : Nat) : Nat :=
  match (s.templ covered odd).blocks[h]? with
  | some b => if b.skipGroup ≠ 0 ∧ ((s.parity covered odd).skip b.skipGroup).skipped then b.skipAlias else h
  | none => h

/-- The entry of a handle with the ROWS of the course. -/
def State.blockOf (s : State) (covered odd : Bool) (h : Nat) : Option BlockEntry :=
  ((s.templ covered odd).blocks[h]?).map (fun b =>
    if b.courseRows then { b with rows := tileRows (s.streamOf covered).rows.length b.tile }
    else if b.producerRows then { b with rows := SMap.get b.rows (s.parity covered odd).rows h }
    else b)

/-- Sessions of a course that carry drafts, in CSESSION order. -/
def Stream.drafting (st : Stream) : List Nat := ((st.rows.filter (·.speculative)).map (·.csession)).eraseDups

/-- Extent of an instance (R120; Table 4.6, 07 R232). -/
def State.extent (s : State) (covered odd : Bool) (d : Descriptor) (i : Nat) : Nat :=
  match d.kind.toNat with
  | 0x1B => 1
  | 0x12 => (s.streamOf covered).drafting.length
  | 0x17 => (s.streamOf covered).rows.length
  | _ => match handleOf d.h0 i with
    | none => 0
    | some h => ((s.blockOf covered odd (s.resolve covered odd h)).map (·.rows)).getD 0

/-- An instance retires in place: its extent is 0, or it is SKIPPABLE in a skipped group (R133, R135). -/
def State.zeroLength (s : State) (covered odd : Bool) (d : Descriptor) (i : Nat) : Bool :=
  let skip := d.skippable && (match handleOf d.h2 i with
    | none => false
    | some h => match (s.templ covered odd).blocks[h]? with
      | some b => b.skipGroup != 0 && ((s.parity covered odd).skip b.skipGroup).skipped
      | none => false)
  skip || s.extent covered odd d i == 0

/-! ## State words -/

/-- The state word of an instance: as prepared when it is not listed (R126). -/
def State.word (s : State) (covered odd : Bool) (inst : Nat) : InstWord :=
  match SMap.find (s.parity covered odd).words inst with
  | some w => w
  | none => { outstanding := (((s.templ covered odd).find inst).map (fun x => x.1.waits.length)).getD 0 }

/-- Write a state word. -/
def State.setWord (s : State) (covered odd : Bool) (inst : Nat) (w : InstWord) : State :=
  let p := s.parity covered odd
  s.setParity covered odd { p with words := SMap.put p.words inst w }

/-- The course of a parity has started and not closed: its ready instances are placed and not held (R132). -/
def State.started (s : State) (covered odd : Bool) : Bool :=
  let st := s.streamOf covered
  st.running && oddOf st.course == odd

/-! ## Placement (R138, R139) -/

/-- A core takes pushes: it is ACTIVE and its quarter is in the gang. -/
def State.live (s : State) (g : Nat) : Bool := (s.coreAt g).st == .active && s.crs.gang.getLsbD (g / 96)

/-- The core a placed instance goes to, when no core retired the cause. -/
def State.placeFor (s : State) (inst : Nat) : Option Nat :=
  let home := inst % 4
  let from_ := inst / 4 % 96
  match (List.range 96).find? (fun k => s.live (home * 96 + (from_ + k) % 96)) with
  | some k => some (home * 96 + (from_ + k) % 96)
  | none => (List.range 384).find? s.live

/-- The entry of an instance. -/
def entryOf (covered odd : Bool) (inst : Nat) : Entry := { covered := covered, odd := odd, inst := inst }

/-- Overflow queue of a quarter. -/
def State.overflow (s : State) (q : Nat) : List Entry := SMap.get [] s.cred.overflow q

/-- Replace an overflow queue. -/
def State.setOverflow (s : State) (q : Nat) (l : List Entry) : State := { s with cred := { s.cred with overflow := SMap.set [] s.cred.overflow q l } }

/-- Leave an instance READY with holder none, to be placed at a pop of quarter q, or of any quarter when q is 4 (R132, R139). -/
def State.keepUnplaced (s : State) (covered odd : Bool) (inst q : Nat) : State :=
  let s := s.setWord covered odd inst { s.word covered odd inst with st := .ready, holder := none }
  let p := s.parity covered odd
  s.setParity covered odd { p with unplaced := p.unplaced ++ [(inst, q)] }

/-- Push an instance to a core's deque, or to its quarter's overflow queue, where HOLDER stays the core whose deque was full until another
core takes the entry (DESIGN CHOICE, log entry 31: R139 does not say who holds it there). -/
def State.pushTo (s : State) (covered odd : Bool) (inst g : Nat) (h : g < 384) : State :=
  let c := s.coreAt g
  let e := entryOf covered odd inst
  let w := { s.word covered odd inst with st := .ready, holder := some ⟨g, h⟩ }
  if c.deque.length < 4096 then (s.setWord covered odd inst w).setCore g { c with deque := c.deque ++ [e] }
  else if (s.overflow (g / 96)).length < 65536 then (s.setWord covered odd inst w).setOverflow (g / 96) (s.overflow (g / 96) ++ [e])
  else s.keepUnplaced covered odd inst (g / 96)

/-- Place a READY instance (R138). `cause` is the core that retired the instance whose grant met the last wait. -/
def State.place (s : State) (covered odd : Bool) (inst : Nat) (cause : Option Nat) : State :=
  let target := match cause with
    | some k => if s.live k then some k else s.placeFor inst
    | none => s.placeFor inst
  match target with
  | none => s.keepUnplaced covered odd inst 4
  | some g => if h : g < 384 then s.pushTo covered odd inst g h else s

/-! ## Retirement and grants (R127 to R135) -/

/-- A grant still to be applied. -/
structure GrantWork where
  covered : Bool
  odd : Bool
  counter : Nat
  amount : Nat
  cause : Option Nat
  deriving DecidableEq, Repr

/-- The course number of a parity. -/
def State.parityCourse (s : State) (covered odd : Bool) : W64 := ((s.parity covered odd).course).getD 0

/-- Send a transfer or grant to a bond member and retain it (13 R444). -/
def State.sendMember (s : State) (covered : Bool) (dest : Node) (course : W64) (b : Body) : State :=
  let s := s.send dest b
  if dest = s.streamNode covered then s
  else { s with mir := { s.mir with retained := s.mir.retained ++ [{ covered := covered, dest := dest, course := course, body := b }] } }

/-- Bond member of a stream by index. -/
def State.memberAt (s : State) (covered : Bool) (i : Nat) : Node := (s.bondOf covered).getD i 0

/-- The placement table of a scatter: the block its bond index table names (R210). -/
def State.tableRow (s : State) (covered odd : Bool) (h : W32) (i e : Nat) : Nat :=
  match handleOf h i with
  | none => 0
  | some k => match s.blockOf covered odd (s.resolve covered odd k) with
    | none => 0
    | some b => s.peekLe (localOf b.addr.toNat + e * b.stride) 4

/-- The holder slot under which expert e is sent to bond index dest (07 R225): LOCAL0 or LOCAL1. -/
def holderSlot (row dest : Nat) : Option Nat :=
  if bits row 5 0 = dest then some (bits row 11 6) else if bits row 17 12 = dest then some (bits row 23 18) else none

/-- The layer of a choice list: that of the ROUTER_TOPK that writes it (07 R225). -/
def Template.layerOf (t : Template) (h : Option Nat) : Nat := ((t.routerOf h).map (fun x => x.1.p2.toNat)).getD 0

/-- The members a COLLECT sends to: the bond indices in the first P1 rows of the table H1 names, or the whole bond when it names none
(R123; log entry 26 for the table's layout). -/
def State.collectMembers (s : State) (covered odd : Bool) (d : Descriptor) (i : Nat) : List Node :=
  match (handleOf d.h1 i).bind (fun k => s.blockOf covered odd (s.resolve covered odd k)) with
  | none => s.bondOf covered
  | some b => ((List.range d.p1.toNat).map (fun k => s.memberAt covered (s.peekLe (localOf b.addr.toNat + k * b.stride) 4 % 64))).eraseDups

/-- The empty markers of a zero-length instance of a sending kind (R134). -/
def State.emptyMarkers (s : State) (covered odd : Bool) (d : Descriptor) (i inst : Nat) : State :=
  let course := s.parityCourse covered odd
  let me := BitVec.ofNat 6 ((s.indexIn covered (s.streamNode covered)).getD 0)
  match d.kind.toNat with
  | 0x06 =>
    let dest := d.p0.toNat
    let layer := (s.templ covered odd).layerOf (handleOf d.h0 i)
    (List.range d.p3.toNat).foldl (fun t k =>
      let e := d.p2.toNat + k
      match holderSlot (t.tableRow covered odd d.h3 i e) dest with
      | none => t
      | some slot => t.sendMember covered (t.memberAt covered dest) course (.expert {
          course := course, inst := BitVec.ofNat 20 inst, layer := layer, expert := slot, source := me
          counter := BitVec.ofNat 18 (d.p1.toNat + slot), rows := [] })) s
  | 0x07 => s.sendMember covered (s.memberAt covered d.p0.toNat) course (.expertReturn {
      course := course, inst := BitVec.ofNat 20 inst, layer := (s.templ covered odd).layerOf (handleOf d.h1 i), expert := d.p2.toNat, source := me
      counter := BitVec.ofNat 18 d.p1.toNat, rows := [] })
  | 0x14 => s.send (BitVec.ofNat 17 d.p0.toNat) (.marker course inst none)
  | 0x1A => (s.collectMembers covered odd d i).foldl (fun t n =>
      t.sendMember covered n course (.marker course inst (some (BitVec.ofNat 18 d.p0.toNat)))) s
  | _ => s

/-- A verify's verdicts take effect (05 R169; 06 R195): SET_END rises by the drafts accepted and SCAFFOLD is 0. -/
def State.applyVerify (s : State) (covered : Bool) : State :=
  let st := s.streamOf covered
  (st.drafting.map (fun c => st.sessions.getD c 0)).foldl (fun t slot =>
    t.editSession slot (fun x =>
      let f := fun (r : Root) => if r.layers = 0 then r else { r with setEnd := r.setEnd + x.accepted, scaffold := 0 }
      { x with main := f x.main, draft := f x.draft })) s

/-- A GATE_MASK retires (07 R233): MASKED and the handle in every entry it covers, SKIPPED where every token is skipped. -/
def State.applyMask (s : State) (covered odd : Bool) (d : Descriptor) (i : Nat) : State :=
  let n := (s.streamOf covered).rows.length
  let h := (handleOf d.h2 i).getD 0
  let rows := match s.blockOf covered odd h with
    | none => []
    | some b => (List.range n).map (fun t => s.peekLe (localOf b.addr.toNat + t * b.stride) 8)
  (List.range d.p1.toNat).foldl (fun t k =>
    let p := t.parity covered odd
    let all := rows.all (fun r => bit r k)
    let t := t.setParity covered odd { p with skips := SMap.set {} p.skips (d.p0.toNat + k) { skipped := all, masked := true, handle := h } }
    if all then t.bump O.layersSkipped 64 else t) s

/-- The writer of blocks with PRODUCER_ROWS writes their ROWS before it grants (R116). -/
def State.noteRows (s : State) (covered odd : Bool) (d : Descriptor) (i n : Nat) : State :=
  (d.outputs i).foldl (fun t h =>
    if ((t.templ covered odd).blocks[h]?).any (·.producerRows) then
      let p := t.parity covered odd
      t.setParity covered odd { p with rows := SMap.put p.rows h n }
    else t) s

/-- Put what an instance sends where its retirement finds it, in place of what an earlier run of it left there (R130, R148). -/
def State.putOut (s : State) (covered odd : Bool) (inst : Nat) (l : List Sending) : State :=
  let old := s.mir.outbox.filter (fun x => !(x.covered == covered && x.odd == odd && x.inst == inst))
  { s with mir := { s.mir with outbox := old ++ l } }

/-- Payload bytes of a transfer between members. -/
def Body.payload : Body → Nat
  | .expert m => sumNat (m.rows.map (·.length))
  | .expertReturn m => sumNat (m.rows.map (·.length))
  | .collect _ _ _ d => d.length
  | .pageRecord r d => r.length + d.length
  | _ => 0

/-- Send one of them; a page record sent is kept for its shipment's closing record (05 R186). -/
def State.sendOut (s : State) (course : W64) (x : Sending) : State :=
  let s := s.tally 0 0 x.body.payload
  let s := if x.retain then s.sendMember x.covered x.dest course x.body else s.send x.dest x.body
  match x.root, x.body with
  | some (slot, draft), .pageRecord r _ => s.editSession slot (fun y =>
      if draft then { y with ship := { y.ship with draftRecs := y.ship.draftRecs ++ [r] } }
      else { y with ship := { y.ship with mainRecs := y.ship.mainRecs ++ [r] } })
  | _, _ => s

/-- The retirement is accepted: what the instance sends goes out, with its remote grants (R130). -/
def State.flushOut (s : State) (covered odd : Bool) (inst : Nat) : State :=
  let mine := s.mir.outbox.filter (fun x => x.covered == covered && x.odd == odd && x.inst == inst)
  mine.foldl (fun t x => t.sendOut (s.parityCourse covered odd) x) (s.putOut covered odd inst [])

/-- What a retirement does beside its local grants (R124, R130). -/
def State.retireEffects (s : State) (covered odd : Bool) (d : Descriptor) (i inst : Nat) (zero : Bool) : State :=
  let course := s.parityCourse covered odd
  match d.kind.toNat with
  | 0x1B =>
    let s := if d.p0.toNat = 1 then
        ((s.bondOf covered).filter (fun n => n != s.streamNode covered)).foldl (fun t n =>
          t.sendMember covered n course (.grant course (BitVec.ofNat 18 d.p1.toNat) 1 inst)) s
      else s
    if d.final then s.setStream covered { s.streamOf covered with fenceDone := true, closeT := s.clk.tick } else s
  | 0x12 => s.applyVerify covered
  | 0x17 => s.applyMask covered odd d i
  | 0x1A =>
    if zero then s.emptyMarkers covered odd d i inst
    else (s.collectMembers covered odd d i).foldl (fun t n => t.sendMember covered n course (.grant course (BitVec.ofNat 18 d.p0.toNat) 1 inst)) s
  | _ => if zero then s.emptyMarkers covered odd d i inst else s.flushOut covered odd inst

/-- Retire an instance: RETIRED, its effects, and the grants it issues. -/
def State.retire (s : State) (covered odd : Bool) (d : Descriptor) (i inst : Nat) (zero : Bool) (cause : Option Nat) : State × List GrantWork :=
  let s := s.setWord covered odd inst { s.word covered odd inst with st := .retired, holder := none }
  let s := if zero then s.noteRows covered odd d i 0 else s
  (s.retireEffects covered odd d i inst zero,
    d.grants.map (fun g => { covered := covered, odd := odd, counter := g.at i, amount := g.amount, cause := cause }))

/-- An instance becomes READY (R128, R132, R133). -/
def State.ready (s : State) (covered odd : Bool) (inst : Nat) (cause : Option Nat) : State × List GrantWork :=
  if !s.started covered odd then (s.keepUnplaced covered odd inst 4, [])
  else match (s.templ covered odd).find inst with
    | none => (s, [])
    | some (d, i) =>
      if s.zeroLength covered odd d i then s.retire covered odd d i inst true none
      else (s.place covered odd inst cause, [])

/-- Waits on a counter: threshold and instance, by threshold (R128). The instances that one grant makes READY are placed in this order,
by threshold and then instance number (DESIGN CHOICE, log entry 31: the manual gives none). -/
def Template.waiters (t : Template) (c : Nat) : List (Nat × Nat) :=
  sortBy (·.1) (t.all.flatMap (fun x => (x.2.1.waits.filter (fun w => w.at x.2.2 == c)).map (fun w => (w.amount, x.1))))

/-- One wait of an instance is met. -/
def State.meetWait (s : State) (covered odd : Bool) (inst : Nat) (cause : Option Nat) : State × List GrantWork :=
  let w := s.word covered odd inst
  let s := s.setWord covered odd inst { w with outstanding := w.outstanding - 1 }
  if w.outstanding = 1 ∧ w.st = .waiting then s.ready covered odd inst cause else (s, [])

/-- Apply one grant to its counter (R127 to R129). -/
def State.applyGrant (s : State) (g : GrantWork) : State × List GrantWork :=
  let p := s.parity g.covered g.odd
  let old := SMap.get 0 p.counters g.counter
  let new := Nat.min 65535 (old + g.amount)
  let s := s.setParity g.covered g.odd { p with counters := SMap.set 0 p.counters g.counter new }
  let s := if old + g.amount > 65535 then s.raise (srcCredit (g.counter % 4)) 0 0x26 3 0 else s
  (((s.templ g.covered g.odd).waiters g.counter).filter (fun w => decide (old < w.1) && decide (w.1 ≤ new))).foldl
    (fun (acc : State × List GrantWork) w =>
      let r := acc.1.meetWait g.covered g.odd w.2 g.cause
      (r.1, acc.2 ++ r.2)) (s, [])

/-- Apply grants until none is left, at most n of them. -/
def State.pump : Nat → List GrantWork → State → State
  | 0, _, s => s
  | _ + 1, [], s => s
  | n + 1, g :: r, s =>
    let x := s.applyGrant g
    State.pump n (r ++ x.2) x.1

/-- Apply grants and all that follows from them: no more than two for each instance. -/
def State.grants (s : State) (l : List GrantWork) : State :=
  match l with
  | [] => s
  | g :: _ => State.pump (l.length + 2 * (s.templ g.covered g.odd).instances) l s

/-- A remote transfer or grant of (course, sender, number) has not been applied yet (13 R445); it is noted. -/
def State.firstTime (s : State) (covered : Bool) (course : W64) (sender : Node) (no : Nat) : Option State :=
  if s.eng.seen.contains (covered, course, sender, no) then none
  else some { s with eng := { s.eng with seen := s.eng.seen ++ [(covered, course, sender, no)] } }

/-- The number under which an arrival of an instance is noted: a transfer is told from the instance's others by layer and slot. -/
def arrivalNo (inst : BitVec 20) (layer code : Nat) : Nat := inst.toNat * 65536 + layer % 256 * 256 + code

/-- The parity a course number of a stream goes to: that of the current course or the next (R127). -/
def State.courseParity (s : State) (covered : Bool) (course : W64) : Option Bool :=
  let st := s.streamOf covered
  if course == st.next || (!st.fresh && (course == st.course || course == st.course + 1)) then some (oddOf course) else none

/-- GRANT from a bond member. -/
def grant (s : State) (covered : Bool) (course : W64) (counter : BitVec 18) (amount : BitVec 12) (sender : Node) (inst : BitVec 20) : State :=
  match s.courseParity covered course with
  | none => s.raise (srcCredit (counter.toNat % 4)) 0 0x25 1 0
  | some odd => match s.firstTime covered course sender (arrivalNo inst 0 255) with
    | none => s
    | some s => s.grants [{ covered := covered, odd := odd, counter := counter.toNat, amount := amount.toNat, cause := none }]

/-! ## Running and retiring (R130, R131, R140) -/

/-- Global core number. -/
def runCore (r : Run) : Nat := coreNo r.q r.nn

/-- A core runs an instance of a stream's running course. -/
def State.runs (s : State) (r : Run) : Bool :=
  let st := s.streamOf r.covered
  st.running && (s.coreAt (runCore r)).running == some (entryOf r.covered (oddOf st.course) r.inst.toNat) &&
    (s.word r.covered (oddOf st.course) r.inst.toNat).st == .running

/-- RETIRE_REQUEST of a running instance whose writes are all acknowledged. A ROUTER_TOPK sends none: its engine retires it (07 R213,
R218). -/
def retireRequest (s : State) (r : Run) : State :=
  let odd := oddOf (s.streamOf r.covered).course
  let c := s.coreAt (runCore r)
  if !s.runs r || !c.done then s
  else match (s.templ r.covered odd).find r.inst.toNat with
    | none => s
    | some (d, i) =>
      if d.kind = 0x05 then s
      else
      let b := s.drawNat
      let busy := b.1 % 2 ^ 32
      let s := (b.2.countBusy busy).setCore (runCore r) { c with running := none, done := false, retired := c.retired + 1, busy := c.busy + BitVec.ofNat 32 busy }
      let x := s.retire r.covered odd d i r.inst.toNat false (some (runCore r))
      x.1.grants x.2

/-- A pop of quarter q's cores lets its credit unit place what it holds (R139). -/
def State.placeHeld (s : State) (q : Nat) : State :=
  [false, true].foldl (fun (t : State) cov => [false, true].foldl (fun (t : State) odd =>
    if !t.started cov odd then t
    else
      let p := t.parity cov odd
      let mine := fun (x : Nat × Nat) => x.2 == q || x.2 == 4
      (p.unplaced.filter mine).foldl (fun u x => u.place cov odd x.1 none)
        (t.setParity cov odd { p with unplaced := p.unplaced.filter (fun x => !mine x) })) t) s

/-- RUN_CLAIM (R140): the core pops its bottom entry, taking the head of its quarter's overflow queue first when its deque is
empty, and claims it. An entry that the claim refuses, one of a parity that no longer runs among them, is discarded. -/
def runClaim (s : State) (r : Run) : State :=
  let g := (runCore r)
  let c := s.coreAt g
  if c.st ≠ .active ∨ c.running ≠ none ∨ c.waits = true then s
  else
    let s := match c.deque, s.overflow r.q.val with
      | [], x :: rest =>
        let w := s.word x.covered x.odd x.inst
        let s := if h : g < 384 then (if w.st == RunState.ready then s.setWord x.covered x.odd x.inst { w with holder := some ⟨g, h⟩ } else s) else s
        (s.setOverflow r.q.val rest).setCore g { c with deque := [x] }
      | _, _ => s
    let c := s.coreAt g
    match c.deque.getLast? with
    | none => s
    | some e =>
      if e.covered ≠ r.covered ∨ e.inst ≠ r.inst.toNat then s
      else
        let c := { c with deque := c.deque.dropLast }
        let w := s.word e.covered e.odd e.inst
        let mine := match w.holder with | some k => k.val == g | none => false
        let s := if w.st == RunState.ready && mine && s.started e.covered e.odd then
            (s.setWord e.covered e.odd e.inst { w with st := .running }).setCore g { c with running := some e, done := false }
          else s.setCore g c
        s.placeHeld r.q.val

/-! ## Stealing (R141 to R144) -/

/-- One steal: up to n entries from the victim's top to the thief's bottom, each claimed (R143). -/
def State.stealTop (s : State) (thief victim n : Nat) : Bool × State :=
  let v := s.coreAt victim
  let took := v.deque.take n
  let c := s.coreAt thief
  if took.isEmpty then (false, s.setCore thief { c with misses := c.misses + 1 })
  else
    let s := (s.setCore victim { v with deque := v.deque.drop n }).setCore thief { c with deque := c.deque ++ took, steals := c.steals + 1 }
    (true, took.foldl (fun t e =>
      let w := t.word e.covered e.odd e.inst
      match w.holder with
      | some k => if k.val == victim && w.st == .ready then
          (if h : thief < 384 then t.setWord e.covered e.odd e.inst { w with holder := some ⟨thief, h⟩ } else t) else t
      | none => t) s)

/-- The cores of a quarter. -/
def quarterCores (q : Nat) : List Nat := (List.range 96).map (fun k => q * 96 + k)

/-- Published depth of a set of cores. -/
def State.shownDepth (s : State) (gs : List Nat) : Nat := sumNat (gs.map (fun g => (s.coreAt g).shown))

/-- The hub refreshes its totals of the quarters (R142). Which of these moments comes before a command of a core is left free: no row of the
table is the hub's refresh (log entry 31). -/
def State.refreshHub (s : State) : State :=
  let b := s.drawNat
  if b.1 % 2 = 0 then b.2
  else { b.2 with cred := { b.2.cred with hub := (List.range 4).foldl (fun m q => SMap.set 0 m q (s.shownDepth (quarterCores q))) [] } }

/-- Depth of a quarter as the hub shows it. -/
def State.hubDepth (s : State) (q : Nat) : Nat := SMap.get 0 s.cred.hub q

/-- The cores of a ring. -/
def ringCores (q r : Nat) : List Nat := (List.range 8).map (fun k => q * 96 + 8 * r + k)
/-- The search of a core with nothing to run (R141). -/
def State.search (s : State) (q nn : Nat) : Bool × State :=
  let g := q * 96 + nn
  let s1 := (List.range 7).foldl (fun (acc : Bool × State) k =>
    if acc.1 then acc else acc.2.stealTop g (q * 96 + 8 * (nn / 8) + (nn % 8 + k + 1) % 8) 1) (false, s)
  if s1.1 then s1
  else
    let s := s1.2
    let ring := (maxBy (fun r => s.shownDepth (ringCores q r)) ((List.range 12).filter (fun r => r != nn / 8))).bind (fun r =>
      if s.shownDepth (ringCores q r) = 0 then none else maxBy (fun k => (s.coreAt k).shown) (ringCores q r))
    let s2 : Bool × State := match ring with
      | none => (false, s)
      | some v => s.stealTop g v (Nat.max 1 (Nat.min 8 ((s.coreAt v).shown / 2)))
    if s2.1 then s2
    else
      let s := s2.2
      let others := (List.range 4).filter (fun k => k != q && s.crs.gang.getLsbD k)
      let far := (maxBy s.hubDepth others).bind (fun k =>
        if s.hubDepth k = 0 then none else maxBy (fun j => (s.coreAt j).shown) (quarterCores k))
      match far with
      | none => (false, s)
      | some v => s.stealTop g v (Nat.max 1 (Nat.min 16 ((s.coreAt v).shown / 2)))

/-- STEAL: a core whose deque and overflow queue are empty searches; a search that finds nothing makes it wait. -/
def steal (s : State) (q : Fin 4) (nn : Fin 96) : State :=
  let g := coreNo q nn
  let c := s.coreAt g
  if c.st ≠ .active ∨ c.running ≠ none ∨ c.waits = true ∨ c.deque ≠ [] ∨ s.overflow q.val ≠ [] then s
  else
    let x := s.refreshHub.search q.val nn.val
    if x.1 then x.2 else x.2.setCore g { x.2.coreAt g with waits := true }

/-- STEAL_RETRY_WAIT: the 64 clocks have passed. -/
def stealRetryWait (s : State) (q : Fin 4) (nn : Fin 96) : State :=
  s.setCore (coreNo q nn) { s.coreAt (coreNo q nn) with waits := false }

/-- DEPTH_PUBLISH (R142). -/
def depthPublish (s : State) (q : Fin 4) (nn : Fin 96) : State :=
  let c := s.coreAt (coreNo q nn)
  (s.setCore (coreNo q nn) { c with shown := c.deque.length }).refreshHub

/-! ## Withdrawal (R145 to R149) -/

/-- Offset of a core's registers in the control-register space. -/
def coreReg (g : Nat) : Nat := 0x01000000 + g / 96 * 0x100000 + g % 96 * 0x1000

/-- Refuse a write of CORE_CTRL from any other requester (R149). -/
def State.refuseCore (s : State) (g : Nat) : State := s.refuseReg (coreReg g + 4)

/-- CORE_LEAVE. -/
def coreLeave (s : State) (who : Requester) (q : Fin 4) (nn : Fin 96) : State :=
  let g := coreNo q nn
  let c := s.coreAt g
  if !isCtl who then s.refuseCore g
  else if c.st ≠ .active then s
  else s.setCore g { c with st := .leaving, leave := true }

/-- CORE_WITHDRAWN: the leaving core has finished its instance and its deque is empty (R145); a core that left for a test slot
enters TEST (17 R577). -/
def coreWithdrawn (s : State) (q : Fin 4) (nn : Fin 96) : State :=
  let g := coreNo q nn
  let c := s.coreAt g
  if c.st ≠ .leaving ∨ c.running ≠ none ∨ c.deque ≠ [] then s
  else s.setCore g { c with st := if c.forTest then .test else .withdrawn, leave := false, forTest := false }

/-- CORE_REJOIN: back to ACTIVE at the next course start; a core that failed its test stays WITHDRAWN (17 R578). -/
def coreRejoin (s : State) (who : Requester) (q : Fin 4) (nn : Fin 96) : State :=
  let g := coreNo q nn
  let c := s.coreAt g
  if !isCtl who then s.refuseCore g
  else if (c.st = .withdrawn ∨ c.st = .test) ∧ !c.failed ∧ !c.awaitTest then s.setCore g { c with rejoin := true }
  else s

/-- The instances a core holds, of one stream and parity. -/
def Parity.heldBy (p : Parity) (g : Nat) : List (Nat × InstWord) :=
  p.words.filter (fun e => (e.2.st == .ready || e.2.st == .running) && (match e.2.holder with | some k => k.val == g | none => false))

/-- A core withdrawn by a fault (R146, R147): it stops, and what it held is placed again. Its deque stays as it is (R137): the claims of
the entries left there are refused. `raised`: the running instance raised the fault. -/
def State.withdrawCore (s : State) (g : Nat) (raised : Bool) : State :=
  let c := s.coreAt g
  let s := s.setCore g { c with st := .withdrawn, leave := false, forTest := false, rejoin := false, running := none, done := false, waits := false }
  [false, true].foldl (fun (t : State) cov => [false, true].foldl (fun (t : State) odd =>
    ((t.parity cov odd).heldBy g).foldl (fun u e =>
      let f := if raised && e.2.st == .running then e.2.faulted + 1 else e.2.faulted
      let u := u.setWord cov odd e.1 { e.2 with st := .ready, holder := none, faulted := f }
      if f ≥ 2 then u.raise (srcCredit (e.1 % 4)) 0 0x23 3 (instAddr e.1 odd)
      else if u.started cov odd then u.place cov odd e.1 none
      else u.keepUnplaced cov odd e.1 4) t) t) s

/-- A quarter's cores withdrawn together, out of the gang at once (02 R56). -/
def State.withdrawQuarter (s : State) (q : Nat) : State :=
  let s := { s with crs := { s.crs with gang := s.crs.gang &&& ~~~ (BitVec.ofNat 4 (2 ^ q)) } }
  (quarterCores q).foldl (fun t g => t.withdrawCore g false) s

/-! ## Preparation and start (R126, R132) -/

/-- Prepare a parity for a course from a copy's template (R126). -/
def State.prepare (s : State) (covered : Bool) (course : W64) (slot : Nat) : State :=
  let s := { s with mir := { s.mir with outbox := s.mir.outbox.filter (fun x => !(x.covered == covered && x.odd == oddOf course)) } }
  s.setParity covered (oddOf course) { course := some course, slot := slot }

/-- At the start tick: waitless instances become READY, and everything held is retired in place or placed (R132), in the order of the
instance numbers (DESIGN CHOICE, log entry 31: the manual gives none). -/
def State.beginCourse (s : State) (covered odd : Bool) : State :=
  let t := s.templ covered odd
  let p := s.parity covered odd
  let waitless := (t.all.filter (fun x => x.2.1.waits.isEmpty)).map (·.1)
  let held := sortBy id ((p.unplaced.map (·.1) ++ waitless).eraseDups)
  let s := s.setParity covered odd { p with unplaced := [] }
  let r := held.foldl (fun (acc : State × List GrantWork) inst =>
    let x := acc.1.ready covered odd inst none
    (x.1, acc.2 ++ x.2)) (s, [])
  r.1.grants r.2

/-! ## The commands -/

/-- GRANT. -/
def execGrant (covered : Bool) (course : W64) (counter : BitVec 18) (amount : BitVec 12) (sender : Node) (inst : BitVec 20) (s : State) : Host.Outcome State Fault Refusal :=
  .next (grant s covered course counter amount sender inst)
/-- RETIRE_REQUEST. -/
def execRetireRequest (r : Run) (s : State) : Host.Outcome State Fault Refusal :=
  .next (retireRequest s r)
/-- RUN_CLAIM. -/
def execRunClaim (r : Run) (s : State) : Host.Outcome State Fault Refusal :=
  .next (runClaim s r)
/-- STEAL. -/
def execSteal (q : Fin 4) (nn : Fin 96) (s : State) : Host.Outcome State Fault Refusal :=
  .next (steal s q nn)
/-- STEAL_RETRY_WAIT. -/
def execStealRetryWait (q : Fin 4) (nn : Fin 96) (s : State) : Host.Outcome State Fault Refusal :=
  .next (stealRetryWait s q nn)
/-- DEPTH_PUBLISH. -/
def execDepthPublish (q : Fin 4) (nn : Fin 96) (s : State) : Host.Outcome State Fault Refusal :=
  .next (depthPublish s q nn)
/-- CORE_LEAVE. -/
def execCoreLeave (who : Requester) (q : Fin 4) (nn : Fin 96) (s : State) : Host.Outcome State Fault Refusal :=
  .next (coreLeave s who q nn)
/-- CORE_WITHDRAWN. -/
def execCoreWithdrawn (q : Fin 4) (nn : Fin 96) (s : State) : Host.Outcome State Fault Refusal :=
  .next (coreWithdrawn s q nn)
/-- CORE_REJOIN. -/
def execCoreRejoin (who : Requester) (q : Fin 4) (nn : Fin 96) (s : State) : Host.Outcome State Fault Refusal :=
  .next (coreRejoin s who q nn)

end Sys2Proof.Machine
end

