-- ==== Sys2Proof/Machine/Operands.lean ====
section
/-! DEFINITION. The forms in which operands reach the package and leave it: link control words and packets (11 Tables 11.4 to
11.10), time words (02 Table 2.1), hod and return records (02 Tables 2.3, 2.5), course records (02 Table 2.7) and the
telemetry and command frames of the plinth (14 Tables 14.2, 14.3). -/

namespace Sys2Proof.Machine

/-! ## Control words (11 R354, Table 11.5) -/

/-- A control word: CTYPE, eight zero bits, the payload and its CCRC. -/
def ctrlWord (ctype : Nat) (payload : BitVec 96) : BitVec 128 :=
  let top := ctype * 2 ^ 104 + payload.toNat
  BitVec.ofNat 128 (top * 2 ^ 16 + crc16 (beBytes 14 top))

/-- A received control word passes R355, but for R34: a known CTYPE, zero reserved bits and its CCRC. -/
def ctrlOk (w : BitVec 128) : Bool :=
  let v := w.toNat
  let ct := bits v 127 120
  bits v 119 112 == 0 && v % 2 ^ 16 == crc16 (beBytes 14 (v / 2 ^ 16)) &&
    ((decide (1 ≤ ct) && decide (ct ≤ 5)) || (decide (0x10 ≤ ct) && decide (ct ≤ 0x16)))

/-- CTYPE codes. -/
def ctTime : Nat := 1
/-- ECHO. -/
def ctEcho : Nat := 2
/-- REPLAY. -/
def ctReplay : Nat := 3
/-- LANE_MAP. -/
def ctLaneMap : Nat := 4
/-- CREDIT_INIT. -/
def ctCreditInit : Nat := 5
/-- HELLO. -/
def ctHello : Nat := 0x10
/-- BEACON. -/
def ctBeacon : Nat := 0x11
/-- ASSIGN. -/
def ctAssign : Nat := 0x12
/-- REPORT. -/
def ctReport : Nat := 0x13
/-- FABRIC. -/
def ctFabric : Nat := 0x14
/-- JOIN. -/
def ctJoin : Nat := 0x15
/-- CALL. -/
def ctCall : Nat := 0x16

/-- A 96-bit payload out of (value, low bit) fields. -/
def payload96 (fs : List (Nat × Nat)) : BitVec 96 := BitVec.ofNat 96 (fs.foldl (fun a f => a + f.1 * 2 ^ f.2) 0)

/-! ## Time words (02 Table 2.1) -/

/-- A time word's fields. -/
structure TimeWord where
  tick : Tick
  phase : Nat
  master : Node
  epoch : Byte
  hops : Nat
  cclk : Bool
  hold : Bool
  reserved : Nat
  deriving DecidableEq, Repr

/-- Read a payload as a time word. -/
def readTime (w : BitVec 96) : TimeWord :=
  let v := w.toNat
  { tick := BitVec.ofNat 48 (bits v 95 48), phase := bits v 47 38, master := BitVec.ofNat 17 (bits v 37 21)
    epoch := BitVec.ofNat 8 (bits v 20 13), hops := bits v 12 8, cclk := bit v 7, hold := bit v 6, reserved := bits v 5 0 }

/-- A time word as a payload. -/
def TimeWord.payload (t : TimeWord) : BitVec 96 :=
  payload96 [(t.tick.toNat, 48), (t.phase, 38), (t.master.toNat, 21), (t.epoch.toNat, 13), (t.hops, 8), (b2n t.cclk, 7), (b2n t.hold, 6)]

/-- e' is later than e (02 R34). -/
def epochLater (e' e : Byte) : Bool := decide (1 ≤ (e' - e).toNat) && decide ((e' - e).toNat ≤ 127)

/-! ## Flits and packets (11 Tables 11.3, 11.4, 11.7) -/

/-- A flit header's fields. -/
structure FlitHead where
  typ : Nat
  vc : Nat
  fseq : BitVec 10
  ack : BitVec 10
  creditVc : Nat
  credit : Nat
  count : Nat
  deriving DecidableEq, Repr

/-- Read a flit's header, most significant byte first. -/
def flitHead (b : List Byte) : FlitHead :=
  let v := fieldBe b 0 8
  { typ := bits v 63 62, vc := bits v 61 60, fseq := BitVec.ofNat 10 (bits v 59 50), ack := BitVec.ofNat 10 (bits v 49 40)
    creditVc := bits v 39 38, credit := bits v 37 26, count := bits v 25 22 }

/-- The eight bytes of a header. -/
def FlitHead.bytes (h : FlitHead) : List Byte :=
  beBytes 8 (h.typ * 2 ^ 62 + h.vc * 2 ^ 60 + h.fseq.toNat * 2 ^ 50 + h.ack.toNat * 2 ^ 40 + h.creditVc * 2 ^ 38 +
    h.credit % 4096 * 2 ^ 26 + h.count * 2 ^ 22)

/-- The even (false) or odd (true) bytes of a list. -/
def everyOther (odd : Bool) : List Byte → List Byte
  | [] => []
  | a :: r => if odd then everyOther false r else a :: everyOther true r

/-- Interleave two lists of bytes. -/
def interleave : List Byte → List Byte → List Byte
  | [], _ => []
  | a :: r, l => a :: (match l with | [] => interleave r [] | b :: t => b :: interleave r t)

/-- The ten check bytes of one FEC code, in byte order (11 R348). -/
def fecChecks (d : List Byte) : List Byte := ((rsChecks 10 (d.map BitVec.toNat)).map (BitVec.ofNat 8)).reverse

/-- Complete a flit: 8 header bytes, 224 bytes of data, FCRC and FEC. -/
def makeFlit (head data : List Byte) : List Byte :=
  let b := fit 8 head ++ fit 224 data
  let c := b ++ leBytes 4 (crc32c b).toNat
  c ++ interleave (fecChecks (everyOther false c)) (fecChecks (everyOther true c))

/-- The active lanes of a mask, ascending. -/
def activeLanes (m : Byte) : List Nat := (List.range 8).filter (fun i => m.getLsbD i)

/-- The four symbols of a byte, two bits each, most significant first (11 R350). -/
def symbolsOf (b : Byte) : List Symbol := [3, 2, 1, 0].map (fun i => b.extractLsb' (2 * i) 2)

/-- The byte of four symbols. -/
def byteOf (l : List Symbol) : Byte := BitVec.ofNat 8 (l.foldl (fun acc x => 4 * acc + x.toNat) 0)

/-- A flit on the active lanes: byte b goes on the (b mod W)-th of the W of them (R350). -/
def toLanes (m : Byte) (flit : List Byte) : List (Nat × List Symbol) :=
  let ls := activeLanes m
  ((List.range ls.length).zip ls).map (fun x =>
    (x.2, (List.range (256 / ls.length)).flatMap (fun j => symbolsOf (flit.getD (ls.length * j + x.1) 0))))

/-- The flit that came on the active lanes (R350). -/
def fromLanes (m : Byte) (l : List (Nat × List Symbol)) : List Byte :=
  let ls := activeLanes m
  (List.range 256).map (fun b =>
    byteOf (((SMap.get [] l (ls.getD (b % ls.length) 0)).drop (4 * (b / ls.length))).take 4))

/-- FEC decode a flit: its corrected bytes and the number of symbols corrected, none when a code fails (11 R348). -/
def decodeFec (b : List Byte) : Option (List Byte × Nat) :=
  let c := fit 256 b
  let half := fun (odd : Bool) =>
    let d := everyOther odd (c.take 236)
    let p := everyOther odd (c.drop 236)
    rsCorrect 10 5 ((d ++ p).map BitVec.toNat).reverse
  match half false, half true with
  | some (x, m), some (y, n) =>
    let a := x.reverse.map (BitVec.ofNat 8)
    let b := y.reverse.map (BitVec.ofNat 8)
    some (interleave (a.take 118) (b.take 118) ++ interleave (a.drop 118) (b.drop 118), m + n)
  | _, _ => none

/-- A packet's header slot (Table 11.7). -/
def packetHead (p : Packet) : List Byte :=
  leBytes 4 p.dest.toNat ++ leBytes 4 p.src.toNat ++ leBytes 2 ((p.payload.length + 31) / 32) ++ leBytes 1 p.ptype.toNat ++
    leBytes 1 (b2n p.escape + 2 * b2n p.crossed) ++ leBytes 1 p.hops.toNat ++ zeros 3 ++ fit 16 p.transport

/-- The slots of a packet: header, then payload slots. -/
def packetSlots (p : Packet) : List (List Byte) :=
  packetHead p :: (List.range ((p.payload.length + 31) / 32)).map (fun i => slice p.payload (32 * i) 32)

/-- Payload slots a header announces. -/
def headLen (b : List Byte) : Nat := u16 b 8

/-- Read a packet out of its bytes, header first. -/
def readPacket (b : List Byte) : Packet :=
  { dest := BitVec.ofNat 17 (u32 b 0), src := BitVec.ofNat 17 (u32 b 4), ptype := b.getD 0xA 0
    escape := bit (u8 b 0xB) 0, crossed := bit (u8 b 0xB) 1, hops := b.getD 0xC 0
    transport := slice b 0x10 16, payload := slice b 32 (32 * headLen b) }

/-- A packet type that the manual numbers (12 R393, R412, R414, R424; 13 Table 13.1). -/
def numberedPtype (t : Nat) : Bool := t == 1 || t == 2 || t == 8 || t == 9 || t == 0xA || (decide (0x10 ≤ t) && decide (t ≤ 0x1A))

/-- The virtual channel of a packet type (Tables 11.6, 13.1; 12 R393, R412, R414, R424). -/
def vcOf (ptype : Nat) : Nat :=
  if ptype = 0x01 ∨ ptype = 0x0A ∨ ptype = 0x13 ∨ ptype = 0x15 ∨ ptype = 0x17 ∨ ptype = 0x18 ∨ ptype = 0x19 then 0
  else if ptype = 0x02 ∨ ptype = 0x11 ∨ ptype = 0x14 ∨ ptype = 0x16 then 1
  else if ptype = 0x10 ∨ ptype = 0x12 ∨ ptype = 0x1A then 3
  else if ptype = 0x08 ∨ ptype = 0x09 then 2
  else if Config.ptypeUse ptype ≤ 1 then 0
  else if Config.ptypeUse ptype = 2 then 1
  else 2

/-- The twin packets of R374: the mirror stream, twin fetches and their responses, and switch notices. -/
def isTwinPacket (ptype : Nat) : Bool :=
  ptype == 0x10 || ptype == 0x11 || ptype == 0x12 || ptype == 0x13 || ptype == 0x14 || ptype == 0x1A ||
    (!numberedPtype ptype && Config.ptypeUse ptype == 1)

/-- A packet type of an expert transfer. -/
def isExpertPacket (ptype : Nat) : Bool := !numberedPtype ptype && Config.ptypeUse ptype == 3

/-! ## Hod and return records (02 Tables 2.3, 2.5) -/

/-- Read a hod record's body. -/
def readHodRecord (hod : Nat) (seq : W32) (b : List Byte) : TakenRec :=
  { hod := hod, seq := seq, op := b.getD 4 0, cls := u8 b 5, draftMax := u8 b 6, profile := u8 b 7
    tag := BitVec.ofNat 64 (u64 b 8), tokenAddr := BitVec.ofNat 64 (u64 b 0x10), count := u32 b 0x18, maxNew := u32 b 0x1C
    seed := BitVec.ofNat 64 (u64 b 0x20), deadline := BitVec.ofNat 48 (u64 b 0x28), tenant := 0 }

/-- A return record's 64 bytes. -/
def RetRec.bytes (r : RetRec) (seq : Nat) : List Byte :=
  leBytes 8 r.tag.toNat ++ leBytes 8 r.course.toNat ++ leBytes 2 r.status ++ leBytes 1 r.flags.toNat ++ leBytes 1 r.tokens.length ++
    leBytes 4 r.position.toNat ++ fit 36 ((r.tokens.map (fun t => leBytes 4 t.toNat)).flatten) ++ leBytes 4 seq

/-! ## Plinth frames (14 Tables 14.2, 14.3) -/

/-- A command frame. -/
def plinthFrame (seq vcore vmem cmd : Nat) : W64 :=
  let top := 0x5A * 2 ^ 48 + seq % 16 * 2 ^ 44 + vcore % 4096 * 2 ^ 32 + vmem % 4096 * 2 ^ 20 + cmd % 16 * 2 ^ 16
  BitVec.ofNat 64 (top * 256 + crc8 56 top)

/-- A telemetry frame accepted by R458 for a sampled tick, or none: SYNC, SEQ, CRC, reserved bits and field ranges. -/
def readTelemetry (w : BitVec 128) (seq : Nat) : Option Tele :=
  let v := w.toNat
  let t : Tele := {
    vcore := bits v 115 104, icore := bits v 103 90, vmem := bits v 89 78, imem := bits v 77 67, vaux := bits v 66 55
    iaux := bits v 54 47, cap := bits v 46 38, tplinth := bits v 37 30, vcoreOk := bit v 29, vmemOk := bit v 28, vauxOk := bit v 27
    settled := bit v 26, inputLow := bit v 25, hot := bit v 24 }
  if bits v 127 120 == 0xA5 && bits v 119 116 == seq % 16 && v % 256 == crc8 120 (v / 256) && bits v 23 8 == 0 &&
      decide (t.vcore ≤ 1000) && decide (t.icore ≤ 16000) && decide (t.vmem ≤ 1300) && decide (t.imem ≤ 1600) &&
      decide (t.vaux ≤ 2100) && decide (t.iaux ≤ 160) && decide (t.cap ≤ 300) && decide (t.tplinth ≤ 150) then some t
  else none

end Sys2Proof.Machine
end

