-- ==== Sys2Proof/Machine/Clock.lean ====
section
/-! DEFINITION. The course-clock unit: time words, lock, steps, holdover, CCLK and the master roles
(02_course_clock_and_courses.md R31 to R54). -/

namespace Sys2Proof.Machine

/-- A port carries traffic: ACTIVE (11 R370). -/
def State.portUp (s : State) (p : Nat) : Bool := (s.port p).st == .active

/-- Send a restore packet over M; it waits while M is not ACTIVE (13 R451). -/
def State.sendM (s : State) (b : Body) : State :=
  if s.portUp 18 then s.emit (.sendM b) else { s with mir := { s.mir with heldM := s.mir.heldM ++ [b] } }

/-- The trained Traruig ports, 0 to 18. -/
def State.upPorts (s : State) : List Nat := (List.range 19).filter s.portUp

/-- Queue a control word on a port: it goes out in a CONTROL flit at a flit boundary (11 R362). -/
def State.sendCtl (s : State) (p ctype : Nat) (w : BitVec 96) : State :=
  let r := s.port p
  s.setPort p { r with words := r.words ++ [ctrlWord ctype w] }

/-- Change CLOCK_STATE, with its ICX events (15 Table 15.7). -/
def State.setClockMode (s : State) (m : ClockState) : State :=
  if s.clk.mode = m then s
  else
    let hold := s.clk.mode == .holdover || m == .holdover
    let s := { s with clk := { s.clk with mode := m, held := s.clk.held || m == ClockState.locked } }
    let s := s.clockEvent 0
    if hold then s.clockEvent 2 else s

/-- Adopt an epoch and its master (R47). -/
def State.adoptEpoch (s : State) (e : Byte) (m : Node) : State :=
  let was := s.clk.originating
  let s := { s with clk := { s.clk with
      epoch := e, master := m, words := [], originating := false, role := if was then .follower else s.clk.role } }
  let s := s.clockEvent 1
  if was then s.raise srcClock 0 0x12 1 0 else s

/-- A port is eligible as time parent (R36): a valid word of the current epoch within the last PARENT_TIMEOUT ticks. -/
def State.eligible (s : State) (w : WordSeen) : Bool :=
  decide (Tick.since s.clk.tick w.heard < s.num O.parentTimeout) && s.portUp w.port.val

/-- Choose the time parent and HOPS (R36, R37); with no eligible port both stay. -/
def State.chooseParent (s : State) : State :=
  let el := s.clk.words.filter s.eligible
  match (el.map (fun w => w.hops)).min? with
  | none => s
  | some h =>
    match (sortBy (fun w => w.port.val) (el.filter (fun w => w.hops == h))).head? with
    | none => s
    | some w => { s with clk := { s.clk with parent := some w.port, hops := h + 1 } }

/-- The next tick after a whose number leaves `phase` modulo `period` is not after b. -/
def nextIn (a b : Tick) (period phase : Nat) : Bool :=
  period != 0 && decide ((phase + period - (a.toNat + 1) % period) % period + 1 ≤ Tick.since b a)

/-- What the package has scheduled for itself outside the event list (R54), passed over by a step from a to b: each enabled hod's next
sampling, the wake grant of the next slot, the opening or the closing of the scrub window. -/
def State.ownPassed (s : State) (a b : Tick) : Nat × Bool × Bool :=
  let hods := (List.range 64).filter (fun k => s.num (O.hodEnable k) == 1 &&
    nextIn a b (s.num (O.hodSamplePeriod k)) (s.num (O.hodSamplePhase k)))
  let wake := !s.pwr.wakeAsked.isEmpty && nextIn a b (50 * s.num O.wakeStride) (50 * s.num O.wakePhase)
  let shut := s.mem.scrubAt + BitVec.ofNat 48 (s.num O.scrubLen)
  let scrub := if s.mem.scrubOpen then Tick.after shut a && Tick.atLeast b shut else nextIn a b (s.num O.scrubGrid) 0
  (hods.length + b2n wake + b2n scrub, wake, s.mem.scrubOpen && scrub)

/-- R42: requested and own events that a step from tick a to tick b passes over are discarded and counted. The tick of landing counts
as passed over, since its boundary is not crossed (log entry 16). A discarded wake grant lapses; a scrub window whose closing is
discarded closes with the next window. -/
def State.discardPassed (s : State) (a b : Tick) : State :=
  if !Tick.after b a then s
  else
    let passed := fun (e : Sched) => Tick.after e.due a && Tick.atLeast b e.due
    let own := s.ownPassed a b
    let n := (s.clk.events.filter passed).length + own.1
    let s := { s with
      clk := { s.clk with events := s.clk.events.filter (fun e => !passed e) }
      pwr.wakeAsked := if own.2.1 then s.pwr.wakeAsked.drop 1 else s.pwr.wakeAsked
      mem.scrubAt := if own.2.2 then Tick.grid b (s.num O.scrubGrid) else s.mem.scrubAt }
    let s := s.bump O.eventsDiscarded 32 n
    if n = 0 then s else s.clockEvent 4

/-- Step the count (R41): the lock ends. -/
def State.stepCount (s : State) (t : Tick) : State :=
  let s := s.discardPassed s.clk.tick t
  let s := { s with clk := { s.clk with tick := t, lockRun := 0, selfHold := false, phaseError := 0, holdElapsed := 0 } }
  s.setClockMode .unlocked

/-- Enter holdover (R48), or holdover of the package's own accord (R41), in which no CLOCK_HOLDOVER is raised. -/
def State.enterHoldover (s : State) (own : Bool) : State :=
  if s.clk.mode = .holdover then { s with clk := { s.clk with selfHold := s.clk.selfHold || own } }
  else
    let s := { s with clk := { s.clk with holdElapsed := 0, selfHold := own } }
    let s := s.setClockMode .holdover
    if own then s else s.raise srcClock 0 0x13 1 0

/-- Leave holdover (R51). -/
def State.leaveHoldover (s : State) : State :=
  if s.clk.mode = .holdover then { s with clk := { s.clk with selfHold := false, holdElapsed := 0 } }.setClockMode .locked else s

/-- The parent's delay-corrected count at the present instant, in 1/1,024 tick (R35). -/
def State.correctedCount (s : State) (port : Nat) (w : TimeWord) : Nat :=
  w.tick.toNat * 1024 + w.phase + s.num (O.portDelay port)

/-- Tick boundaries lie on CCLK edges: enabled and valid (R43). -/
def State.onCclk (s : State) : Bool := s.num O.cclkEnable == 1 && s.clk.cclkValid

/-- Compare the count with the parent's (R39 to R41, R48, R51). `phase` is the package's own sub-tick phase at reception. -/
def State.compareCount (s : State) (port : Nat) (w : TimeWord) (phase : BitVec 10) : State :=
  let theirs := s.correctedCount port w
  let t : Tick := BitVec.ofNat 48 (theirs / 1024)
  if !s.clk.counting then { s with clk := { s.clk with counting := true, tick := t, phaseError := 0, lockRun := 0 } }
  else
    let diff := toSigned 58 (s.clk.tick.toNat * 1024 + phase.toNat + (2 ^ 58 - theirs % 2 ^ 58))
    if diff.natAbs ≥ 16 * 1024 then
      let s := { s with clk := { s.clk with ahead := s.clk.tick - t } }
      if s.clk.selfHold then s
      else
        let s := s.raise srcClock 0 0x10 1 0
        match s.pkg.st with
        | .serving | .covering => (s.transition .draining).enterHoldover true
        | .draining => s.enterHoldover true
        | _ => s.stepCount t
    else
      -- on CCLK the boundary keeps its place: only tick numbers come from the word (R43)
      let s := { s with clk := { s.clk with phaseError := if s.onCclk then s.clk.phaseError else diff, selfHold := false } }
      if w.hold then (if s.clk.mode = .locked then s.enterHoldover false else s) else s.leaveHoldover

/-- TIME_WORD: a word received on a port (R34 to R36, R41, R47, R48, R51). -/
def timeWord (s : State) (port : Port) (w : BitVec 96) (phase : BitVec 10) : State :=
  let t := readTime w
  if !s.pkg.st.hubRuns || !s.portUp port.val || port.val == 19 then s
  else if t.reserved != 0 || t.hops == 31 || t.tick.toNat % 16 != 0 || (t.epoch != s.clk.epoch && !epochLater t.epoch s.clk.epoch) then
    s.bump (O.portCtrlDiscarded port.val)
  else
    let s := if epochLater t.epoch s.clk.epoch then s.adoptEpoch t.epoch t.master else s
    if s.clk.originating then s
    else
      let seen : WordSeen := { port := port, heard := s.clk.tick, hops := t.hops, hold := t.hold }
      let s := { s with clk := { s.clk with
          master := t.master, lastWord := some s.clk.tick
          words := s.clk.words.filter (fun (x : WordSeen) => x.port != port) ++ [seen] } }
      let s := s.chooseParent
      if s.clk.parent = some port then
        let s := s.compareCount port.val t phase
        { s with clk := { s.clk with
            words := s.clk.words.map (fun (x : WordSeen) => if x.port == port then { x with heard := s.clk.tick } else x), lastWord := some s.clk.tick } }
      else s

/-- The word a package sends at a tick (R32, R33). -/
def State.ownTimeWord (s : State) : TimeWord :=
  { tick := s.clk.tick, phase := s.clk.phase.toNat, master := s.clk.master, epoch := s.clk.epoch, hops := if s.clk.originating then 0 else s.clk.hops
    cclk := s.onCclk, hold := s.clk.mode == .holdover, reserved := 0 }

/-- The first scheduled event of a kind that is due at the present tick, if any: none is carried out late (R53, R54). -/
def State.dueEvent (s : State) (p : Ev → Bool) : Option Sched :=
  s.clk.events.find? (fun e => p e.ev && e.due == s.clk.tick)

/-- The package sends time words: the master up to its hand-off tick (R45), and every other package that is locked or in holdover (R32),
one that was the master till now among them (log entry 17). -/
def State.sendsTime (s : State) : Bool :=
  if s.clk.originating then (s.dueEvent (fun e => e == .handoff)).isNone
  else s.clk.mode == .holdover || s.clk.mode == .locked

/-- TIME_WORD_SEND: at a multiple of 16, an originating, locked or holdover package sends on every trained port other than its
time parent (R32). -/
def timeWordSend (s : State) : State :=
  if s.pkg.st.hubRuns && s.clk.tick.toNat % 16 == 0 && s.sendsTime then
    (s.upPorts.filter (fun p => s.clk.originating || s.clk.parent.map (·.val) != some p)).foldl
      (fun t p => t.sendCtl p ctTime s.ownTimeWord.payload) s
  else s

/-- PARENT_TIMEOUT: a silent parent is dropped and another eligible port chosen (R37). -/
def parentTimeout (s : State) : State := if s.clk.originating then s else s.chooseParent

/-- CLOCK_LOCK: locked after 1,024 consecutive ticks within ±16/1,024 tick of the parent (R38). -/
def clockLock (s : State) : State :=
  if s.clk.mode = .unlocked ∧ s.clk.counting ∧ s.clk.parent.isSome ∧ s.clk.lockRun ≥ 1024 then s.setClockMode .locked else s

/-- Declare CCLK invalid (R44). -/
def State.dropCclk (s : State) : State :=
  if s.clk.cclkValid then
    ({ s with clk := { s.clk with cclkValid := false, cclkGood := 0, cclkSum := 0, cclkEdges := 0 } }.raise srcPins 3 0x11 0 0).clockEvent 3
  else { s with clk := { s.clk with cclkGood := 0, cclkSum := 0, cclkEdges := 0 } }

/-- CCLK_EDGE, `gapNs` after the edge before and `offNs` from the delay-corrected time-word boundary: the conditions of R44
(the rate over each 1,024 edges within 50 ppm), and the placing of the boundary when enabled and valid (R43). -/
def cclkEdge (s : State) (gapNs : Nat) (offNs : Int) : State :=
  if !s.pkg.st.hubRuns then s
  else
    let sum := s.clk.cclkSum + gapNs
    let edges := s.clk.cclkEdges + 1
    let full := edges ≥ 1024
    let rateOk := !full || decide ((sum : Int) - 1024000 ≤ 51 ∧ -51 ≤ (sum : Int) - 1024000)
    if gapNs > 1500 ∨ offNs.natAbs > 250 ∨ !rateOk then s.dropCclk
    else
      let good := Nat.min 1024 (s.clk.cclkGood + 1)
      let s' := { s with clk := { s.clk with
          cclkSum := if full then 0 else sum, cclkEdges := if full then 0 else edges, cclkGood := good } }
      let s' := if !s'.clk.cclkValid && good == 1024 && full then
          { s' with clk := { s'.clk with cclkValid := true } }.clockEvent 3 else s'
      if s'.onCclk then
        { s' with clk := { s'.clk with phase := 0, phaseError := offNs * 1024 / 1000 } }
      else s'

/-- CCLK_INVALID: a violation found without an edge (R44). -/
def cclkInvalid (s : State) : State := if s.clk.cclkValid then s.dropCclk else s

/-! ## Requested events (R54) -/

/-- A requested event, one of those PENDING_EVENTS counts. -/
def Ev.requested : Ev → Bool
  | .handoff => true
  | .weightSwitch _ => true
  | .ramp _ _ => true
  | _ => false

/-- PENDING_EVENTS. -/
def State.pendingEvents (s : State) : Nat := (s.clk.events.filter (fun e => e.ev.requested)).length

/-- The refusals of R54, in order. -/
def State.eventRefusal (s : State) (due : Tick) : Nat :=
  if !s.clk.held then Err.state
  else if !Tick.after due s.clk.tick || decide (Tick.since due s.clk.tick < 2) then Err.tickPast
  else if Tick.since due s.clk.tick > 2 ^ 32 then Err.tickFar
  else if s.pendingEvents ≥ 1024 then Err.busy
  else Err.ok

/-- Schedule an event. -/
def State.schedule (s : State) (due : Tick) (ev : Ev) : State :=
  { s with clk := { s.clk with events := s.clk.events ++ [{ due := due, ev := ev }] } }

/-- Remove the scheduled events a condition selects. -/
def State.unschedule (s : State) (p : Ev → Bool) : State :=
  { s with clk := { s.clk with events := s.clk.events.filter (fun e => !p e.ev) } }

/-- A write of tick t to HANDOFF_TICK (R45, R54): on the master only. -/
def State.handoffWrite (s : State) (t : Nat) : Nat × State :=
  let due : Tick := BitVec.ofNat 48 t
  let e := s.eventRefusal due
  if !s.clk.originating then (Err.range, s)
  else if e ≠ Err.ok then (e, s)
  else if t % 16 ≠ 0 ∨ Tick.since due s.clk.tick < 1000 then (Err.tickPast, s)
  else (Err.ok, s.schedule due .handoff)

/-- A new master calls for a round of reports: CALL on every ACTIVE port (11 R387). -/
def State.startCall (s : State) : State :=
  let w := payload96 [(s.lnk.plumb.tag.toNat, 48), (s.node.toNat, 31), (s.clk.epoch.toNat, 23)]
  if s.lnk.plumb.st ≠ .settled then s
  else
    let s := { s with lnk := { s.lnk with plumb := { s.lnk.plumb with
        callSeen := some w, m := s.node, round := true, reports := [], reported := false, waitFrom := none } } }
    s.upPorts.foldl (fun t p => t.sendCtl p ctCall w) s

/-- Become the originating master with the next epoch (R45, R46); the new master then calls (11 R387). -/
def State.becomeMaster (s : State) : State :=
  let s := { s with clk := { s.clk with
      originating := true, role := .master, master := s.node, epoch := s.clk.epoch + 1, hops := 0, parent := none, words := []
      counting := true, held := true } }
  ((s.clockEvent 1).setClockMode .locked).startCall

/-- MASTER_HANDOFF: at the hand-off tick the old master stops originating and the standby originates from its own count with
the next epoch (R45). -/
def masterHandoff (s : State) : State :=
  if s.clk.role = .standby ∧ s.clk.held then s.becomeMaster
  else if s.clk.originating ∧ (s.dueEvent (fun e => e == .handoff)).isSome then
    let s := s.unschedule (fun e => e == .handoff)
    { s with clk := { s.clk with originating := false, role := .follower } }
  else s

/-- MASTER_TIMEOUT: a standby with no valid word for MASTER_TIMEOUT ticks becomes master (R46). -/
def masterTimeout (s : State) : State :=
  match s.clk.lastWord with
  | some h => if s.clk.role = .standby ∧ Tick.since s.clk.tick h ≥ s.num O.masterTimeout then s.becomeMaster else s
  | none => s

/-- The time parent's latest word carries HOLD. -/
def State.parentHolds (s : State) : Bool :=
  s.clk.words.any (fun w => some w.port == s.clk.parent && w.hold)

/-- HOLDOVER_ENTER (R48). -/
def holdoverEnter (s : State) : State :=
  let silent : Bool := match s.clk.lastWord with
    | some h => decide (Tick.since s.clk.tick h ≥ s.num O.timeWordTimeout)
    | none => true
  if s.clk.mode == .locked && !s.clk.originating && (silent || s.parentHolds) then s.enterHoldover false else s

/-- HOLDOVER_LIMIT: after 10,000,000 ticks of holdover a SERVING or COVERING package moves to DRAINING (R52). -/
def holdoverLimit (s : State) : State :=
  if s.clk.mode = .holdover ∧ s.clk.holdElapsed ≥ 10000000 ∧ (s.pkg.st = .serving ∨ s.pkg.st = .covering) then
    s.transition .draining
  else s

/-- The step that waited for DRAINED (R41), by the difference that the parent's latest word showed. -/
def State.deferredStep (s : State) : State := if s.clk.selfHold then s.stepCount (s.clk.tick - s.clk.ahead) else s

/-! ## The commands -/

/-- TIME_WORD_SEND. -/
def execTimeWordSend (s : State) : Host.Outcome State Fault Refusal :=
  .next (timeWordSend s)
/-- TIME_WORD. -/
def execTimeWord (port : Port) (w : BitVec 96) (phase : BitVec 10) (s : State) : Host.Outcome State Fault Refusal :=
  .next (timeWord s port w phase)
/-- PARENT_TIMEOUT. -/
def execParentTimeout (s : State) : Host.Outcome State Fault Refusal :=
  .next (parentTimeout s)
/-- CLOCK_LOCK. -/
def execClockLock (s : State) : Host.Outcome State Fault Refusal :=
  .next (clockLock s)
/-- CCLK_EDGE. -/
def execCclkEdge (gapNs : Nat) (offNs : Int) (s : State) : Host.Outcome State Fault Refusal :=
  .next (cclkEdge s gapNs offNs)
/-- CCLK_INVALID. -/
def execCclkInvalid (s : State) : Host.Outcome State Fault Refusal :=
  .next (cclkInvalid s)
/-- MASTER_TIMEOUT. -/
def execMasterTimeout (s : State) : Host.Outcome State Fault Refusal :=
  .next (masterTimeout s)
/-- HOLDOVER_ENTER. -/
def execHoldoverEnter (s : State) : Host.Outcome State Fault Refusal :=
  .next (holdoverEnter s)
/-- HOLDOVER_LIMIT. -/
def execHoldoverLimit (s : State) : Host.Outcome State Fault Refusal :=
  .next (holdoverLimit s)

end Sys2Proof.Machine
end

