-- ==== Sys2Proof/Machine/Links.lean ====
section
/-! DEFINITION. Traruig ports: flits, replay, credits, training, lane degrade (11_links_and_topology.md R347 to R370). -/

namespace Sys2Proof.Machine

/-! ## Ports -/

/-- Control words pass on a port: in EXCHANGE and once trained (R364, R370). -/
def PortRt.ctl (r : PortRt) : Bool :=
  match r.st with
  | .active | .foreign | .miswired => true
  | .training => r.train == .exchange
  | _ => false

/-- A virtual channel of a port. -/
def PortRt.vc (r : PortRt) (v : Nat) : Vc := SMap.get {} r.vcs v
/-- Replace it. -/
def PortRt.setVc (r : PortRt) (v : Nat) (x : Vc) : PortRt := { r with vcs := SMap.set {} r.vcs v x }

/-- Slots of credit at x8 (Table 11.6). -/
def vcSlots (v : Nat) : Nat := if v = 1 then 512 else if v = 2 then 1024 else 256

/-- The aligned group of w lanes that starts at lane w × i. -/
def laneGroup (w i : Nat) : Nat := (2 ^ w - 1) * 2 ^ (w * i)

/-- The lowest aligned group of w lanes that avoids a set of lanes. -/
def groupAvoiding (w bad : Nat) : Option Nat := ((List.range (8 / w)).map (laneGroup w)).find? (fun g => g &&& bad == 0)

/-- The group of the largest of some widths, the lowest of its groups, that avoids a set of lanes. -/
def bestGroup (widths : List Nat) (bad : Nat) : Option Nat := widths.findSome? (fun w => groupAvoiding w bad)

/-! ## Messages a port sends of itself -/

/-- CREDIT_INIT: totals at the width received on and the cumulative freed counts, VC3 highest (R360). -/
def PortRt.creditWord (r : PortRt) : BitVec 96 :=
  let w := popcount 8 r.rxLanes.toNat
  payload96 ((List.range 4).map (fun v => (vcSlots v * w / 8, 48 + 12 * v)) ++ (List.range 4).map (fun v => ((r.vc v).freed, 12 * v)))

/-- Begin the delay measurement of R356: 64 ECHO requests, their SENT counts free values. -/
def State.startEcho (s : State) (p : Nat) : State :=
  let r := s.port p
  (List.range 64).foldl (fun t _ =>
    let d := t.drawNat
    d.2.sendCtl p ctEcho (payload96 [(d.1 % 2 ^ 48, 48)])) (s.setPort p { r with echoBest := none, echoCount := 0 })

/-- Send CREDIT_INIT. -/
def State.sendCredits (s : State) (p : Nat) : State := s.sendCtl p ctCreditInit (s.port p).creditWord

/-- Send REPLAY naming the expected FSEQ (R351). -/
def State.sendReplay (s : State) (p : Nat) : State :=
  (s.sendCtl p ctReplay (payload96 [((s.port p).rxNext.toNat, 86)])).bump (O.portReplays p) 64

/-! ## Reception (R349, R351, R352, R355, R359) -/

/-- Drop from a list of numbered flits those up to and including FSEQ a, when a is among them. -/
def ackThrough (a : BitVec 10) (l : List (BitVec 10 × List Byte)) : List (BitVec 10 × List Byte) :=
  match l.findIdx? (fun e => e.1 == a) with
  | some i => l.drop (i + 1)
  | none => l

/-- Apply a header's ACK and CREDIT. -/
def PortRt.applyHead (r : PortRt) (h : FlitHead) : PortRt :=
  let v := r.vc h.creditVc
  let delta := (h.credit + 4096 - v.freedSeen) % 4096
  let buffer := ackThrough h.ack r.buffer
  { r with
    acked := h.ack, buffer := buffer
    resend := r.resend.filter (fun f => buffer.any (fun e => e.2 == f))
    vcs := SMap.set {} r.vcs h.creditVc { v with avail := v.avail + delta, freedSeen := h.credit } }

/-- Split complete packets off the slots received on a channel; `n` bounds their number. -/
def takePackets : Nat → List Byte → List Packet × List Byte
  | 0, b => ([], b)
  | n + 1, b =>
    let len := 32 * (1 + headLen b)
    if b.length < 32 ∨ b.length < len then ([], b)
    else
      let r := takePackets n (b.drop len)
      (readPacket (b.take len) :: r.1, r.2)

/-- Wait for the expected FSEQ, and ask for it (R351). -/
def State.waitReplay (s : State) (p : Nat) : State :=
  let r := s.port p
  if r.waiting then s else (s.setPort p { r with waiting := true }).sendReplay p

/-- A DATA flit on an ACTIVE port. -/
def State.acceptData (s : State) (p : Port) (h : FlitHead) (body : List Byte) : State :=
  let r := s.port p.val
  if h.fseq ≠ r.rxNext then s.waitReplay p.val
  else
    let v := r.vc h.vc
    let got := takePackets 8 (v.partly ++ slice body 0 (32 * h.count))
    let r := { r with rxNext := r.rxNext + 1, waiting := false }
    let s := s.setPort p.val (r.setVc h.vc { v with partly := got.2 })
    let s := { s with lnk := { s.lnk with arrived := s.lnk.arrived ++ got.1.map (fun k => (p, k)) } }
    s.bump (O.portRxBytes p.val) 64 (32 * h.count)

/-- The group a flit is read on: the group asked for once a flit comes on just its lanes, until then the one in use (step 4 of R366). -/
def PortRt.readGroup (r : PortRt) (lanes : List Nat) : Byte :=
  match r.rxWant with
  | g :: _ => if lanes = activeLanes g then g else r.rxLanes
  | [] => r.rxLanes

/-- Lanes of the symbols that FEC changed: byte b came on the (b mod W)-th lane of the group (R350, R365). -/
def symLanes (g : Byte) (got fixed : List Byte) : List Nat :=
  let ls := activeLanes g
  ((List.range 256).filter (fun b => got.getD b 0 != fixed.getD b 0)).map (fun b => ls.getD (b % ls.length) 0)

/-- Add to a port's corrected symbols, and forget those of more than a millisecond ago (R365). -/
def PortRt.noteSyms (r : PortRt) (now : Nat) (lanes : List Nat) : PortRt :=
  { r with symErrs := r.symErrs.filter (fun e => decide (now < e.1 + 1000)) ++ lanes.map (fun l => (now, l)) }

/-- FLIT_RECEIVE of a flit's 256 bytes (R349). What a good control word does is its own command. -/
def flitReceive (s : State) (p : Port) (g : Byte) (bytes : List Byte) : State :=
  let r := s.port p.val
  if !r.ctl then s
  else
    let good : Option (List Byte × Nat) := match decodeFec bytes with
      | some x => if fieldLe x.1 232 4 == (crc32c (x.1.take 232)).toNat then some x else none
      | none => none
    match good with
    | none =>
      let s := (s.setPort p.val { r with failRun := r.failRun + 1 }).bump (O.portFlitsFailed p.val) 64
      if r.st = .active then s.waitReplay p.val else s
    | some (b, corrected) =>
      let h := flitHead b
      let r := r.noteSyms s.us (symLanes g bytes b)
      let s := (s.setPort p.val { r with failRun := 0 }).bump (O.portFecCorrected p.val) 64 corrected
      let s := if r.st = .active then s.setPort p.val ((s.port p.val).applyHead h) else s
      if h.typ = 1 then (if r.st = .active then s.acceptData p h (b.drop 8) else s)
      else if h.typ = 2 then
        let bad := ((List.range h.count).filter (fun i => !ctrlOk (BitVec.ofNat 128 (fieldBe b (8 + 16 * i) 16)))).length
        s.bump (O.portCtrlDiscarded p.val) 32 bad
      else s

/-- REPLAY: resend from the named FSEQ onward (R351). -/
def replay (s : State) (p : Port) (fseq : BitVec 10) : State :=
  let r := s.port p.val
  if r.st ≠ .active then s
  else match r.buffer.findIdx? (fun e => e.1 == fseq) with
    | some i => s.setPort p.val { r with resend := (r.buffer.drop i).map (·.2) }
    | none => s

/-- REPLAY_TIMER: every 1 µs while the receiver waits (R351). -/
def replayTimer (s : State) (p : Port) : State :=
  let r := s.port p.val
  if r.st == .active && r.waiting then s.sendReplay p.val else s

/-- The group a port receives on, or has asked for. -/
def PortRt.current (r : PortRt) : Byte := r.rxWant.getLast?.getD r.rxLanes

/-- LINK_DOWN (R353): the cause holds; loss of signal is the command's own word. The last lane has failed when every lane of the group in
use, or asked for, has (log entry 41). -/
def linkDown (s : State) (p : Port) (cause : DownCause) : State :=
  let r := s.port p.val
  let up := r.st == .active || r.st == .miswired || r.st == .foreign
  let holds := match cause with
    | .signal => true
    | .flits => decide (r.failRun ≥ 64)
    | .lanes => r.current &&& ~~~ r.failed == 0
  if up && holds then (s.putPort p.val r.down).raise (srcPort p.val) 0 0x60 1 p.val else s

/-- ECHO (R356): a request is returned with HOLD, which `clock` gives; the least of 64 replies, `clock` their arrival count, becomes
DELAY, in 1/1,024 tick to the nearest. -/
def echo (s : State) (p : Port) (payload : BitVec 96) (reply : Bool) (clock : BitVec 48) : State :=
  let r := s.port p.val
  let sent := bits payload.toNat 95 48
  let hold := bits payload.toNat 47 0
  if !(r.st == .active || (r.st == .training && r.train == .exchange)) then s
  else if !reply then s.sendCtl p.val ctEcho (payload96 [(sent, 48), (clock.toNat, 0)])
  else if r.echoCount ≥ 64 then s
  else
    let twice := (clock.toNat + 2 * 2 ^ 48 - sent - hold) % 2 ^ 48
    let best := match r.echoBest with | some b => Nat.min b twice | none => twice
    let s := s.setPort p.val { r with echoBest := some best, echoCount := r.echoCount + 1 }
    if r.echoCount + 1 = 64 then s.setNum (O.portDelay p.val) ((best * 64 + 75) / 150) else s

/-- CREDIT_INIT (R360). -/
def creditInit (s : State) (p : Port) (payload : BitVec 96) : State :=
  let r := s.port p.val
  if !(r.st == .active || (r.st == .training && r.train == .exchange)) then s
  else
    let w := payload.toNat
    s.setPort p.val ((List.range 4).foldl (fun (r : PortRt) v =>
      let x := r.vc v
      let total := bits w (59 + 12 * v) (48 + 12 * v)
      let freed := bits w (11 + 12 * v) (12 * v)
      r.setVc v { x with total := total, freedSeen := freed, avail := (total : Int) - ((x.sent + 4096 - freed) % 4096 : Nat) }) r)

/-! ## Width changes (R365 to R367, R369) -/

/-- Count a control word that a reserved field rules out (R355). -/
def State.ctlDiscard (s : State) (p : Nat) : State := s.bump (O.portCtrlDiscarded p)

/-- Ask the peer to move to a group (step 2 of R366). -/
def State.askGroup (s : State) (p g : Nat) : State :=
  let r := s.port p
  (s.setPort p { r with rxWant := r.rxWant ++ [BitVec.ofNat 8 g] }).sendCtl p ctLaneMap (payload96 [(g, 88), (popcount 8 g, 84)])

/-- LANE_MAP. The one that answers this end's own completes its change: it reads the new group, sends CREDIT_INIT and measures its delay
again (R356, step 4 of R366); another makes this end move at its next flit boundary (step 3), or waits for a change in progress
(R369). -/
def laneMap (s : State) (p : Port) (payload : BitVec 96) : State :=
  let r := s.port p.val
  let w := payload.toNat
  let g : Byte := BitVec.ofNat 8 (bits w 95 88)
  if r.st ≠ .active then s
  else if bits w 83 0 ≠ 0 then s.ctlDiscard p.val
  else match r.rxWant with
    | want :: rest =>
      if want = g then
        let go := rest == [] && r.txMap.isNone
        let s := s.setPort p.val { r with
          rxLanes := g, rxWant := rest, txMap := if go then r.nextMap else r.txMap, nextMap := if go then none else r.nextMap }
        (s.sendCredits p.val).startEcho p.val
      else s.setPort p.val { r with nextMap := some payload }
    | [] =>
      if r.txMap.isSome then s.setPort p.val { r with nextMap := some payload }
      else s.setPort p.val { r with txMap := some payload }

/-- The symbols corrected on a lane within a millisecond exceed LANE_SER_LIMIT (R365). -/
def State.laneNoisy (s : State) (r : PortRt) (lane : Nat) : Bool :=
  decide (s.num O.laneSerLimit < (r.symErrs.filter (fun e => decide (s.us < e.1 + 1000) && e.2 == lane)).length)

/-- LANE_FAIL (R365, R366), by loss of symbol lock or by corrected symbols: a failed lane of the group in use, or asked for, makes the
receiver choose a narrower one. -/
def laneFail (s : State) (p : Port) (lane : Fin 8) (lock : Bool) : State :=
  let r := s.port p.val
  if r.st ≠ .active ∨ (!lock && !s.laneNoisy r lane.val) then s
  else
    let failed := r.failed ||| BitVec.ofNat 8 (2 ^ lane.val)
    let s := s.setPort p.val { r with failed := failed }
    let cur := r.current.toNat
    if !bit cur lane.val then s
    else match bestGroup ([4, 2, 1].filter (fun w => w < popcount 8 cur)) failed.toNat with
      | none => s
      | some g => ((s.askGroup p.val g).bump (O.portDegrades p.val)).raise (srcPort p.val) lane.val 0x61 0 p.val

/-- REWIDEN (R367), `healthy` the inactive lanes that have held lock for 1 ms. -/
def rewiden (s : State) (p : Port) (healthy : Byte) : State :=
  let r := s.port p.val
  let cur := r.rxLanes.toNat
  if r.st != .active || popcount 8 cur == 8 || r.rxWant != [] || decide (s.us < r.rewidened + 1000 * s.num O.rewidenInterval) then s
  else
    let failed := r.failed &&& ~~~ healthy
    let s := s.setPort p.val { r with failed := failed, rewidened := s.us }
    match bestGroup ([8, 4, 2].filter (fun w => popcount 8 cur < w)) failed.toNat with
    | none => s
    | some g => s.askGroup p.val g

/-! ## Training (R364) -/

/-- Links train from ALIGN on (00 Table 0.5, 18 R601). -/
def State.linksTrain (s : State) : Bool := s.pkg.st.hubRuns && s.pkg.st != .boot

/-- Enter a training state. -/
def PortRt.train_ (r : PortRt) (t : TrainState) (now : Nat) : PortRt := { r with st := .training, train := t, since := now }

/-- PORT_TRAIN_START: at reset, and once RETRAIN_INTERVAL has passed since the last attempt began. -/
def portTrainStart (s : State) (p : Port) : State :=
  let r := s.port p.val
  let due := match r.tried with
    | none => true
    | some t => decide (t + 1000 * s.num O.retrainInterval ≤ s.us)
  if s.linksTrain && decide (p.val < 19) && r.st == .down && s.num (O.portPortEnable p.val) == 1 && due then
    s.putPort p.val { r.train_ .detect s.us with tried := some s.us }
  else s

/-- LANE_DETECT: in DETECT the first lane that detects its peer begins EQUALISE; in EQUALISE the lane has locked, and with all eight
locked the port goes on to DESKEW (log entry 41). -/
def laneDetect (s : State) (p : Port) (lane : Fin 8) : State :=
  let r := s.port p.val
  if r.st ≠ .training then s
  else match r.train with
    | .detect => s.setPort p.val (r.train_ .equalise s.us)
    | .equalise =>
      let l := r.locked ||| BitVec.ofNat 8 (2 ^ lane.val)
      let r := { r with locked := l }
      s.setPort p.val (if l = 0xFF then r.train_ .deskew s.us else r)
    | _ => s

/-- Limit of a training state, µs (Table 11.8). -/
def TrainState.limit (t : TrainState) : Nat :=
  match t with
  | .idle => 0
  | .detect => 100000
  | .equalise => 250000
  | .deskew => 10000
  | .exchange => 50000

/-- TRAIN_STATE_LIMIT: EQUALISE with a locked lane goes on to DESKEW; any other state returns to DOWN. -/
def trainStateLimit (s : State) (p : Port) : State :=
  let r := s.port p.val
  if r.st ≠ .training ∨ s.us < r.since + r.train.limit then s
  else if r.train = .equalise ∧ r.locked ≠ 0 then s.setPort p.val (r.train_ .deskew s.us)
  else s.putPort p.val r.down

/-- K and WIRING in force and PHASE of this node, as its HELLO gives them (Table 11.10). -/
def PlumbState.phase (p : PlumbState) : Nat :=
  match p with
  | .assigning | .reporting => 1
  | .settled => 2
  | _ => 0

/-- This node's HELLO on a port. -/
def State.helloWord (s : State) (p : Nat) : BitVec 96 :=
  payload96 [(Config.serial.toNat, 48), (p, 43), (s.lnk.k, 38), (b2n s.lnk.twist, 37), (s.lnk.plumb.st.phase, 35), (s.node.toNat, 17)]

/-- DESKEW_ALIGNED: the width is the largest aligned group of locked lanes, both ways until a LANE_MAP changes one; EXCHANGE begins with
HELLO and the delay measurement. -/
def deskewAligned (s : State) (p : Port) : State :=
  let r := s.port p.val
  if r.st ≠ .training ∨ r.train ≠ .deskew then s
  else match bestGroup [8, 4, 2, 1] (~~~ r.locked).toNat with
    | none => s
    | some g =>
      let m : Byte := BitVec.ofNat 8 g
      let s := s.putPort p.val { r.train_ .exchange s.us with rxLanes := m, txLanes := m, failed := ~~~ r.locked, rewidened := s.us }
      (s.sendCtl p.val ctHello (s.helloWord p.val)).startEcho p.val

/-- PORT_ENABLE: 0 holds the port DISABLED, 1 lets it train. -/
def State.portEnableWrite (s : State) (p v : Nat) : Nat × State :=
  let r := s.port p
  let s := s.setNum (O.portPortEnable p) v
  (Err.ok,
    if v = 0 then s.putPort p { r.down with st := .disabled }
    else if r.st = .disabled then s.putPort p { r with st := .down } else s)

/-! ## Sending (R351, R359 to R362) -/

/-- Of the packets waiting on a channel, the one to send next: while the exchange window is open expert transfers first, then ESCAPE
packets, then the order of arrival. -/
def Vc.choose (v : Vc) (window : Bool) : Option QPkt :=
  let pick := fun (f : QPkt → Bool) => v.queue.find? f
  let expert := if window then (pick (fun q => q.expert && q.pkt.escape)).or (pick (fun q => q.expert)) else none
  (expert.or (pick (fun q => q.pkt.escape))).or v.queue.head?

/-- A packet as it leaves a port: every send increments HOPS, a lintel hop sets CROSSED (R374, Table 11.7). -/
def sendForm (lintel : Bool) (p : Packet) : Packet := { p with hops := p.hops + 1, crossed := p.crossed || lintel }

/-- Begin the next packet if the credits allow it (R359, R361). -/
def Vc.begin_ (v : Vc) (window lintel : Bool) : Option Vc :=
  match v.choose window with
  | none => none
  | some q =>
    let slots := packetSlots (sendForm lintel q.pkt)
    let reserve := if q.pkt.escape then 0 else v.total / 16
    if ((slots.length + reserve : Nat) : Int) ≤ v.avail then some { v with sending := slots, queue := v.queue.erase q } else none

/-- The channel has something it may send. -/
def Vc.may (v : Vc) (window : Bool) : Bool :=
  if v.sending == [] then (v.begin_ window false).isSome else decide (v.avail > 0)

/-- Fill a flit with up to seven slots. -/
def Vc.fill (window lintel : Bool) : Nat → Vc → List (List Byte) → Vc × List (List Byte)
  | 0, v, acc => (v, acc)
  | n + 1, v, acc =>
    if acc.length = 7 then (v, acc)
    else match v.sending with
      | sl :: rest =>
        if v.avail ≤ 0 then (v, acc)
        else Vc.fill window lintel n { v with sending := rest, avail := v.avail - 1, sent := (v.sent + 1) % 4096 } (acc ++ [sl])
      | [] =>
        match v.begin_ window lintel with
        | none => (v, acc)
        | some v' => Vc.fill window lintel n v' acc

/-- The cycle of 16 slots: 4 to VC1, 4 to VC0, 6 to VC2, 2 to VC3. -/
def cycleVc (c : Nat) : Nat := if c < 4 then 1 else if c < 8 then 0 else if c < 14 then 2 else 3

/-- The channel whose DATA flit goes now, if any. -/
def PortRt.nextVc (r : PortRt) (window : Bool) : Option Nat :=
  let waiting := window && (r.vc 2).queue.any (fun q => q.expert)
  let c := cycleVc r.cycle
  let c := if c = 3 ∧ waiting then 2 else c
  [c, 1, 0, 2, 3].find? (fun v => (r.vc v).may window)

/-- The header of the next flit: its own fields, ACK and the next credit report. -/
def PortRt.head (r : PortRt) (typ vc : Nat) (fseq : BitVec 10) (count : Nat) : FlitHead :=
  { typ := typ, vc := vc, fseq := fseq, ack := r.rxNext - 1, creditVc := r.creditVc, credit := (r.vc r.creditVc).freed % 4096, count := count }

/-- Send a flit on the active lanes: CREDIT_VC steps on, and one more flit has passed since the last CONTROL. -/
def State.sendFlit (s : State) (p : Port) (r : PortRt) (control : Bool) (h : FlitHead) (data : List Byte) : State :=
  let r := { r with creditVc := (r.creditVc + 1) % 4, controlRest := if control then 7 else r.controlRest - 1 }
  let s := s.setPort p.val r
  let s := if h.typ = 1 then s.bump (O.portTxBytes p.val) 64 (32 * h.count) else s
  s.emit (.flit p (toLanes r.txLanes (makeFlit h.bytes data)))

/-- Control words a port may carry: a FOREIGN one HELLO and FABRIC only, one not yet ACTIVE no time words (R370). -/
def PortRt.carries (r : PortRt) (w : BitVec 128) : Bool :=
  let ct := bits w.toNat 127 120
  match r.st with
  | .active => true
  | .foreign => ct == ctHello || ct == ctFabric
  | _ => ct != ctTime

/-- A CONTROL flit of the first words waiting, at most 14. -/
def State.sendControl (s : State) (p : Port) (r : PortRt) : State :=
  let ws := r.words.take 14
  s.sendFlit p { r with words := r.words.drop 14 } true (r.head 2 0 0 ws.length) ((ws.map (fun w => beBytes 16 w.toNat)).flatten)

/-- What one port sends at a flit boundary (R362, step 3 of R366). -/
def State.boundary (s : State) (p : Port) : State :=
  let r := s.port p.val
  if !r.ctl then s
  else
    let window := s.crs.exchangeOpen
    let r := { r with words := r.words.filter r.carries }
    let data := r.st == .active && !s.lnk.plumb.restoreHeld
    match r.txMap with
    | some m =>
      let g : Byte := BitVec.ofNat 8 (bits m.toNat 95 88)
      let go := r.rxWant == []
      let r := { r with
        txLanes := g, txMap := if go then r.nextMap else none, nextMap := if go then none else r.nextMap
        words := ctrlWord ctLaneMap m :: r.words }
      ((s.putPort p.val r).sendControl p r).startEcho p.val
    | none =>
      if r.words ≠ [] ∧ r.controlRest = 0 then s.sendControl p r
      else match r.resend with
        | f :: rest =>
          if !data then s.sendFlit p r false (r.head 0 0 0 0) []
          else
            let old := flitHead f
            s.sendFlit p { r with resend := rest } false (r.head 1 old.vc old.fseq old.count) (f.drop 8)
        | [] =>
          let pick := if data && decide (r.buffer.length < 512) then r.nextVc window else none
          match pick with
          | none => s.sendFlit p r false (r.head 0 0 0 0) []
          | some v =>
            let x := Vc.fill window (p.val == 16 || p.val == 17) 14 (r.vc v) []
            let h := r.head 1 v r.txSeq x.2.length
            let kept := h.bytes ++ fit 224 x.2.flatten
            let r := r.setVc v x.1
            s.sendFlit p { r with txSeq := r.txSeq + 1, buffer := r.buffer ++ [(r.txSeq, kept)], cycle := (r.cycle + 1) % 16 } false h x.2.flatten

/-- Put a packet in the queue of its channel on a port. -/
def State.queue (s : State) (p : Nat) (q : QPkt) : State :=
  let r := s.port p
  let v := vcOf q.pkt.ptype.toNat
  let x := r.vc v
  s.setPort p (r.setVc v { x with queue := x.queue ++ [q] })

/-! ## The commands -/

/-- FLIT_RECEIVE. -/
def execFlitReceive (port : Port) (lanes : List (Nat × List Symbol)) (s : State) : Host.Outcome State Fault Refusal :=
  let g := (s.port port.val).readGroup (lanes.map (·.1))
  .next (flitReceive s port g (fromLanes g lanes))
/-- REPLAY. -/
def execReplay (port : Port) (fseq : BitVec 10) (s : State) : Host.Outcome State Fault Refusal :=
  .next (replay s port fseq)
/-- REPLAY_TIMER. -/
def execReplayTimer (port : Port) (s : State) : Host.Outcome State Fault Refusal :=
  .next (replayTimer s port)
/-- LINK_DOWN. -/
def execLinkDown (port : Port) (cause : DownCause) (s : State) : Host.Outcome State Fault Refusal :=
  .next (linkDown s port cause)
/-- ECHO. -/
def execEcho (port : Port) (payload : BitVec 96) (reply : Bool) (clock : BitVec 48) (s : State) : Host.Outcome State Fault Refusal :=
  .next (echo s port payload reply clock)
/-- CREDIT_INIT. -/
def execCreditInit (port : Port) (payload : BitVec 96) (s : State) : Host.Outcome State Fault Refusal :=
  .next (creditInit s port payload)
/-- LANE_MAP. -/
def execLaneMap (port : Port) (payload : BitVec 96) (s : State) : Host.Outcome State Fault Refusal :=
  .next (laneMap s port payload)
/-- LANE_FAIL. -/
def execLaneFail (port : Port) (lane : LaneFailure) (s : State) : Host.Outcome State Fault Refusal :=
  .next (laneFail s port lane.lane lane.lock)
/-- REWIDEN. -/
def execRewiden (port : Port) (healthy : Byte) (s : State) : Host.Outcome State Fault Refusal :=
  .next (rewiden s port healthy)
/-- PORT_TRAIN_START. -/
def execPortTrainStart (port : Port) (s : State) : Host.Outcome State Fault Refusal :=
  .next (portTrainStart s port)
/-- LANE_DETECT. -/
def execLaneDetect (port : Port) (lane : Fin 8) (s : State) : Host.Outcome State Fault Refusal :=
  .next (laneDetect s port lane)
/-- TRAIN_STATE_LIMIT. -/
def execTrainStateLimit (port : Port) (s : State) : Host.Outcome State Fault Refusal :=
  .next (trainStateLimit s port)
/-- DESKEW_ALIGNED. -/
def execDeskewAligned (port : Port) (s : State) : Host.Outcome State Fault Refusal :=
  .next (deskewAligned s port)

end Sys2Proof.Machine
end

