-- ==== Sys2Proof/Machine/Plumb.lean ====
section
/-! DEFINITION. Topology and Plumbline: port masks, discovery, reports, joins (11_links_and_topology.md R371, R372, R378 to R388). -/

namespace Sys2Proof.Machine

/-! ## Topology -/

/-- Mask of a port in a fabric of k dimensions (Table 11.9). -/
def portMask (k : Nat) (twist : Bool) (p : Nat) : Node :=
  if p = 16 then 0x10000
  else if p = 17 then 0x10000 ^^^ BitVec.ofNat 17 (2 ^ k - 1)
  else if p = 18 then 8
  else if p < k then BitVec.ofNat 17 (2 ^ p)
  else if p = k ∧ twist then BitVec.ofNat 17 (2 ^ k - 1)
  else BitVec.ofNat 17 (2 ^ (p % k))

/-- Dimension a D port is a link of, if any (Table 11.9). -/
def portDim (k : Nat) (twist : Bool) (p : Nat) : Option Nat :=
  if p ≥ 16 then none
  else if p < k then some p
  else if p = k ∧ twist then none
  else some (p % k)

/-- Identity of the peer on a port, by this node's own. -/
def State.peerOf (s : State) (p : Nat) : Node := s.node ^^^ portMask s.lnk.k s.lnk.twist p

/-- Change what Plumbline holds: a change of PLUMB_STATE raises its event (15 Table 15.7), and a change of PHASE or NODE sends HELLO on
every ACTIVE port (R379). -/
def State.setPlumb (s : State) (b : PlumbUnit) : State :=
  let old := s.lnk.plumb
  let s := { s with lnk := { s.lnk with plumb := b } }
  let s := if old.st = b.st then s else s.icxEvent 0x0A4
  if old.st.phase = b.st.phase ∧ old.ident = b.ident then s
  else s.upPorts.foldl (fun t p => t.sendCtl p ctHello (t.helloWord p)) s

/-- Send a word on every ACTIVE port but one. -/
def State.spread (s : State) (but : Option Nat) (ct : Nat) (w : BitVec 96) : State :=
  (s.upPorts.filter (fun p => some p != but)).foldl (fun t p => t.sendCtl p ct w) s

/-! ## Gathering (R380) -/

/-- A BEACON's payload. -/
def beaconWord (best : BitVec 48) (hops : Nat) : BitVec 96 := payload96 [(best.toNat, 48), (hops % 256, 40)]

/-- Enter GATHER: best is the own serial, sent on every ACTIVE port. -/
def State.gather (s : State) : State :=
  let s := s.setPlumb { st := .gather, best := Config.serial, bestAt := s.us }
  s.spread none ctBeacon (beaconWord Config.serial 0)

/-- With no port left ACTIVE and one MISWIRED or FOREIGN, a node that has not settled is ISOLATED (Table 11.12). -/
def State.checkIsolated (s : State) : State :=
  let bad := (List.range 19).any (fun p => (s.port p).st == .miswired || (s.port p).st == .foreign)
  if s.lnk.plumb.st ≠ .settled ∧ s.upPorts = [] ∧ bad then s.setPlumb { s.lnk.plumb with st := .isolated, round := false } else s

/-- A port becomes MISWIRED (R368, R381, R384). -/
def State.miswire (s : State) (p : Nat) : State :=
  if (s.port p).st = .miswired then s
  else ((s.putPort p { s.port p with st := .miswired }).raise (srcPort p) 0 0x62 1 p).checkIsolated

/-- A port becomes FOREIGN (R384, R386). -/
def State.foreign (s : State) (p : Nat) : State :=
  if (s.port p).st = .foreign then s
  else ((s.putPort p { s.port p with st := .foreign }).raise (srcPort p) 0 0x67 1 p).checkIsolated

/-- Enter JOINING: JOIN on every ACTIVE port whose peer has settled (R384). -/
def State.startJoin (s : State) : State :=
  let s := s.setPlumb { s.lnk.plumb with st := .joining, joinAt := s.us }
  let s := { s with lnk := { s.lnk with ports := s.lnk.ports.map (fun (e : Nat × PortRt) => (e.1, { e.2 with answer := none })) } }
  (s.upPorts.filter (fun p => (s.port p).peerPhase == 2)).foldl (fun t p => t.sendCtl p ctJoin (payload96 [(Config.serial.toNat, 48)])) s

/-- The FABRIC word this node holds, with ALIASED as given (Table 11.10). -/
def State.fabricWord (s : State) (aliased : Bool) : BitVec 96 :=
  (s.lnk.plumb.fabricSeen.getD 0) ||| BitVec.ofNat 96 (16 * b2n aliased)

/-- A settled node tells a peer that has settled the fabric it belongs to, so that both ends can compare TAG (R386; log entry 42). -/
def State.tellFabric (s : State) (p : Nat) : State :=
  if s.lnk.plumb.st = .settled ∧ (s.port p).peerPhase = 2 then s.sendCtl p ctFabric (s.fabricWord false) else s

/-- A settled peer makes a gathering node join; one more such peer is asked too while the node is JOINING. -/
def State.meetSettled (s : State) (p : Nat) : State :=
  if (s.port p).peerPhase ≠ 2 then s
  else match s.lnk.plumb.st with
    | .gather => s.startJoin
    | .joining => s.sendCtl p ctJoin (payload96 [(Config.serial.toNat, 48)])
    | _ => s

/-- The restore packets that waited for M go out (13 R451). -/
def State.flushM (s : State) : State :=
  s.mir.heldM.foldl (fun t b => t.emit (.sendM b)) { s with mir := { s.mir with heldM := [] } }

/-- A port becomes ACTIVE: CREDIT_INIT (R360), what waited for M, and what Plumbline does on it. -/
def State.portActive (s : State) (p : Nat) : State :=
  let s := s.putPort p { s.port p with st := .active, train := .idle }
  let s := s.sendCredits p
  let s := if p = 18 then s.flushM else s
  let s := match s.lnk.plumb.st with
    | .idle | .isolated => s.gather
    | .gather => s.sendCtl p ctBeacon (beaconWord s.lnk.plumb.best s.lnk.plumb.bestHops)
    | _ => s
  (s.meetSettled p).tellFabric p

/-- HELLO (R368, R379, R384). -/
def hello (s : State) (p : Port) (payload : BitVec 96) : State :=
  let w := payload.toNat
  let r := s.port p.val
  if !r.ctl then s
  else if bits w 34 34 ≠ 0 ∨ bits w 16 0 ≠ 0 then s.ctlDiscard p.val
  else
    let first := r.st == .training
    let r := { r with
      peerSerial := BitVec.ofNat 48 (bits w 95 48), peerPort := bits w 47 43, peerPhase := bits w 36 35
      peerNode := BitVec.ofNat 17 (bits w 33 17) }
    let s := s.setPort p.val r
    if first then
      let bad := bits w 47 43 != p.val || bits w 42 38 != s.lnk.k || bits w 37 37 != b2n s.lnk.twist || (p.val == 18 && decide (s.lnk.k < 4))
      if bad then s.miswire p.val else s.portActive p.val
    else if r.st = .active then s.meetSettled p.val
    else s

/-- BEACON (R380). -/
def beacon (s : State) (p : Port) (payload : BitVec 96) : State :=
  let w := payload.toNat
  let low : BitVec 48 := BitVec.ofNat 48 (bits w 95 48)
  let b := s.lnk.plumb
  if !s.portUp p.val then s
  else if bits w 39 0 ≠ 0 then s.ctlDiscard p.val
  else if b.st = .gather ∧ low.toNat < b.best.toNat then
    let hops := (bits w 47 40 + 1) % 256
    let s := s.setPlumb { b with best := low, bestHops := hops, bestAt := s.us, waitFrom := none }
    s.spread (some p.val) ctBeacon (beaconWord low hops)
  else s

/-! ## Assigning (R381) -/

/-- Adopt an identity and enter ASSIGNING: one ASSIGN on every ACTIVE port, and a round of reports. -/
def State.assigning (s : State) (n : Node) (origin : BitVec 48) : State :=
  let s := s.setPlumb { s.lnk.plumb with
    st := .assigning, ident := some n, tag := origin, m := 0, assignAt := s.us, waitFrom := none, round := true, reports := [], reported := false }
  s.spread none ctAssign (payload96 [(origin.toNat, 48), (n.toNat, 31)])

/-- GATHER_QUIET_EXPIRY: the node with the lowest serial is the origin, n:00000; another begins its wait for an ASSIGN. -/
def gatherQuietExpiry (s : State) : State :=
  let b := s.lnk.plumb
  if b.st ≠ .gather ∨ s.us < b.bestAt + 1000 * s.num O.gatherQuiet then s
  else if b.best = Config.serial then s.assigning 0 Config.serial
  else if b.waitFrom = none then s.setPlumb { b with waitFrom := some s.us }
  else s

/-- ASSIGN: the first gives the identity, a later one checks the cabling. -/
def assign (s : State) (p : Port) (payload : BitVec 96) : State :=
  let w := payload.toNat
  let n : Node := BitVec.ofNat 17 (bits w 47 31) ^^^ portMask s.lnk.k s.lnk.twist p.val
  let b := s.lnk.plumb
  if !s.portUp p.val then s
  else if bits w 30 0 ≠ 0 then s.ctlDiscard p.val
  else if b.st = .gather then s.assigning n (BitVec.ofNat 48 (bits w 95 48))
  else match b.ident with
    | none => s
    | some x =>
      let s := s.setPlumb { b with assignAt := s.us }
      if n = x then s else s.miswire p.val

/-! ## Reports (R382, R383, R387) -/

/-- Rank of a bit of an identity: bit 16 above bits [k−1:0]. -/
def dimBit (k j : Nat) : Nat := if j = k then 16 else j

/-- h(x): the rank of the highest bit in which x and m differ. -/
def highRank (k : Nat) (x m : Node) : Option Nat :=
  (((List.range (k + 1)).filter (fun j => (x ^^^ m).getLsbD (dimBit k j))).getLast?)

/-- The ACTIVE ports that lead along a rank: the links of a dimension, or G0 for bit 16. -/
def State.rankPorts (s : State) (j : Nat) : List Nat :=
  if j = s.lnk.k then [16].filter s.portUp
  else s.upPorts.filter (fun p => portDim s.lnk.k s.lnk.twist p == some j)

/-- The binomial children of this node that an ACTIVE link reaches. -/
def State.children (s : State) : List Node :=
  let k := s.lnk.k
  let from_ := match highRank k s.node s.lnk.plumb.m with | some h => h + 1 | none => 0
  ((List.range (k + 1)).filter (fun j => decide (from_ ≤ j) && s.rankPorts j != [])).map (fun j => s.node ^^^ BitVec.ofNat 17 (2 ^ dimBit k j))

/-- Tier of a candidate: 0 when it differs from m in some bit of [16:4]. -/
def tier (x m : Node) : Nat := if (x ^^^ m).toNat / 16 = 0 then 1 else 0

/-- The better of some candidates (serial, node): by tier, then by lower serial. -/
def bestCandidate (m : Node) (l : List (Nat × Node)) : Option (Nat × Node) :=
  (sortBy (fun c => tier c.2 m * 2 ^ 48 + c.1) l).head?

/-- Serial of no candidate. -/
def noSerial : Nat := 2 ^ 48 - 1

/-- COUNT, FAULTS and the children's candidates. -/
def State.poll (s : State) : Nat × Nat × List (Nat × Node) :=
  let rs := s.lnk.plumb.reports
  let own := ((List.range 19).filter (fun p => (s.port p).st == .miswired || (s.port p).st == .foreign)).length
  (1 + sumNat (rs.map (·.count)), Nat.min 8191 (own + sumNat (rs.map (·.faults))),
    (rs.filter (fun r => r.serial.toNat != noSerial)).map (fun r => (r.serial.toNat, r.cand)))

/-- A FABRIC word's fields without ALIASED. -/
def fabricPayload (tag : BitVec 48) (m : Node) (standby : Option Node) (epoch : Byte) : BitVec 96 :=
  payload96 [(tag.toNat, 48), (m.toNat, 31), ((standby.getD 0).toNat, 14), (epoch.toNat, 6), (b2n standby.isNone, 5)]

/-- m ends its round: FABRIC on every ACTIVE port, PLUMB_COUNT when the count is not the one expected; at discovery it becomes master
of EPOCH 0 with its count at tick 0 (R383). -/
def State.settleMaster (s : State) : State :=
  let b := s.lnk.plumb
  let t := s.poll
  let discovery := b.st != .settled
  let standby := (bestCandidate b.m t.2.2).map (·.2)
  let epoch : Byte := if discovery then 0 else s.clk.epoch
  let w := fabricPayload b.tag b.m standby epoch
  let s := s.setPlumb { b with st := .settled, standby := standby, found := t.1, fabricSeen := some w, round := false, reported := true, waitFrom := none }
  let s := s.spread none ctFabric w
  let s := if s.num O.expectedNodes ≠ 0 ∧ s.num O.expectedNodes ≠ t.1 then s.raise srcRouter 0 0x66 1 0 else s
  if discovery then
    let s := { s with clk := { s.clk with
        tick := 0, originating := true, role := .master, master := b.m, epoch := 0, hops := 0, parent := none, words := [], counting := true, held := true } }
    (s.clockEvent 1).setClockMode .locked
  else s

/-- Send this node's REPORT to its binomial parent, or as m end the round. -/
def State.reportNow (s : State) : State :=
  let b := s.lnk.plumb
  match highRank s.lnk.k s.node b.m with
  | none => s.settleMaster
  | some h =>
    match s.rankPorts h with
    | [] => s
    | p :: _ =>
      let t := s.poll
      let c := (bestCandidate b.m ((Config.serial.toNat, s.node) :: t.2.2)).getD (noSerial, 0)
      let s := s.setPlumb { b with st := if b.st = .assigning then .reporting else b.st, reported := true }
      s.sendCtl p ctReport (payload96 [(c.1, 48), (c.2.toNat, 31), (t.1 % 2 ^ 18, 13), (t.2.1, 0)])

/-- Report once ASSIGN_QUIET has passed and every child has reported, or the wait for them is over (`late`). -/
def State.tryReport (s : State) (late : Bool) : State :=
  let b := s.lnk.plumb
  if !b.round || b.reported || decide (s.us < b.assignAt + 1000 * s.num O.assignQuiet) then s
  else
    let s := if b.waitFrom = none then s.setPlumb { b with waitFrom := some s.us } else s
    if late || s.children.all (fun c => b.reports.any (fun r => r.node == c)) then s.reportNow else s

/-- ASSIGN_QUIET_EXPIRY. -/
def assignQuietExpiry (s : State) : State := s.tryReport false

/-- REPORT: a child's, by the port it came on. -/
def report (s : State) (p : Port) (payload : BitVec 96) : State :=
  let w := payload.toNat
  let b := s.lnk.plumb
  let child := s.peerOf p.val
  if !s.portUp p.val || !b.round || b.reported || !s.children.contains child then s
  else
    let r : Report := { port := p, node := child, serial := BitVec.ofNat 48 (bits w 95 48), cand := BitVec.ofNat 17 (bits w 47 31), count := bits w 30 13, faults := bits w 12 0 }
    (s.setPlumb { b with reports := b.reports.filter (fun x => x.node != child) ++ [r] }).tryReport false

/-- REPORT_TIMEOUT ends a node's wait for an ASSIGN, in ISOLATED (R380), or its wait for its children's reports (R382, R383). -/
def reportTimeout (s : State) : State :=
  let b := s.lnk.plumb
  match b.waitFrom with
  | none => s
  | some t =>
    if s.us < t + 1000 * s.num O.reportTimeout then s
    else if b.st = .gather then (s.setPlumb { b with st := .isolated, waitFrom := none }).raise srcRouter 0 0x65 1 0
    else s.tryReport true

/-! ## The fabric (R383 to R387) -/

/-- A FABRIC word without ALIASED. -/
def plainFabric (payload : BitVec 96) : BitVec 96 := payload &&& ~~~ 0x10

/-- Adopt a FABRIC word: its fields, the standby role, and at settling its epoch and master. -/
def State.adoptFabric (s : State) (payload : BitVec 96) : State :=
  let w := payload.toNat
  let standby : Option Node := if bit w 5 then none else some (BitVec.ofNat 17 (bits w 30 14))
  let master : Node := BitVec.ofNat 17 (bits w 47 31)
  let epoch : Byte := BitVec.ofNat 8 (bits w 13 6)
  let fresh := s.lnk.plumb.st != .settled
  let s := s.setPlumb { s.lnk.plumb with
    st := .settled, tag := BitVec.ofNat 48 (bits w 95 48), standby := standby, m := master, fabricSeen := some (plainFabric payload), round := false, waitFrom := none }
  let c := s.clk
  let c := if fresh && !c.originating then { c with epoch := epoch, master := master } else c
  let role := if c.originating then c.role else if standby = s.lnk.plumb.ident ∧ standby.isSome then .standby else .follower
  let s' := { s with clk := { c with role := role } }
  if s'.clk.role = s.clk.role ∧ s'.clk.epoch = s.clk.epoch ∧ s'.clk.master = s.clk.master then s' else s'.clockEvent 1

/-- FABRIC: an answer to a JOIN; the word over M that ends RESTORE_HELD (13 R452); another fabric's word on a port between settled
nodes (R386); else fields to adopt and forward (R383). -/
def fabric (s : State) (p : Port) (payload : BitVec 96) : State :=
  let w := payload.toNat
  let r := s.port p.val
  let b := s.lnk.plumb
  let tag : BitVec 48 := BitVec.ofNat 48 (bits w 95 48)
  if !(r.st == .active || r.st == .foreign) then s
  else if bits w 3 0 ≠ 0 then s.ctlDiscard p.val
  else if b.st = .joining then s.setPort p.val { r with answer := some payload }
  else if b.st = .settled ∧ tag ≠ b.tag then s.foreign p.val
  else
    let s := if b.restoreHeld && p.val == 18 && !bit w 4 && b.st == .settled then s.setPlumb { b with restoreHeld := false } else s
    if b.ident.isNone ∨ b.fabricSeen = some (plainFabric payload) ∨ r.st ≠ .active then s
    else (s.adoptFabric payload).spread (some p.val) ctFabric (plainFabric payload)

/-- JOIN: a settled node answers with FABRIC, ALIASED when its alias table maps the joiner's identity to another node (R384, R385). -/
def join (s : State) (p : Port) (payload : BitVec 96) : State :=
  if !s.portUp p.val then s
  else if bits payload.toNat 47 0 ≠ 0 then s.ctlDiscard p.val
  else if s.lnk.plumb.st ≠ .settled then s
  else
    let n := s.peerOf p.val
    s.sendCtl p.val ctFabric (s.fabricWord (s.lnk.aliases.any (fun a => a.1 == n && a.2 != n)))

/-- JOIN_WAIT_EXPIRY: 10 ms after JOINING began (R384, R385). -/
def joinWaitExpiry (s : State) : State :=
  let b := s.lnk.plumb
  if b.st ≠ .joining ∨ s.us < b.joinAt + 10000 then s
  else
    let answers := s.upPorts.filterMap (fun p => ((s.port p).answer).map (fun a => (p, a)))
    let tagOf := fun (a : BitVec 96) => bits a.toNat 95 48
    match (answers.map (fun a => tagOf a.2)).min? with
    | none => s
    | some low =>
      let same := answers.filter (fun a => tagOf a.2 == low)
      let idOf := fun (p : Nat) => (s.port p).peerNode ^^^ portMask s.lnk.k s.lnk.twist p
      match same with
      | [] => s
      | (p0, a0) :: _ =>
        let me := idOf p0
        let s := { s with lnk := { s.lnk with plumb := { s.lnk.plumb with restoreHeld := bit a0.toNat 4 } } }
        let s := { s with lnk := { s.lnk with plumb := { s.lnk.plumb with ident := some me } } }
        let s := s.adoptFabric a0
        answers.foldl (fun t a =>
          if tagOf a.2 != low then t.foreign a.1 else if idOf a.1 != me then t.miswire a.1 else t) s

/-- CALL from a new master: forwarded once, and a new round of reports begins (R387). -/
def call (s : State) (p : Port) (payload : BitVec 96) : State :=
  let w := payload.toNat
  let b := s.lnk.plumb
  if !s.portUp p.val then s
  else if bits w 22 0 ≠ 0 then s.ctlDiscard p.val
  else if b.st ≠ .settled ∨ BitVec.ofNat 48 (bits w 95 48) ≠ b.tag ∨ b.callSeen = some payload then s
  else
    let s := s.setPlumb { b with
      callSeen := some payload, m := BitVec.ofNat 17 (bits w 47 31), round := true, reports := [], reported := false, waitFrom := none }
    (s.spread (some p.val) ctCall payload).tryReport false

/-- PLUMB_RESTART: in ALIGN only (R388); Plumbline begins again from GATHER, and a node that originated time words stops. -/
def State.plumbRestartWrite (s : State) : Nat × State :=
  if s.pkg.st ≠ .align then (Err.state, s)
  else
    let s := { s with clk := { s.clk with originating := false, role := .follower } }
    (Err.ok, s.gather)

/-! ## The commands -/

/-- HELLO. -/
def execHello (port : Port) (payload : BitVec 96) (s : State) : Host.Outcome State Fault Refusal :=
  .next (hello s port payload)
/-- BEACON. -/
def execBeacon (port : Port) (payload : BitVec 96) (s : State) : Host.Outcome State Fault Refusal :=
  .next (beacon s port payload)
/-- GATHER_QUIET_EXPIRY. -/
def execGatherQuietExpiry (s : State) : Host.Outcome State Fault Refusal :=
  .next (gatherQuietExpiry s)
/-- ASSIGN. -/
def execAssign (port : Port) (payload : BitVec 96) (s : State) : Host.Outcome State Fault Refusal :=
  .next (assign s port payload)
/-- ASSIGN_QUIET_EXPIRY. -/
def execAssignQuietExpiry (s : State) : Host.Outcome State Fault Refusal :=
  .next (assignQuietExpiry s)
/-- REPORT. -/
def execReport (port : Port) (payload : BitVec 96) (s : State) : Host.Outcome State Fault Refusal :=
  .next (report s port payload)
/-- REPORT_TIMEOUT. -/
def execReportTimeout (s : State) : Host.Outcome State Fault Refusal :=
  .next (reportTimeout s)
/-- FABRIC. -/
def execFabric (port : Port) (payload : BitVec 96) (s : State) : Host.Outcome State Fault Refusal :=
  .next (fabric s port payload)
/-- JOIN. -/
def execJoin (port : Port) (payload : BitVec 96) (s : State) : Host.Outcome State Fault Refusal :=
  .next (join s port payload)
/-- JOIN_WAIT_EXPIRY. -/
def execJoinWaitExpiry (s : State) : Host.Outcome State Fault Refusal :=
  .next (joinWaitExpiry s)
/-- CALL. -/
def execCall (port : Port) (payload : BitVec 96) (s : State) : Host.Outcome State Fault Refusal :=
  .next (call s port payload)

end Sys2Proof.Machine
end

