-- ==== Sys2Proof/Machine/Route.lean ====
section
/-! DEFINITION. The link router: next hops, combining, discards, the near side of the lintel gateways, and the flit boundary
(11_links_and_topology.md R362, R374 to R377; 12_memory_semantic_fabric.md R401 to R404, R407, R411, R412). -/

namespace Sys2Proof.Machine

/-! ## Fabric requests as packets (12 Tables 12.2, 12.3) -/

/-- OP codes. -/
def opLoad : Nat := 0x01
/-- STORE. -/
def opStore : Nat := 0x02

/-- A combinable OP: LOAD and every atomic but CAS. -/
def combinable (op : Nat) : Bool := op == 1 || (decide (0x10 ≤ op) && decide (op ≤ 0x15))

/-- The 8 bytes of poison (R395). -/
def poison64 : Nat := 0xDEAD5EA1DEAD5EA1

/-- Poison in every 8-byte unit. -/
def poisonBytes (n : Nat) : List Byte := fit n ((List.replicate (ceilDiv n 8) (leBytes 8 poison64)).flatten)

/-- Read a request out of a packet of PTYPE 0x01. -/
def readRequest (p : Packet) : BatchReq :=
  let t := p.transport
  let size := u16 t 0xE
  let op := u8 t 0xC
  { op := BitVec.ofNat 8 op
    req := {
      dest := p.dest, src := p.src, own := none, tag := BitVec.ofNat 32 (u32 t 8), addr := BitVec.ofNat 64 (u64 t 0), tenant := t.getD 0xD 0
      size := BitVec.ofNat 16 size, opA := BitVec.ofNat 64 (u64 p.payload 0), opB := BitVec.ofNat 64 (u64 p.payload 8)
      data := if op = opStore then fit size p.payload else [] } }

/-- A request as a packet. -/
def requestPacket (b : BatchReq) : Packet :=
  let r := b.req
  let op := b.op.toNat
  { dest := r.dest, src := r.src, ptype := 1, escape := false, crossed := false, hops := 0
    transport := leBytes 8 r.addr.toNat ++ leBytes 4 r.tag.toNat ++ leBytes 1 op ++ leBytes 1 r.tenant.toNat ++ leBytes 2 r.size.toNat
    payload := if op = opStore then fit (roundUp r.size.toNat 32) r.data
      else if op = opLoad then [] else fit 32 (leBytes 8 r.opA.toNat ++ leBytes 8 r.opB.toNat) }

/-- A request answered without service: status, and poison where Table 12.4 gives it (R395). -/
def failedResponse (node : Node) (b : BatchReq) (status : Nat) : FabResp :=
  let r := b.req
  let op := b.op.toNat
  let size := r.size.toNat
  { src := node, tag := r.tag, op := b.op, status := BitVec.ofNat 8 status, size := r.size
    old := BitVec.ofNat 64 (if op = opStore ∨ size > 8 then 0 else poison64 % 2 ^ (8 * size))
    data := if op = opLoad ∧ size > 8 then poisonBytes size else [] }

/-! ## Next hop (R374, R375) -/

/-- The alias lookup (13 R439): a node with no alias stands for itself. -/
def State.alias_ (s : State) (n : Node) : Node := ((s.lnk.aliases.find? (fun a => a.1 == n)).map (·.2)).getD n

/-- What the router does with a packet. -/
inductive Hop where
  | deliver
  | discard (status : Nat)
  | send (port : Nat) (detour : Bool)
  deriving DecidableEq, Repr

/-- A port is up in the routes in force (R376). -/
def State.routeUp (s : State) (p : Nat) : Bool := s.lnk.routes.any (fun r => r.1.val == p)

/-- The links of a dimension in the routes in force, ascending. -/
def State.links (s : State) (j : Nat) : List (Nat × Nat) :=
  (sortBy (fun (r : Nat × Nat) => r.1) ((s.lnk.routes.map (fun r => (r.1.val, r.2))).filter (fun r => portDim s.lnk.k s.lnk.twist r.1 == some j)))

/-- The link whose cumulative weight range holds a number. -/
def pickLink : List (Nat × Nat) → Nat → Nat
  | [], _ => 0
  | [r], _ => r.1
  | r :: rest, n => if n < r.2 then r.1 else pickLink rest (n - r.2)

/-- The parallel link for a destination: d mod T among the weights (R375). -/
def parallel (l : List (Nat × Nat)) (d : Node) : Nat := pickLink l (d.toNat % Nat.max 1 (sumNat (l.map (·.2))))

/-- The detour of R374. -/
def State.detour (s : State) (d : Node) (p : Packet) : Hop :=
  let k := s.lnk.k
  let m := (s.node ^^^ d).toNat % 2 ^ k
  let open_ := (List.range k).filter (fun j => s.links j != [])
  match (open_.filter (fun j => bit m j)).head?.or open_.head? with
  | none => .discard 6
  | some j => if p.escape then .discard 6 else .send (parallel (s.links j) d) true

/-- next_hop() of R374. -/
def State.nextHop (s : State) (p : Packet) : Hop :=
  let k := s.lnk.k
  let x := s.node
  let d := s.alias_ p.dest
  let m := (x ^^^ d).toNat % 2 ^ k
  let l0 := popcount k m
  if d = x then .deliver
  else if p.hops.toNat = s.num O.hopLimit then .discard 7
  else if isTwinPacket p.ptype.toNat && d == x ^^^ 8 && s.routeUp 18 then .send 18 false
  else if d.getLsbD 16 != x.getLsbD 16 then
    let pref := if k - l0 < l0 then 17 else 16
    if s.routeUp pref then .send pref false
    else if s.routeUp (33 - pref) then .send (33 - pref) false
    else s.detour d p
  else if s.lnk.twist && decide (k < 2 * l0) && s.routeUp k && decide (k < 16) then .send k false
  else match (onBits k m).head? with
    | none => s.detour d p
    | some j => if s.links j ≠ [] then .send (parallel (s.links j) d) false else s.detour d p

/-! ## Combining (12 R401 to R404) -/

/-- Combine two operands A (Table 12.5); a LOAD has none. -/
def combineOperand (op size a b : Nat) : Nat :=
  let w := 2 ^ (8 * size)
  let a := a % w
  let b := b % w
  if op = 0x10 then (a + b) % w
  else if op = 0x12 then a &&& b
  else if op = 0x13 then a ||| b
  else if op = 0x14 then a ^^^ b
  else if op = 0x15 then Nat.max a b
  else if op = 0x11 then b
  else 0

/-- What constituent i + 1 is told, from what constituent i was told and brought (Table 12.5). -/
def nextOld (op size v a : Nat) : Nat :=
  if op = 0x11 then a % 2 ^ (8 * size) else if op = 1 then v else combineOperand op size v a

/-- Two requests touch the same 64-byte line of the same node. -/
def sameLine (a b : BatchReq) : Bool :=
  let first := fun (r : BatchReq) => r.req.addr.toNat / 64
  let last := fun (r : BatchReq) => (r.req.addr.toNat + Nat.max 1 r.req.size.toNat - 1) / 64
  a.req.dest == b.req.dest && decide (first a ≤ last b) && decide (first b ≤ last a)

/-- The constituents of the group a queued request stands for, 1 when none. -/
def State.groupSize (s : State) (q : QPkt) : Nat :=
  match q.group with
  | none => 1
  | some t => ((s.lnk.combine.filter (fun c => c.tag == t)).map (fun c => c.parts.length)).headD 1

/-- The queued request that an entering one combines with: the last in the queue that touches its line, when R401 holds of it. -/
def State.partner (s : State) (queue : List QPkt) (p : Packet) : Option QPkt :=
  let b := readRequest p
  let at_ := fun (x : Packet) => let r := readRequest x; { r with req := { r.req with dest := s.alias_ x.dest } }
  match (queue.reverse.filter (fun q => q.pkt.ptype == 1 && sameLine (at_ q.pkt) (at_ p))).head? with
  | none => none
  | some q =>
    let a := readRequest q.pkt
    if a.op == b.op && combinable b.op.toNat && a.req.addr == b.req.addr && a.req.size == b.req.size && a.req.tenant == b.req.tenant &&
        decide (s.groupSize q < 16) && (q.group.isSome || decide (s.lnk.combine.length < 256)) then some q
    else none

/-- TAG of a combining record: an entry number of the router's own range that none in use has, with the next generation (log entry 44). -/
def State.combineTag (s : State) : W32 × State :=
  let used := s.lnk.combine.map (fun c => c.tag.toNat % 2 ^ 24)
  let e := (((List.range 256).map (0x30000 + ·)).find? (fun e => !used.contains e)).getD 0x30000
  let g := (SMap.get 255 s.fab.gens e + 1) % 256
  (BitVec.ofNat 32 (g * 2 ^ 24 + e), { s with fab := { s.fab with gens := SMap.put s.fab.gens e g } })

/-- A request with its SRC, TAG and operand A replaced. -/
def regroup (b : BatchReq) (node : Node) (tag : W32) (a : Nat) : BatchReq :=
  { b with req := { b.req with src := node, tag := tag, opA := BitVec.ofNat 64 a } }

/-- The packet of a group: the first constituent's header with the group's request. -/
def groupPacket (p : Packet) (b : BatchReq) : Packet := { p with src := b.req.src, transport := (requestPacket b).transport, payload := (requestPacket b).payload }

/-- Combine an entering request with a queued one. -/
def State.combineWith (s : State) (port : Nat) (q : QPkt) (p : Packet) : State :=
  let b := readRequest p
  let a := readRequest q.pkt
  let op := b.op.toNat
  let size := b.req.size.toNat
  let part : Node × W32 × W64 := (b.req.src, b.req.tag, b.req.opA)
  let opA := combineOperand op size a.req.opA.toNat b.req.opA.toNat
  let t := match q.group with | some t => (t, s) | none => s.combineTag
  let s := t.2
  let q' : QPkt := { q with pkt := groupPacket q.pkt (regroup a s.node t.1 opA), group := some t.1 }
  let recs := match q.group with
    | some _ => s.lnk.combine.map (fun c => if c.tag == t.1 then { c with parts := c.parts ++ [part] } else c)
    | none => s.lnk.combine ++ [{ tag := t.1, op := b.op, size := size, parts := [(a.req.src, a.req.tag, a.req.opA), part] }]
  let s := { s with lnk := { s.lnk with combine := recs } }
  let r := s.port port
  let v := r.vc 0
  (s.setPort port (r.setVc 0 { v with queue := v.queue.map (fun x => if x == q then q' else x) })).bump O.combined 64

/-- Put a packet in a port's queue, combining it if it may. -/
def State.enqueue (s : State) (port : Nat) (q : QPkt) : State :=
  let can := s.num O.combineEnable == 1 && q.pkt.ptype == 1 && q.group.isNone
  match if can then s.partner ((s.port port).vc 0).queue q.pkt else none with
  | some x => s.combineWith port x q.pkt
  | none => s.queue port q

/-! ## Routing a packet (R374, R377; 12 R407) -/

/-- Route one packet. A discarded request is answered to its SRC. -/
def State.routePacket (s : State) (q : QPkt) : State :=
  let p := q.pkt
  match s.nextHop p with
  | .deliver => s.emit (.deliver p)
  | .send port turned =>
    let s := if turned then s.bump O.detours 64 else s
    s.enqueue port { q with pkt := { p with escape := p.escape || turned } }
  | .discard status =>
    let s := if status = 7 then s.bump O.hopDiscards 32 else s.bump O.unreachable 64
    let s := (s.raise srcRouter 0 (if status = 7 then 0x64 else 0x63) 1 0).emit (.discard p (BitVec.ofNat 8 status))
    if p.ptype = 1 then s.send p.src (.response (failedResponse s.node (readRequest p) status)) else s

/-- Free the slots of a packet that arrived on a port (R359). -/
def State.freeSlots (s : State) (port : Nat) (p : Packet) : State :=
  let r := s.port port
  let v := vcOf p.ptype.toNat
  let x := r.vc v
  s.setPort port (r.setVc v { x with freed := (x.freed + (packetSlots p).length) % 4096 })

/-- PACKET_ROUTE: the packet that waits at the router, or one of the package's own. -/
def packetRoute (s : State) (pkt : Packet) : State :=
  if !s.pkg.st.hubRuns then s
  else
    let s := match s.lnk.arrived.find? (fun a => a.2 == pkt) with
      | none => s
      | some a => { s with lnk := { s.lnk with arrived := s.lnk.arrived.erase a } }.freeSlots a.1.val pkt
    s.routePacket { pkt := pkt, expert := isExpertPacket pkt.ptype.toNat }

/-- ROUTE_RECOMPUTE (R376): the routes of the ACTIVE ports and their widths; packets not yet begun follow the new routes. -/
def routeRecompute (s : State) : State :=
  let ports := (List.range 19).filterMap (fun p => if h : p < 20 then some ((⟨p, h⟩ : Port)) else none)
  let up := (ports.filter (fun p => s.portUp p.val)).map (fun p => (p, (s.port p.val).width))
  let s := { s with lnk := { s.lnk with routes := up } }
  let queued := (ports.map (fun p => ((List.range 4).map (fun v => ((s.port p.val).vc v).queue)).flatten)).flatten
  let s := ports.foldl (fun (t : State) p =>
    let r := t.port p.val
    t.setPort p.val ((List.range 4).foldl (fun (r : PortRt) v => r.setVc v { r.vc v with queue := [] }) r)) s
  queued.foldl (fun (t : State) q => t.routePacket q) s

/-- Answer every constituent of a group (R402, R403): old values in queue order, or one status and poison for all. -/
def State.fanOut (s : State) (c : CombineRec) (r : FabResp) : State :=
  let op := c.op.toNat
  let step := fun (acc : Nat × State) (x : Node × W32 × W64) =>
    let resp := if r.status = 0 then { r with tag := x.2.1, src := acc.2.node, old := BitVec.ofNat 64 acc.1 } else { r with tag := x.2.1, src := acc.2.node }
    (nextOld op c.size acc.1 x.2.2.toNat, acc.2.send x.1 (.response resp))
  let s := { s with lnk := { s.lnk with combine := s.lnk.combine.filter (fun x => x.tag != c.tag) } }
  (c.parts.foldl step (r.old.toNat, s)).2

/-- A response made by a combining node for a group that got none. -/
def CombineRec.failed (c : CombineRec) (node : Node) (status : Nat) : FabResp :=
  failedResponse node
    { op := c.op, req := { dest := 0, src := 0, own := none, tag := c.tag, addr := 0, tenant := 0, size := BitVec.ofNat 16 c.size, opA := 0, opB := 0, data := [] } } status

/-- COMBINE_TIMEOUT of the i-th record: LOAD_BOUND ticks after it was forwarded (R404). -/
def combineTimeout (s : State) (i : Nat) : State :=
  match s.lnk.combine[i]? with
  | none => s
  | some c =>
    match c.forwarded with
    | none => s
    | some t =>
      if Tick.atLeast s.clk.tick t && decide (s.num O.loadBound ≤ Tick.since s.clk.tick t) then s.fanOut c (c.failed s.node 8) else s

/-! ## Near gateways (12 R411, R412) -/

/-- A gateway: false G0, true G1. -/
def State.gateway (s : State) (g : Bool) : Gateway := if g then s.fab.g1 else s.fab.g0
/-- Replace it. -/
def State.setGateway (s : State) (g : Bool) (x : Gateway) : State :=
  if g then { s with fab := { s.fab with g1 := x } } else { s with fab := { s.fab with g0 := x } }
/-- Its port. -/
def gatewayPort (g : Bool) : Nat := if g then 17 else 16

/-- A packet between the two ends of a lintel, into its port's queue. -/
def State.lintelPacket (s : State) (g : Bool) (ptype : Byte) (payload : List Byte) : State :=
  let p : Packet := {
    dest := s.peerOf (gatewayPort g), src := s.node, ptype := ptype, escape := false, crossed := false, hops := 0, transport := zeros 16, payload := payload }
  s.queue (gatewayPort g) { pkt := p }

/-- Send the pending LINTEL_BATCH. -/
def State.flushNear (s : State) (g : Bool) : State :=
  let x := s.gateway g
  if x.near = [] then s
  else
    let body := leBytes 4 x.batchNext.toNat ++ leBytes 1 x.near.length ++ zeros 27 ++ (x.near.map (fun p => (packetSlots p).flatten)).flatten
    let s := s.setGateway g { x with near := [], batchNext := x.batchNext + 1 }
    ((s.lintelPacket g 0x08 body).bump O.batchesSent 64).bump O.batchedRequests 64 x.near.length

/-- Slots that requests take of a batch's payload. -/
def batchSlots (l : List Packet) : Nat := 1 + sumNat (l.map (fun p => (packetSlots p).length))

/-- The near gateway takes a request. -/
def State.nearTake (s : State) (g : Bool) (p : Packet) : State :=
  let s := if batchSlots ((s.gateway g).near ++ [p]) > 130 then s.flushNear g else s
  let x := s.gateway g
  let s := s.setGateway g { x with near := x.near ++ [p] }
  if x.near.length + 1 ≥ 32 then s.flushNear g else s

/-- LINTEL_FLUSH: LINTEL_FLUSH router clocks after a batch's first request. -/
def lintelFlush (s : State) (g : Bool) : State := s.flushNear g

/-- Groups whose packet has left its queue are forwarded now (R404). -/
def State.noteForwarded (s : State) : State :=
  let queued := ((s.lnk.ports.map (fun e => (e.2.vc 0).queue.filterMap (·.group))).flatten)
  { s with lnk := { s.lnk with combine := s.lnk.combine.map (fun c =>
      if c.forwarded.isNone && !queued.contains c.tag then { c with forwarded := some s.clk.tick } else c) } }

/-- Requests leave a lintel port's queue for its near gateway (R411). -/
def State.takeLintel (s : State) (port : Nat) : State :=
  if port ≠ 16 ∧ port ≠ 17 then s
  else
    let r := s.port port
    let v := r.vc 0
    let isReq := fun (q : QPkt) => q.pkt.ptype == 1
    let reqs := v.queue.filter isReq
    let order := reqs.filter (fun q => q.pkt.escape) ++ reqs.filter (fun q => !q.pkt.escape)
    let s := s.setPort port (r.setVc 0 { v with queue := v.queue.filter (fun q => !isReq q) })
    order.foldl (fun t q => t.nearTake (port == 17) q.pkt) s

/-- FLIT_BOUNDARY (R362). -/
def flitBoundary (s : State) (p : Port) : State := ((s.takeLintel p.val).boundary p).noteForwarded

/-! ## The commands -/

/-- PACKET_ROUTE. -/
def execPacketRoute (pkt : Packet) (s : State) : Host.Outcome State Fault Refusal :=
  .next (packetRoute s pkt)
/-- ROUTE_RECOMPUTE. -/
def execRouteRecompute (s : State) : Host.Outcome State Fault Refusal :=
  .next (routeRecompute s)
/-- COMBINE_TIMEOUT. -/
def execCombineTimeout (record : Nat) (s : State) : Host.Outcome State Fault Refusal :=
  .next (combineTimeout s record)
/-- LINTEL_FLUSH. -/
def execLintelFlush (g : Bool) (s : State) : Host.Outcome State Fault Refusal :=
  .next (lintelFlush s g)
/-- FLIT_BOUNDARY. -/
def execFlitBoundary (port : Port) (s : State) : Host.Outcome State Fault Refusal :=
  .next (flitBoundary s port)

end Sys2Proof.Machine
end

