-- ==== Sys2Proof/Machine/Fabric.lean ====
section
/-! DEFINITION. Fabric requesters, far gateways and the host bridge (12_memory_semantic_fabric.md R391, R396, R397, R403 to R408,
R410, R413 to R425). -/

namespace Sys2Proof.Machine

/-! ## Issuing requests (R391, R397, R405, R408) -/

/-- First entry number and entries of a requester (Table 12.1; the numbering is the model's, log entry 44). -/
def entryRange (who : Requester) : Nat × Nat :=
  match who with
  | .control c => (0x100 * c.val, 256)
  | .core q _ => (0x1000 + 0x400 * q.val, 1024)
  | .host => (0x10000, 4096)
  | .gateway g => (0x20000 + 0x400 * b2n g, 1024)
  | .engine => (0, 0)
  | .remote _ => (0, 0)

/-- Source under which a requester's faults are raised (15 Table 15.1). -/
def requesterSource (who : Requester) : Nat :=
  match who with
  | .control c => srcControl c.val
  | .core q _ => srcRequester q.val
  | .host => srcBridge
  | .gateway _ => srcLintel
  | .engine => srcEngine
  | .remote _ => srcRouter

/-- UNIT of a requester's faults. -/
def requesterUnit (who : Requester) : Nat := match who with | .gateway g => b2n g | _ => 0

/-- A TAG for a requester's next request: an entry not in use and not resting after a TIMEOUT, with its next generation (R408). -/
def State.newTag (s : State) (who : Requester) : Option (W32 × State) :=
  let used := s.fab.outs.map (fun o => o.tag.toNat % 2 ^ 24)
  let r := entryRange who
  match ((List.range r.2).map (r.1 + ·)).find? (fun e => !used.contains e && decide (SMap.get 0 s.fab.restUntil e ≤ s.us)) with
  | none => none
  | some e =>
    let g := (SMap.get 255 s.fab.gens e + 1) % 256
    some (BitVec.ofNat 32 (g * 2 ^ 24 + e), { s with fab := { s.fab with gens := SMap.put s.fab.gens e g } })

/-- Two requests of one requester touch the same 64-byte line (R397). -/
def OutReq.meets (o : OutReq) (addr size : Nat) : Bool :=
  let o0 := o.addr.toNat / 64
  let o1 := (o.addr.toNat + Nat.max 1 o.size - 1) / 64
  decide (o0 ≤ (addr + Nat.max 1 size - 1) / 64) && decide (addr / 64 ≤ o1)

/-- Issue a request of a requester to a fabric address, or none when it must wait. -/
def State.issue (s : State) (who : Requester) (b : BatchReq) : Option (W32 × State) :=
  let size := b.req.size.toNat
  let a := fabAddr b.req.dest b.req.addr.toNat
  if s.us < s.fab.readyAt then none
  else if s.fab.outs.any (fun o => o.who == who && o.meets a.toNat size) then none
  else match s.newTag who with
    | none => none
    | some (tag, s) =>
      let out : OutReq := { tag := tag, who := who, addr := a, op := b.op, size := size, issued := s.clk.tick }
      let s := { s with fab := { s.fab with outs := s.fab.outs ++ [out] } }
      some (tag, (s.tally 0 0 b.req.data.length).send b.req.dest (.request b.op { b.req with src := s.node, tag := tag }))

/-! ## Far gateways (R413 to R415) -/

/-- A completion record's bytes with its data slots (Table 12.6). -/
def recordBytes (r : LintelRec) : List Byte :=
  leBytes 4 r.origSrc.toNat ++ leBytes 4 r.origTag.toNat ++ leBytes 4 r.batch.toNat ++ leBytes 1 r.index.toNat ++ leBytes 1 r.status.toNat ++
    leBytes 1 r.op.toNat ++ leBytes 1 ((r.data.length + 31) / 32) ++ leBytes 8 r.old.toNat ++ leBytes 2 r.size.toNat ++ zeros 6 ++
    fit (roundUp r.data.length 32) r.data

/-- Send the pending LINTEL_RETURN; what its first slot's BATCH holds is a free value (log entry 4). -/
def State.flushReturns (s : State) (g : Bool) : State :=
  let x := s.gateway g
  if x.returns = [] then s
  else
    let d := s.drawNat
    let body := leBytes 4 d.1 ++ leBytes 1 x.returns.length ++ zeros 27 ++ (x.returns.map recordBytes).flatten
    (d.2.setGateway g { x with returns := [] }).lintelPacket g 0x09 body

/-- Slots that completion records take of a payload. -/
def returnSlots (l : List LintelRec) : Nat := 1 + sumNat (l.map (fun r => 1 + (r.data.length + 31) / 32))

/-- Add a completion record, under the limits of R412. -/
def State.addReturn (s : State) (g : Bool) (r : LintelRec) : State :=
  let s := if returnSlots ((s.gateway g).returns ++ [r]) > 130 then s.flushReturns g else s
  let x := s.gateway g
  let s := s.setGateway g { x with returns := x.returns ++ [r] }
  if x.returns.length + 1 ≥ 32 then s.flushReturns g else s

/-- Reissue held requests, in order, while they may be issued. -/
def State.pumpGateway (s : State) (g : Bool) : State :=
  let step := fun (acc : List (W32 × Nat × BatchReq) × State) (w : W32 × Nat × BatchReq) =>
    if acc.1 ≠ [] then (acc.1 ++ [w], acc.2)
    else match acc.2.issue (.gateway g) w.2.2 with
      | none => ([w], acc.2)
      | some (tag, t) =>
        let x := t.gateway g
        ([], t.setGateway g { x with entries := x.entries ++ [(tag, w.2.2.req.src, w.2.2.req.tag, w.1, w.2.1, w.2.2.op)] })
  let r := (s.gateway g).waiting.foldl step ([], s)
  r.2.setGateway g { r.2.gateway g with waiting := r.1 }

/-- LINTEL_BATCH (R413). -/
def lintelBatch (s : State) (g : Bool) (batch : W32) (reqs : List BatchReq) : State :=
  if !s.pkg.st.hubRuns then s
  else
    let x := s.gateway g
    let new := (List.range reqs.length).zip reqs |>.map (fun e => (batch, e.1, e.2))
    (s.setGateway g { x with waiting := x.waiting ++ new }).pumpGateway g

/-- LINTEL_RETURN: each record becomes a response to ORIG_SRC (R414). -/
def lintelReturn (s : State) (recs : List LintelRec) : State :=
  if !s.pkg.st.hubRuns then s
  else recs.foldl (fun t r => t.send r.origSrc (.response
    { src := t.node, tag := r.origTag, op := r.op, status := r.status, size := r.size, old := r.old, data := r.data })) s

/-- LINTEL_RETURN_FLUSH. -/
def lintelReturnFlush (s : State) (g : Bool) : State := s.flushReturns g

/-! ## The host bridge (R416 to R425) -/

/-- Cut a host access into the fewest requests of Table 12.2, offset and size; `small` for a register window, which takes at most
8 bytes a request. -/
def cutHost (small : Bool) : Nat → Nat → Nat → List (Nat × Nat)
  | 0, _, _ => []
  | n + 1, a, len =>
    if len = 0 then []
    else
      let wide := Nat.min (len / 32 * 32) (4096 - a % 4096)
      let k := if !small && a % 32 == 0 && decide (len ≥ 32) then wide
        else (([8, 4, 2].find? (fun k => a % k == 0 && decide (k ≤ len))).getD 1)
      (a, k) :: cutHost small n (a + k) (len - k)

/-- The window an access falls in: window, fabric address (R418). -/
def State.hostWindow (s : State) (bar offset len : Nat) : Option (Nat × W64) :=
  let span := if bar = 1 then 2 ^ 30 else 2 ^ 24
  let w := (if bar = 1 then 0 else 64) + offset / span
  let o := offset % span
  let size := s.num (O.winSize w) * (if bar = 1 then 2 ^ 20 else 1024)
  if bar = 0 ∨ offset / span ≥ 64 ∨ s.num (O.winEnable w) ≠ 1 ∨ o + len > size then none
  else some (w, BitVec.ofNat 64 (s.num (O.winTarget w) + o))

/-- A request of a host part. -/
def HostPart.request (p : HostPart) (tenant : Byte) (src : Node) : BatchReq :=
  { op := p.op
    req := {
      dest := nodeOf p.addr.toNat, src := src, own := none, tag := 0, addr := BitVec.ofNat 64 (localOf p.addr.toNat), tenant := tenant
      size := BitVec.ofNat 16 p.size, opA := p.opA, opB := p.opB, data := p.data } }

/-- Every part has completed. -/
def HostOp.complete (o : HostOp) : Bool := o.parts.all (fun p => p.done.isSome)

/-- Every part completed OK. -/
def HostOp.allOk (o : HostOp) : Bool := o.parts.all (fun p => match p.done with | some (st, _) => st == 0 | none => false)

/-- The order of R420: a relaxed write at once, anything else after every earlier host write. -/
def hostMay (before : List HostOp) (o : HostOp) : Bool := (o.isWrite && o.relaxed) || before.all (fun x => !x.isWrite || x.complete)

/-- Issue what a host access may issue of its parts. -/
def State.pumpParts (s : State) (o : HostOp) : HostOp × State :=
  let step := fun (acc : List HostPart × State) (p : HostPart) =>
    if p.tag.isSome then (acc.1 ++ [p], acc.2)
    else match acc.2.issue .host (p.request o.tenant acc.2.node) with
      | none => (acc.1 ++ [p], acc.2)
      | some (tag, t) => (acc.1 ++ [{ p with tag := some tag }], t)
  let r := o.parts.foldl step ([], s)
  ({ o with parts := r.1 }, r.2)

/-- Issue what the host accesses in flight may issue, in order. -/
def State.pumpHost (s : State) : State :=
  let step := fun (acc : List HostOp × State) (o : HostOp) =>
    if hostMay acc.1 o then
      let r := acc.2.pumpParts o
      (acc.1 ++ [r.1], r.2)
    else (acc.1 ++ [o], acc.2)
  let r := s.fab.hostOps.foldl step ([], s)
  { r.2 with fab := { r.2.fab with hostOps := r.1 } }

/-- A host write that did not complete OK (R422). -/
def State.storeError (s : State) : State := ({ s with fab := { s.fab with storeErr := s.fab.storeErr + 1 } }).icxEvent 0x0F1

/-- The end of a host access (R419, R422). -/
def State.hostDone (s : State) (o : HostOp) : State :=
  let data := (o.parts.map (fun p => match p.done with | some (_, d) => d | none => [])).flatten
  if o.isWrite then (if o.allOk then s else s.storeError)
  else if o.isAtomic then (if o.allOk then s.emit (.hostData o.id data) else s.emit (.hostAbort o.id))
  else s.emit (.hostData o.id data)

/-- Complete the accesses whose parts are all done. -/
def State.sweepHost (s : State) : State :=
  let done := s.fab.hostOps.filter (fun o => o.complete)
  let s := { s with fab := { s.fab with hostOps := s.fab.hostOps.filter (fun o => !o.complete) } }
  done.foldl (fun t o => t.hostDone o) s

/-- An access the bridge does not support. -/
def State.hostRefuse (s : State) : State := { s with fab := { s.fab with ur := s.fab.ur + 1 } }.emit .hostUnsupported

/-- Begin a host access. -/
def State.hostStart (s : State) (o : HostOp) : State :=
  let s := { s with fab := { s.fab with hostOps := s.fab.hostOps ++ [{ o with id := s.fab.hostNext }], hostNext := s.fab.hostNext + 1 } }
  s.pumpHost.sweepHost

/-- The package bridges its group. -/
def State.bridges (s : State) : Bool := s.pkg.st.hubRuns && s.num O.bridgeEnable == 1

/-- A word of the MSI-X table: message address and data, and vector control, which PCI Express resets to masked (log entry 45). -/
def State.msixWord (s : State) (i : Nat) : Nat := SMap.get (if i % 4 = 3 then 1 else 0) s.fab.msix i

/-- Raise a vector: sent, or pending while masked. -/
def State.msix (s : State) (v : Nat) : State :=
  if s.msixWord (4 * v + 3) % 2 = 1 then { s with fab := { s.fab with msixPend := s.fab.msixPend ||| BitVec.ofNat 256 (2 ^ v) } }
  else s.emit (.msix v)

/-- A write of one word of the MSI-X table; unmasking a pending vector sends it. -/
def State.setMsixWord (s : State) (i v : Nat) : State :=
  let s := { s with fab := { s.fab with msix := SMap.set (if i % 4 = 3 then 1 else 0) s.fab.msix i (if i % 4 = 3 then v % 2 else v % 2 ^ 32) } }
  let vec := i / 4
  if i % 4 = 3 ∧ v % 2 = 0 ∧ s.fab.msixPend.getLsbD vec then
    { s with fab := { s.fab with msixPend := s.fab.msixPend &&& ~~~ (BitVec.ofNat 256 (2 ^ vec)) } }.emit (.msix vec)
  else s

/-- A bridge register, an MSI-X word or a pending-bit word (Tables 12.7, 12.9); other offsets read 0. -/
def State.bar0Word (s : State) (off : Nat) : Nat :=
  if off = 0x000 then s.node.toNat
  else if off = 0x004 then s.num O.groupCount
  else if off = 0x008 then (s.fab.outs.filter (fun o => o.who == .host)).length
  else if off = 0x00C then s.fab.storeErr.toNat
  else if off = 0x010 then s.fab.ur.toNat
  else if 0x80000 ≤ off ∧ off < 0x81000 then s.msixWord ((off - 0x80000) / 4)
  else if 0x90000 ≤ off ∧ off < 0x90020 then s.fab.msixPend.toNat / 2 ^ (8 * (off - 0x90000)) % 2 ^ 32
  else 0

/-- Bytes of BAR0. -/
def State.bar0Read (s : State) (off len : Nat) : List Byte :=
  (List.range len).map (fun i => BitVec.ofNat 8 (s.bar0Word ((off + i) / 4 * 4) / 2 ^ (8 * ((off + i) % 4))))

/-- A write of whole words to BAR0: the MSI-X table only is writable. -/
def State.bar0Write (s : State) (off : Nat) (data : List Byte) : State :=
  (List.range ((data.length + 3) / 4)).foldl (fun t i =>
    let a := off / 4 * 4 + 4 * i
    if 0x80000 ≤ a ∧ a < 0x81000 then t.setMsixWord ((a - 0x80000) / 4) (fieldLe data (4 * i) 4) else t) s

/-- HOST_WRITE (R417 to R420, R422; a poisoned write is discarded and counted, Table 12.8). -/
def hostWrite (s : State) (bar : Fin 3) (offset : Nat) (data : List Byte) (relaxed poisoned : Bool) : State :=
  if !s.bridges then s
  else if poisoned then s.storeError
  else if bar.val = 0 then s.bar0Write offset data
  else match s.hostWindow bar.val offset data.length with
    | none => s.hostRefuse
    | some (w, a) =>
      let cuts := cutHost (bar.val == 2) (data.length + 1) a.toNat data.length
      let parts := cuts.map (fun c => ({ addr := BitVec.ofNat 64 c.1, op := 2, size := c.2, data := slice data (c.1 - a.toNat) c.2 } : HostPart))
      s.hostStart { isWrite := true, relaxed := relaxed, tenant := BitVec.ofNat 8 (s.num (O.winTenant w)), parts := parts }

/-- HOST_READ (R419, R420). -/
def hostRead (s : State) (bar : Fin 3) (offset len : Nat) : State :=
  if !s.bridges then s
  else if bar.val = 0 then
    { s with fab := { s.fab with hostNext := s.fab.hostNext + 1 } }.emit (.hostData s.fab.hostNext (s.bar0Read offset len))
  else match s.hostWindow bar.val offset len with
    | none => s.hostRefuse
    | some (w, a) =>
      let parts := (cutHost (bar.val == 2) (len + 1) a.toNat len).map (fun c => ({ addr := BitVec.ofNat 64 c.1, op := 1, size := c.2 } : HostPart))
      s.hostStart { tenant := BitVec.ofNat 8 (s.num (O.winTenant w)), parts := parts }

/-- HOST_ATOMIC: FetchAdd, Swap and CAS of 32 and 64 bits (Table 12.8). -/
def hostAtomic (s : State) (bar : Fin 3) (offset : Nat) (op : Byte) (size : BitVec 16) (opA opB : W64) : State :=
  if !s.bridges then s
  else if !((op == 0x10 || op == 0x11 || op == 0x16) && (size == 4 || size == 8)) then s.hostRefuse
  else match s.hostWindow bar.val offset size.toNat with
    | none => s.hostRefuse
    | some (w, a) =>
      s.hostStart {
        isAtomic := true, tenant := BitVec.ofNat 8 (s.num (O.winTenant w))
        parts := [{ addr := a, op := op, size := size.toNat, opA := opA, opB := opB }] }

/-- HOST_IRQ from a member of the group (R424). -/
def hostIrq (s : State) (src : Node) (line : Nat) : State :=
  if !s.bridges then s
  else match (List.range (s.num O.groupCount)).find? (fun i => s.num (O.groupMember i) == src.toNat) with
    | none => s
    | some m =>
      let v := s.num (O.msiRoute m line)
      if v = 0xFF then s.bump O.irqDropped else s.msix v

/-- A window write whose whole range lies within one HOST_LIMIT entry, in the right class of space (R418). -/
def State.windowOk (s : State) (w : Nat) : Bool :=
  let data := decide (w < 64)
  let t := s.num (O.winTarget w)
  let size := s.num (O.winSize w) * (if data then 2 ^ 20 else 1024)
  let last := t + Nat.max 1 size - 1
  let cls := fun (a : Nat) => if data then space (localOf a) == .hbm || space (localOf a) == .sram else space (localOf a) == .dict || space (localOf a) == .creg
  let inside := (List.range (s.num O.hostLimitCount)).any (fun i =>
    let b := s.blob (O.hostLimit i)
    decide (u64 b 0 ≤ t) && decide (last ≤ u64 b 8))
  cls t && cls last && space (localOf t) == space (localOf last) && nodeOf t == nodeOf last && t % (if data then 0x200000 else 0x10000) == 0 && inside

/-- A write of WIN_ENABLE. -/
def State.winEnableWrite (s : State) (w v : Nat) : Nat × State :=
  if v = 1 ∧ !s.windowOk w then (Err.window, s) else (Err.ok, s.setNum (O.winEnable w) v)

/-- PCIE_STATE_CHANGE of port H (R345, R416; 15 Table 15.7). -/
def pcieStateChange (s : State) (state rate width : Nat) : State :=
  if !s.bridges then s
  else
    let t := ((s.setNum O.pcieState state).setNum O.pcieRate rate).setNum O.pcieWidth width
    if s.num O.pcieState = state then t else t.icxEvent 0x0F0

/-! ## Completion (R396, R402 to R408, R410) -/

/-- The bytes a response brings. -/
def respBytes (r : FabResp) : List Byte := if r.size.toNat ≤ 8 then leBytes r.size.toNat r.old.toNat else fit r.size.toNat r.data

/-- A control core's request, once those it issued before are issued and R391 and R397 allow it. -/
def State.ctlIssue (s : State) (c : Fin 4) (b : BatchReq) : State :=
  let wait := { s with fab := { s.fab with ctlWait := s.fab.ctlWait ++ [(c, b)] } }
  if s.fab.ctlWait.any (fun w => w.1 == c) then wait
  else match s.issue (.control c) b with
    | some (_, t) => t
    | none => wait

/-- Issue what a control core waits to issue, in its order. -/
def State.pumpCtl (s : State) : State :=
  s.fab.ctlWait.foldl (fun t w => t.ctlIssue w.1 w.2) { s with fab := { s.fab with ctlWait := [] } }

/-- What a completed request does at its requester. -/
def State.completeOut (s : State) (o : OutReq) (r : FabResp) : State :=
  let s := { s with fab := { s.fab with outs := s.fab.outs.filter (fun x => x.tag != o.tag), lastDone := some (o.who, r) } }.tally 0 0 r.data.length
  match o.who with
  | .gateway g =>
    let x := s.gateway g
    match x.entries.find? (fun e => e.1 == o.tag) with
    | none => s.pumpGateway g
    | some e =>
      let s := s.setGateway g { x with entries := x.entries.filter (fun e => e.1 != o.tag) }
      let rec_ : LintelRec := {
        origSrc := e.2.1, origTag := e.2.2.1, batch := e.2.2.2.1, index := BitVec.ofNat 8 e.2.2.2.2.1, status := r.status, op := e.2.2.2.2.2
        old := r.old, size := r.size, data := if e.2.2.2.2.2 = 1 ∧ r.size.toNat > 8 then r.data else [] }
      (s.addReturn g rec_).pumpGateway g
  | .host =>
    let mark := fun (p : HostPart) => if p.tag == some o.tag then { p with done := some (r.status, if p.op = 2 then [] else respBytes r) } else p
    let s := { s with fab := { s.fab with hostOps := s.fab.hostOps.map (fun (h : HostOp) => { h with parts := h.parts.map mark }) } }
    s.sweepHost.pumpHost
  | .control _ => (s.emit (.answer o.who r.old)).pumpCtl
  | .core _ _ => if r.status = 0 then s else s.raise (requesterSource o.who) 0 0x69 2 (localOf o.addr.toNat)
  | _ => s

/-- FABRIC_RESPONSE: at the requester, at a combining node, or late (R402, R408). -/
def fabricResponse (s : State) (r : FabResp) : State :=
  if !s.pkg.st.hubRuns then s
  else match s.fab.outs.find? (fun o => o.tag == r.tag) with
    | some o => s.completeOut o r
    | none =>
      match s.lnk.combine.find? (fun c => c.tag == r.tag) with
      | some c => s.fanOut c r
      | none => s.bump O.lateResponses 64

/-- REQUEST_TIMEOUT (R405, R408). -/
def requestTimeout (s : State) (tag : W32) : State :=
  match s.fab.outs.find? (fun o => o.tag == tag) with
  | none => s
  | some o =>
    let bound := s.num O.loadBound
    if !(Tick.atLeast s.clk.tick o.issued && decide (bound ≤ Tick.since s.clk.tick o.issued)) then s
    else
      let dest := nodeOf o.addr.toNat
      let recent := s.fab.timeouts.any (fun (t : Node × Tick) => t.1 == dest && decide (Tick.since s.clk.tick t.2 < bound))
      let s := if recent then s.bump O.timeouts 64
        else { s with fab := { s.fab with timeouts := s.fab.timeouts.filter (fun (t : Node × Tick) => t.1 != dest) ++ [(dest, s.clk.tick)] } }.raise
          (requesterSource o.who) (requesterUnit o.who) 0x68 1 (localOf o.addr.toNat)
      let s := { s with fab := { s.fab with restUntil := SMap.put s.fab.restUntil (tag.toNat % 2 ^ 24) (s.us + 2 * bound) } }
      s.completeOut o (failedResponse s.node
        { op := o.op, req := { dest := dest, src := s.node, own := none, tag := tag, addr := 0, tenant := 0, size := BitVec.ofNat 16 o.size, opA := 0, opB := 0, data := [] } } 8)

/-! ## The commands -/

/-- FABRIC_RESPONSE. -/
def execFabricResponse (r : FabResp) (s : State) : Host.Outcome State Fault Refusal :=
  .next (fabricResponse s r)
/-- REQUEST_TIMEOUT. -/
def execRequestTimeout (tag : W32) (s : State) : Host.Outcome State Fault Refusal :=
  .next (requestTimeout s tag)
/-- LINTEL_BATCH. -/
def execLintelBatch (g : Bool) (_src : Node) (batch : W32) (reqs : List BatchReq) (s : State) : Host.Outcome State Fault Refusal :=
  .next (lintelBatch s g batch reqs)
/-- LINTEL_RETURN. -/
def execLintelReturn (_g : Bool) (recs : List LintelRec) (s : State) : Host.Outcome State Fault Refusal :=
  .next (lintelReturn s recs)
/-- LINTEL_RETURN_FLUSH. -/
def execLintelReturnFlush (g : Bool) (s : State) : Host.Outcome State Fault Refusal :=
  .next (lintelReturnFlush s g)
/-- HOST_WRITE. -/
def execHostWrite (bar : Fin 3) (offset : Nat) (data : List Byte) (relaxed poisoned : Bool) (s : State) : Host.Outcome State Fault Refusal :=
  .next (hostWrite s bar offset data relaxed poisoned)
/-- HOST_READ. -/
def execHostRead (bar : Fin 3) (offset len : Nat) (s : State) : Host.Outcome State Fault Refusal :=
  .next (hostRead s bar offset len)
/-- HOST_ATOMIC. -/
def execHostAtomic (bar : Fin 3) (offset : Nat) (op : Byte) (size : BitVec 16) (opA opB : W64) (s : State) : Host.Outcome State Fault Refusal :=
  .next (hostAtomic s bar offset op size opA opB)
/-- HOST_IRQ. -/
def execHostIrq (src : Node) (line : Fin 32) (s : State) : Host.Outcome State Fault Refusal :=
  .next (hostIrq s src line.val)
/-- PCIE_STATE_CHANGE. -/
def execPcieStateChange (state rate width : Byte) (s : State) : Host.Outcome State Fault Refusal :=
  .next (pcieStateChange s state.toNat rate.toNat width.toNat)

end Sys2Proof.Machine
end

