-- ==== Sys2Proof/Machine/Power.lean ====
section
/-! DEFINITION. The power and thermal manager: the plinth link, measured power, operating points, the rein and its limits, the
ledgers, ramps, fallow and wake grants, supply and rack failures, the coolant stop (14_power_and_thermal.md R454 to R485; 18 R595
to R599). -/

namespace Sys2Proof.Machine

/-! ## Plinth link (R457 to R461) -/

/-- Nominal VCORE of a point in mV (Table 14.4). -/
def vcoreNominal (p : Nat) : Nat := [620, 620, 620, 680, 740, 740, 840, 900].getD p 740

/-- Arithmetic clock of a point in MHz. -/
def clockMhz (p : Nat) : Nat := [480, 480, 480, 540, 600, 600, 660, 660].getD p 600

/-- VCORE of a point: nominal and trim, clamped to 600 to 900 mV (R462). -/
def State.vcoreOf (s : State) (p : Nat) : Nat :=
  let v := (vcoreNominal p : Int) + s.trim p
  if v < 600 then 600 else if v > 900 then 900 else v.toNat

/-- Command VCORE with the next frame. -/
def State.command (s : State) (p : Nat) : State := { s with pwr := { s.pwr with vcoreSet := s.vcoreOf p, cmd := 1 } }

/-- Send a command frame in the present tick. -/
def State.plinthSend (s : State) (cmd : Nat) : State :=
  s.emit (.plinth (plinthFrame (s.clk.tick.toNat % 16) (if cmd = 2 then 600 else s.pwr.vcoreSet) s.pwr.vmemSet cmd))

/-- VMEM's set point after a frame: a sweep steps by 10 mV up to 1.16 V (09 R313; log entry 35 on its pace). -/
def State.nextSweep (s : State) : Nat :=
  if s.num O.marginState = 1 ∧ s.num O.marginMode = 2 ∧ s.pwr.vmemSet < 1160 then s.pwr.vmemSet + 10 else s.pwr.vmemSet

/-- PLINTH_COMMAND: the frame of the tick, in every state in which the link runs (R457; 18 R596). -/
def plinthCommand (s : State) : State :=
  if !s.pkg.st.hubRuns then s
  else
    let t := s.plinthSend s.pwr.cmd
    { t with pwr := { t.pwr with
        cmd := if s.nextSweep = s.pwr.vmemSet then 0 else 1
        cmdAt := if s.pwr.cmd = 1 then some s.clk.tick else s.pwr.cmdAt
        vmemSet := s.nextSweep } }

/-- Measured power of a frame in mW (R460). -/
def Tele.power (t : Tele) : Nat := (t.vcore * t.icore + t.vmem * t.imem + t.vaux * t.iaux) / 4

/-- The supply pull begins, or another cause of it appears: PWR_SUPPLY (R480). -/
def State.beginSupplyPull (s : State) : State :=
  if s.pwr.supplyPull then { s with pwr := { s.pwr with clearSince := none } }
  else (({ s with pwr := { s.pwr with supplyPull := true, clearSince := none } }).raise srcPower 0 0x84 1 0).icxEvent 0x081

/-- What the manager accumulates for one tick, once its P(t) is known: energy, the running interval, the current ledger, the mean of the
course that runs (R461, R472, R475, R609). P(t) is defined from the first accepted frame on. -/
def State.countPower (s : State) : State :=
  match s.pwr.tele with
  | none => s
  | some t =>
    let u := s.pwr
    let in_ := fun (c : Stream) => c.running && Tick.atLeast (s.clk.tick - 1) c.startT
    let runs := in_ s.crs.own || in_ s.crs.covered
    let current := if t.icore > 9600 then u.current ++ [u.ticksSeen] else u.current
    { s with pwr := { u with
        energySum := u.energySum + u.p
        coverSum := u.coverSum + u.p
        energyTotal := u.energyTotal + (u.totalCarry + u.p * 256) / 1000000
        totalCarry := (u.totalCarry + u.p * 256) % 1000000
        ivSum := u.ivSum + u.p
        ivTicks := u.ivTicks + 1
        ticksSeen := u.ticksSeen + 1
        current := current.filter (fun k => decide (k + 50000 > u.ticksSeen))
        courseSum := if runs then u.courseSum + u.p else u.courseSum
        courseTicks := if runs then u.courseTicks + 1 else u.courseTicks } }

/-- TELEMETRY_FRAME, describing the tick before the present one: discarded and counted, or accepted (R458 to R460, R504). SETTLED counts
once the frame that applied the set points has gone, in an earlier tick (R464). -/
def telemetryFrame (s : State) (w : BitVec 128) : State :=
  if !s.pkg.st.hubRuns then s
  else match readTelemetry w ((s.clk.tick - 1).toNat % 16) with
  | none => s.bump O.plinthBad
  | some t =>
    let bad := if t.vcoreOk && t.vmemOk then 0 else s.pwr.railBad + 1
    let runs := if t.vcore > 950 ∨ t.vmem > 1250 then s.pwr.overRun + 1 else 0
    let first := !s.pwr.gotFrame
    let t := { t with settled := t.settled && s.pwr.cmd == 0 && s.pwr.cmdAt != some s.clk.tick }
    let s := { s with pwr := { s.pwr with
        tele := some t, missed := 0, gotFrame := true, silent := false, lost := false, p := t.power
        railBad := if bad = 100 then 0 else bad, overRun := if runs = 10 then 0 else runs } }
    let s := if first then s.countPower else s
    let s := if bad = 100 then s.raise srcPlinth 0 0x87 3 0 else s
    let s := if t.vauxOk then s else s.raise srcPlinth 0 0x87 0 0
    let s := if runs = 10 then s.raise srcPower 0 0x8C 4 0 else s
    if t.inputLow then s.beginSupplyPull
    else if s.pwr.supplyPull ∧ s.pwr.clearSince = none then { s with pwr := { s.pwr with clearSince := some s.clk.tick } } else s

/-- PLINTH_SILENT after 16 consecutive ticks with no accepted frame. -/
def plinthSilent (s : State) : State :=
  if s.pkg.st.hubRuns && decide (s.pwr.missed ≥ 16) && !s.pwr.silent then
    (({ s with pwr := { s.pwr with silent := true } }).raise srcPlinth 0 0x85 1 0).beginSupplyPull
  else s

/-- PLINTH_LOST after 1,000. -/
def plinthLost (s : State) : State :=
  if s.pkg.st.hubRuns && decide (s.pwr.missed ≥ 1000) && !s.pwr.lost then
    ({ s with pwr := { s.pwr with lost := true } }).raise srcPlinth 0 0x86 3 0
  else s

/-- The ENERGY of a stream's window and the remainder carried (R461). -/
def PowerUnit.takeEnergy (u : PowerUnit) (covered : Bool) : Nat × PowerUnit :=
  if covered then
    let x := u.coverSum * 256 + u.coverCarry
    (x / 1000000, { u with coverSum := 0, coverCarry := x % 1000000 })
  else
    let x := u.energySum * 256 + u.energyCarry
    (x / 1000000, { u with energySum := 0, energyCarry := x % 1000000 })

/-- What a tick brings the manager: with no accepted frame it counts as the last accepted one says (R458); a tick more at OP7 (R465). -/
def State.powerTick (s : State) : State :=
  if !s.pkg.st.hubRuns then s
  else
    let t := if s.pwr.gotFrame then s else s.countPower
    let u := t.pwr
    { t with pwr := { u with
        missed := if u.gotFrame then 0 else u.missed + 1
        gotFrame := false
        op7Ticks := if u.op = 7 then u.op7Ticks + 1 else u.op7Ticks } }

/-! ## The rein (R466 to R472, R480) -/

/-- Count of the excess ledger and of the current ledger (R472). -/
def PowerUnit.excessCount (u : PowerUnit) : Nat := Nat.min 4000 u.excess.length
/-- Count of the current ledger. -/
def PowerUnit.currentCount (u : PowerUnit) : Nat := Nat.min 5000 u.current.length

/-- EXCESS_INTERVAL: the 1,000 ticks to a multiple of 1,000 close (R472, R609). -/
def excessInterval (s : State) : State :=
  let u := s.pwr
  if s.clk.tick.toNat % 1000 ≠ 0 ∨ u.ivTicks = 0 then s
  else
    let l := if u.ivSum > 1600000 * u.ivTicks then u.excess ++ [u.ivNumber] else u.excess
    { s with pwr := { u with
        excess := l.filter (fun k => decide (k + 30000 > u.ivNumber)), ivNumber := u.ivNumber + 1, ivSum := 0, ivTicks := 0 } }

/-- The watt hold target in force, in W: the least of those of the holds that are not current holds, and the supply pull's (R471,
R480). -/
def State.holdTarget (s : State) : Option Nat :=
  let h := if s.pwr.holds.any (fun x => x.cause != .current) then some 1600 else none
  let p := if s.pwr.supplyPull && !s.pwr.silent then some (s.num O.surviveW) else none
  match h, p with
  | some a, some b => some (Nat.min a b)
  | some a, none => some a
  | none, x => x

/-- CAP_W (R468). -/
def State.capW (s : State) : Nat :=
  let c := Nat.min (s.num O.powerCap) ((s.pwr.tele.map (fun t => t.cap * 10)).getD (s.num O.powerCap))
  Nat.min c (s.holdTarget.getD c)

/-- The kinds of the cases of a protective pull in the present tick (R470). A ledger is a case when it reaches its budget. -/
def State.pullCases (s : State) : List Nat :=
  let u := s.pwr
  match u.tele with
  | none => []
  | some t =>
    (if u.p > 2200000 then [0x80] else []) ++ (if t.icore > 12000 then [0x81] else []) ++
    (if u.excessCount ≥ 4000 && !u.excessFull then [0x82] else []) ++ (if u.currentCount ≥ 5000 && !u.currentFull then [0x83] else [])

/-- What the hold of a case rests on. -/
def holdCause (kind : Nat) : HoldCause := if kind = 0x82 then .excess else if kind = 0x83 then .current else .peak

/-- A protective pull: faults, PULLS, its event, a hold for each case (R470, R471). -/
def State.protectivePull (s : State) (cases : List Nat) : State :=
  let l := cases.map (fun k => ({ cause := holdCause k, until_ := s.clk.tick + 1000 } : Hold))
  let s := cases.foldl (fun t k => t.raise srcPower 0 k 0 0) s
  (({ s with pwr := { s.pwr with holds := s.pwr.holds ++ l } }).bump O.pulls).icxEvent 0x080

/-- The limits of Table 14.5 on a quarter, by rising code: code and value. `pulled`: a protective pull is made in this tick. A thermal
hold limit at 64 limits nothing and is not in force (log entry 60). -/
def State.reinLimits (s : State) (q : Nat) (pulled : Bool) : List (Nat × Nat) :=
  let r := s.rein q
  let l := r.level
  let u := s.pwr
  let least := fun (n : Nat) => Nat.max 1 n
  let survive := s.sustain (s.num O.surviveOp)
  let code1 := if pulled then [(1, least (Nat.min l (s.sustain u.op)))] else []
  let code2 := if r.thermal < 64 then [(2, least r.thermal)] else []
  let code3 := if u.supplyPull then [(3, least (Nat.min (Nat.min l survive) (if u.silent then 16 else 64)))] else []
  let code45 := match u.tele with
    | none => []
    | some t =>
      let cur := u.holds.any (fun h => h.cause == .current)
      let amps := if cur && decide (t.icore > 9600) then [(4, least (l * 9600 / t.icore))] else []
      let watts := match s.holdTarget with
        | some h => if u.p > h * 1000 then [(4, least (l * (h * 1000) / u.p))] else []
        | none => []
      let c := Nat.min (s.capW * 1000) (u.p + s.num O.rampLimit)
      let c5 := if u.p > c then l * c / u.p else if u.p * (l + 1) ≤ c * l then l + 1 else l
      amps ++ watts ++ [(5, least c5)]
  code1 ++ code2 ++ code3 ++ code45 ++ [(6, r.host), (7, issueCap u.op)]

/-- The least limit, with the lowest code among equals (R467). -/
def leastLimit (l : List (Nat × Nat)) : Nat × Nat :=
  l.foldl (fun best x => if x.2 < best.2 then x else best) (7, 65)

/-- Fill runs (R469). -/
def State.fills (s : State) (pulled : Bool) : Bool :=
  s.num O.fillEnable == 1 && s.pkg.st.runs && !pulled && !s.pwr.supplyPull && (List.range 4).all (fun q => (s.rein q).thermal == 64)

/-- REIN_UPDATE: pulls, then the level and source of every quarter, then fill (R467 to R470, R475). -/
def reinUpdate (s : State) : State :=
  if !s.pkg.st.hubRuns then s
  else
    let cases := s.pullCases
    let pulled := !cases.isEmpty
    let s := if pulled then s.protectivePull cases else s
    let s := { s with pwr := { s.pwr with reins := (List.range 4).map (fun q =>
        let x := leastLimit (s.reinLimits q pulled)
        (q, { s.rein q with level := x.2, source := x.1 })) } }
    let dr := s.num O.rampLimit
    { s with pwr := { s.pwr with
        excessFull := decide (s.pwr.excessCount ≥ 4000)
        currentFull := decide (s.pwr.currentCount ≥ 5000)
        pull := pulled || s.pwr.supplyPull || (List.range 4).any (fun q => (s.rein q).thermal != 64)
        fill := s.fills pulled
        floor := match s.pwr.preTarget with
          | some pc => Nat.min pc (s.pwr.p + dr)
          | none => s.pwr.p - dr } }

/-- A hold is over: its 1,000 ticks have passed and the ledger that caused it is below its budget (R471). -/
def State.holdOver (s : State) (h : Hold) : Bool :=
  Tick.atLeast s.clk.tick h.until_ && (match h.cause with
    | .peak => true
    | .excess => decide (s.pwr.excessCount < 4000)
    | .current => decide (s.pwr.currentCount < 5000))

/-- HOLD_END (R471). -/
def holdEnd (s : State) : State := { s with pwr := { s.pwr with holds := s.pwr.holds.filter (fun h => !s.holdOver h) } }

/-! ## Temperatures (R473) -/

/-- Hottest of some corrected readings, in 1/16 °C. -/
def State.hottest (s : State) (readings : List Int) (sensors : List Nat) : Int :=
  match sensors.map (fun i => readings.getD i 0 + s.sensorOffset i) with
  | [] => 0
  | a :: r => r.foldl max a

/-- A signed temperature object in 1/16 °C. -/
def State.tempLimit (s : State) (o : Obj) : Int := toSigned 32 (s.num o) * 16

/-- One quarter's thermal hold step. -/
def State.thermalStep (s : State) (readings : List Int) (q : Nat) : State :=
  let die := s.hottest readings ((List.range 8).map (fun i => q * 8 + i))
  let near := s.hottest readings ((List.range 4).map (fun i => 36 + q * 4 + i))
  let tj := s.tempLimit O.tjHold
  let hb := s.tempLimit O.hbmHold
  let r := s.rein q
  let n := if die > tj ∨ near > hb then Nat.max 1 (r.thermal - 1)
    else if die + 48 ≤ tj ∧ near + 48 ≤ hb then Nat.min 64 (r.thermal + 1) else r.thermal
  let s := s.setNum (O.tempMax q) (ofSigned 32 (die / 16))
  if n = r.thermal then s
  else { s with pwr := { s.pwr with reins := SMap.set {} s.pwr.reins q { r with thermal := n } } }.icxEvent 0x082

/-- THERMAL_HOLD_STEP every 100 ticks, with the raw readings of sensors 0 to 35 and of the sixteen stacks in 1/16 °C. -/
def thermalHoldStep (s : State) (readings : List Int) : State :=
  if !s.pkg.st.hubRuns || s.clk.tick.toNat % 100 != 0 then s
  else
    let s := (List.range 4).foldl (fun t q => t.thermalStep readings q) s
    let s := s.setNum (O.tempMax 4) (ofSigned 32 (s.hottest readings [32, 33, 34, 35] / 16))
    s.setNum O.tempStackMax (ofSigned 32 (s.hottest readings ((List.range 16).map (· + 36)) / 16))

/-- THERM_TRIP: a die reading above TJ_TRIP or a stack reading above HBM_TRIP. -/
def thermTrip (s : State) (sensor : Nat) (reading : Int) : State :=
  let r := reading + s.sensorOffset sensor
  let trip := if sensor < 36 then s.tempLimit O.tjTrip else s.tempLimit O.hbmTrip
  if s.pkg.st.hubRuns ∧ r > trip then s.raise srcPower (Nat.min sensor 36) 0x88 3 0 else s

/-! ## Operating points (R462 to R465) -/

/-- The wear ledger is spent. -/
def State.wearSpent (s : State) : Bool := decide (s.sec.wear ≥ 17520)

/-- The target point (R463); on safe defaults OP6 and OP7 are replaced by OP5 (17 Table 17.8). -/
def State.targetOp (s : State) : Nat :=
  if !s.pkg.everReady then 5
  else
    let t := if s.num O.role = 0 then s.num O.opPrefill else s.num O.opDecode
    let t := if s.pwr.supplyPull then Nat.min t (s.num O.surviveOp) else t
    let t := if t = 7 ∧ s.wearSpent then 6 else t
    if s.sec.calDefaults then Nat.min t 5 else t

/-- OP_STEP: one step of Table 14.4 towards the target (R464). A step up commands VCORE and waits for SETTLED; a step down changes
the clock and then commands VCORE. -/
def opStep (s : State) : State :=
  if !s.pkg.st.hubRuns then s
  else
    let t := s.targetOp
    let op := s.pwr.op
    if t < op then ({ s with pwr := { s.pwr with op := op - 1, stepping := none } }).command (op - 1)
    else if t = op then (if s.pwr.stepping.isSome then ({ s with pwr := { s.pwr with stepping := none } }).command op else s)
    else if s.pwr.stepping.isSome then s
    else ({ s with pwr := { s.pwr with stepping := some (op + 1), tele := s.pwr.tele.map (fun (x : Tele) => { x with settled := false }) } }).command (op + 1)

/-- OP_CLOCK_CHANGE at the first boundary after SETTLED; OP7 needs an hour charged (R464, R465). -/
def opClockChange (s : State) : State :=
  match s.pwr.stepping, s.pwr.tele with
  | some n, some t =>
    if t.settled && (n != 7 || (s.pwr.charged && decide (s.pwr.op7Ticks < 3600000))) then { s with pwr := { s.pwr with op := n, stepping := none } } else s
  | _, _ => s

/-- WEAR_CHARGE: an hour in advance, before the first tick at OP7 and before each further 3,600,000 (R465). -/
def wearCharge (s : State) : State :=
  if (s.pwr.stepping = some 7 ∧ !s.pwr.charged) ∨ ((s.pwr.stepping = some 7 ∨ s.pwr.op = 7) ∧ s.pwr.op7Ticks ≥ 3600000) then
    if s.wearSpent then s
    else
      let s := { s with sec := { s.sec with wear := s.sec.wear + 1 }, pwr := { s.pwr with charged := true, op7Ticks := 0 } }
      if s.wearSpent then s.raise srcPower 0 0x89 0 0 else s
  else s

/-! ## Ramps (R474, R475) -/

/-- A write to RAMP_EVENT (R474, R54). -/
def State.rampWrite (s : State) (req : List Byte) : Nat × State :=
  let t := u64 req 0
  let ramp := u32 req 8
  let cap := u16 req 0xC
  if t ≥ 2 ^ 48 ∨ u16 req 0xE ≠ 0 ∨ !(ramp == 0 || (decide (10 ≤ ramp) && decide (ramp ≤ 100000))) ∨
      !(cap == 0 || (decide (600 ≤ cap) && decide (cap ≤ 2200))) then (Err.range, s)
  else
    let due : Tick := BitVec.ofNat 48 t
    let e := s.eventRefusal due
    if e ≠ Err.ok then (e, s) else (Err.ok, s.schedule due (.ramp ramp cap))

/-- The event is a ramp event. -/
def Ev.isRamp (e : Ev) : Bool := match e with | .ramp _ _ => true | _ => false

/-- RAMP_EVENT_APPLY at its tick. -/
def rampEventApply (s : State) : State :=
  match s.dueEvent Ev.isRamp with
  | none => s
  | some e =>
    let s := { s with clk := { s.clk with events := s.clk.events.erase e } }
    match e.ev with
    | .ramp r c =>
      let s := if r = 0 then s else s.setNum O.rampLimit r
      if c = 0 then s else s.setNum O.powerCap c
    | _ => s

/-- Schedule the pre-ramp of a course whose nominal start has been computed (R475). -/
def State.planPreRamp (s : State) (nominal : Tick) : State :=
  let pc := s.pwr.lastMean
  let pn := s.pwr.p
  if s.num O.fillEnable ≠ 1 ∨ pc ≤ pn then s
  else
    let lead := Nat.min (s.num O.preRampMax) (ceilDiv (pc - pn) (s.num O.rampLimit))
    s.schedule (Tick.max (nominal - BitVec.ofNat 48 lead) (s.clk.tick + 2)) .preRamp

/-- PRE_RAMP at its tick: fill climbs to the last course's mean until the start tick of the course that is planned. -/
def preRamp (s : State) : State :=
  match s.dueEvent (fun e => e == .preRamp) with
  | none => s
  | some e =>
    let s := { s with clk := { s.clk with events := s.clk.events.erase e } }
    if s.num O.fillEnable = 1 ∧ (s.crs.own.nextNominal.isSome ∨ s.crs.covered.nextNominal.isSome) then { s with pwr := { s.pwr with preTarget := some s.pwr.lastMean } } else s

/-! ## Fallow and wake (R476 to R478) -/

/-- Number of quarters in a mask. -/
def quartersIn (m : BitVec 4) : Nat := popcount 4 m.toNat

/-- The busy fraction over the last n courses logged: busy clocks and clocks there were. -/
def PowerUnit.busyOver (u : PowerUnit) (n : Nat) : Nat × Nat :=
  (keepLast n u.busyLog).foldl (fun a x => (a.1 + x.1, a.2 + x.2)) (0, 0)

/-- Ask for a wake of each fallow quarter that has not asked and is not waking. -/
def State.askWakes (s : State) (qs : List (Fin 4)) : State :=
  qs.foldl (fun (t : State) (q : Fin 4) =>
    if t.pwr.fallow.getLsbD q && !t.pwr.wakeAsked.contains q && !t.pwr.waking.any (fun w => w.1 == q) then
      { t with pwr := { t.pwr with wakeAsked := t.pwr.wakeAsked ++ [q] } } else t) s

/-- The test of a core whose quarter enters fallow ends without a result (17 R578). -/
def State.endTests (s : State) (q : Nat) : State :=
  (List.range 96).foldl (fun t i =>
    let c := t.coreAt (q * 96 + i)
    if c.st = .test then t.setCore (q * 96 + i) { c with st := .withdrawn }
    else if c.forTest then t.setCore (q * 96 + i) { c with forTest := false } else t) s

/-- A quarter leaves the gang for fallow (R476; 02 R56). -/
def State.enterFallow (s : State) (q : Nat) : State :=
  { s with
    crs := { s.crs with gang := s.crs.gang &&& ~~~ (BitVec.ofNat 4 (2 ^ q)) }
    pwr := { s.pwr with fallow := s.pwr.fallow ||| BitVec.ofNat 4 (2 ^ q) } }

/-- What a course close does for fallow: the busy fraction is logged, one quarter may enter fallow, fallow quarters may ask (R477). -/
def State.fallowClose (s : State) (busy ticks : Nat) : State :=
  let s := { s with pwr := { s.pwr with
      busyLog := keepLast 64 (s.pwr.busyLog ++ [(busy, 96 * quartersIn s.crs.gang * clockMhz s.pwr.op * ticks)])
      sinceWake := s.pwr.sinceWake.map (fun e => (e.1, e.2 + 1)) } }
  let b64 := s.pwr.busyOver 64
  let b8 := s.pwr.busyOver 8
  let s :=
    if s.num O.fallowEnable = 1 ∧ quartersIn s.crs.gang ≥ 2 ∧ s.pwr.busyLog.length = 64 ∧ b64.1 * 64 < s.num O.fallowLow * b64.2 then
      match highBit 4 s.crs.gang.toNat with
      | none => s
      | some q =>
        if SMap.get 64 s.pwr.sinceWake q < 64 then s
        else (s.endTests q).enterFallow q
    else s
  if s.num O.fallowEnable = 1 ∧ s.pwr.busyLog.length ≥ 8 ∧ b8.1 * 64 > s.num O.fallowHigh * b8.2 then s.askWakes [0, 1, 2, 3] else s

/-- WAKE_GRANT at a slot tick: the first request is granted, one per slot (R478). -/
def wakeGrant (s : State) : State :=
  let t := s.clk.tick.toNat
  let slot := t % 50 == 0 && t / 50 % s.num O.wakeStride == s.num O.wakePhase
  let due := s.clk.tick + 20
  match s.pwr.wakeAsked with
  | [] => s
  | q :: rest =>
    if !s.pkg.st.hubRuns || !slot || s.pwr.waking.any (fun w => w.2 == due) then s
    else ({ s with pwr := { s.pwr with wakeAsked := rest, waking := s.pwr.waking ++ [(q, due)] } }).icxEvent 0x083

/-- WAKE_COMPLETE: the quarter is awake and joins the gang at the next course start. -/
def wakeComplete (s : State) (q : Fin 4) : State :=
  match s.pwr.waking.find? (fun w => w.1 == q && Tick.atLeast s.clk.tick w.2) with
  | none => s
  | some w => { s with pwr := { s.pwr with
      waking := s.pwr.waking.erase w, fallow := s.pwr.fallow &&& ~~~ (BitVec.ofNat 4 (2 ^ q.val))
      joining := s.pwr.joining ||| BitVec.ofNat 4 (2 ^ q.val), sinceWake := SMap.set 64 s.pwr.sinceWake q.val 0 } }

/-- Quarters awake join the gang at a course start, their rein at level 1 (R56, R478). -/
def State.joinGang (s : State) : State :=
  { s with
    crs := { s.crs with gang := s.crs.gang ||| s.pwr.joining }
    pwr := { s.pwr with
      joining := 0
      reins := (List.range 4).map (fun q => (q, if s.pwr.joining.getLsbD q then { s.rein q with level := 1 } else s.rein q)) } }

/-! ## Supply, rack, coolant (R479 to R483; 18 R597, R599) -/

/-- PWR_GOOD_FALL: the filtered level has fallen; from BOOT on it applies the supply pull (R480; 18 R599). -/
def pwrGoodFall (s : State) : State :=
  if !s.pkg.pwrGood then s
  else
    let s := { s with pkg := { s.pkg with pwrGood := false } }
    if s.pkg.st.hubRuns then
      let t := s.beginSupplyPull
      { t with pwr := { t.pwr with clearSince := some s.clk.tick } }
    else s

/-- SUPPLY_PULL_END: every cause has been absent for PG_RELEASE ticks, PWR_GOOD high among them. -/
def supplyPullEnd (s : State) : State :=
  let low := match s.pwr.tele with | some t => t.inputLow | none => false
  match s.pwr.clearSince with
  | none => s
  | some c =>
    if s.pwr.supplyPull && !s.pwr.silent && !low && decide (Tick.since s.clk.tick c ≥ s.num O.pgRelease) then
      ({ s with pwr := { s.pwr with supplyPull := false, clearSince := none }, pkg := { s.pkg with pwrGood := true } }).icxEvent 0x081
    else s

/-- What a RACK_BEAT write does (R482). -/
def State.rackBeat (s : State) : Nat × State :=
  let was := s.num O.rackState
  let s := if s.pkg.everReady then { s with pwr := { s.pwr with rackFrom := some s.us } } else s
  let s := s.setNum O.rackState 0
  (Err.ok, if was = 0 then s else s.icxEvent 0x084)

/-- RACK_TIMEOUT: a period has passed with no beat. -/
def rackTimeout (s : State) : State :=
  match s.pwr.rackFrom with
  | none => s
  | some t =>
    if s.pkg.st.hubRuns ∧ s.us ≥ t + 1000 * s.num O.rackTimeout then
      ((({ s with pwr := { s.pwr with rackFrom := none } }).raise srcPower 0 0x8A 1 0).setNum O.rackState 1).icxEvent 0x084
    else s

/-- Class-3 messages whose reaction a stop overtakes are recorded with REACTION 0 (15 R499). -/
def State.overtakeUrgent (s : State) : State :=
  let l := s.fcu.urgent.filter (fun m => m.cls == 3)
  let s := { s with fcu := { s.fcu with urgent := s.fcu.urgent.filter (fun m => m.cls != 3) } }
  l.foldl State.saveFault s

/-- COOL_OK_FALL: taken low (R483). -/
def coolOkFall (s : State) : State :=
  if !s.pkg.coolOk then s
  else
    let s := { s with pkg := { s.pkg with coolOk := false } }
    let t := s.transition .stopped
    if t.pkg.st ≠ .stopped ∨ s.pkg.st = .stopped then t
    else
      let t := t.overtakeUrgent
      (t.emit (.plinth (plinthFrame (s.clk.tick.toNat % 16) 600 s.pwr.vmemSet 2))).raise srcPins 2 0x8B 1 0

/-- COOL_OK_RISE: taken high. In STOPPED with RESET_N low, RESET_N counts as asserted (18 R597; 00 R14). -/
def coolOkRise (s : State) : State :=
  let s := { s with pkg := { s.pkg with coolOk := true } }
  if s.pkg.st = .stopped ∧ !s.pkg.resetN then s.newTick.transition .halt else s

/-! ## The commands -/

/-- PLINTH_COMMAND. -/
def execPlinthCommand (s : State) : Host.Outcome State Fault Refusal :=
  .next (plinthCommand s)
/-- TELEMETRY_FRAME. -/
def execTelemetryFrame (w : BitVec 128) (s : State) : Host.Outcome State Fault Refusal :=
  .next (telemetryFrame s w)
/-- PLINTH_SILENT. -/
def execPlinthSilent (s : State) : Host.Outcome State Fault Refusal :=
  .next (plinthSilent s)
/-- PLINTH_LOST. -/
def execPlinthLost (s : State) : Host.Outcome State Fault Refusal :=
  .next (plinthLost s)
/-- REIN_UPDATE. -/
def execReinUpdate (s : State) : Host.Outcome State Fault Refusal :=
  .next (reinUpdate s)
/-- HOLD_END. -/
def execHoldEnd (s : State) : Host.Outcome State Fault Refusal :=
  .next (holdEnd s)
/-- EXCESS_INTERVAL. -/
def execExcessInterval (s : State) : Host.Outcome State Fault Refusal :=
  .next (excessInterval s)
/-- THERMAL_HOLD_STEP. -/
def execThermalHoldStep (readings : List Int) (s : State) : Host.Outcome State Fault Refusal :=
  .next (thermalHoldStep s readings)
/-- THERM_TRIP. -/
def execThermTrip (sensor : Fin 52) (reading : Int) (s : State) : Host.Outcome State Fault Refusal :=
  .next (thermTrip s sensor reading)
/-- OP_STEP. -/
def execOpStep (s : State) : Host.Outcome State Fault Refusal :=
  .next (opStep s)
/-- OP_CLOCK_CHANGE. -/
def execOpClockChange (s : State) : Host.Outcome State Fault Refusal :=
  .next (opClockChange s)
/-- WEAR_CHARGE. -/
def execWearCharge (s : State) : Host.Outcome State Fault Refusal :=
  .next (wearCharge s)
/-- WAKE_COMPLETE. -/
def execWakeComplete (q : Fin 4) (s : State) : Host.Outcome State Fault Refusal :=
  .next (wakeComplete s q)
/-- PWR_GOOD_FALL. -/
def execPwrGoodFall (s : State) : Host.Outcome State Fault Refusal :=
  .next (pwrGoodFall s)
/-- SUPPLY_PULL_END. -/
def execSupplyPullEnd (s : State) : Host.Outcome State Fault Refusal :=
  .next (supplyPullEnd s)
/-- RACK_TIMEOUT. -/
def execRackTimeout (s : State) : Host.Outcome State Fault Refusal :=
  .next (rackTimeout s)
/-- COOL_OK_FALL. -/
def execCoolOkFall (s : State) : Host.Outcome State Fault Refusal :=
  .next (coolOkFall s)
/-- COOL_OK_RISE. -/
def execCoolOkRise (s : State) : Host.Outcome State Fault Refusal :=
  .next (coolOkRise s)

end Sys2Proof.Machine
end

