-- ==== Sys2Proof/Machine/Zstd.lean ====
section
/-! DEFINITION. Zstandard decompression, RFC 8878, with the limits of 10_weights_and_tannery.md R317: one frame, no dictionary, a window of at
most 8 MiB, a declared content size, the content checksum tested where there is one. -/

namespace Sys2Proof.Machine.Zstd

/-! ## Bit streams -/

/-- A stream read from its last bit backwards: its bytes as a number, the bits left, and whether more were read than there are. -/
structure Back where
  v : Nat
  left : Nat
  past : Bool := false

/-- Open a stream: the highest bit set marks its end. -/
def Back.open? (l : List Byte) : Option Back :=
  match l.getLast? with
  | none => none
  | some b => if b = 0 then none else some { v := ofLe l, left := Nat.log2 (ofLe l) }

/-- The next n bits without reading them; zeros follow the last. -/
def Back.peek (b : Back) (n : Nat) : Nat :=
  if n ≤ b.left then b.v / 2 ^ (b.left - n) % 2 ^ n else b.v % 2 ^ b.left * 2 ^ (n - b.left)

/-- Pass n bits. -/
def Back.skip (b : Back) (n : Nat) : Back := { b with left := b.left - n, past := b.past || decide (n > b.left) }

/-- Read n bits. -/
def Back.read (b : Back) (n : Nat) : Nat × Back := (b.peek n, b.skip n)

/-- The stream has been read to its end and no further. -/
def Back.done (b : Back) : Bool := b.left == 0 && !b.past

/-! ## FSE tables -/

/-- A state of an FSE table: its symbol, the base of the next state, the bits added to it. -/
structure Cell where
  sym : Nat := 0
  base : Nat := 0
  bits : Nat := 0

/-- An FSE table: its accuracy and its states. -/
structure Fse where
  acc : Nat
  cells : List Cell

/-- Zero probabilities that follow one, and where they end. -/
def zeroRun (v : Nat) : Nat → Nat → Nat → Nat × Nat
  | 0, pos, n => (n, pos)
  | f + 1, pos, n =>
    let r := v / 2 ^ pos % 4
    if r = 3 then zeroRun v f (pos + 2) (n + 3) else (n + r, pos + 2)

/-- The probabilities of a table description, and the bit after them. -/
def probs (v : Nat) : Nat → Nat → Nat → List Int → Option (List Int × Nat)
  | 0, _, _, _ => none
  | f + 1, pos, remaining, l =>
    if remaining = 0 then some (l, pos)
    else
      let b := Nat.log2 (remaining + 1) + 1
      let x := v / 2 ^ pos % 2 ^ b
      let spare := 2 ^ b - 2 - remaining
      let low := x % 2 ^ (b - 1)
      let r := if low < spare then (low, b - 1) else if low < x then (x - spare, b) else (x, b)
      let p : Int := (r.1 : Int) - 1
      if p.natAbs > remaining then none
      else if p = 0 then
        let z := zeroRun v 128 (pos + r.2) 0
        probs v f z.2 remaining (l ++ List.replicate (z.1 + 1) 0)
      else probs v f (pos + r.2) (remaining - p.natAbs) (l ++ [p])

/-- The table of some probabilities: symbols of probability "less than 1" take the last states, the others are spread. -/
def fseOf (acc : Nat) (ps : List Int) : Fse :=
  let size := 2 ^ acc
  let numbered := (List.range ps.length).zip ps
  let rare := (numbered.filter (fun x => x.2 < 0)).map (·.1)
  let high := size - rare.length
  let places := ((List.range size).map (fun k => k * (size / 2 + size / 8 + 3) % size)).filter (fun p => decide (p < high))
  let common := numbered.flatMap (fun x => List.replicate x.2.toNat x.1)
  let where_ : SMap Nat := sortBy (·.1) (places.zip common)
  let syms := where_.map (·.2) ++ rare.reverse
  let step := fun (a : List Cell × SMap Nat) (s : Nat) =>
    let n := SMap.get 0 a.2 s
    let b := acc - Nat.log2 n
    ({ sym := s, base := n * 2 ^ b - size, bits := b } :: a.1, SMap.put a.2 s (n + 1))
  { acc := acc, cells := (syms.foldl step ([], numbered.map (fun x => (x.1, x.2.natAbs)))).1.reverse }

/-- Read a table description: the table and the bytes it took. -/
def readFse (most symbols : Nat) (l : List Byte) : Option (Fse × Nat) :=
  let v := ofLe (l.take 128)
  let acc := v % 16 + 5
  if acc > most then none
  else match probs v 400 4 (2 ^ acc) [] with
    | none => none
    | some (ps, pos) =>
      let n := (pos + 7) / 8
      if ps.length > symbols ∨ n > l.length then none else some (fseOf acc ps, n)

/-- A state's cell. -/
def Fse.cell (t : Fse) (st : Nat) : Cell := t.cells.getD st {}

/-- The first state. -/
def Fse.start (t : Fse) (b : Back) : Nat × Back := b.read t.acc

/-- The state after a state. -/
def Fse.next (t : Fse) (st : Nat) (b : Back) : Nat × Back :=
  let r := b.read (t.cell st).bits
  ((t.cell st).base + r.1, r.2)

/-! ## Literals -/

/-- A Huffman table: the bits of its longest code, and for every value of that many bits the symbol and the length of its code. -/
structure Huff where
  most : Nat
  codes : List (Nat × Nat)

/-- Weights from two FSE states in turn, until the stream has no more bits. -/
def weightsBy (t : Fse) : Nat → Nat → Nat → Back → List Nat → Option (List Nat)
  | 0, _, _, _, _ => none
  | f + 1, a, b, s, l =>
    let l := l ++ [(t.cell a).sym]
    let r := t.next a s
    if r.2.past then some (l ++ [(t.cell b).sym]) else weightsBy t f b r.1 r.2 l

/-- The table of some weights; the last weight is what fills the code. -/
def huffOf (ws : List Nat) : Option Huff :=
  let total := sumNat (ws.map (fun w => if w = 0 then 0 else 2 ^ (w - 1)))
  let most := Nat.log2 total + 1
  let rest := 2 ^ most - total
  if total = 0 ∨ most > 11 ∨ 2 ^ Nat.log2 rest ≠ rest then none
  else
    let all := ws ++ [Nat.log2 rest + 1]
    let numbered := (List.range all.length).zip all
    some { most := most, codes := (List.range most).flatMap (fun w =>
      (numbered.filter (fun x => x.2 == w + 1)).flatMap (fun x => List.replicate (2 ^ w) (x.1, most - w))) }

/-- Read a Huffman tree description: the table and the bytes it took. -/
def readHuff (l : List Byte) : Option (Huff × Nat) :=
  match l with
  | [] => none
  | h :: r =>
    let n := h.toNat
    if n ≥ 128 then
      let k := n - 127
      if r.length < (k + 1) / 2 then none
      else (huffOf ((List.range k).map (fun i => if i % 2 = 0 then (r.getD (i / 2) 0).toNat / 16 else (r.getD (i / 2) 0).toNat % 16))).map
        (fun t => (t, 1 + (k + 1) / 2))
    else if r.length < n then none
    else do
      let (t, used) ← readFse 6 256 (r.take n)
      let s ← Back.open? ((r.take n).drop used)
      let (a, s) := t.start s
      let (b, s) := t.start s
      if s.past then none
      let ws ← weightsBy t 260 a b s []
      let h ← huffOf ws
      some (h, 1 + n)

/-- Decode n symbols of a stream. -/
def symbols (h : Huff) : Nat → Back → List Byte → Option (List Byte)
  | 0, s, l => if s.done then some l.reverse else none
  | n + 1, s, l =>
    let c := h.codes.getD (s.peek h.most) (0, 0)
    let s := s.skip c.2
    if s.past then none else symbols h n s (BitVec.ofNat 8 c.1 :: l)

/-- A stream of n literals. -/
def stream (h : Huff) (n : Nat) (l : List Byte) : Option (List Byte) := (Back.open? l).bind (fun s => symbols h n s [])

/-- Four streams behind their table of lengths. -/
def fourStreams (h : Huff) (n : Nat) (l : List Byte) : Option (List Byte) :=
  let a := fieldLe l 0 2
  let b := fieldLe l 2 2
  let c := fieldLe l 4 2
  let r := l.drop 6
  let k := (n + 3) / 4
  if l.length < 6 ∨ a + b + c > r.length ∨ 3 * k > n then none
  else do
    let w ← stream h k (r.take a)
    let x ← stream h k ((r.drop a).take b)
    let y ← stream h k ((r.drop (a + b)).take c)
    let z ← stream h (n - 3 * k) (r.drop (a + b + c))
    some (w ++ x ++ y ++ z)

/-- What a frame carries from block to block: tables, repeated offsets, and the bytes made, last first. -/
structure Frame where
  huff : Option Huff := none
  ll : Option Fse := none
  off : Option Fse := none
  ml : Option Fse := none
  reps : Nat × Nat × Nat := (1, 4, 8)
  made : List Byte := []
  count : Nat := 0

/-- The literals of a block, and the bytes of their section. -/
def literals (f : Frame) (l : List Byte) : Option (List Byte × Nat × Frame) :=
  let h := fieldLe l 0 5
  let kind := h % 4
  let form := h / 4 % 4
  if l = [] then none
  else if kind < 2 then
    let d : Nat × Nat := if form % 2 = 0 then (1, h / 8 % 32) else if form = 1 then (2, h / 16 % 2 ^ 12) else (3, h / 16 % 2 ^ 20)
    let body := l.drop d.1
    if kind = 0 then (if body.length < d.2 then none else some (body.take d.2, d.1 + d.2, f))
    else match body with
      | [] => none
      | b :: _ => some (List.replicate d.2 b, d.1 + 1, f)
  else
    let d : Nat × Nat := if form < 2 then (3, 10) else if form = 2 then (4, 14) else (5, 18)
    let regen := h / 16 % 2 ^ d.2
    let size := h / 2 ^ (4 + d.2) % 2 ^ d.2
    let body := (l.drop d.1).take size
    if body.length < size then none
    else do
      let (t, used) ← if kind = 2 then readHuff body else f.huff.map (fun t => (t, 0))
      let bytes ← if form = 0 then stream t regen (body.drop used) else fourStreams t regen (body.drop used)
      some (bytes, d.1 + size, { f with huff := some t })

/-! ## Sequences -/

/-- Base and extra bits of the literal-length codes. -/
def llCode (c : Nat) : Nat × Nat :=
  if c < 16 then (c, 0)
  else ([(16, 1), (18, 1), (20, 1), (22, 1), (24, 2), (28, 2), (32, 3), (40, 3), (48, 4)].getD (c - 16) (2 ^ (c - 19), c - 19))

/-- Base and extra bits of the match-length codes. -/
def mlCode (c : Nat) : Nat × Nat :=
  if c < 32 then (c + 3, 0)
  else ([(35, 1), (37, 1), (39, 1), (41, 1), (43, 2), (47, 2), (51, 3), (59, 3), (67, 4), (83, 4), (99, 5)].getD (c - 32) (2 ^ (c - 36) + 3, c - 36))

/-- The predefined tables. -/
def llDefault : Fse := fseOf 6 ([4, 3] ++ List.replicate 11 2 ++ [1, 1, 1] ++ List.replicate 9 2 ++ [3, 2] ++ List.replicate 5 1 ++ List.replicate 4 (-1))
/-- Offsets. -/
def offDefault : Fse := fseOf 5 (List.replicate 6 1 ++ [2, 2, 2] ++ List.replicate 15 1 ++ List.replicate 5 (-1))
/-- Match lengths. -/
def mlDefault : Fse := fseOf 6 ([1, 4, 3] ++ List.replicate 6 2 ++ List.replicate 37 1 ++ List.replicate 7 (-1))

/-- A table of the sequences section, by its mode. -/
def readTable (mode : Nat) (most symbols : Nat) (dflt : Fse) (old : Option Fse) (l : List Byte) : Option (Fse × Nat) :=
  match mode with
  | 0 => some (dflt, 0)
  | 1 => match l with
    | [] => none
    | b :: _ => if b.toNat < symbols then some ({ acc := 0, cells := [{ sym := b.toNat }] }, 1) else none
  | 2 => readFse most symbols l
  | _ => old.map (fun t => (t, 0))

/-- The offset of a sequence and the repeated offsets after it. -/
def offsetOf (r : Nat × Nat × Nat) (value ll : Nat) : Nat × Nat × Nat × Nat :=
  let k := if value > 3 then 4 else if ll = 0 then value else value - 1
  match k with
  | 0 => (r.1, r)
  | 1 => (r.2.1, r.2.1, r.1, r.2.2)
  | 2 => (r.2.2, r.2.2, r.1, r.2.1)
  | 3 => (r.1 - 1, r.1 - 1, r.1, r.2.1)
  | _ => (value - 3, value - 3, r.1, r.2.1)

/-- Copy a match of n bytes from `off` bytes back. -/
def copyBack (off : Nat) : Nat → List Byte → List Byte
  | 0, made => made
  | n + 1, made => copyBack off n (made.getD (off - 1) 0 :: made)

/-- Run n sequences: the states of the three tables, the literals not yet used, the stream. -/
def sequences (window : Nat) (ll off ml : Fse) : Nat → Nat → Nat → Nat → List Byte → Back → Frame → Option (List Byte × Frame)
  | 0, _, _, _, lits, s, f => if s.done then some (lits, f) else none
  | n + 1, a, b, c, lits, s, f =>
    let oc := (off.cell b).sym
    let r := s.read oc
    let m := mlCode (ml.cell c).sym
    let x := r.2.read m.2
    let k := llCode (ll.cell a).sym
    let y := x.2.read k.2
    let lit := k.1 + y.1
    let len := m.1 + x.1
    let o := offsetOf f.reps (2 ^ oc + r.1) lit
    let count := f.count + lit
    if y.2.past ∨ lit > lits.length ∨ o.1 = 0 ∨ o.1 > count ∨ o.1 > window then none
    else
      let made := copyBack o.1 len ((lits.take lit).reverse ++ f.made)
      let f := { f with reps := o.2, made := made, count := count + len }
      if n = 0 then sequences window ll off ml 0 a b c (lits.drop lit) y.2 f
      else
        let a := ll.next a y.2
        let c := ml.next c a.2
        let b := off.next b c.2
        if b.2.past then none else sequences window ll off ml n a.1 b.1 c.1 (lits.drop lit) b.2 f

/-- Add literals to what the frame has made. -/
def Frame.put (f : Frame) (l : List Byte) : Frame := { f with made := l.reverse ++ f.made, count := f.count + l.length }

/-- A compressed block. -/
def block (window : Nat) (f : Frame) (l : List Byte) : Option Frame := do
  let (lits, used, f) ← literals f l
  let l := l.drop used
  let h ← l.head?
  let n0 := h.toNat
  let (n, k) := if n0 < 128 then (n0, 1) else if n0 < 255 then ((n0 - 128) * 256 + fieldLe l 1 1, 2) else (fieldLe l 1 2 + 0x7F00, 3)
  if l.length < k then none
  if n = 0 then (if l.length = k then some (f.put lits) else none)
  else
    let mode ← (l.drop k).head?
    let modes := mode.toNat
    if modes % 4 ≠ 0 then none
    let l := l.drop (k + 1)
    let (ll, u) ← readTable (modes / 64) 9 36 llDefault f.ll l
    let l := l.drop u
    let (off, u) ← readTable (modes / 16 % 4) 8 32 offDefault f.off l
    let l := l.drop u
    let (ml, u) ← readTable (modes / 4 % 4) 9 53 mlDefault f.ml l
    let s ← Back.open? (l.drop u)
    let (a, s) := ll.start s
    let (b, s) := off.start s
    let (c, s) := ml.start s
    if s.past then none
    let (rest, f) ← sequences window ll off ml n a b c lits s { f with ll := some ll, off := some off, ml := some ml }
    some (f.put rest)

/-! ## The content checksum: XXH64 -/

/-- Its primes. -/
def p1 : W64 := 0x9E3779B185EBCA87
/-- The second. -/
def p2 : W64 := 0xC2B2AE3D27D4EB4F
/-- The third. -/
def p3 : W64 := 0x165667B19E3779F9
/-- The fourth. -/
def p4 : W64 := 0x85EBCA77C2B2AE63
/-- The fifth. -/
def p5 : W64 := 0x27D4EB2F165667C5

/-- A lane of input into an accumulator. -/
def mix (acc x : W64) : W64 := (acc + x * p2).rotateLeft 31 * p1

/-- Eight bytes as a number. -/
def word (l : List Byte) : W64 := BitVec.ofNat 64 (fieldLe l 0 8)

/-- The four accumulators after whole stripes of 32 bytes. -/
def stripes : Nat → List Byte → W64 × W64 × W64 × W64 → W64 × W64 × W64 × W64
  | 0, _, a => a
  | n + 1, l, (a, b, c, d) => stripes n (l.drop 32) (mix a (word l), mix b (word (l.drop 8)), mix c (word (l.drop 16)), mix d (word (l.drop 24)))

/-- What is left of the last stripe. -/
def tail : Nat → List Byte → W64 → W64
  | 0, _, h => h
  | n + 1, l, h =>
    if l.length ≥ 8 then tail n (l.drop 8) ((h ^^^ mix 0 (word l)).rotateLeft 27 * p1 + p4)
    else if l.length ≥ 4 then tail n (l.drop 4) ((h ^^^ BitVec.ofNat 64 (fieldLe l 0 4) * p1).rotateLeft 23 * p2 + p3)
    else match l with
      | [] => h
      | b :: r => tail n r ((h ^^^ BitVec.ofNat 64 b.toNat * p5).rotateLeft 11 * p1)

/-- XXH64 with seed 0. -/
def xxh64 (l : List Byte) : W64 :=
  let n := l.length / 32
  let h := if n = 0 then p5 else
    let (a, b, c, d) := stripes n l (p1 + p2, p2, 0, 0 - p1)
    let m := a.rotateLeft 1 + b.rotateLeft 7 + c.rotateLeft 12 + d.rotateLeft 18
    [a, b, c, d].foldl (fun h v => (h ^^^ mix 0 v) * p1 + p4) m
  let h := tail 32 (l.drop (32 * n)) (h + BitVec.ofNat 64 l.length)
  let h := (h ^^^ h >>> 33) * p2
  let h := (h ^^^ h >>> 29) * p3
  h ^^^ h >>> 32

/-! ## The frame -/

/-- The blocks of a frame: what it has made, and the bytes after its last block. -/
def blocks (window : Nat) : Nat → List Byte → Frame → Option (Frame × List Byte)
  | 0, _, _ => none
  | n + 1, l, f =>
    if l.length < 3 then none
    else
      let h := fieldLe l 0 3
      let size := h / 8
      let most := Nat.min window 131072
      let body := l.drop 3
      let kind := h / 2 % 4
      let taken := if kind = 1 then 1 else size
      if kind = 3 ∨ size > most ∨ body.length < taken then none
      else
        let r := match kind with
          | 0 => some (f.put (body.take size))
          | 1 => some (f.put (List.replicate size (body.headD 0)))
          | _ => block window f (body.take size)
        match r with
        | none => none
        | some g =>
          if g.count - f.count > most then none
          else if h % 2 = 1 then some (g, body.drop taken)
          else blocks window n (body.drop taken) g

/-- A frame header: window, content size, whether a checksum follows, and the header's bytes; none for one R317 refuses. -/
def header (l : List Byte) : Option (Nat × Nat × Bool × Nat) :=
  let d := fieldLe l 4 1
  let single := d / 32 % 2 = 1
  let flag := d / 64
  let at_ := if single then 5 else 6
  let n := if flag = 0 then (if single then 1 else 0) else 2 ^ flag
  let content := fieldLe l at_ n + (if flag = 1 then 256 else 0)
  let w := fieldLe l 5 1
  let window := if single then content else 2 ^ (10 + w / 8) + 2 ^ (7 + w / 8) * (w % 8)
  if fieldLe l 0 4 ≠ 0xFD2FB528 ∨ d / 8 % 2 = 1 ∨ d % 4 ≠ 0 ∨ n = 0 ∨ window > 8388608 ∨ l.length < at_ + n then none
  else some (window, content, d / 4 % 2 == 1, at_ + n)

/-- Decompress a chunk. -/
def decompress (l : List Byte) : Option (List Byte) := do
  let (window, content, check, n) ← header l
  let (f, rest) ← blocks window l.length (l.drop n) {}
  let out := f.made.reverse
  if f.count ≠ content then none
  else if check then (if rest = leBytes 4 (xxh64 out).toNat then some out else none)
  else if rest = [] then some out
  else none

end Sys2Proof.Machine.Zstd
end

