-- ==== Sys2Proof/Machine/Weights.lean ====
section
/-! DEFINITION. Bundles, the tannery, weight areas, the switch and twin fetches (10_weights_and_tannery.md R315 to R342; 13 R434). -/

namespace Sys2Proof.Machine

/-! ## Manifests (R315 to R319) -/

/-- A chunk entry (Table 10.2). -/
structure ChunkEntry where
  digest : List Byte
  bytes : Nat
  outBytes : Nat
  shard : Nat
  template : Bool
  zstd : Bool
  tensor : Nat
  deriving DecidableEq, Repr

/-- Bytes of entry i of a manifest. -/
def chunkBytes (m : List Byte) (i : Nat) : List Byte := slice m (256 + 64 * i) 64

/-- Entry i of a manifest. -/
def chunkEntry (m : List Byte) (i : Nat) : ChunkEntry :=
  let e := chunkBytes m i
  { digest := slice e 0 32, bytes := u64 e 0x20, outBytes := u64 e 0x28, shard := u16 e 0x30, template := u8 e 0x32 == 2
    zstd := u8 e 0x33 == 1, tensor := u32 e 0x34 }

/-- CHUNKS of a manifest. -/
def manifestChunks (m : List Byte) : Nat := u32 m 0x14

/-- Bytes of a manifest of n chunks. -/
def manifestBytes (n : Nat) : Nat := 256 + 64 * n + 1312 + 2420

/-- A GEOMETRY field (05 Table 5.3): H of 1 to 64, D of 64 to 256, zero low bits. -/
def geometryOk (g : Nat) : Bool := g % 64 == 0 && decide (bits g 15 8 ≤ 63)

/-- Table 10.1 and Table 10.2 hold. -/
def manifestOk (m : List Byte) : Bool :=
  let n := manifestChunks m
  u32 m 0 == 0x424E4841 && u16 m 4 == 1 && u16 m 6 == 256 && decide (1 ≤ n) && decide (n ≤ 65536) &&
  decide (1 ≤ u16 m 0x18) && decide (u16 m 0x18 ≤ 64) && decide (1 ≤ u32 m 0x1A) && decide (u32 m 0x1A ≤ 1048576) &&
  decide (1 ≤ u16 m 0x1E) && decide (u16 m 0x1E ≤ 256) && geometryOk (u16 m 0x20) && decide (u16 m 0x22 ≤ 256) &&
  (if u16 m 0x22 = 0 then u16 m 0x24 == 0 else geometryOk (u16 m 0x24)) && allZero (slice m 0x26 26) &&
  allZero (slice m 0x40 192) &&
  (List.range n).all (fun i =>
    let e := chunkBytes m i
    decide (64 ≤ u64 e 0x20) && decide (u64 e 0x20 ≤ 268435456) && decide (u64 e 0x28 ≤ 268435456) &&
    (decide (u16 e 0x30 < u16 m 0x18) || u16 e 0x30 == 0xFFFF) && (u8 e 0x32 == 1 || u8 e 0x32 == 2) && decide (u8 e 0x33 ≤ 1) &&
    (u8 e 0x32 == 1 || u32 e 0x34 == 0) && u64 e 0x38 == 0)

/-- The publisher's key and signature of a manifest of n chunks. -/
def manifestKey (m : List Byte) : List Byte := slice m (256 + 64 * manifestChunks m) 1312
/-- The manifest digest (R316). -/
def manifestDigest (m : List Byte) : List Byte := sha3 (m.take (256 + 64 * manifestChunks m + 1312))
/-- The signature. -/
def manifestSig (m : List Byte) : List Byte := slice m (256 + 64 * manifestChunks m + 1312) 2420

/-- The manifest's geometry agrees with the LIVE copy's (status GEOMETRY). -/
def Copy.sameGeometry (c : Copy) (m : List Byte) : Bool :=
  c.vocab == u32 m 0x1A && c.layers == u16 m 0x1E && c.geometry == u16 m 0x20 && c.draftLayers == u16 m 0x22 && c.draftGeometry == u16 m 0x24

/-- Some copy is LIVE. -/
def State.hasLive (s : State) : Bool := s.wts.k0.st == .live || s.wts.k1.st == .live

/-- Entries of a manifest, numbered. -/
def manifestEntries (m : List Byte) : List (Nat × ChunkEntry) := (List.range (manifestChunks m)).map (fun i => (i, chunkEntry m i))

/-- The chunk belongs to what the load converts now: own shard and common chunks, and the twin's in a full load or in the second
phase of a thin one (R325, R342). -/
def State.inLoad (s : State) (e : ChunkEntry) : Bool :=
  let own := e.shard == s.num O.shardOwn || e.shard == 0xFFFF
  let twin := e.shard == s.num O.shardTwin
  if s.wts.load = .twinPhase then twin else if s.wts.thin then own else own || twin

/-- The chunks of the load that must be converted. -/
def State.loadChunks (s : State) : List Nat := ((manifestEntries s.wts.manifest).filter (fun e => s.inLoad e.2)).map (·.1)

/-- Bytes the own and the twin part of a bundle need (R322). -/
def State.partBytes (s : State) (m : List Byte) : Nat × Nat :=
  let es := (manifestEntries m).map (·.2)
  let sum := fun (p : ChunkEntry → Bool) => sumNat ((es.filter p).map (·.outBytes))
  let own := fun (e : ChunkEntry) => e.shard == s.num O.shardOwn || e.shard == 0xFFFF
  let twin := fun (e : ChunkEntry) => e.shard == s.num O.shardTwin
  (roundUp (sum (fun e => !e.template && own e)) 0x200000 + sum (fun e => e.template && (own e || twin e)), sum (fun e => !e.template && twin e))

/-- Areas in use by a copy. -/
def Copy.areas (c : Copy) : List Nat := if c.st = .absent then [] else c.own.toList ++ c.twin.toList

/-- The free areas, lowest first. -/
def State.freeAreas (s : State) : List Nat :=
  (List.range (s.num O.areaCount)).filter (fun i => !(s.wts.k0.areas ++ s.wts.k1.areas).contains i)

/-- The lowest-numbered area of a list with room for n bytes. -/
def State.roomy (s : State) (l : List Nat) (n : Nat) : Option Nat := l.find? (fun i => decide ((s.area i).2 * 0x200000 ≥ n))

/-- The first status of Table 10.5 that the manifest at LOAD_MANIFEST meets before areas are selected. -/
def State.manifestStatus (s : State) (m : List Byte) : Nat :=
  if !manifestOk m then 0x01
  else if !(List.range (s.num O.keyCount)).any (fun i => fit 32 (s.blob (O.keyFpr i)) == sha3 (manifestKey m)) then 0x02
  else if !MlDsa.verify (manifestKey m) (manifestDigest m) (manifestSig m) then 0x03
  else if s.num O.shardOwn ≥ u16 m 0x18 ∨ s.num O.shardTwin ≥ u16 m 0x18 then 0x04
  else if s.hasLive && !s.liveCopy.sameGeometry m then 0x0B
  else 0

/-- Refuse the load of a LOAD_START at once. -/
def State.refuseLoad (s : State) (status : Nat) : State :=
  (({ s with wts := { s.wts with load := .refused } }.setNum O.loadStatus status).setNum O.loadDetail 0).icxEvent 0x071

/-- Begin the load of a checked manifest into a slot with its areas (R325, R326). -/
def State.beginLoad (s : State) (m : List Byte) (slot : Nat) (own : Nat) (twin : Option Nat) (thin : Bool) : State :=
  let c : Copy := {
    st := .loading, epoch := BitVec.ofNat 32 (s.num O.loadEpoch), thin := thin, digest := manifestDigest m, own := some own, twin := twin
    vocab := u32 m 0x1A, layers := u16 m 0x1E, geometry := u16 m 0x20, draftLayers := u16 m 0x22, draftGeometry := u16 m 0x24 }
  let s := { s with wts := { s.wts.setCopy slot c with
      load := .active, slot := slot, thin := thin, manifest := m, posts := [], converted := [], tensors := [] } }
  (((s.setNum O.loadStatus 0).setNum O.loadDetail 0).setNum O.loadReleased 0).setNum O.loadIgnored 0

/-- A copy holds its twin's shard: a thin one does not (R342). -/
def Copy.hasTwin (c : Copy) : Bool := c.twin.isSome && !c.thin

/-- A COVERING package loses its only copy of the covered shard (R341; 13 R448). -/
def State.coveredLost (s : State) : State :=
  match s.mir.covered with
  | some n => if s.pkg.st = .covering then s.shardLost n s.twinBond true else s
  | none => s

/-- LOAD_START (R325, R326). -/
def State.loadStart (s : State) : Nat × State :=
  let w := s.wts
  let thin := s.num O.loadMode == 1
  let free := if w.k0.st = .absent then some 0 else if w.k1.st = .absent then some 1 else none
  let ep := BitVec.ofNat 32 (s.num O.loadEpoch)
  if w.load.runs then (Err.busy, s)
  else match free with
    | none => (Err.busy, s)
    | some slot =>
      if thin && (w.k0.st == .outgoing || w.k1.st == .outgoing) then (Err.busy, s)
      else if s.pkg.st = .boot ∨ s.pkg.st = .align ∨ s.pkg.st = .stopped ∨ s.pkg.st = .grave ∨ s.pkg.st = .halt ∨ s.pkg.st = .off then
        (Err.notServingState, s)
      else if ep = 0 || [w.k0, w.k1].any (fun c => c.st != .absent && c.epoch == ep) then (Err.epoch, s)
      else
        let base := s.num O.stagingBase + s.num O.loadManifest
        let n := u32 (s.peek base 256).1 0x14
        let len := if 1 ≤ n ∧ n ≤ 65536 then manifestBytes n else 256
        let m := (s.peek base len).1
        let s := s.readBad [(base, len)]
        let st := s.manifestStatus m
        if st ≠ 0 then (Err.ok, s.refuseLoad st)
        else
          let need := s.partBytes m
          if thin then
            match (if s.hasLive then s.liveCopy.twin else none) with
            | none => (Err.ok, s.refuseLoad 0x05)
            | some a =>
              let drop := fun (c : Copy) => if c.st == .live then
                { c with twin := none, twinSeg := none, twinTempl := none, placed := c.placed.filter (fun p => !p.part) } else c
              let s := { s with wts := { s.wts with k0 := drop s.wts.k0, k1 := drop s.wts.k1 } }.coveredLost
              if (s.area a).2 * 0x200000 < need.1 then (Err.ok, s.refuseLoad 0x05) else (Err.ok, s.beginLoad m slot a none true)
          else match s.roomy s.freeAreas need.1 with
            | none => (Err.ok, s.refuseLoad 0x05)
            | some a => match s.roomy (s.freeAreas.filter (· != a)) need.2 with
              | none => (Err.ok, s.refuseLoad 0x05)
              | some b => (Err.ok, s.beginLoad m slot a (some b) false)

/-- LOAD_POST: the chunk joins the queue of posts (R325); while no load takes chunks it is ignored. -/
def State.loadPost (s : State) (v : Nat) : Nat × State :=
  if s.wts.load = .active ∨ s.wts.load = .twinPhase then (Err.ok, { s with wts := { s.wts with posts := s.wts.posts ++ [BitVec.ofNat 64 v] } })
  else (Err.ok, s.bump O.loadIgnored)

/-- LOAD_ABORT (R327). -/
def State.loadAbort (s : State) : Nat × State := (Err.ok, s.abortLoad 0x0C 0)

/-- COPY_FREE of slot k (R338, Table 10.8). -/
def State.copyFree (s : State) (k : Nat) : Nat × State :=
  if s.wts.k0.st = .outgoing ∨ s.wts.k1.st = .outgoing then (Err.busy, s)
  else
    let c := s.wts.copy k
    if c.st = .live ∨ c.st = .loading then (Err.range, s) else (Err.ok, { s with wts := s.wts.setCopy k {} })

/-! ## Quantisation (R329, R330) -/

/-- Source elements: bytes each, and the exact FP32 value; none for an infinity or a NaN. -/
def sourceBytes (src : Nat) : Nat :=
  match src with
  | 1 => 2
  | 4 => 4
  | _ => 1

/-- FP8 as FP32: exponent bits, bias, and which codes mean no number (Open Compute Project FP8: E4M3 S.1111.111; E5M2 exponent 31). -/
def fp8 (e5m2 : Bool) (b : Nat) : Option W32 :=
  let mb := if e5m2 then 2 else 3
  let e := b % 128 / 2 ^ mb
  let m := b % 2 ^ mb
  let bad := if e5m2 then e == 31 else b % 128 == 127
  if bad then none
  else
    let bias := if e5m2 then 15 else 7
    let n := if e = 0 then m else (2 ^ mb + m) * 2 ^ (e - 1)
    -- n units of 2^(1 − bias − mb); 2^149 units of FP32's least subnormal to 1.0
    some (rneUnits (decide (b ≥ 128)) (n * 2 ^ (149 + 1 - bias - mb)) 1).v

/-- Element k of a source. -/
def sourceElem (src : Nat) (d : List Byte) (k : Nat) : Option W32 :=
  match src with
  | 1 => let w := ofBf16 (u16 d (2 * k)); if fbad w then none else some w
  | 2 => fp8 false (u8 d k)
  | 3 => fp8 true (u8 d k)
  | _ => let w := BitVec.ofNat 32 (u32 d (4 * k)); if fbad w then none else some w

/-- Q of a format (R329). -/
def WFmt.q (f : WFmt) : Nat := match f with | .w2 => 3 | .wt => 1 | .w1 => 1 | .w4 => 7

/-- tensor_scale. -/
def tensorScale (tmax : W32) (q : Nat) : W32 :=
  if fmag tmax = 0 then fone
  else
    let s := (rneUnits false (magUnits (fmag tmax)) (q * 65536)).v
    if fmag s = 0 then 1 else s

/-- σ × 2^E of a block-scale code: its value in units of 2^−18 (03 R88). -/
def e5m3 (c : Nat) : Nat := (8 + c % 8) * 2 ^ (c / 8)

/-- block_code of the largest magnitude m (in units of 2^−149), the tensor scale in the same units. -/
def blockCode (m sw q : Nat) : Nat :=
  if m = 0 then 1
  else ((List.range 255).map (· + 1)).find? (fun c => decide (e5m3 c * q * sw ≥ m * 2 ^ 18)) |>.getD 0xFF

/-- element: the weight of an element of w units under a scale of t ÷ 2^18 units. -/
def quantElem (f : WFmt) (w : Int) (t : Nat) : Int :=
  let n := w.natAbs * 2 ^ 18
  let sgn := fun (v : Nat) => if w < 0 then -(v : Int) else (v : Int)
  match f with
  | .w4 => max (-8) (min 7 (sgn (divEven n t)))
  | .wt => max (-1) (min 1 (sgn (divEven n t)))
  | .w1 => if w < 0 then -1 else 1
  | .w2 => if w = 0 then 1 else if n > 2 * t then sgn 3 else sgn 1

/-- The data bytes of a block of weights; positions at and above `valid` hold code zero (R84). -/
def packBlock (f : WFmt) (ws : List Int) (valid : Nat) : List Byte :=
  let code := fun (j : Nat) =>
    if j ≥ valid then 0
    else
      let w := ws.getD j 0
      match f with
      | .w2 => ((w + 3) / 2).toNat
      | .w1 => ((w + 1) / 2).toNat
      | .wt => (w + 1).toNat
      | .w4 => ofSigned 4 w
  match f with
  | .w2 => (List.range 16).map (fun k => BitVec.ofNat 8 (code (4 * k) + 4 * code (4 * k + 1) + 16 * code (4 * k + 2) + 64 * code (4 * k + 3)))
  | .w1 => (List.range 8).map (fun k => BitVec.ofNat 8 ((List.range 8).foldl (fun a i => a + code (8 * k + i) * 2 ^ i) 0))
  | .w4 => (List.range 32).map (fun k => BitVec.ofNat 8 (code (2 * k) + 16 * code (2 * k + 1)))
  | .wt => (List.range 13).map (fun k => BitVec.ofNat 8 ((List.range 5).foldl (fun a i => a + (if 5 * k + i < 64 then code (5 * k + i) else 0) * 3 ^ i) 0))

/-- The weight format of a TARGET code (Table 4.3). -/
def fmtOf (target : Nat) : Option WFmt :=
  match target with
  | 4 => some .w2
  | 5 => some .wt
  | 6 => some .w1
  | 7 => some .w4
  | _ => none

/-! ## Tile layout (R332) -/

/-- TILE_BYTES. -/
def WFmt.tileBytes (f : WFmt) : Nat := 256 * (f.blockBytes + 1)
/-- KP of a reduction length. -/
def pairsOf (k : Nat) : Nat := ceilDiv (ceilDiv k 64) 2
/-- Offset of a block's data from the tensor header: column o, block b. -/
def WFmt.dataAt (f : WFmt) (k o b : Nat) : Nat :=
  64 + (o / 128 * pairsOf k + b / 2) * f.tileBytes + (128 * (b % 2) + o % 128) * f.blockBytes
/-- Offset of its scale code. -/
def WFmt.scaleAt (f : WFmt) (k o b : Nat) : Nat :=
  64 + (o / 128 * pairsOf k + b / 2) * f.tileBytes + 256 * f.blockBytes + 128 * (b % 2) + o % 128

/-- A tensor header. -/
def tensorHeader (f : WFmt) (target : Nat) (sw : W32) (cols k : Nat) : List Byte :=
  leBytes 4 sw.toNat ++ leBytes 1 target ++ zeros 3 ++ leBytes 4 cols ++ leBytes 4 (ceilDiv k 64) ++ leBytes 4 f.tileBytes ++ zeros 44

/-- Fields of a chunk head (Table 10.3). -/
structure ChunkHead where
  src : Nat
  target : Nat
  cols : Nat
  red : Nat
  first : Nat
  count : Nat
  tmax : W32
  dest : Nat
  deriving DecidableEq, Repr

/-- Read a chunk head. -/
def chunkHead (d : List Byte) : ChunkHead :=
  { src := u8 d 0, target := u8 d 1, cols := u32 d 4, red := u32 d 8, first := u32 d 0xC, count := u32 d 0x10
    tmax := BitVec.ofNat 32 (u32 d 0x14), dest := u64 d 0x18 }

/-- The head's fields lie in Table 10.3. -/
def headOk (d : List Byte) : Bool :=
  let h := chunkHead d
  [1, 2, 3, 4, 0x10].contains h.src && [1, 2, 4, 5, 6, 7].contains h.target && u16 d 2 == 0 && decide (1 ≤ h.cols) && decide (h.cols ≤ 1048576) &&
  decide (1 ≤ h.red) && decide (h.red ≤ 1048576) && decide (1 ≤ h.count) && decide (h.first + h.count ≤ h.cols) &&
  !fneg h.tmax && !fbad h.tmax && h.dest % 64 == 0 && allZero (slice d 0x20 32) && (h.target != 1 || h.src == 0x10)

/-- The head without FIRST and COUNT: what every chunk of a tensor shares. -/
def headKey (d : List Byte) : List Byte := slice d 0 0xC ++ slice d 0x14 44

/-- Bytes to write, as (offset in the tensor's place, bytes). -/
abbrev Writes := List (Nat × List Byte)

/-- The blocks of one column of a weight tensor, quantised (R329). -/
def columnWrites (f : WFmt) (h : ChunkHead) (sw : W32) (o : Nat) (xs : List W32) : Writes :=
  (List.range (2 * pairsOf h.red)).flatMap (fun b =>
    let seg := (xs.drop (64 * b)).take 64
    if b ≥ ceilDiv h.red 64 then [(f.dataAt h.red o b, zeros f.blockBytes), (f.scaleAt h.red o b, [0x78])]
    else
      let us := seg.map units
      let m := us.foldl (fun a u => Nat.max a u.natAbs) 0
      let swu := magUnits (fmag sw)
      let c := blockCode m swu f.q
      let ws := us.map (fun u => quantElem f u (e5m3 c * swu))
      [(f.dataAt h.red o b, packBlock f ws seg.length), (f.scaleAt h.red o b, [BitVec.ofNat 8 c])])

/-- Columns at O and above, up to the next multiple of 128: zero codes, scale code 0x78. -/
def padWrites (f : WFmt) (h : ChunkHead) : Writes :=
  ((List.range (roundUp h.cols 128 - h.cols)).map (· + h.cols)).flatMap (fun o =>
    (List.range (2 * pairsOf h.red)).flatMap (fun b => [(f.dataAt h.red o b, zeros f.blockBytes), (f.scaleAt h.red o b, [0x78])]))

/-- A native tensor breaks R83, R88 or R89: a reserved scale code, a reserved WT byte, or a tensor scale. -/
def nativeBad (f : WFmt) (h : ChunkHead) (body : List Byte) : Bool :=
  !goodScale (BitVec.ofNat 32 (u32 body 0)) ||
    (List.range (roundUp h.count 128)).any (fun c => (List.range (2 * pairsOf h.red)).any (fun b =>
      let sc := u8 body (f.scaleAt h.red c b)
      sc == 0 || (f == .wt && (List.range 13).any (fun k =>
        let v := u8 body (f.dataAt h.red c b + k)
        decide (v > 242) || (k == 12 && decide (v > 80))))))

/-- Largest magnitude a native chunk of weights represents, in units of 2^−167: |w| × σ × 2^E × s_w (03 R92). -/
def nativeMax (f : WFmt) (h : ChunkHead) (body : List Byte) : Nat :=
  let sw := magUnits (fmag (BitVec.ofNat 32 (u32 body 0)))
  (List.range h.count).foldl (fun a c => (List.range (ceilDiv h.red 64)).foldl (fun a b =>
    let d := slice body (f.dataAt h.red c b) f.blockBytes
    let m := (List.range (Nat.min 64 (h.red - 64 * b))).foldl (fun m j => Nat.max m ((f.weight d j).getD 0).natAbs) 0
    Nat.max a (m * e5m3 (u8 body (f.scaleAt h.red c b)) * sw)) a) 0

/-- Largest FP32 magnitude of a list, in units of 2^−167. -/
def largestOf (l : List W32) : Nat := l.foldl (fun a w => Nat.max a (magUnits (fmag w) * 2 ^ 18)) 0

/-- A native chunk of A8 rows, each K codes and an FP32 row scale (R318; 04 R122): its row scales and its largest magnitude. -/
def nativeRows (h : ChunkHead) (body : List Byte) : List W32 × Nat :=
  let rows := (List.range h.count).map (fun r => slice body (r * (h.red + 4)) (h.red + 4))
  (rows.map (fun r => BitVec.ofNat 32 (u32 r h.red)),
    rows.foldl (fun a r => Nat.max a ((r.take h.red).foldl (fun m c => Nat.max m (toSigned 8 c.toNat).natAbs) 0 *
      magUnits (fmag (BitVec.ofNat 32 (u32 r h.red))) * 2 ^ 18)) 0)

/-- What a decoded TENSOR chunk comes to: the writes, the bytes written, the largest magnitude, a native fault; or a status. -/
def convertTensor (d : List Byte) : Except Nat (Writes × Nat × Nat × Bool) :=
  if d.length < 64 then .error 0x07
  else if !headOk d then .error 0x08
  else
    let h := chunkHead d
    let body := d.drop 64
    if h.src = 0x10 then
      match fmtOf h.target with
      | some f =>
        let want := 64 + ceilDiv h.count 128 * pairsOf h.red * f.tileBytes
        if body.length ≠ want then .error 0x07
        else
          let tiles := (64 + h.first / 128 * pairsOf h.red * f.tileBytes, body.drop 64)
          .ok ([(0, body.take 64), tiles], body.length, nativeMax f h body, nativeBad f h body)
      | none =>
        let row := if h.target = 1 then h.red + 4 else 4 * h.red
        if body.length ≠ h.count * row then .error 0x07
        else
          let x := if h.target = 1 then nativeRows h body
            else let l := (List.range (h.count * h.red)).map (fun k => BitVec.ofNat 32 (u32 body (4 * k))); (l, largestOf l)
          if x.1.any fbad then .error 0x08 else .ok ([(h.first * row, body)], body.length, x.2, false)
    else
      let size := sourceBytes h.src
      if body.length ≠ h.count * h.red * size then .error 0x07
      else
        let elems := (List.range (h.count * h.red)).map (sourceElem h.src body)
        if elems.any Option.isNone then .error 0x08
        else
          let xs := elems.filterMap id
          let m := largestOf xs
          match fmtOf h.target with
          | some f =>
            let sw := tensorScale h.tmax f.q
            let head : Writes := if h.first = 0 then [(0, tensorHeader f h.target sw h.cols h.red)] else []
            let cols := (List.range h.count).flatMap (fun c => columnWrites f h sw (h.first + c) ((xs.drop (c * h.red)).take h.red))
            let pad := if h.first + h.count = h.cols then padWrites f h else []
            let ws := head ++ cols ++ pad
            .ok (ws, sumNat (ws.map (fun w => w.2.length)), m, false)
          | none =>
            let bytes := (xs.map (fun w => leBytes 4 w.toNat)).flatten
            .ok ([(4 * h.first * h.red, bytes)], bytes.length, m, false)

/-! ## Conversion (R325, R331) -/

/-- Write bytes of a part of a copy: the part's base plus offsets. -/
def State.writePart (s : State) (base : Nat) (ws : Writes) : State :=
  ws.foldl (fun t w => t.hbmPut (base + w.1) w.2 (mkTag t.oddNow 0)) s

/-- The tensor's running record with one more chunk; none where its head differs from those before (Table 10.5, TENSOR_MAX). -/
def tensorStep (l : List TensorSeen) (idx chunk : Nat) (d : List Byte) (m : Nat) (bad : Bool) : Option (List TensorSeen) :=
  let old := (l.find? (fun t => t.tensor == idx)).getD { tensor := idx, head := headKey d }
  if old.head ≠ headKey d then none
  else some (l.filter (fun x => x.tensor != idx) ++ [{ old with largest := Nat.max old.largest m, bad := old.bad || bad, last := chunk }])

/-- The first refusal of R331 among the tensors of a load: its status, and the chunk it names. -/
def tensorFault (l : List TensorSeen) : Option (Nat × Nat) :=
  l.findSome? (fun t =>
    if t.largest ≠ magUnits (fmag (BitVec.ofNat 32 (u32 t.head 0xC))) * 2 ^ 18 then some (0x09, t.last)
    else if t.bad then some (0x08, t.last) else none)

/-- The parts a chunk of the load is written to: false own, true twin (R322, R325, R342). -/
def State.partsOf (s : State) (e : ChunkEntry) : List Bool :=
  let own := (e.shard == s.num O.shardOwn || e.shard == 0xFFFF) && s.wts.load != .twinPhase
  let twin := e.shard == s.num O.shardTwin && (s.wts.load == .twinPhase || !s.wts.thin)
  (if own then [false] else []) ++ (if twin then [true] else [])

/-- Convert a TENSOR chunk of the load. -/
def State.convertChunk (s : State) (i : Nat) (e : ChunkEntry) (d : List Byte) : State :=
  match convertTensor d with
  | .error st => s.abortLoad st i
  | .ok (ws, n, m, bad) =>
    if n ≠ e.outBytes then s.abortLoad 0x08 i
    else
      match tensorStep s.wts.tensors (e.tensor + 2 ^ 32 * e.shard) i d m bad with
      | none => s.abortLoad 0x09 i
      | some ts =>
        let c := s.wts.copy s.wts.slot
        let h := chunkHead d
        let len := ws.foldl (fun a w => Nat.max a (w.1 + w.2.length)) 0
        let parts := s.partsOf e
        let put := parts.map (fun part => ({ part := part, offset := h.dest, bytes := len, common := e.shard == 0xFFFF } : Placed))
        let s := parts.foldl (fun t part => t.writePart (t.areaBase (if part then c.twin else c.own) + h.dest) ws) s
        { s with wts := { s.wts.setCopy s.wts.slot { c with placed := c.placed ++ put } with tensors := ts, converted := s.wts.converted ++ [i] } }

/-- Convert a TEMPLATE chunk: its header is read and its addresses are checked (R318, R323). It is written, relocated, when every chunk of
the load has been converted, since its place follows from the last tensor byte (R322). -/
def State.convertTemplate (s : State) (i : Nat) (e : ChunkEntry) (d : List Byte) : State :=
  match Config.templateLayout d with
  | none => s.abortLoad 0x0A 1
  | some l =>
    if !l.fits d.length then s.abortLoad 0x0A 1
    else if d.length ≠ e.outBytes then s.abortLoad 0x08 i
    else if (relocateChunk l d s.node 0 0).isNone then s.abortLoad 0x0A 1
    else
      let seg : Segment := { bytes := d, lay := l }
      let put := fun (c : Copy) (part : Bool) => if part then { c with twinSeg := some seg }
        else if e.shard = 0xFFFF then { c with draftSeg := some seg } else { c with ownSeg := some seg }
      { s with wts := { s.wts.setCopy s.wts.slot ((s.partsOf e).foldl put (s.wts.copy s.wts.slot)) with converted := s.wts.converted ++ [i] } }

/-! ## The templates of a copy (R322, R323) -/

/-- A model's shape: LAYERS and GEOMETRY of the manifest, and the query heads its template declares. -/
def shapeOf (layers geometry group : Nat) : Geometry :=
  if layers = 0 then {} else { layers := layers, heads := bits geometry 15 8 + 1, dim := 64 * (bits geometry 7 6 + 1), group := group }

/-- A segment as it is written for a node and the base of the part it is relocated against. -/
def Segment.relocated (g : Segment) (node : Node) (part work : Nat) : List Byte := (relocateChunk g.lay g.bytes node part work).getD g.bytes

/-- The template of a segment, relocated, with the draft model's segment after it, and its rotary rates. -/
def State.templateOf (s : State) (c : Copy) (g : Segment) (part : Option Nat) : Template :=
  let work := s.num O.workBase
  let t := readTemplate g.lay (shapeOf c.layers c.geometry g.lay.group) {} c.vocab (g.relocated s.node (s.areaBase part) work)
  let t := match c.draftSeg with
    | none => t
    | some e => t.append (readTemplate e.lay {} (shapeOf c.draftLayers c.draftGeometry e.lay.group) c.vocab (e.relocated s.node (s.areaBase c.own) work))
  t.withRates s

/-- A copy with the templates of its segments. -/
def State.withTemplates (s : State) (c : Copy) : Copy :=
  { c with templ := c.ownSeg.map (fun g => s.templateOf c g c.own), twinTempl := c.twinSeg.map (fun g => s.templateOf c g c.twin) }

/-- Write the relocated templates of a copy, one after another from the template base of its own part. -/
def State.writeTemplates (s : State) (c : Copy) : State :=
  let img := (c.segments.map (fun g => g.1.relocated s.node (s.areaBase g.2) (s.num O.workBase))).flatten
  s.hbmPut (s.areaBase c.own + c.templateBase) img (mkTag s.oddNow 0)

/-- The number of the first check of Table 4.2 that a copy's templates fail; a copy with no own template fails check 1. -/
def Copy.templateFault (s : State) (c : Copy) : Nat :=
  match c.templ with
  | none => 1
  | some t => if t.fault s ≠ 0 then t.fault s else ((c.twinTempl.map (fun u => u.fault s)).getD 0)

/-- Every chunk of the load is converted: R331's checks, the templates and theirs, then the slot is READY, and LIVE when no copy is (R324,
R325, R342). -/
def State.finishLoad (s : State) : State :=
  let w := s.wts
  if !(w.load = .active ∨ w.load = .twinPhase) || s.loadChunks.any (fun i => !w.converted.contains i) then s
  else match tensorFault w.tensors with
    | some (st, i) => s.abortLoad st i
    | none =>
      let c := s.withTemplates (w.copy w.slot)
      let s := s.writeTemplates c
      let f := c.templateFault s
      if f ≠ 0 then s.abortLoad 0x0A f
      else if w.load = .twinPhase then
        ({ s with wts := { w.setCopy w.slot { c with thin := false } with load := .done, thin := false } }).icxEvent 0x070
      else
        let c := { c with st := if s.hasLive then .ready else .live, swTick := 0 }
        ({ s with wts := { w.setCopy w.slot c with load := if w.thin then .twinWait else .done, converted := if w.thin then [] else w.converted } }).icxEvent 0x070

/-- CHUNK_CONVERT: the tannery takes the post at the front of its queue (R325). -/
def chunkConvert (s : State) : State :=
  match s.wts.posts with
  | [] => s
  | p :: rest =>
    let s := { s with wts := { s.wts with posts := rest } }
    let i := p.toNat % 2 ^ 32
    let off := p.toNat / 2 ^ 32 * 64
    let e := chunkEntry s.wts.manifest i
    if !(s.wts.load = .active ∨ s.wts.load = .twinPhase) || decide (i ≥ manifestChunks s.wts.manifest) || !s.inLoad e ||
        s.wts.converted.contains i then s.bump O.loadIgnored
    else
      let stored := (s.peek (s.num O.stagingBase + off) e.bytes).1
      let s := s.readBad [(s.num O.stagingBase + off, e.bytes)]
      if sha3 stored ≠ e.digest then s.abortLoad 0x06 i
      else
        let dec := if e.zstd then Zstd.decompress stored else some stored
        match dec with
        | none => s.abortLoad 0x07 i
        | some d =>
          let t := if e.template then s.convertTemplate i e d else s.convertChunk i e d
          if t.wts.load.runs then (t.bump O.loadReleased).finishLoad else t

/-! ## Areas (R320) -/

/-- An area lies in WEIGHTS regions in use. -/
def State.areaInWeights (s : State) (a : Nat × Nat) : Bool :=
  decide (a.1 + a.2 ≤ 196608) && (a.2 == 0 ||
    (s.pageClass a.1 == .weights && ((regionEdges s s).filter (fun p => decide (a.1 < p) && decide (p < a.1 + a.2))).all (fun p => s.pageClass p == .weights)))

/-- A write of an area or of AREA_COUNT. -/
def State.areaWrite (s : State) (key v : Nat) : Nat × State :=
  let entry := key ≠ O.areaCount.key
  if entry ∧ v ≥ 2 ^ 36 then (Err.range, s)
  else
    let t := s.storeNum key v
    let n := s.num O.areaCount
    -- the areas the write changes or brings into use
    let mine := if entry then (if key - O.areaCount.key ≤ n then [key - O.areaCount.key - 1] else []) else (List.range v).drop n
    let bad := fun (i : Nat) => !t.areaInWeights (t.area i) ||
      (List.range (t.num O.areaCount)).any (fun j => j != i && runsMeet (t.area i) (t.area j))
    if mine.any bad then (Err.area, s) else (Err.ok, t)

/-! ## The switch (R333 to R341) -/

/-- The set told of a switch in a name: the name's bond and its twin, this package left out (R335). -/
def State.switchSet (s : State) (name : Node) : List Node :=
  ((if name = s.node then s.bond ++ [s.twinNode] else s.twinBond).filter (fun n => n != s.node && n != name)).eraseDups

/-- The names a package speaks in: its own, and the covered member's while it covers. -/
def State.names (s : State) : List Node := s.node :: (if s.pkg.st = .covering then s.mir.covered.toList else [])

/-- A write to SWITCH_REQUEST (R333, R54). -/
def State.switchRequest (s : State) (req : List Byte) : Nat × State :=
  let t := u64 req 0
  let ep := BitVec.ofNat 32 (u32 req 8)
  let due : Tick := BitVec.ofNat 48 t
  let gap := Tick.since due s.clk.tick
  if t ≥ 2 ^ 48 ∨ u32 req 0xC ≠ 0 then (Err.range, s)
  else match [s.wts.k0, s.wts.k1].find? (fun c => c.st == .ready && c.epoch == ep) with
    | none => (Err.notReady, s)
    | some c =>
      if s.wts.sw = .pending ∨ s.wts.sw = .confirmed then (Err.switchPending, s)
      else if s.clk.mode = .holdover then (Err.holdover, s)
      else if !s.clk.held then (Err.state, s)
      else if !Tick.after due s.clk.tick || decide (gap < s.num O.switchConfirm + 1000) then (Err.tickPast, s)
      else if gap > 2 ^ 32 then (Err.tickFar, s)
      else if s.pendingEvents ≥ 1024 then (Err.busy, s)
      else
        let s := (s.schedule due (.weightSwitch ep)).schedule (due - BitVec.ofNat 48 (s.num O.switchConfirm)) .switchConfirm
        let s := { s with wts := { s.wts with sw := .pending, swTick := due, swEpoch := ep } }
        (Err.ok, s.names.foldl (fun u nm => (u.switchSet nm).foldl (fun v n => v.send n (.switchNotice nm due ep c.digest)) u) s)

/-- SWITCH_NOTICE from a node: kept, the latest of each node (R335). -/
def switchNotice (s : State) (src : Node) (at_ : Tick) (epoch : W32) (digest : List Byte) : State :=
  { s with wts := { s.wts with notices := s.wts.notices.filter (fun n => n.1 != src) ++ [(src, at_, epoch, digest)] } }

/-- Cancel the pending or confirmed switch: the event goes, the set is told, WEIGHT_SWITCH is raised (R336). -/
def State.cancelSwitch (s : State) : State :=
  let s := s.unschedule (fun e => match e with | .weightSwitch _ => true | .switchConfirm => true | _ => false)
  let s := s.names.foldl (fun u nm => (u.switchSet nm).foldl (fun t n => t.send n (.switchCancel s.wts.swEpoch)) u) s
  (({ s with wts := { s.wts with sw := .cancelled } }).raise srcTannery 0 0x50 1 0).icxEvent 0x074

/-- SWITCH_CONFIRM at TICK − SWITCH_CONFIRM: matching notices from every other bond member in the current membership and from
the twin, unless it has failed, confirm the switch; otherwise it is cancelled (R336). -/
def switchConfirm (s : State) : State :=
  match s.dueEvent (fun e => e == .switchConfirm) with
  | none => s
  | some _ =>
    let s := s.unschedule (fun e => e == .switchConfirm)
    if s.wts.sw ≠ .pending then s
    else
      let dg := match [s.wts.k0, s.wts.k1].find? (fun c => c.epoch == s.wts.swEpoch && c.st != .absent) with
        | some c => c.digest
        | none => []
      let members := (List.range (s.num O.bondCount)).filter (fun i => s.crs.own.members.getLsbD i) |>.map s.bondMember
      let need := ((members ++ (if s.mir.twinFailed then [] else [s.twinNode])).filter (fun n => n != s.node)).eraseDups
      if need.all (fun n => s.wts.notices.any (fun x => x == (n, s.wts.swTick, s.wts.swEpoch, dg))) then
        { s with wts := { s.wts with sw := .confirmed } }.icxEvent 0x072
      else s.cancelSwitch

/-- SWITCH_CANCEL from a node (R336, R337). -/
def switchCancel (s : State) (epoch : W32) : State :=
  if (s.wts.sw = .pending ∨ s.wts.sw = .confirmed) ∧ s.wts.swEpoch = epoch then s.cancelSwitch
  else if s.wts.sw = .done ∧ s.wts.swEpoch = epoch then s.raise srcTannery 0 0x51 3 0
  else s

/-- Some course that runs or is formed uses the outgoing copy. -/
def State.usesOutgoing (s : State) : Bool :=
  [s.crs.own, s.crs.covered].any (fun st => (st.running && (s.wts.copy st.copySlot).st == .outgoing) ||
    (st.nextNominal.isSome && (s.wts.copy st.nextSlot).st == .outgoing))

/-- The outgoing copy is READY again when no course uses it; a thin load then takes its area for the twin part (R338, R342). -/
def State.retireOutgoing (s : State) : State :=
  let k := if s.wts.k0.st = .outgoing then some 0 else if s.wts.k1.st = .outgoing then some 1 else none
  match k with
  | none => s
  | some k =>
    if s.usesOutgoing then s
    else
      let c := s.wts.copy k
      if s.wts.load = .twinWait then
        let n := s.wts.copy s.wts.slot
        let w := s.wts.setCopy k {}
        { s with wts := { w.setCopy s.wts.slot { n with twin := c.own } with load := .twinPhase, converted := [], tensors := [] } }
      else { s with wts := s.wts.setCopy k { c with st := .ready } }

/-- WEIGHT_SWITCH at its tick (R338, R341). -/
def weightSwitch (s : State) : State :=
  match s.dueEvent (fun e => match e with | .weightSwitch _ => true | _ => false) with
  | none => s
  | some e =>
    let s := s.unschedule (fun e => match e with | .weightSwitch _ => true | _ => false)
    if s.wts.sw ≠ .confirmed then s
    else
      let f := fun (c : Copy) =>
        if c.st == .ready && c.epoch == s.wts.swEpoch then { c with st := .live, swTick := e.due }
        else if c.st == .live then { c with st := .outgoing } else c
      let s := { s with wts := { s.wts with k0 := f s.wts.k0, k1 := f s.wts.k1, sw := .done } }.icxEvent 0x073
      -- a thin copy has no twin part at TICK, though retiring the outgoing one gives it an area for one (R341, R342)
      if s.liveCopy.hasTwin then s.retireOutgoing else s.retireOutgoing.coveredLost

/-! ## Twin fetches (13 R434; R340) -/

/-- Read n bytes for a twin, none when a word of them is uncorrectable. -/
def State.readGranule (s : State) (a n : Nat) : Option (List Byte) :=
  let r := s.hbmGet a n
  if r.2 then none else some r.1

/-- A copy as its twin lays it out: own and twin part change places, and the common tensors lie in the twin's own part (R322). -/
def Copy.mirrored (c : Copy) : Copy :=
  { c with
    placed := (c.placed.filter (fun p => p.part || p.common)).map (fun p => { p with part := false }) ++
      (c.placed.filter (fun p => !p.part && !p.common)).map (fun p => { p with part := true })
    ownSeg := c.twinSeg, twinSeg := c.ownSeg }

/-- Bytes of the two parts of a copy, whole granules: tensors, then the own part's templates. -/
def Copy.partSizes (c : Copy) : Nat × Nat := (roundUp (c.extent false) 256, roundUp (c.extent true) 256)

/-- The area layout of a copy as a restore header carries it, in its receiver's terms. -/
def Copy.layout (c : Copy) : CopyLayout :=
  let size := fun (g : Option Segment) => g.map (fun x => (x.bytes.length, x.lay))
  let m := c.mirrored
  { placed := m.placed, own := size m.ownSeg, draft := size m.draftSeg, twin := size m.twinSeg, vocab := c.vocab, layers := c.layers
    geometry := c.geometry, draftLayers := c.draftLayers, draftGeometry := c.draftGeometry }

/-- Bytes of the requester's templates from an offset past its template base on: from the held ones, rebased to the requester's bases (13
R434); none when a word of those held is uncorrectable. -/
def State.heldTemplates (s : State) (c : Copy) (src : Node) (own twin off : Nat) : Option (List Byte) :=
  let work := s.num O.workBase
  let img := (c.mirrored.segments.map (fun g => (g.1.relocated src (if g.2 = c.twin then twin else own) work))).flatten
  if (s.hbmGet (s.areaBase c.own + c.templateBase) c.templateBytes).2 then none else some (slice img off 256)

/-- The granule a fetch is served with: none is FAILED (R340; 13 R434). -/
def State.fetched (s : State) (port : Nat) (src : Node) (epoch : W32) (part : Bool) (own twin off : Nat) : Option (List Byte) :=
  let okState := s.mir.st == .mirroring || (s.mir.st == .restoring && port == 18 && src == s.twinNode)
  match [s.wts.k0, s.wts.k1].find? (fun c => c.epoch == epoch && (c.st == .ready || c.st == .live || c.st == .outgoing)) with
  | none => none
  | some c =>
    let m := c.mirrored
    let base := m.templateBase
    if !okState then none
    else if part then (if off < m.top (·.part) then s.readGranule (s.areaBase c.own + off) 256 else none)
    else if !c.hasTwin then
      (if m.placed.any (fun p => p.common && !p.part && decide (p.offset < off + 256) && decide (off < p.offset + p.bytes)) then
        s.readGranule (s.areaBase c.own + off) 256 else none)
    else if off < m.top (fun p => !p.part && !p.common) then s.readGranule (s.areaBase c.twin + off) 256
    else if off < base then s.readGranule (s.areaBase c.own + off) 256
    else if off < base + m.templateBytes then s.heldTemplates c src own twin (off - base)
    else none

/-- A twin fetch is answered with a granule or FAILED (R434). -/
def State.serveFetch (s : State) (port : Nat) (src : Node) (epoch : W32) (part : Bool) (own twin off : Nat) : State :=
  match s.fetched port src epoch part own twin off with
  | some g => (s.bump O.twinFetchesServed).send src (.twinData (some g))
  | none => s.send src (.twinData none)

/-! ## The commands -/

/-- SWITCH_CANCEL. -/
def execSwitchCancel (_src : Node) (epoch : W32) (s : State) : Host.Outcome State Fault Refusal := .next (switchCancel s epoch)
/-- CHUNK_CONVERT. -/
def execChunkConvert (s : State) : Host.Outcome State Fault Refusal :=
  .next (chunkConvert s)
/-- SWITCH_NOTICE. -/
def execSwitchNotice (src : Node) (at_ : Tick) (epoch : W32) (digest : List Byte) (s : State) : Host.Outcome State Fault Refusal :=
  .next (switchNotice s src at_ epoch digest)
end Sys2Proof.Machine
end

