-- ==== Sys2Proof/Machine/Faults.lean ====
section
/-! DEFINITION. The fault collector: intake, records, reactions, traps, the watchdog (15_faults_and_interrupts.md R490 to R507). -/

namespace Sys2Proof.Machine

/-! ## Records (R494, R498, R548) -/

/-- Record a message with the reaction it carries. -/
def State.recordFault (s : State) (m : FaultMsg) (reaction : Nat) : State :=
  let w := m.bits reaction
  let s := { s with fcu := { s.fcu with log := ringPush 1024 s.fcu.log w } }
  let s := (s.bump O.faultIndex 64).bump (O.faultCount m.cls) 64
  let s := if m.cls ≥ 2 ∨ m.kind = 0x8B then s.vauxStore w m.cls else s
  let s := if s.errFor m.source m.cls then s.assertErr else s
  if reaction = 0 then s
  else
    let s := s.icxEvent 0x002
    if m.cls ≤ 3 then s.icxEvent (0x010 + m.cls) else s

/-! ## Reactions -/

/-- TRAP as part of a reaction that resets or stops the package (R493): there is no overrun to raise. -/
def State.lastTrap (s : State) (m : FaultMsg) (reaction : Nat) : State :=
  let c := s.num O.trapCore
  let c := if m.source = srcControl c then (c + 1) % 4 else c
  if s.fcu.traps.length ≥ 8 then s else { s with fcu := { s.fcu with traps := s.fcu.traps ++ [(c, m.bits reaction)] } }

/-- TRAP (R505): to TRAP_CORE, or to the next control core when that one is the source. -/
def State.trap (s : State) (m : FaultMsg) (reaction : Nat) : State :=
  let c := s.num O.trapCore
  let c := if m.source = srcControl c then (c + 1) % 4 else c
  if s.fcu.traps.length ≥ 8 then s.raise srcFcu 0 0x04 3 0
  else { s with fcu := { s.fcu with traps := s.fcu.traps ++ [(c, m.bits reaction)] } }

/-- Kinds that a running instance's own execution raises at its core (04 R146): ARITH_SCALE, ARITH_RANGE, ASHLAR_SHAPE, ASHLAR_POISON,
KV_STATE, KV_LIMIT, MEM_STALE, and SRAM_UE met by the core. -/
def ownKind (kind : Byte) : Bool := [0x20, 0x21, 0x22, 0x24, 0x30, 0x31, 0x45, 0x47].contains kind.toNat

/-- The instance a core runs raised the message itself: it ran when the message was raised (04 R146). -/
def State.ownFault (s : State) (m : FaultMsg) : Bool := ownKind m.kind && m.running.isSome && m.running == (s.coreAt m.source).running

/-- Block reset of a control core: its active stack is emptied, and its watchdog waits for the first kick (R506). -/
def State.resetControl (s : State) (c : Nat) : State :=
  { s with
    icx := { s.icx with active := (s.icxStack c).foldl (fun m x => setBit512 m x false) s.icx.active, running := SMap.set [] s.icx.running c [] }
    fcu := { s.fcu with kicks := SMap.del s.fcu.kicks c } }

/-- Block reset of the host bridge: outstanding host requests complete as under R422, and port H retrains. -/
def State.resetBridge (s : State) : State :=
  let fail := fun (p : HostPart) => if p.done.isSome then p else
    { p with done := some (8, if p.op = 2 then [] else poisonBytes p.size) }
  let s := { s with fab := { s.fab with
      outs := s.fab.outs.filter (fun (o : OutReq) => o.who != Requester.host)
      hostOps := s.fab.hostOps.map (fun (h : HostOp) => { h with parts := h.parts.map fail }) } }
  let s := s.sweepHost
  if s.num O.bridgeEnable = 1 then pcieStateChange s 1 0 0 else s

/-- Block reset of a link port (Table 15.5): the port goes to DOWN under R353; port H retrains. -/
def State.resetPort (s : State) (p : Nat) : State :=
  if p = 19 then pcieStateChange s 1 0 0
  else
    let r := s.port p
    let up := r.st == .active || r.st == .miswired || r.st == .foreign
    if r.st = .disabled then s
    else
      let s := s.putPort p r.down
      if up then s.raise (srcPort p) 0 0x60 1 p else s

/-- Block reset by source (Table 15.5). With the last of its cores a quarter is withdrawn and leaves the gang at once (02 R56; log entry
61). -/
def State.blockReset (s : State) (m : FaultMsg) : State :=
  let src := m.source
  if src < 384 then
    let s := s.withdrawCore src (s.ownFault m)
    let s := s.setCore src { s.coreAt src with awaitTest := true }
    let s := if (quarterCores (src / 96)).all (fun g => (s.coreAt g).st == .withdrawn) then s.withdrawQuarter (src / 96) else s
    { s with fcu := { s.fcu with resetting := s.fcu.resetting.filter (fun r => r.1 != src) ++ [(src, s.us + 50)] } }
  else if 0x1A0 ≤ src ∧ src ≤ 0x1B3 then s.resetPort (src - 0x1A0)
  else if 0x1C0 ≤ src ∧ src ≤ 0x1C3 then s.resetControl (src - 0x1C0)
  else if src = srcTannery then s.abortLoad 0x0C 0
  else if src = srcBridge then s.resetBridge
  else s

/-- Steps 3 to 5 of R501: FAIL_NOTICE to the twin, the fence. -/
def State.failSteps (s : State) (kind : Byte) : State :=
  let s := if s.lnk.plumb.ident.isSome then s.send s.twinNode (.failNotice kind) else s
  s.fence

/-- GRAVE (R502): CMD STOP to the plinth, the state, GRAVE_LAST; a flash write in progress is abandoned. -/
def State.takeGrave (s : State) (last : BitVec 128) (kind : Byte) : State :=
  let s := (s.failSteps kind).plinthSend 2
  let s := s.transition .grave
  { s with sec := { s.sec with job := none, graveLast := some last } }

/-- A management-timer count of STORM_WINDOW (R503), µs. -/
def stormWindow : Nat := 600000000

/-- CHIP_RESET (R501), or GRAVE in its place when it would be the third within STORM_WINDOW (R503). -/
def State.chipReset (s : State) (m : FaultMsg) : State :=
  let recent := s.fcu.resets.filter (fun t => decide (s.us < t + stormWindow))
  if recent.length + 1 ≥ s.num O.stormLimit then
    let s := (s.recordFault m 5).lastTrap m 5
    let q := (SMap.get 0 s.fcu.seqs srcFcu + 1) % 8
    let s := { s with fcu := { s.fcu with seqs := SMap.set 0 s.fcu.seqs srcFcu q } }
    let g : FaultMsg := { tick := s.now, source := srcFcu, part := 0, kind := 0x05, cls := 4, addr := BitVec.ofNat 47 m.kind.toNat, seq := q }
    ((s.recordFault g 5).lastTrap g 5).takeGrave (g.bits 5) m.kind
  else
    let s := ((s.recordFault m 4).lastTrap m 4).failSteps m.kind
    let s := { s.bump O.chipResets with fcu := { (s.bump O.chipResets).fcu with resets := recent ++ [s.us] } }
    s.transition .halt

/-- A block reset of the source is still in progress (R495). -/
def State.stillResetting (s : State) (src : Nat) : Bool := s.fcu.resetting.any (fun r => r.1 == src && decide (s.us < r.2))

/-- Record a message and start its reaction (R492, R493, R495, R499, R501 to R503). -/
def State.react (s : State) (m : FaultMsg) : State :=
  let r := s.reactionOf m.source m.cls
  let halted := s.pkg.st == .halt || s.pkg.st == .stopped || s.pkg.st == .grave || s.pkg.st == .off
  let overtaken := halted && (decide (m.cls ≤ 3) || s.pkg.tickStart == s.pkg.st) ||
    m.cls == 3 && s.fcu.urgent.any (fun x => decide (x.cls ≥ 4))
  if overtaken then s.recordFault m 0
  else if r ≤ 3 ∧ s.stillResetting m.source then s.recordFault m 0
  else if r = 5 then ((s.recordFault m 5).lastTrap m 5).takeGrave (m.bits 5) m.kind
  else if r = 4 then s.chipReset m
  else
    let s := s.recordFault m r
    let s := if r ≥ 2 then s.trap m r else s
    if r = 3 then s.blockReset m else s

/-! ## Intake (R496, R497) -/

/-- The rate interval: 1,000 ticks, starting at multiples of 1,000. -/
def State.rollRate (s : State) : State :=
  let n := s.clk.tick.toNat / 1000
  if s.fcu.rateAt = n then s else { s with fcu := { s.fcu with rateAt := n, rate := [], overflowed := [] } }

/-- A class-0 or class-1 message that is not recorded: FAULTS_DROPPED, and once an interval for its source an FCU_OVERFLOW message, which
the FCU records and reacts to itself. -/
def State.dropFault (s : State) (m : FaultMsg) : State :=
  let s := s.bump O.faultsDropped 64
  if s.fcu.overflowed.contains m.source then s
  else
    let q := (SMap.get 0 s.fcu.seqs srcFcu + 1) % 8
    let s := { s with fcu := { s.fcu with overflowed := s.fcu.overflowed ++ [m.source], seqs := SMap.set 0 s.fcu.seqs srcFcu q } }
    s.react { tick := s.now, source := srcFcu, part := 0, kind := 0x01, cls := 0, addr := BitVec.ofNat 47 m.source, seq := q }

/-- Class-2 messages held back join the queue when it has room. -/
def State.refill (s : State) : State :=
  match s.fcu.heldBack with
  | [] => s
  | m :: rest => if s.fcu.intake.length < 64 then { s with fcu := { s.fcu with intake := s.fcu.intake ++ [m], heldBack := rest } } else s

/-- Count a recorded message of a source in the rate interval (R497): FCU_OVERFLOW counts for nothing. -/
def State.countRate (s : State) (m : FaultMsg) : State :=
  if m.source = srcFcu ∧ m.kind = 0x01 then s
  else { s with fcu := { s.fcu with rate := SMap.set 0 s.fcu.rate m.source (SMap.get 0 s.fcu.rate m.source + 1) } }

/-- FAULT_INTAKE: a message that bypasses the queue first, else the head of the queue. With the FCU's clocks halted only the former
are recorded (R499). -/
def faultIntake (s : State) : State :=
  let s := s.rollRate
  match s.fcu.urgent with
  | m :: rest => (({ s with fcu := { s.fcu with urgent := rest } } : State).countRate m).react m
  | [] =>
    if s.pkg.st.mgmtOnly || s.pkg.st == .off then s
    else match s.fcu.intake with
      | [] => s.refill
      | m :: rest =>
        let s := { s with fcu := { s.fcu with intake := rest } }.refill
        if m.cls ≤ 1 ∧ SMap.get 0 s.fcu.rate m.source ≥ s.num O.faultRate then s.dropFault m
        else (s.countRate m).react m

/-! ## Traps, watchdog, injection (R505 to R507) -/

/-- FCU_TRAP_DONE: the head trap is removed. -/
def fcuTrapDone (s : State) (who : Requester) (v : W32) : State :=
  if !isCtl who then s.refuseReg 0x03000020
  else if v.toNat % 2 = 1 then { s with fcu := { s.fcu with traps := s.fcu.traps.drop 1 } } else s

/-- FCU_KICK of control core c. -/
def fcuKick (s : State) (who : Requester) (c : Fin 4) (v : W32) : State :=
  if !isCtl who then s.refuseReg (0x03000030 + 4 * c.val)
  else if v.toNat % 2 = 1 then { s with fcu := { s.fcu with kicks := SMap.put s.fcu.kicks c s.us } } else s

/-- WATCHDOG: WATCHDOG_PERIOD has passed since the last kick. -/
def watchdog (s : State) (c : Fin 4) : State :=
  match SMap.find s.fcu.kicks c with
  | none => s
  | some t =>
    if s.us < t + 1000 * s.num O.watchdogPeriod then s
    else { s with fcu := { s.fcu with kicks := SMap.del s.fcu.kicks c } }.raise (srcControl c.val) 0 0x03 3 0

/-- The fault kinds of Table 15.3. -/
def knownKind (k : Nat) : Bool :=
  (decide (1 ≤ k) && decide (k ≤ 7)) || (decide (0x10 ≤ k) && decide (k ≤ 0x14)) || (decide (0x20 ≤ k) && decide (k ≤ 0x26)) ||
    (decide (0x30 ≤ k) && decide (k ≤ 0x32)) || (decide (0x40 ≤ k) && decide (k ≤ 0x47)) || k == 0x50 || k == 0x51 ||
    (decide (0x60 ≤ k) && decide (k ≤ 0x69)) || (decide (0x70 ≤ k) && decide (k ≤ 0x73)) || (decide (0x80 ≤ k) && decide (k ≤ 0x8C)) ||
    (decide (0x90 ≤ k) && decide (k ≤ 0x93))

/-- FCU_INJECT: the write of FCU_INJECT3 submits the message as if its source had raised it, in DRAINED and for classes 0 to 2 of a
known kind; otherwise it is refused. -/
def fcuInject (s : State) (who : Requester) (word3 : W32) : State :=
  if !isCtl who then s.refuseReg 0x0300004C
  else
    let ws := s.fcu.inject
    let v := (ws.getD 0 0).toNat + (ws.getD 1 0).toNat * 2 ^ 32 + (ws.getD 2 0).toNat * 2 ^ 64 + word3.toNat * 2 ^ 96
    let cls := bits v 55 53
    if s.pkg.st ≠ .drained ∨ cls ≥ 3 ∨ !knownKind (bits v 63 56) then s
    else s.raise (bits v 73 64) (bits v 79 74) (bits v 63 56) cls (bits v 49 3)

/-! ## Objects (R494, R498, R502) -/

/-- ERR_CLEAR: refused in GRAVE. -/
def State.errClearWrite (s : State) : Nat × State := if s.pkg.st = .grave then (Err.state, s) else (Err.ok, s.releaseErr)

/-- FAULT_LOG_CLEAR. -/
def State.logClearWrite (s : State) : Nat × State := (Err.ok, { s with fcu := { s.fcu with log := [] } })

/-- GRAVE_CLEAR. -/
def State.graveClearWrite (s : State) : Nat × State := (Err.ok, { s with sec := { s.sec with graveLast := none } })

/-! ## The commands -/

/-- FAULT_INTAKE. -/
def execFaultIntake (s : State) : Host.Outcome State Fault Refusal :=
  .next (faultIntake s)
/-- FCU_TRAP_DONE. -/
def execFcuTrapDone (who : Requester) (v : W32) (s : State) : Host.Outcome State Fault Refusal :=
  .next (fcuTrapDone s who v)
/-- FCU_KICK. -/
def execFcuKick (who : Requester) (c : Fin 4) (v : W32) (s : State) : Host.Outcome State Fault Refusal :=
  .next (fcuKick s who c v)
/-- WATCHDOG. -/
def execWatchdog (c : Fin 4) (s : State) : Host.Outcome State Fault Refusal :=
  .next (watchdog s c)
/-- FCU_INJECT. -/
def execFcuInject (who : Requester) (word3 : W32) (s : State) : Host.Outcome State Fault Refusal :=
  .next (fcuInject s who word3)

end Sys2Proof.Machine
end

