-- ==== Sys2Proof/Machine/Ashlars.lean ====
section
/-! DEFINITION. The matrix and vector ashlar kinds (04 Table 4.6, R122, R123; 03_low_precision_arithmetic.md R84 to R106; 07 R228,
R232, R234): MATMUL, ACC_COMBINE, LSUM_COMBINE, COLLECT, the norms, ACTIVATE, SOFTMAX, RESIDUAL_ADD, REQUANT, EMBED, GATE_MASK,
COPY, FENCE, GATHER_ROWS. Every kind writes its output blocks and is then ready to retire. -/

namespace Sys2Proof.Machine

/-! ## What every kind shares -/

/-- A running instance: its descriptor, its number within it, and the course parity. -/
structure Ashlar where
  d : Descriptor
  i : Nat
  odd : Bool
  deriving DecidableEq, Repr

/-- The ashlar a core runs, when it is of a kind and has not finished. -/
def State.ashlar (s : State) (r : Run) (kind : Nat) : Option Ashlar :=
  if s.runs r && !(s.coreAt (runCore r)).done then
    let odd := oddOf (s.streamOf r.covered).course
    match (s.templ r.covered odd).find r.inst.toNat with
    | some (d, i) => if d.kind.toNat = kind then some ⟨d, i, odd⟩ else none
    | none => none
  else none

/-- What an instance does: bytes to write, and the faults it meets, each raised once (R85, R96, R122, R299). -/
structure Effect where
  writes : List (Nat × List Byte) := []
  range : Bool := false
  scale : Option Nat := none
  shape : Bool := false
  reads : List (Nat × Nat) := []
  /-- SCALE_EXP of the writes that carry a scale, by address (09 R287). -/
  exps : List (Nat × Nat) := []
  /-- ROWS of an output with PRODUCER_ROWS where they are not the instance's extent (R116). -/
  rows : Option Nat := none
  deriving DecidableEq, Repr

/-- SCALE_EXP of a write: 0 for one that carries no scale. -/
def Effect.expAt (e : Effect) (a : Nat) : Nat := ((e.exps.find? (fun x => x.1 == a)).map (·.2)).getD 0

/-- META of a word as a reader receives it: that of the latest write merged into it (09 R287, R292). -/
def MemUnit.tagRead (m : MemUnit) (w : Nat) : BitVec 16 :=
  match m.entryOf w with
  | some e => e.tag
  | none => m.tag w

/-- Words of ACTIVATION regions in a run of bytes whose PARITY is not the course's (09 R287). -/
def State.staleIn (s : State) (odd : Bool) (a n : Nat) : Bool :=
  space a == .hbm && (cutWords 32 (n + 1) a (zeros n)).any (fun x =>
    s.pageClass (pageOf x.1) == .activation && (s.mem.tagRead x.1).getLsbD 15 != odd)

/-- Bytes read as poisoned (R299): the fault, and the sessions whose bytes they are. -/
def State.metPoison (s : State) (r : Run) (odd : Bool) (ws : List Nat) : State :=
  match ws with
  | [] => s
  | _ =>
    let s := s.raise (runCore r) 0 0x24 1 (instAddr r.inst.toNat odd)
    let hit := (s.sessionsOpen.filter (fun e => ws.any (s.owns e.2))).map (·.1)
    let st := s.streamOf r.covered
    let s := s.setStream r.covered { st with poisoned := (st.poisoned ++ hit).eraseDups }
    s.endSessions (fun k _ => hit.contains k) 0x22

/-- The instance has run: its bytes are written, its faults raised, and every write is acknowledged. A word read as uncorrectable takes
the path of R296 first; while a word is withheld the instance does not complete. -/
def State.finish (s : State) (r : Run) (odd : Bool) (e : Effect) : State :=
  let ws := s.badIn e.reads
  let wait := ws.any s.withheld
  let ps := ws.filter (fun w => s.pageClass (pageOf w) == .state)
  let stale := e.reads.any (fun x => s.staleIn odd x.1 x.2)
  let s := s.badPaths e.reads
  if wait then s.tallyReads e.reads
  else
    let src := runCore r
    let at_ := instAddr r.inst.toNat odd
    let s := e.writes.foldl (fun t w => t.pokeAs odd (e.expAt w.1) w.1 w.2) s
    let s := match e.scale with | some a => s.raise src 0 0x20 1 a | none => s
    let s := if e.range then s.raise src 0 0x21 0 at_ else s
    let s := if e.shape then s.raise src 0 0x22 1 at_ else s
    let s := if stale then s.raise src 0 0x45 1 at_ else s
    let s := s.metPoison r odd ps
    let s := match (s.templ r.covered odd).find r.inst.toNat with
      | some (d, i) => s.noteRows r.covered odd d i (e.rows.getD (s.extent r.covered odd d i))
      | none => s
    (s.tallyReads e.reads).setCore src { s.coreAt src with done := true }

/-- Run a kind: nothing where the core does not run an instance of it. -/
def State.runKind (s : State) (r : Run) (kind : Nat) (f : Ashlar → Effect) : State :=
  match s.ashlar r kind with
  | none => s
  | some a => s.finish r a.odd (f a)

/-- The block of an input handle (R117), k further than the field. -/
def State.inBlock (s : State) (covered : Bool) (a : Ashlar) (h : W32) (k : Nat := 0) : Option BlockEntry :=
  (handleOf h a.i).bind (fun j => s.blockOf covered a.odd (s.resolve covered a.odd (j + k)))

/-- The block of an output handle. -/
def State.outBlock (s : State) (covered : Bool) (a : Ashlar) (h : W32) : Option BlockEntry :=
  (handleOf h a.i).bind (fun j => s.blockOf covered a.odd j)

/-- Local address of a row. -/
def BlockEntry.row (b : BlockEntry) (t : Nat) : Nat := localOf b.addr.toNat + t * b.stride

/-- Rows of a block that may be absent. -/
def rowsOf (b : Option BlockEntry) : Nat := (b.map (·.rows)).getD 0

/-- FP32 words as operands. -/
def fxs (n : Nat) (l : List Byte) : List Fx := (List.range n).map (fun k => fx (BitVec.ofNat 32 (u32 l (4 * k))))

/-- n elements of a row: FP32, or BF16 widened (R98). -/
def State.elems (s : State) (b : BlockEntry) (t n : Nat) : List Fx :=
  if b.format = 0x03 then
    let l := (s.peek (b.row t) (2 * n)).1
    (List.range n).map (fun k => fx (ofBf16 (u16 l (2 * k))))
  else fxs n (s.peek (b.row t) (4 * n)).1

/-- Elements of a row of a block that may be absent. -/
def State.elemsOf (s : State) (b : Option BlockEntry) (t n : Nat) : List Fx :=
  match b with
  | some b => s.elems b t n
  | none => List.replicate n (fx 0)

/-- Bytes of a run of rows, for what the rules say of the words an instance reads (09 R287, R299). -/
def spanOf (b : Option BlockEntry) (rows bytes : Nat) : List (Nat × Nat) :=
  match b with
  | some b => (List.range rows).map (fun t => (b.row t, bytes))
  | none => []

/-- Bytes of n elements in each of a run of rows. -/
def elemSpan (b : Option BlockEntry) (rows n : Nat) : List (Nat × Nat) :=
  spanOf b rows (if (b.map (fun x => x.format.toNat)) = some 3 then 2 * n else 4 * n)

/-- Bytes of one row. -/
def rowSpan (b : Option BlockEntry) (t bytes : Nat) : List (Nat × Nat) :=
  match b with
  | some b => [(b.row t, bytes)]
  | none => []

/-- Bytes of n elements of one row. -/
def elemRow (b : Option BlockEntry) (t n : Nat) : List (Nat × Nat) :=
  rowSpan b t (if (b.map (fun x => x.format.toNat)) = some 3 then 2 * n else 4 * n)

/-- The words of a tensor header and of a block of token scales (Tables 3.1, 4.3). -/
def scaleSpan (b : Option BlockEntry) (rows : Nat) : List (Nat × Nat) := spanOf b rows 4

/-- Row t of the block is one an instance may write (R108): one of its ROWS, which the writer of a block with PRODUCER_ROWS sets itself
(R116). -/
def BlockEntry.has (b : BlockEntry) (t : Nat) : Bool := b.producerRows || decide (t < b.rows)

/-- Bytes written to row t of an output block: none outside the block (R108). -/
def BlockEntry.put (b : BlockEntry) (t : Nat) (l : List Byte) : Nat × List Byte := (b.row t, if b.has t then l.take b.rowBytes else [])

/-- The token scale written beside an A8 row, in the four bytes after it (R122). -/
def BlockEntry.putScale (b : BlockEntry) (t : Nat) (scale : List Byte) : Nat × List Byte :=
  (b.row t + b.rowBytes, if b.has t then fit 4 scale else [])

/-- An element as the sum of one term. -/
def Fx.long (x : Fx) : Int × Bool := (units x.v, x.r)

/-- Write a row of sums, each still exact, in the block's format, with the ARITH_RANGE met: as long accumulator words where the sum is
divided among ashlars (R102), else rounded once (R101), and to BF16 where the block has it (R98). -/
def outSums (b : BlockEntry) (t : Nat) (l : List (Int × Bool)) : (Nat × List Byte) × Bool :=
  if b.format = 0x0B then (b.put t ((l.map (fun x => longBytes x.1)).flatten), l.any (·.2))
  else
    let l := l.map roundLong
    if b.format = 0x03 then
      let r := l.map toBf16
      (b.put t ((r.map (fun x => leBytes 2 x.1)).flatten), r.any (·.2) || l.any (·.r))
    else (b.put t ((l.map (fun x => leBytes 4 x.v.toNat)).flatten), l.any (·.r))

/-- Write a row of FP32 results in the block's format, with the ARITH_RANGE met. -/
def outRow (b : BlockEntry) (t : Nat) (l : List Fx) : (Nat × List Byte) × Bool :=
  if b.format = 0x0B then outSums b t (l.map Fx.long)
  else if b.format = 0x03 then
    let r := l.map toBf16
    (b.put t ((r.map (fun x => leBytes 2 x.1)).flatten), r.any (·.2) || l.any (·.r))
  else (b.put t ((l.map (fun x => leBytes 4 x.v.toNat)).flatten), l.any (·.r))

/-- Rows written to an output block, by what writes one. -/
def rowsBy {α : Type} (put : BlockEntry → Nat → α → (Nat × List Byte) × Bool) (b : Option BlockEntry) (n : Nat) (f : Nat → α)
    (reads : List (Nat × Nat)) : Effect :=
  match b with
  | none => { reads := reads }
  | some b =>
    let l := (List.range n).map (fun t => put b t (f t))
    { writes := l.map (·.1), range := l.any (·.2), reads := reads }

/-- Rows of results written to an output block. -/
def rowsOut (b : Option BlockEntry) (n : Nat) (f : Nat → List Fx) (reads : List (Nat × Nat)) : Effect := rowsBy outRow b n f reads

/-- Rows of sums written to an output block. -/
def rowsSum (b : Option BlockEntry) (n : Nat) (f : Nat → List (Int × Bool)) (reads : List (Nat × Nat)) : Effect := rowsBy outSums b n f reads

/-- Course token index of row t of a block (R116). -/
def tokenIndex (b : BlockEntry) (t : Nat) : Nat := if b.courseRows then 64 * b.tile + t else t

/-- Signed codes as bytes. -/
def codeBytes (l : List Int) : List Byte := l.map (fun c => BitVec.ofNat 8 (ofSigned 8 c))

/-- What writing one row gives: its writes, whether it met ARITH_RANGE, SCALE_EXP of each write. -/
structure RowOut where
  writes : List (Nat × List Byte)
  range : Bool := false
  exps : List (Nat × Nat) := []
  deriving DecidableEq, Repr

/-- An A8 row: its codes, and the token scale beside them (R97, R122), or in row t of a block of token scales. -/
def a8Row (b : BlockEntry) (scales : Option BlockEntry) (t : Nat) (l : List Fx) : RowOut :=
  let r := requantCodes 127 l
  let sc := leBytes 4 r.2.v.toNat
  let w := b.put t (codeBytes r.1)
  let v := match scales with
    | none => b.putScale t sc
    | some x => x.put t sc
  { writes := [w, v], range := r.2.r, exps := (w.1, scaleExpOf sc) :: (if scales.isNone then [(v.1, scaleExpOf sc)] else []) }

/-- An A8 row copied with the scale beside it. -/
def BlockEntry.putA8 (b : BlockEntry) (t : Nat) (codes scale : List Byte) : RowOut :=
  let w := b.put t codes
  let v := b.putScale t scale
  { writes := [w, v], exps := [(w.1, scaleExpOf scale), (v.1, scaleExpOf scale)] }

/-- The effect of rows written one by one. -/
def effectOf (l : List RowOut) (reads : List (Nat × Nat)) : Effect :=
  { writes := l.flatMap (·.writes), range := l.any (·.range), exps := l.flatMap (·.exps), reads := reads }

/-! ## Matrix kinds -/

/-- Weight format of a block FORMAT (Table 4.3). -/
def blockFmt (format : Nat) : Option WFmt := fmtOf format

/-- Token scale of row t: the row of the scale block, or beside the A8 row when no block is named. An ACC_COMBINE that names none has no
A8 row: its token scale is 1.0 (DESIGN CHOICE, log entry 26: the manual names none for it). -/
def State.tokenScale (s : State) (scales acts : Option BlockEntry) (t : Nat) : W32 :=
  match scales, acts with
  | some b, _ => BitVec.ofNat 32 (s.peekLe (b.row t) 4)
  | none, some b => BitVec.ofNat 32 (s.peekLe (b.row t + b.rowBytes) 4)
  | none, none => fone

/-- The accumulator of a row and a column over a run of blocks (R92), and the address of the first refused block (R85): that of its data
bytes, be it a byte of them or the scale code that is reserved; the blocks are taken in the order of row, column, block (DESIGN CHOICE,
log entry 26). -/
def State.accumulate (s : State) (f : WFmt) (base k : Nat) (acts : List Byte) (o b0 n : Nat) : Int × Option Nat :=
  (List.range n).foldl (fun (acc : Int × Option Nat) j =>
    let b := b0 + j
    let at_ := base + f.dataAt k o b
    let a := (List.range 64).map (fun e => signed8 (acts.getD (64 * b + e) 0))
    match blockTerm f (BitVec.ofNat 8 (s.peekLe (base + f.scaleAt k o b) 1)) (s.peek at_ f.blockBytes).1 a with
    | some t => (acc.1 + t, acc.2)
    | none => (acc.1, acc.2.or (some at_))) (0, none)

/-- Finish rows of accumulators (R95): FP32 or A8 rows. A refused tensor scale gives +0 everywhere (R89). -/
def finishRows (out : BlockEntry) (a8 : Bool) (rows : List (List Int)) (sw : W32) (sa : Nat → W32) : Effect :=
  let good := goodScale sw
  let l := (List.range rows.length).map (fun t =>
    let ys := (rows.getD t []).map (fun x => if good then finishAcc x sw (sa t) else fx 0)
    if a8 then a8Row out none t ys else (let w := outRow out t ys; ({ writes := [w.1], range := w.2 } : RowOut)))
  { effectOf l [] with scale := if good then none else some 0 }

/-- The bytes a run of columns and blocks of a weight tensor takes: its header, and each block with its scale code. -/
def WFmt.span (f : WFmt) (base k col0 ncol b0 n : Nat) : List (Nat × Nat) :=
  (base, 16) :: (List.range ncol).flatMap (fun c => (List.range n).flatMap (fun j =>
    [(base + f.dataAt k (col0 + c) (b0 + j), f.blockBytes), (base + f.scaleAt k (col0 + c) (b0 + j), 1)]))

/-- MATMUL (R84 to R95). The columns go to the H2 row from its first element on, also when the first column is not 0: the output block is
the tile's own (DESIGN CHOICE, log entry 26). -/
def State.matmulEffect (s : State) (cov : Bool) (a : Ashlar) : Effect :=
  match s.inBlock cov a a.d.h0, s.inBlock cov a a.d.h1, s.outBlock cov a a.d.h2 with
  | some x, some w, some out =>
    match blockFmt w.format.toNat with
    | none => {}
    | some f =>
      let base := localOf w.addr.toNat
      let k := 64 * s.peekLe (base + 0xC) 4
      let col0 := bits a.d.p2.toNat 31 16
      let ncol := bits a.d.p2.toNat 15 0
      let accs := (List.range x.rows).map (fun t =>
        let acts := (s.peek (x.row t) x.rowBytes).1
        (List.range ncol).map (fun c => s.accumulate f base k acts (col0 + c) a.d.p0.toNat a.d.p1.toNat))
      let bad := (accs.flatten.find? (fun r => r.2.isSome)).bind (·.2)
      let rows := accs.map (fun r => r.map (·.1))
      let sb := s.inBlock cov a a.d.h3
      let reads := spanOf (some x) x.rows (x.rowBytes + (if a.d.p3.toNat = 1 || sb.isSome then 0 else 4)) ++ (if a.d.p3.toNat = 1 then [] else scaleSpan sb x.rows) ++
        f.span base k col0 ncol a.d.p0.toNat a.d.p1.toNat
      if a.d.p3.toNat = 1 then
        { writes := (List.range x.rows).map (fun t => out.put t ((rows.getD t []).map accBytes).flatten), scale := bad, reads := reads }
      else
        let e := finishRows out (a.d.p3.toNat == 2) rows (BitVec.ofNat 32 (s.peekLe base 4)) (s.tokenScale sb (some x))
        { e with scale := bad.or e.scale, reads := reads }
  | _, _, _ => {}

/-- MATMUL. -/
def matmul (s : State) (r : Run) : State := s.runKind r 0x01 (s.matmulEffect r.covered)

/-- Words of w bytes of a row as signed numbers. -/
def State.wordsAt (s : State) (b : BlockEntry) (t w n : Nat) : List Int :=
  let l := (s.peek (b.row t) (w * n)).1
  (List.range n).map (fun k => if w = 16 then ofAccBytes (l.drop (16 * k)) else ofLongBytes (l.drop (40 * k)))

/-- Element-wise sum of rows of words. -/
def addWords (n : Nat) (l : List (List Int)) : List Int := (List.range n).map (fun k => l.foldl (fun a r => a + r.getD k 0) 0)

/-- Words in a row of a block. -/
def wordsIn (b : BlockEntry) (w : Nat) : Nat := b.rowBytes / w

/-- ACC_COMBINE (R94, R95). Its P0 parts lie on consecutive handles from H0 on, as those of ATTN_MERGE do (05 R181), and so do those of
LSUM_COMBINE (DESIGN CHOICE, log entry 26). -/
def accCombine (s : State) (r : Run) : State :=
  s.runKind r 0x02 (fun a =>
    match s.inBlock r.covered a a.d.h0, s.outBlock r.covered a a.d.h2 with
    | some x, some out =>
      let n := wordsIn x 16
      let rows := (List.range x.rows).map (fun t => addWords n ((List.range a.d.p0.toNat).map (fun k =>
        match s.inBlock r.covered a a.d.h0 k with | some b => s.wordsAt b t 16 n | none => [])))
      let sw := match s.inBlock r.covered a a.d.h1 with | some b => BitVec.ofNat 32 (s.peekLe (b.row 0) 4) | none => 0
      let sb := s.inBlock r.covered a a.d.h3
      { finishRows out (a.d.p1.toNat == 2) rows sw (s.tokenScale sb none) with
        reads := (List.range a.d.p0.toNat).flatMap (fun k => spanOf (s.inBlock r.covered a a.d.h0 k) x.rows (16 * n)) ++ scaleSpan sb x.rows ++
          rowSpan (s.inBlock r.covered a a.d.h1) 0 4 }
    | _, _ => {})

/-- LSUM_COMBINE (R102). -/
def lsumCombine (s : State) (r : Run) : State :=
  s.runKind r 0x18 (fun a =>
    match s.inBlock r.covered a a.d.h0 with
    | some x =>
      let n := wordsIn x 40
      rowsSum (s.outBlock r.covered a a.d.h2) x.rows (fun t => (addWords n ((List.range a.d.p0.toNat).map (fun k =>
        match s.inBlock r.covered a a.d.h0 k with | some b => s.wordsAt b t 40 n | none => []))).map (fun i => (i, false)))
        ((List.range a.d.p0.toNat).flatMap (fun k => spanOf (s.inBlock r.covered a a.d.h0 k) x.rows (40 * n)))
    | none => {})

/-- The words of a COLLECT go to every member H1 names, once in a course, for the receive handle H3 (R123); the grant on the member's counter
goes with the retirement (R130). -/
def State.sendWords (s : State) (r : Run) (a : Ashlar) (words : List Byte) : State :=
  let st := s.streamOf r.covered
  if st.sentWords.contains r.inst.toNat then s
  else
    let s := s.setStream r.covered { st with sentWords := st.sentWords ++ [r.inst.toNat] }
    let course := s.parityCourse r.covered a.odd
    (s.collectMembers r.covered a.odd a.d a.i).foldl (fun t m => (t.tally 0 0 words.length).sendMember r.covered m course (.collect course r.inst.toNat a.d.h3 words)) s

/-- COLLECT (R123): its words go to the members H1 names, and the total of these members' words and its own, once those of every one in the
course's membership have come, is written. -/
def collect (s : State) (r : Run) (got : List (BitVec 6 × List Byte)) : State :=
  match s.ashlar r 0x1A with
  | none => s
  | some a =>
    match s.inBlock r.covered a a.d.h0, s.outBlock r.covered a a.d.h2 with
    | some x, some out =>
      let w := if a.d.p2.toNat = 1 then 40 else 16
      let n := wordsIn x w
      let mine := ((List.range x.rows).map (fun t => (s.peek (x.row t) (w * n)).1)).flatten
      let named := s.collectMembers r.covered a.odd a.d a.i
      let others := (List.range (s.bondOf r.covered).length).filter (fun k =>
        named.contains (s.memberAt r.covered k) && s.memberAt r.covered k != s.streamNode r.covered && bit (s.streamOf r.covered).members.toNat k)
      let s := s.sendWords r a mine
      if others.any (fun k => !got.any (fun g => g.1.toNat == k)) then s
      else
        let parts := mine :: others.map (fun k => ((got.find? (fun g => g.1.toNat == k)).map (·.2)).getD [])
        let val := fun (l : List Byte) (k : Nat) => if w = 16 then ofAccBytes (l.drop (16 * k)) else ofLongBytes (l.drop (40 * k))
        let sum := fun (t k : Nat) => parts.foldl (fun (acc : Int) p => acc + val p (t * n + k)) 0
        let enc := fun (i : Int) => if w = 16 then accBytes i else longBytes i
        let s := s.tally 0 0 (sumNat ((parts.drop 1).map (·.length)))
        s.finish r a.odd { writes := (List.range x.rows).map (fun t => out.put t ((List.range n).map (fun k => enc (sum t k))).flatten)
                           reads := spanOf (some x) x.rows (w * n) }
    | _, _ => s.finish r a.odd {}

/-! ## Vector kinds -/

/-- NORM_RMS (R100). -/
def normRms (s : State) (r : Run) : State :=
  s.runKind r 0x08 (fun a =>
    let x := s.inBlock r.covered a a.d.h0
    let n := a.d.p1.toNat
    let g := s.elemsOf (s.inBlock r.covered a a.d.h1) 0 n
    rowsOut (s.outBlock r.covered a a.d.h2) (rowsOf x) (fun t => rmsNorm (s.elemsOf x t n) g (fx a.d.p0))
      (elemSpan x (rowsOf x) n ++ elemSpan (s.inBlock r.covered a a.d.h1) 1 n))

/-- NORM_CENTRED (R100). -/
def normCentred (s : State) (r : Run) : State :=
  s.runKind r 0x09 (fun a =>
    let x := s.inBlock r.covered a a.d.h0
    let n := a.d.p1.toNat
    let g := s.elemsOf (s.inBlock r.covered a a.d.h1) 0 n
    let b := s.elemsOf (s.inBlock r.covered a a.d.h3) 0 n
    rowsOut (s.outBlock r.covered a a.d.h2) (rowsOf x) (fun t => centredNorm (s.elemsOf x t n) g b (fx a.d.p0))
      (elemSpan x (rowsOf x) n ++ elemSpan (s.inBlock r.covered a a.d.h1) 1 n ++ elemSpan (s.inBlock r.covered a a.d.h3) 1 n))

/-- The functions of ACTIVATE (Table 4.6): the gated forms multiply by the second operand. -/
def activation (f : Nat) (x y : Fx) : Fx :=
  match f with
  | 0 => fsilu x
  | 1 => fgelu x
  | 2 => fsigmoid x
  | 3 => fmul (fsilu x) y
  | _ => fmul (fgelu x) y

/-- ACTIVATE. -/
def activate (s : State) (r : Run) : State :=
  s.runKind r 0x0A (fun a =>
    let x := s.inBlock r.covered a a.d.h0
    let y := s.inBlock r.covered a a.d.h1
    let n := a.d.p1.toNat
    rowsOut (s.outBlock r.covered a a.d.h2) (rowsOf x)
      (fun t => List.zipWith (activation a.d.p0.toNat) (s.elemsOf x t n) (s.elemsOf y t n)) (elemSpan x (rowsOf x) n ++ elemSpan y (rowsOf x) n))

/-- SOFTMAX (R100). -/
def softmax (s : State) (r : Run) : State :=
  s.runKind r 0x0C (fun a =>
    let x := s.inBlock r.covered a a.d.h0
    let n := a.d.p0.toNat
    rowsOut (s.outBlock r.covered a a.d.h2) (rowsOf x) (fun t => fsoftmax (s.elemsOf x t n)) (elemSpan x (rowsOf x) n))

/-- The token skip bit of a course token for the group of an output block (07 R234). -/
def State.tokenSkipped (s : State) (cov odd : Bool) (group token : Nat) : Bool :=
  let k := (s.parity cov odd).skip group
  group != 0 && k.masked && (match s.blockOf cov odd k.handle with
    | none => false
    | some b => let row := s.peekLe (b.row token) 8; bit row (group - bits row 47 32))

/-- A ROUTER_TOPK of a layer. -/
def Template.routerAt (t : Template) (layer : Nat) : Option (Descriptor × Nat) :=
  (t.all.find? (fun x => x.2.1.kind.toNat == 5 && x.2.1.p2.toNat == layer)).map (·.2)

/-- Shares of a capacity table (07 R209). -/
def State.shares (s : State) (cov : Bool) (odd : Bool) (d : Descriptor) (i : Nat) : List Nat :=
  match (handleOf d.h1 i).bind (fun h => s.blockOf cov odd (s.resolve cov odd h)) with
  | none => []
  | some b => (List.range d.p1.toNat).map (fun e => s.peekLe (b.row e) 4 % 8192)

/-- RBASE(e) (07 R211). -/
def rbase (shares : List Nat) (e : Nat) : Nat := sumNat (shares.take e)

/-- A choice record's entries (07 Table 7.2). -/
def choiceEntries (l : List Byte) : List (Nat × Nat × Nat × W32) :=
  (List.range 8).map (fun k => (u8 l (16 + 8 * k), u8 l (17 + 8 * k), u16 l (18 + 8 * k), BitVec.ofNat 32 (u32 l (20 + 8 * k))))

/-- Row of a token's record in a choice list: that of its tile's list, or of a list over all tiles. -/
def recordRow (b : BlockEntry) (t token : Nat) : Nat := if b.courseRows then t else token

/-- Write a row of values as they are, or of sums. -/
def outEither (b : BlockEntry) (t : Nat) (x : List Fx ⊕ List (Int × Bool)) : (Nat × List Byte) × Bool :=
  match x with
  | .inl l => outRow b t l
  | .inr l => outSums b t l

/-- RESIDUAL_ADD (07 R228, R234): a row that gets no update is the residual exactly. -/
def residualAdd (s : State) (r : Run) : State :=
  s.runKind r 0x0D (fun a =>
    let x := s.inBlock r.covered a a.d.h0
    let n := a.d.p1.toNat
    match s.outBlock r.covered a a.d.h2 with
    | none => {}
    | some out =>
      let u := s.inBlock r.covered a a.d.h1
      let w := s.inBlock r.covered a a.d.h3
      let choice := match w with | some b => b.format == 0x0D | none => false
      let shares := match (s.templ r.covered a.odd).routerOf (handleOf a.d.h3 a.i) with
        | some (d, i) => s.shares r.covered a.odd d i
        | none => []
      rowsBy outEither (some out) (rowsOf x) (fun t =>
        let res := s.elemsOf x t n
        let token := match x with | some b => tokenIndex b t | none => t
        if s.tokenSkipped r.covered a.odd out.skipGroup token then .inl res
        else if choice then
          let rec_ := match w with | some b => (s.peek (b.row (recordRow b t token)) 80).1 | none => []
          let es := (choiceEntries rec_).take (u8 rec_ 2)
          let us := es.map (fun e => (fx e.2.2.2, s.elemsOf u (rbase shares e.1 + e.2.2.1) n))
          if us.isEmpty then .inl res
          else .inr <| (List.range n).map (fun k => longSum (res.getD k (fx 0) :: us.map (fun p => fmul p.1 (p.2.getD k (fx 0)))))
        else
          let us := (List.range a.d.p0.toNat).map (fun j => s.elemsOf (s.inBlock r.covered a a.d.h1 j) t n)
          let ws := s.elemsOf w t a.d.p0.toNat
          .inr <| (List.range n).map (fun k => longSum (res.getD k (fx 0) :: (List.range a.d.p0.toNat).map (fun j =>
            let v := (us.getD j []).getD k (fx 0)
            if w.isNone then v else fmul (ws.getD j (fx 0)) v))))
        (elemSpan x (rowsOf x) n ++ (List.range (rowsOf x)).flatMap (fun t =>
          let token := match x with | some b => tokenIndex b t | none => t
          if s.tokenSkipped r.covered a.odd out.skipGroup token then []
          else if choice then
            let at_ := match w with | some b => recordRow b t token | none => t
            let rec_ := match w with | some b => (s.peek (b.row at_) 80).1 | none => []
            rowSpan w at_ 80 ++ ((choiceEntries rec_).take (u8 rec_ 2)).flatMap (fun e => elemRow u (rbase shares e.1 + e.2.2.1) n)
          else (List.range a.d.p0.toNat).flatMap (fun j => elemRow (s.inBlock r.covered a a.d.h1 j) t n) ++ elemRow w t a.d.p0.toNat)))

/-- REQUANT (R97): A8 rows, and their scales in a block of their own when one is named. -/
def requant (s : State) (r : Run) : State :=
  s.runKind r 0x0E (fun a =>
    let x := s.inBlock r.covered a a.d.h0
    let n := a.d.p0.toNat
    match s.outBlock r.covered a a.d.h2 with
    | none => {}
    | some out =>
      effectOf ((List.range (rowsOf x)).map (fun t => a8Row out (s.outBlock r.covered a a.d.h3) t (s.elemsOf x t n))) (elemSpan x (rowsOf x) n))

/-- EMBED (R122). -/
def embed (s : State) (r : Run) : State :=
  s.runKind r 0x0F (fun a =>
    match s.inBlock r.covered a a.d.h0, s.inBlock r.covered a a.d.h1, s.outBlock r.covered a a.d.h2 with
    | some x, some t, some out =>
      let n := a.d.p0.toNat
      let at_ := fun (k : Nat) => t.row (s.peekLe (x.row k) 4)
      effectOf ((List.range x.rows).map (fun k => out.putA8 k (s.peek (at_ k) n).1 (s.peek (at_ k + t.rowBytes) 4).1))
        (spanOf (some x) x.rows 4 ++ (List.range x.rows).flatMap (fun k => [(at_ k, n), (at_ k + t.rowBytes, 4)]))
    | _, _, _ => {})

/-- GATE_MASK (07 R232). -/
def gateMask (s : State) (r : Run) : State :=
  s.runKind r 0x17 (fun a =>
    let x := s.inBlock r.covered a a.d.h0
    let n := a.d.p1.toNat
    let thr := fin a.d.p2
    match s.outBlock r.covered a a.d.h2 with
    | none => {}
    | some out =>
      let l := (List.range (s.streamOf r.covered).rows.length).map (fun t =>
        let gs := (s.elemsOf x t n).map (fun v => fin v.v)
        let m := (List.range n).foldl (fun acc k => acc + (if units (gs.getD k (fx 0)).v < units thr.v then 2 ^ k else 0)) 0
        (out.put t (leBytes 8 (m + a.d.p0.toNat % 65536 * 2 ^ 32)), gs.any (·.r)))
      { writes := l.map (·.1), range := l.any (·.2) || thr.r, reads := elemSpan x (s.streamOf r.covered).rows.length n })

/-- COPY (R122). -/
def copy (s : State) (r : Run) : State :=
  s.runKind r 0x19 (fun a =>
    match s.inBlock r.covered a a.d.h0, s.outBlock r.covered a a.d.h2 with
    | some x, some out =>
      let rows := if out.producerRows then x.rows else Nat.min x.rows out.rows
      let bytes := Nat.min x.rowBytes out.rowBytes
      { writes := (List.range rows).map (fun t => out.put t (s.peek (x.row t) bytes).1)
        shape := x.rows != rows || out.rows != rows && !out.producerRows || x.rowBytes != out.rowBytes, reads := spanOf (some x) rows bytes }
    | _, _ => {})

/-- FENCE (R124): it has no operands; what it does is its retirement's. -/
def fence (s : State) (r : Run) : State := s.runKind r 0x1B (fun _ => {})

/-- Bytes of one element of a block format. -/
def elemBytes (format : Nat) : Nat :=
  match format with
  | 0x01 => 1
  | 0x03 => 2
  | _ => 4

/-- GATHER_ROWS (Table 4.6): output row t is the row of H0 that entry t of the index list names, an A8 row with the scale beside it. -/
def gatherRows (s : State) (r : Run) : State :=
  s.runKind r 0x1C (fun a =>
    match s.inBlock r.covered a a.d.h0, s.inBlock r.covered a a.d.h1, s.outBlock r.covered a a.d.h2 with
    | some x, some ix, some out =>
      let n := a.d.p0.toNat * elemBytes x.format.toNat
      let a8 := x.format == 0x01
      let at_ := fun (t : Nat) => x.row (s.peekLe (ix.row t) 4)
      { effectOf ((List.range ix.rows).map (fun t =>
          let l := (s.peek (at_ t) n).1
          if a8 then out.putA8 t l (s.peek (at_ t + x.rowBytes) 4).1 else { writes := [out.put t l] }))
          (spanOf (some ix) ix.rows 4 ++ (List.range ix.rows).flatMap (fun t => (at_ t, n) :: (if a8 then [(at_ t + x.rowBytes, 4)] else []))) with
        rows := some ix.rows }
    | _, _, _ => {})

/-! ## The commands -/

/-- MATMUL. -/
def execMatmul (r : Run) (s : State) : Host.Outcome State Fault Refusal :=
  .next (matmul s r)
/-- ACC_COMBINE. -/
def execAccCombine (r : Run) (s : State) : Host.Outcome State Fault Refusal :=
  .next (accCombine s r)
/-- LSUM_COMBINE. -/
def execLsumCombine (r : Run) (s : State) : Host.Outcome State Fault Refusal :=
  .next (lsumCombine s r)
/-- COLLECT. -/
def execCollect (r : Run) (got : List (BitVec 6 × List Byte)) (s : State) : Host.Outcome State Fault Refusal :=
  .next (collect s r got)
/-- NORM_RMS. -/
def execNormRms (r : Run) (s : State) : Host.Outcome State Fault Refusal :=
  .next (normRms s r)
/-- NORM_CENTRED. -/
def execNormCentred (r : Run) (s : State) : Host.Outcome State Fault Refusal :=
  .next (normCentred s r)
/-- ACTIVATE. -/
def execActivate (r : Run) (s : State) : Host.Outcome State Fault Refusal :=
  .next (activate s r)
/-- SOFTMAX. -/
def execSoftmax (r : Run) (s : State) : Host.Outcome State Fault Refusal :=
  .next (softmax s r)
/-- RESIDUAL_ADD. -/
def execResidualAdd (r : Run) (s : State) : Host.Outcome State Fault Refusal :=
  .next (residualAdd s r)
/-- REQUANT. -/
def execRequant (r : Run) (s : State) : Host.Outcome State Fault Refusal :=
  .next (requant s r)
/-- EMBED. -/
def execEmbed (r : Run) (s : State) : Host.Outcome State Fault Refusal :=
  .next (embed s r)
/-- GATE_MASK. -/
def execGateMask (r : Run) (s : State) : Host.Outcome State Fault Refusal :=
  .next (gateMask s r)
/-- COPY. -/
def execCopy (r : Run) (s : State) : Host.Outcome State Fault Refusal :=
  .next (copy s r)
/-- FENCE. -/
def execFence (r : Run) (s : State) : Host.Outcome State Fault Refusal :=
  .next (fence s r)
/-- GATHER_ROWS. -/
def execGatherRows (r : Run) (s : State) : Host.Outcome State Fault Refusal :=
  .next (gatherRows s r)

end Sys2Proof.Machine
end

