-- ==== Sys2Proof/Machine/Experts.lean ====
section
/-! DEFINITION. Expert routing and the exchange (07_experts_and_dynamic_shapes.md R208 to R230): ROUTER_TOPK, placement by the router
engine, scatter and gather, and what arrives from other members. -/

namespace Sys2Proof.Machine

/-! ## Ranking (R212, R213) -/

/-- Experts of a row of logits by descending logit, the lower index first among equals; −0 below +0. -/
def ranked (l : List W32) : List Nat :=
  let key := fun (e : Nat) => fkey (l.getD e 0)
  (List.range l.length).foldl (fun acc e => insertRank key e acc) []
where
  /-- Insert before the first that ranks lower. -/
  insertRank (key : Nat → Int) (e : Nat) : List Nat → List Nat
    | [] => [e]
    | a :: r => if key a < key e then e :: a :: r else a :: insertRank key e r

/-- A choice record (Table 7.2) with entries (expert, holder, slot, value). -/
def choiceRecord (token placed flags tried : Nat) (es : List (Nat × Nat × Nat × W32)) : List Byte :=
  leBytes 2 token ++ leBytes 1 placed ++ leBytes 1 flags ++ leBytes 1 tried ++ zeros 11 ++
    fit 64 ((es.map (fun e => leBytes 1 e.1 ++ leBytes 1 e.2.1 ++ leBytes 2 e.2.2.1 ++ leBytes 4 e.2.2.2.toNat)).flatten)

/-- ROUTER_TOPK: the ranked lists are written; the core then sends a placement request and no retire request. -/
def routerTopk (s : State) (r : Run) : State :=
  s.runKind r 0x05 (fun a =>
    match s.inBlock r.covered a a.d.h0, s.outBlock r.covered a a.d.h2 with
    | some x, some out =>
      let e := a.d.p1.toNat
      let rows := (List.range x.rows).map (fun t =>
        let l := (s.elems x t e).map (fun v => fin v.v)
        let vs := l.map (·.v)
        let es := ((ranked vs).take 8).map (fun k => (k, 0, 0, vs.getD k 0))
        (out.put t (choiceRecord (tokenIndex x t) 0 0 0 es), l.any (·.r)))
      { writes := rows.map (·.1), range := rows.any (·.2), reads := elemSpan (some x) x.rows e }
    | _, _ => {})

/-! ## Placement (R214 to R219, R223) -/

/-- Rack of a bond member. -/
def State.rackOf (s : State) (cov : Bool) (i : Nat) : Nat := s.cnum cov (O.bondRack i)

/-- The holder a source uses for an expert, by its placement row (R223). -/
def State.holderOf (s : State) (cov : Bool) (row : Nat) : Option Nat :=
  let h0 := bits row 5 0
  let h1 := bits row 17 12
  let ok := fun (h : Nat) => bit (s.streamOf cov).avail.toNat h
  if h1 = 0x3F then (if ok h0 then some h0 else none)
  else
    let mine := s.rackOf cov ((s.indexIn cov (s.streamNode cov)).getD 0)
    let in0 := s.rackOf cov h0 == mine
    let in1 := s.rackOf cov h1 == mine
    let first := if in1 && !in0 then h1 else h0
    let other := if in1 && !in0 then h0 else h1
    if ok first then some first else if ok other then some other else none

/-- Key of an expert's fill count: stream, layer, expert. -/
def fillKey (cov : Bool) (layer e : Nat) : Nat := (b2n cov * 2 ^ 20 + layer) * 64 + e

/-- What placing one token did. -/
structure Placing where
  fill : SMap Nat
  passed : Nat := 0
  kept : List (Nat × Nat × Nat × W32) := []
  tried : Nat := 0
  deriving DecidableEq, Repr

/-- Place one token (R216): its ranked choices in turn until k are placed. -/
def placeToken (cov : Bool) (layer k : Nat) (share : Nat → Nat) (holder : Nat → Option Nat) (fill : SMap Nat) (choices : List (Nat × W32)) : Placing :=
  choices.foldl (fun (p : Placing) c =>
    if p.kept.length ≥ k then p
    else
      let key := fillKey cov layer c.1
      let n := SMap.get 0 p.fill key
      match holder c.1 with
      | some h =>
        if n < share c.1 then { p with fill := SMap.set 0 p.fill key (n + 1), kept := p.kept ++ [(c.1, h, n, c.2)], tried := p.tried + 1 }
        else { p with passed := p.passed + 1, tried := p.tried + 1 }
      | none => { p with passed := p.passed + 1, tried := p.tried + 1 }) { fill := fill }

/-- Gate weights (R217): softmax of the placed logits. -/
def gateWeights (l : List W32) : List Fx :=
  let mu := rowMax (l.map fx)
  let e := l.map (fun x => fexp (fsub (fx x) mu))
  let s := lsum e
  e.map (fun y => fdiv y s)

/-- Count n events of a placement (R219). -/
def State.countRouting (s : State) (cov : Bool) (layer passed unplaced short skipped : Nat) : State :=
  let s := (((s.bump O.choicesPassed 64 passed).bump O.tokensUnplaced 64 unplaced).bump O.tokensShort 64 short).bump O.tokensSkipped 64 skipped
  let st := s.streamOf cov
  let add := fun (m : SMap Nat) (n : Nat) => SMap.set 0 m layer (SMap.get 0 m layer + n)
  s.setStream cov { st with
    unplaced := st.unplaced + unplaced, layerPassed := add st.layerPassed passed, layerUnplaced := add st.layerUnplaced unplaced
    layerShort := add st.layerShort short, layerSkipped := add st.layerSkipped skipped }

/-- Note that a session's row was placed on a member's expert (13 R449). -/
def Stream.notePlaced (st : Stream) (slot holder : Nat) : Stream :=
  if st.placedOn.contains (slot, holder) then st else { st with placedOn := st.placedOn ++ [(slot, holder)] }

/-- Write a row of an output block at once. -/
def State.pokeRow (s : State) (odd : Bool) (b : BlockEntry) (t : Nat) (l : List Byte) : State :=
  let w := b.put t l
  s.pokeAs odd 0 w.1 w.2

/-- Place one token of a tile and write its choice record; whether its gate weights met ARITH_RANGE. -/
def State.placeRow (s : State) (cov odd : Bool) (a : Ashlar) (x out : BlockEntry) (t : Nat) : State × Bool :=
  let token := tokenIndex x t
  let layer := a.d.p2.toNat
  let k := a.d.p0.toNat
  let r := Nat.min 8 a.d.p1.toNat
  if s.tokenSkipped cov odd out.skipGroup token then
    ((s.pokeRow odd out t (choiceRecord token 0 4 0 [])).countRouting cov layer 0 0 0 1, false)
  else
    let shares := s.shares cov odd a.d a.i
    let l := (s.peek (out.row t) 80).1
    let choices := ((choiceEntries l).take r).map (fun e => (e.1, e.2.2.2))
    let p := placeToken cov layer k (fun e => shares.getD e 0) (fun e => s.holderOf cov (s.tableRow cov odd a.d.h3 a.i e)) s.eng.fill choices
    let n := p.kept.length
    let ws := gateWeights (p.kept.map (fun e => e.2.2.2))
    let es := List.zipWith (fun (e : Nat × Nat × Nat × W32) w => (e.1, e.2.1, e.2.2.1, w.v)) p.kept ws
    let flags := if n = 0 then 1 else if n < k then 2 else 0
    let s := { s with eng := { s.eng with fill := p.fill } }
    let s := s.pokeRow odd out t (choiceRecord token n flags p.tried es)
    let st := s.streamOf cov
    let slot := (st.rows.getD token {}).slot
    let s := s.setStream cov (p.kept.foldl (fun y e => y.notePlaced slot e.2.1) st)
    (s.countRouting cov layer p.passed (b2n (n == 0)) (b2n (n != 0 && decide (n < k))) 0, ws.any (·.r))

/-- Place a tile and send its instance's retire request (R218). -/
def State.placeTile (s : State) (cov : Bool) (inst : Nat) : State :=
  let odd := oddOf (s.streamOf cov).course
  match (s.templ cov odd).find inst with
  | none => s
  | some (d, i) =>
    let a : Ashlar := ⟨d, i, odd⟩
    let key := fillKey cov d.p2.toNat 0
    let w : State × Bool := match s.inBlock cov a d.h0, s.outBlock cov a d.h2 with
      | some x, some out => (List.range x.rows).foldl (fun (t : State × Bool) k =>
          let u := t.1.placeRow cov odd a x out k
          (u.1, t.2 || u.2)) (s, false)
      | _, _ => (s, false)
    let s := if w.2 then w.1.raise srcEngine 0 0x21 0 (instAddr inst odd) else w.1
    let s := { s with eng := { s.eng with nextTile := SMap.set 0 s.eng.nextTile key (SMap.get 0 s.eng.nextTile key + 1) } }
    let x := s.retire cov odd d i inst false none
    x.1.grants x.2

/-- The tile of a ROUTER_TOPK instance. -/
def State.tileOf (s : State) (cov : Bool) (inst : Nat) : Option (Nat × Nat) :=
  let odd := oddOf (s.streamOf cov).course
  match (s.templ cov odd).find inst with
  | some (d, i) => if d.kind = 0x05 then (s.inBlock cov ⟨d, i, odd⟩ d.h0).map (fun b => (fillKey cov d.p2.toNat 0, b.tile)) else none
  | none => none

/-- Place the waiting requests whose turn has come, at most n of them. -/
def State.placeReady : Nat → State → State
  | 0, s => s
  | n + 1, s =>
    match s.eng.waiting.find? (fun w => match s.tileOf w.1 w.2 with
      | some (key, tile) => tile == SMap.get 0 s.eng.nextTile key
      | none => false) with
    | none => s
    | some w => State.placeReady n (({ s with eng := { s.eng with waiting := s.eng.waiting.filter (· != w) } }).placeTile w.1 w.2)

/-- PLACEMENT_REQUEST: the core that ran the instance sends it and is free; the engine accepts the first in a course (R213, R218). The core
counts the instance in CORE_RETIRED here, where its part ends, though the engine sends the retire request (DESIGN CHOICE, log entry 31: 04
R149 does not say which counter moves). -/
def placementRequest (s : State) (covered : Bool) (inst : BitVec 20) : State :=
  let odd := oddOf (s.streamOf covered).course
  let e := entryOf covered odd inst.toNat
  match s.cred.cores.find? (fun c => c.2.running == some e && c.2.done) with
  | none => s
  | some (g, c) =>
    match s.tileOf covered inst.toNat with
    | none => s
    | some _ =>
      let b := s.drawNat
      let busy := b.1 % 2 ^ 32
      let s := (b.2.countBusy busy).setCore g { c with running := none, done := false, retired := c.retired + 1, busy := c.busy + BitVec.ofNat 32 busy }
      if s.eng.accepted.contains (covered, inst.toNat) then s
      else
        let s := { s with eng := { s.eng with accepted := s.eng.accepted ++ [(covered, inst.toNat)], waiting := s.eng.waiting ++ [(covered, inst.toNat)] } }
        s.placeReady s.eng.waiting.length

/-! ## Scatter and gather (R225, R227) -/

/-- A transfer to a member, as it waits for its instance's retirement. -/
def transferOut (r : Run) (a : Ashlar) (dest : Node) (b : Body) : Sending :=
  { covered := r.covered, odd := a.odd, inst := r.inst.toNat, dest := dest, body := b, retain := true }

/-- EXPERT_SCATTER: one transfer for each expert of its range that its destination holds. The transfers go out, with their grants, when the
instance retires (04 R130). -/
def expertScatter (s : State) (r : Run) : State :=
  match s.ashlar r 0x06 with
  | none => s
  | some a =>
    match s.inBlock r.covered a a.d.h0, s.inBlock r.covered a a.d.h1 with
    | some choice, some rows =>
      let dest := a.d.p0.toNat
      let course := s.parityCourse r.covered a.odd
      let layer := (s.templ r.covered a.odd).layerOf (handleOf a.d.h0 a.i)
      let me := (s.indexIn r.covered (s.streamNode r.covered)).getD 0
      let recs := (List.range choice.rows).map (fun t => (t, (s.peek (choice.row t) 80).1))
      let outs := (List.range a.d.p3.toNat).filterMap (fun k =>
        let e := a.d.p2.toNat + k
        let row := s.tableRow r.covered a.odd a.d.h3 a.i e
        match holderSlot row dest with
        | none => none
        | some slot =>
          let picked := recs.flatMap (fun x => ((choiceEntries x.2).take (u8 x.2 2)).filterMap (fun c =>
            if c.1 = e ∧ c.2.1 = dest then some (c.2.2.1, x.1) else none))
          let mine := if s.holderOf r.covered row = some dest then (sortBy (·.1) picked).map (·.2) else []
          let body := mine.map (fun t => (s.peek (rows.row t) (rows.rowBytes + 4)).1)
          some (transferOut r a (s.memberAt r.covered dest) (.expert {
            course := course, inst := r.inst, layer := layer, expert := slot, source := BitVec.ofNat 6 me
            counter := BitVec.ofNat 18 (a.d.p1.toNat + slot), rows := body })))
      let sent := recs.filter (fun x => ((choiceEntries x.2).take (u8 x.2 2)).any (fun c =>
        decide (a.d.p2.toNat ≤ c.1) && decide (c.1 < a.d.p2.toNat + a.d.p3.toNat) && c.2.1 == dest))
      (s.putOut r.covered a.odd r.inst.toNat outs).finish r a.odd { reads := spanOf (some choice) choice.rows 80 ++ sent.flatMap (fun x => rowSpan (some rows) x.1 (rows.rowBytes + 4)) }
    | _, _ => s.finish r a.odd {}

/-- Transfers of an expert slot staged for the running course, by source. -/
def State.stagedFor (s : State) (cov : Bool) (course : W64) (layer slot : Nat) : List ExpertMsg :=
  sortBy (fun m => m.source.toNat) ((s.eng.staged.filter (fun x => x.1 == cov && x.2.course == course && x.2.layer == layer && x.2.expert == slot)).map (·.2))

/-- EXPERT_GATHER: a source's rows go back in the order it sent them, when the instance retires. -/
def expertGather (s : State) (r : Run) : State :=
  match s.ashlar r 0x07 with
  | none => s
  | some a =>
    match s.inBlock r.covered a a.d.h0 with
    | none => s.finish r a.odd {}
    | some x =>
      let dest := a.d.p0.toNat
      let slot := a.d.p2.toNat
      let course := s.parityCourse r.covered a.odd
      let layer := (s.templ r.covered a.odd).layerOf (handleOf a.d.h1 a.i)
      let st := s.stagedFor r.covered course layer slot
      let before := sumNat ((st.filter (fun m => decide (m.source.toNat < dest))).map (fun m => m.rows.length))
      let n := sumNat ((st.filter (fun m => m.source.toNat == dest)).map (fun m => m.rows.length))
      let me := (s.indexIn r.covered (s.streamNode r.covered)).getD 0
      let s := s.putOut r.covered a.odd r.inst.toNat [transferOut r a (s.memberAt r.covered dest) (.expertReturn {
        course := course, inst := r.inst, layer := layer, expert := slot, source := BitVec.ofNat 6 me
        counter := BitVec.ofNat 18 a.d.p1.toNat, rows := (List.range n).map (fun k => (s.peek (x.row (before + k)) x.rowBytes).1) })]
      s.finish r a.odd { reads := (List.range n).flatMap (fun k => rowSpan (some x) (before + k) x.rowBytes) }

/-! ## Arrivals (R226, R227) -/

/-- The expert input block: H0 of the instance that waits on the transfer's counter. -/
def Template.inputOf (t : Template) (counter : Nat) : Option Nat :=
  (t.all.find? (fun x => x.2.1.waits.any (fun w => w.at x.2.2 == counter))).bind (fun x => handleOf x.2.1.h0 x.2.2)

/-- Every source of the membership has sent its transfer for an expert slot: the input block is written densely, its ROWS set, and the
held grants applied together (R226). -/
def State.completeExpert (s : State) (cov odd : Bool) (m : ExpertMsg) : State :=
  let st := s.stagedFor cov m.course m.layer m.expert
  let sources := st.map (fun x => x.source.toNat)
  let members := (List.range (s.bondOf cov).length).filter (fun k => bit (s.streamOf cov).members.toNat k)
  if st.isEmpty || members.any (fun k => !sources.contains k) || s.eng.gathered.contains (cov, m.course, m.layer, m.expert) then s
  else
    let s := { s with eng := { s.eng with gathered := s.eng.gathered ++ [(cov, m.course, m.layer, m.expert)] } }
    let rows := st.flatMap (·.rows)
    let s := match (s.templ cov odd).inputOf m.counter.toNat with
      | none => s
      | some h => match s.blockOf cov odd h with
        | none => s
        | some b =>
          let s := ((List.range rows.length).zip rows).foldl (fun (t : State) (x : Nat × List Byte) => t.pokeAs odd (scaleExpOf x.2) (b.row x.1) x.2) s
          let p := s.parity cov odd
          s.setParity cov odd { p with rows := SMap.put p.rows h rows.length }
    s.grants (st.map (fun (x : ExpertMsg) => { covered := cov, odd := odd, counter := x.counter.toNat, amount := 1, cause := none }))

/-- EXPERT_TRANSFER arrives at the holder (R226; 13 R445). -/
def expertTransfer (s : State) (covered : Bool) (sender : Node) (m : ExpertMsg) : State :=
  match s.courseParity covered m.course with
  | none => s.raise (srcCredit (m.counter.toNat % 4)) 0 0x25 1 0
  | some odd => match (s.tally 0 0 (Body.expert m).payload).firstTime covered m.course sender (arrivalNo m.inst m.layer (m.expert % 64)) with
    | none => s
    | some s =>
      let limit := (s.templ covered odd).stagingFor m.expert m.source.toNat
      let s := if m.rows.length > limit then (s.raise srcEngine 0 0x32 1 0).bump O.expertOverruns else s
      let m := { m with rows := m.rows.take limit }
      ({ s with eng := { s.eng with staged := s.eng.staged ++ [(covered, m)] } }).completeExpert covered odd m

/-- The expert that a sender's slot stands for, by the placement table of a layer's ROUTER_TOPK. -/
def State.expertOf (s : State) (cov odd : Bool) (d : Descriptor) (i sender slot : Nat) : Option Nat :=
  (List.range d.p1.toNat).find? (fun e =>
    let row := s.tableRow cov odd d.h3 i e
    holderSlot row sender == some slot && s.holderOf cov row == some sender)

/-- The return table of a layer: H1 of a RESIDUAL_ADD that reads the layer's choice list, or a tile of it (R228). -/
def Template.returnTable (t : Template) (layer : Nat) : Option Nat :=
  (t.all.find? (fun x => x.2.1.kind.toNat == 0x0D && (t.routerOf (handleOf x.2.1.h3 x.2.2)).any (fun d => d.1.p2.toNat == layer))).bind
    (fun x => handleOf x.2.1.h1 x.2.2)

/-- EXPERT_RETURN arrives at the source: its rows go to RBASE(e) onwards of the return table, and 1 is granted (R227). -/
def expertReturn (s : State) (covered : Bool) (sender : Node) (m : ExpertMsg) : State :=
  match s.courseParity covered m.course with
  | none => s.raise (srcCredit (m.counter.toNat % 4)) 0 0x25 1 0
  | some odd => match (s.tally 0 0 (Body.expert m).payload).firstTime covered m.course sender (arrivalNo m.inst m.layer (64 + m.expert % 64)) with
    | none => s
    | some s =>
      let t := s.templ covered odd
      let s := match t.routerAt m.layer with
        | none => s
        | some (d, i) =>
          match s.expertOf covered odd d i ((s.indexIn covered sender).getD 0) m.expert, (t.returnTable m.layer).bind (s.blockOf covered odd) with
          | some e, some b =>
            let base := rbase (s.shares covered odd d i) e
            ((List.range m.rows.length).zip m.rows).foldl (fun (u : State) (x : Nat × List Byte) => u.pokeAs odd 0 (b.row (base + x.1)) x.2) s
          | _, _ => s
      s.grants [{ covered := covered, odd := odd, counter := m.counter.toNat, amount := 1, cause := none }]

/-! ## Exchange windows (R230) -/

/-- A course runs that started n ticks ago. -/
def State.startedAgo (s : State) (n : Nat) : Bool :=
  [s.crs.own, s.crs.covered].any (fun st => st.running && st.startT + BitVec.ofNat 48 n == s.clk.tick)

/-- EXCHANGE_WINDOW_OPEN at a course's start tick; a span of 0 keeps it closed. -/
def exchangeWindowOpen (s : State) : State :=
  if s.startedAgo 0 && s.num O.exchangeSpan != 0 then { s with crs := { s.crs with exchangeOpen := true } } else s

/-- EXCHANGE_WINDOW_CLOSE at the start tick plus EXCHANGE_SPAN; at the close the window closes with the course. -/
def exchangeWindowClose (s : State) : State :=
  if s.startedAgo (s.num O.exchangeSpan) then { s with crs := { s.crs with exchangeOpen := false } } else s

/-! ## The commands -/

/-- ROUTER_TOPK. -/
def execRouterTopk (r : Run) (s : State) : Host.Outcome State Fault Refusal :=
  .next (routerTopk s r)
/-- PLACEMENT_REQUEST. -/
def execPlacementRequest (covered : Bool) (inst : BitVec 20) (s : State) : Host.Outcome State Fault Refusal :=
  .next (placementRequest s covered inst)
/-- EXPERT_SCATTER. -/
def execExpertScatter (r : Run) (s : State) : Host.Outcome State Fault Refusal :=
  .next (expertScatter s r)
/-- EXPERT_GATHER. -/
def execExpertGather (r : Run) (s : State) : Host.Outcome State Fault Refusal :=
  .next (expertGather s r)
/-- EXPERT_TRANSFER. -/
def execExpertTransfer (covered : Bool) (sender : Node) (m : ExpertMsg) (s : State) : Host.Outcome State Fault Refusal :=
  .next (expertTransfer s covered sender m)
/-- EXPERT_RETURN. -/
def execExpertReturn (covered : Bool) (sender : Node) (m : ExpertMsg) (s : State) : Host.Outcome State Fault Refusal :=
  .next (expertReturn s covered sender m)

end Sys2Proof.Machine
end

