-- ==== Sys2Proof/Machine/Hods.lean ====
section
/-! DEFINITION. Hods: enabling, sampling and the checks of Table 2.4 (02_course_clock_and_courses.md R58 to R67, R79, R604, R605), for
the package's own hods and those it covers (13 R441, R442). -/

namespace Sys2Proof.Machine

/-! ## Hods of a stream -/

/-- A covered node's local address as the package holds it: range i of the twin lies at COVER_BASE plus the sizes of the ranges before
it (13 R429, R442). An address outside the ranges has no place. -/
def State.coverAddr (s : State) (a : Nat) : Option Nat :=
  (s.mir.twinRanges.foldl (fun (acc : Nat × Option Nat) v =>
    let first := bits v.toNat 17 0 * 0x200000
    let size := bits v.toNat 35 18 * 0x200000
    (acc.1 + size, if acc.2.isNone && decide (first ≤ a) && decide (a < first + size) then some (acc.1 + (a - first)) else acc.2))
    (s.num O.coverBase, none)).2

/-- Where a stream's local address lies in this package. -/
def State.streamAddr (s : State) (covered : Bool) (a : Nat) : Nat := if covered then (s.coverAddr a).getD 0 else a

/-- Number of a hod of a stream: own 0 to 63, covered 64 to 127. -/
def hodKey (covered : Bool) (h : Nat) : Nat := if covered then 64 + h else h

/-- A hod's stream. -/
def hodCovered (k : Nat) : Bool := decide (k ≥ 64)

/-- An object of a hod. -/
def State.hodNum (s : State) (k : Nat) (o : Nat → Obj) : Nat := s.cnum (hodCovered k) (o (k % 64))
/-- Write an object of a hod. -/
def State.setHodNum (s : State) (k : Nat) (o : Nat → Obj) (v : Nat) : State := s.setCnum (hodCovered k) (o (k % 64)) v
/-- What a hod keeps beyond its objects. -/
def State.hodRt (s : State) (k : Nat) : HodRt := SMap.get {} s.crs.hods k
/-- Replace it. -/
def State.setHodRt (s : State) (k : Nat) (r : HodRt) : State := { s with crs := { s.crs with hods := SMap.set {} s.crs.hods k r } }
/-- The hods of a stream that are enabled, ascending. -/
def State.hodsOn (s : State) (covered : Bool) : List Nat :=
  ((List.range 64).map (hodKey covered)).filter (fun k => s.hodNum k O.hodEnable == 1)

/-! ## Enabling (R59, R79) -/

/-- The rings of a hod meet the conditions of R79. -/
def State.ringsOk (s : State) (h : Nat) : Bool :=
  let rings := s.hodRings h
  let others := (s.enabledHods.filter (· != h)).flatMap s.hodRings
  !anyMeet rings && rings.all (fun r => !others.any (runsMeet r)) &&
    rings.all (fun r => s.inWindows (s.num (O.hodTenant h)) r.1 r.2 && s.inState r.1 r.2)

/-- A write of ENABLE of hod h (R59). -/
def State.hodEnableWrite (s : State) (h v : Nat) : Nat × State :=
  if v = 0 then (Err.ok, s.setNum (O.hodEnable h) 0)
  else if s.num (O.hodEnable h) = 1 then (Err.ok, s)
  else if !s.ringsOk h then (Err.window, s)
  else
    let s := ((s.setNum (O.hodConsumerIndex h) 0).setNum (O.hodReturnRelease h) 0).setNum (O.hodReturnCommitted h) 0
    let s := s.setHodRt h { s.hodRt h with retSeq := 0, tornSince := none, sampled := none, admitted := 0 }
    (Err.ok, s.setNum (O.hodEnable h) 1)

/-! ## The checks of Table 2.4 -/

/-- The open session of a tag for a tenant in a stream. -/
def State.openIn (s : State) (covered : Bool) (tag : W64) (tenant : Nat) : Option Nat :=
  (s.sessionsOpen.find? (fun e => e.2.tag == tag && e.2.tenant == tenant && e.2.covered == covered)).map (·.1)

/-- Records taken and not yet admitted, of a tag and tenant in a stream. -/
def State.takenOf (s : State) (covered : Bool) (tag : W64) (tenant : Nat) : List TakenRec :=
  s.crs.taken.filter (fun t => t.tag == tag && t.tenant == tenant && hodCovered t.hod == covered)

/-- A tag is open for a tenant (R605). -/
def State.tagOpen (s : State) (covered : Bool) (tag : W64) (tenant : Nat) : Bool :=
  (s.openIn covered tag tenant).isSome || (s.takenOf covered tag tenant).any (fun t => t.op == 1)

/-- KV length of a session after an APPEND's input (R604), the record's own tokens left out. -/
def State.lengthBefore (s : State) (covered : Bool) (tag : W64) (tenant : Nat) : Nat :=
  let waiting := sumNat (((s.takenOf covered tag tenant).filter (fun t => t.op == 2)).map (·.count))
  match s.openIn covered tag tenant with
  | none => waiting
  | some slot =>
    let x := s.session slot
    (if x.st = .satchelled then x.satchelCount else x.main.setEnd) + b2n x.nextToken.isSome + x.inputLeft + waiting

/-- Check 1 on a record's fields. -/
def State.recordOk (s : State) (covered : Bool) (r : TakenRec) (b : List Byte) : Bool :=
  allZero (slice b 0x2E 14) &&
  (if r.op = 3 then allZero (slice b 5 3) && allZero (slice b 0x10 30)
  else (r.op == 1 || r.op == 2) && decide (r.cls ≤ 3) && decide (r.draftMax ≤ 8) && decide (r.profile ≤ 63) &&
    s.cnum covered (O.profDefined r.profile) == 1 && r.tokenAddr.toNat % 4 == 0 &&
    decide (1 ≤ r.count) && decide (r.count ≤ 262143) && decide (1 ≤ r.maxNew) && decide (r.maxNew ≤ 262143))

/-- Status of a taken record under Table 2.4, 0 when it passes. -/
def State.intakeStatus (s : State) (covered : Bool) (r : TakenRec) (b : List Byte) (poisoned : Bool) : Nat :=
  let input := r.op != 3
  let len := if r.op = 1 then 0 else s.lengthBefore covered r.tag r.tenant
  let a := r.tokenAddr.toNat
  if poisoned || !s.recordOk covered r b then 0x01
  else if input && !bit (s.cnum covered (O.tenClassMask r.tenant)) r.cls then 0x02
  else if input && !(nodeOf a == s.streamNode covered && s.inWindowsOf r.tenant (nodeOf a) (localOf a) (4 * r.count)) then 0x03
  else if input && decide (len + r.count > 262143) then 0x04
  else if r.deadline ≠ 0 ∧ !Tick.after r.deadline s.clk.tick then 0x05
  else if s.tagOpen covered r.tag r.tenant != (r.op != 1) then 0x06
  else 0

/-! ## Sampling (R62, R63, R67) -/

/-- Reject a record with a status (R64): its return record is due at the next close. -/
def State.rejectRecord (s : State) (k : Nat) (tag : W64) (status : Nat) (seq : Nat) : State :=
  let rt := s.hodRt k
  let s := s.setHodRt k { rt with
    rejects := rt.rejects ++ [{ tag := tag, status := status }], admitted := BitVec.ofNat 32 (seq + 1), tornSince := none }
  (s.setHodNum k O.hodRejected ((s.hodNum k O.hodRejected + 1) % 2 ^ 32)).icxEvent (0x20 + k % 64)

/-- Advance CONSUMER_INDEX. -/
def State.consume (s : State) (k : Nat) : State := s.setHodNum k O.hodConsumerIndex ((s.hodNum k O.hodConsumerIndex + 1) % 2 ^ 32)

/-- Address of the slot of a sequence. -/
def State.hodSlot (s : State) (k seq : Nat) : Nat :=
  s.streamAddr (hodCovered k) (s.hodNum k O.hodBase) + 64 * (seq % s.hodNum k O.hodRecords)

/-- Take a record whose stamps both match, and check it. -/
def State.takeRecord (s : State) (k seq : Nat) (body : List Byte) (poisoned tagPoisoned : Bool) : State :=
  let covered := hodCovered k
  let r := { readHodRecord k (BitVec.ofNat 32 seq) body with tenant := s.hodNum k O.hodTenant }
  let st := s.intakeStatus covered r body poisoned
  let s := (s.consume k).setHodRt k { s.hodRt k with tornSince := none }
  if st ≠ 0 then s.rejectRecord k (if tagPoisoned then 0 else r.tag) st seq
  else { s with crs := { s.crs with taken := s.crs.taken ++ [r] } }

/-- R63 on a record found incomplete: rejected once it has been so for TORN_TIMEOUT. -/
def State.torn (s : State) (k seq : Nat) : State :=
  let rt := s.hodRt k
  match rt.tornSince with
  | none => s.setHodRt k { rt with tornSince := some s.clk.tick }
  | some t =>
    if Tick.since s.clk.tick t ≥ s.hodNum k O.hodTornTimeout then
      let a := s.hodSlot k seq
      let tag := s.peek (a + 8) 8
      (s.consume k).rejectRecord k (if tag.2 then 0 else BitVec.ofNat 64 (ofLe tag.1)) 0x07 seq
    else s

/-- Repeat the steps of R62, at most n times. -/
def State.sampleLoop : Nat → Nat → State → State
  | 0, _, s => s
  | n + 1, k, s =>
    let seq := s.hodNum k O.hodConsumerIndex
    let a := s.hodSlot k seq
    let lead := s.peek a 4
    let tail := s.peek (a + 0x3C) 4
    let lm := !lead.2 && ofLe lead.1 == seq
    let tm := !tail.2 && ofLe tail.1 == seq
    if lm && tm then
      let b := s.peek a 64
      State.sampleLoop n k ((s.readBad [(a, 64)]).takeRecord k seq b.1 b.2 (s.peek (a + 8) 8).2)
    else if lm != tm || lead.2 || tail.2 then (s.readBad [(a, 4), (a + 0x3C, 4)]).torn k seq
    else s.setHodRt k { s.hodRt k with tornSince := none }

/-- One sampling of a hod, at most one a tick. While a return record of it waits, it takes none (R67). -/
def State.sampleHod (s : State) (k : Nat) : State :=
  if s.hodNum k O.hodEnable ≠ 1 ∨ (s.hodRt k).waiting ≠ [] ∨ (s.hodRt k).sampled = some s.clk.tick then s
  else State.sampleLoop (s.hodNum k O.hodTakeLimit) k (s.setHodRt k { s.hodRt k with sampled := some s.clk.tick })

/-- A hod samples at the present tick (R62). -/
def State.samplesAt (s : State) (k : Nat) : Bool :=
  s.hodNum k O.hodEnable == 1 && s.clk.tick.toNat % s.hodNum k O.hodSamplePeriod == s.hodNum k O.hodSamplePhase

/-- HOD_SAMPLING of hod h: the package's own, and in COVERING the covered node's. -/
def hodSampling (s : State) (h : Fin 64) : State :=
  if !s.pkg.st.hubRuns || !s.clk.counting then s
  else
    let s := if s.samplesAt h.val then s.sampleHod h.val else s
    if s.pkg.st == .covering && s.samplesAt (64 + h.val) then s.sampleHod (64 + h.val) else s

end Sys2Proof.Machine
end

