-- ==== Sys2Proof/Machine/Attention.lean ====
section
/-! DEFINITION. Attention and the KV cache (05_attention_and_kv_cache.md R151 to R190; 08 R260, R262; 09 R299, R307, R308): rotary,
scores, spans and their merge, writing, sealing, shipping and repacking of pages. -/

namespace Sys2Proof.Machine

/-! ## Rotary position codes (R175, R176) -/

/-- Rotate a row at a position (R175). -/
def rotate (p : Rotary) (om : List Fx) (pos : Nat) (x : List Fx) : List Fx :=
  (List.range (p.rot / 2)).foldl (fun y i =>
    let w := om.getD i (fx 0)
    let a := (rneInt false ((pos : Int) * units w.v % (2 * one149 : Nat)) 1).also w.r
    let c := fcospi a
    let s := fsinpi a
    let u := if p.split then i else 2 * i
    let v := if p.split then i + p.rot / 2 else 2 * i + 1
    let xu := x.getD u (fx 0)
    let xv := x.getD v (fx 0)
    setAt (setAt y u (fsub (fmul xu c) (fmul xv s))) v (fadd (fmul xu s) (fmul xv c))) x

/-! ## The session and model an instance reads (R160, R163, R184) -/

/-- The layer whose pages a KV page list names: that of the KV_SET nearest before the instance that names the same list. -/
def Template.kvLayer (t : Template) (inst : Nat) (h : Option Nat) : Nat :=
  let sets := t.all.filter (fun x => x.2.1.kind.toNat == 0x13 && handleOf x.2.1.h1 x.2.2 == h)
  match (sets.filter (fun x => decide (x.1 < inst))).getLast? with
  | some x => x.2.1.p0.toNat
  | none => ((sets.head?).map (fun x => x.2.1.p0.toNat)).getD 0

/-- The token row that row t of a block stands for. -/
def State.tokenRow (s : State) (cov : Bool) (b : BlockEntry) (t : Nat) : TokenRow := (s.streamOf cov).rows.getD (tokenIndex b t) {}

/-- Rotary position of a session's row at a KV position (R176). -/
def Root.rotPos (r : Root) (layer p : Nat) : Nat := (r.page layer (p / 64)).rotBase.toNat + p % 64

/-- The read of a page of this session was answered LATE (09 R308). -/
def State.late (s : State) (slot layer page : Nat) (draft : Bool) : Bool := s.mem.latePages.contains (slot, draft, layer, page)

/-- The visible positions of a query row (R178), those on LATE pages left out (09 R308). -/
def State.visible (s : State) (slot layer kvPos : Nat) (r : Root) (draft : Bool) (p1 p2 : Nat) : List Nat :=
  ((List.range p2).map (· + p1)).filter (fun p => decide (p ≤ kvPos) && decide (p < r.setEnd + r.scaffold) && !s.late slot layer (p / 64) draft)

/-- Some page of the span would be visible and was answered LATE. -/
def State.latePagesIn (s : State) (slot layer kvPos : Nat) (r : Root) (draft : Bool) (p1 p2 : Nat) : List Nat :=
  ((((List.range p2).map (· + p1)).filter (fun p => decide (p ≤ kvPos) && decide (p < r.setEnd + r.scaffold) && s.late slot layer (p / 64) draft)).map
    (· / 64)).eraseDups

/-- Exact units of 2^−24 as FP32 operands. -/
def ofUnits24 (l : List Int) : List Fx := l.map (fun v => rneInt false (v * 2 ^ 125) 1)

/-- Address of the first block of a vector whose scale is reserved (R152, as R85 names it), if there is one: in a sealed page the block, in
an open row the start of the head's part of the row (DESIGN CHOICE, log entry 27; a span names its first key before its first value). -/
def KvVec.badAt (k : KvVec) (r : Root) (e : PageEntry) (head : Nat) (value : Bool) (row : Nat) : Option Nat :=
  (k.scales.findIdx? halfBad).map (fun c =>
    let a := localOf e.addr.toNat
    if e.st = 1 then a + row * r.tr + head * (2 * r.dim + 4)
    else a + ((2 * head + b2n value) * (r.dim / 64) + c) * (if e.st = 3 then 2048 else 4096))

/-- The key of a position as codes and scale (R177 step 2), the block of a reserved scale, and whether it met poison. -/
def State.keyCodes (s : State) (p : Rotary) (om : List Fx) (r : Root) (layer head pos : Nat) : List Int × Fx × Option Nat × Bool :=
  let e := r.page layer (pos / 64)
  let k := s.readKv r e head false (pos % 64)
  let q := requantCodes (if e.st = 3 then 7 else 127) (rotate p om (r.rotPos layer pos) (ofUnits24 k.exact))
  (q.1, q.2, k.badAt r e head false (pos % 64), k.poison)

/-- Query head g of a row: codes and s_qτ (R177 step 1). -/
def queryCodes (p : Rotary) (om : List Fx) (pos g : Nat) (row : List Fx) : List Int × Fx :=
  let q := requantCodes 127 (rotate p om pos ((row.drop (g * p.dim)).take p.dim))
  (q.1, fmul q.2 (fx p.tau))

/-- A score (R177 steps 3 and 4). -/
def score (q k : List Int) (sqt sk : Fx) : Fx :=
  let sum := (List.zipWith (· * ·) q k).foldl (· + ·) 0
  let c := fmul sqt sk
  (rneInt false (sum * units c.v) 1).also c.r

/-- What a span of one query row finds: its output bytes, the faults, the late pages. -/
structure Span where
  bytes : List Byte
  range : Bool := false
  scale : Option Nat := none
  poison : Bool := false
  late : List Nat := []
  deriving DecidableEq, Repr

/-- One query row of ATTEND (R177 to R180): for each query head of the KV head, a header and D accumulator words. -/
def State.attendRow (s : State) (p : Rotary) (om : List Fx) (slot kvPos : Nat) (r : Root) (draft : Bool) (layer head p1 p2 : Nat) (expect : Nat)
    (row : List Fx) : Span :=
  let vis := s.visible slot layer kvPos r draft p1 p2
  let late := s.latePagesIn slot layer kvPos r draft p1 p2
  let keys := vis.map (s.keyCodes p om r layer head)
  let vals := vis.map (fun x => s.readKv r (r.page layer (x / 64)) head true (x % 64))
  let form := vis.any (fun x => let st := (r.page layer (x / 64)).st; (st == 2 || st == 3) && st != expect)
  let flags := b2n (!late.isEmpty) + 2 * b2n form
  let heads := (List.range p.group).map (fun j =>
    if vis.isEmpty then (leBytes 4 0 ++ leBytes 4 0 ++ leBytes 4 0 ++ leBytes 4 flags ++ zeros (16 * p.dim), false)
    else
      let q := queryCodes p om (r.rotPos layer kvPos) (head * p.group + j) row
      let xs := keys.map (fun k => score q.1 k.1 q.2 k.2.1)
      let mu := rowMax xs
      let es := xs.map (fun x => fexp (fsub x mu))
      let us := es.map (fun e => divEven (units e.v * 127).natAbs one149)
      let words := (List.range p.dim).map (fun d => (List.zipWith (fun (u : Nat) (v : KvVec) => (u : Int) * v.exact.getD d 0) us vals).foldl (· + ·) 0)
      (leBytes 4 mu.v.toNat ++ leBytes 4 (sumNat us) ++ leBytes 4 vis.length ++ leBytes 4 flags ++ (words.map accBytes).flatten,
        xs.any (·.r) || es.any (·.r)))
  { bytes := (heads.map (·.1)).flatten, range := heads.any (·.2), late := late
    scale := (keys.findSome? (·.2.2.1)).or ((List.zip vis vals).findSome? (fun x => x.2.badAt r (r.page layer (x.1 / 64)) head true (x.1 % 64)))
    poison := keys.any (·.2.2.2) || vals.any (·.poison) }

/-- Pages over which a span of one session met poison: their words, for R299. -/
def State.kvPoison (s : State) (r : Run) (odd : Bool) (slots : List Nat) : State :=
  if slots.isEmpty then s
  else
    let s := s.raise (runCore r) 0 0x24 1 (instAddr r.inst.toNat odd)
    let st := s.streamOf r.covered
    let s := s.setStream r.covered { st with poisoned := (st.poisoned ++ slots).eraseDups }
    s.endSessions (fun k _ => slots.contains k) 0x22

/-- The pages a course's spans left out are counted, and their sessions marked (09 R308). -/
def State.noteLate (s : State) (cov : Bool) (l : List (Nat × Nat)) : State :=
  let l := l.eraseDups
  let st := s.streamOf cov
  (s.setStream cov { st with fallbacks := st.fallbacks + l.length, fellBack := (st.fellBack ++ l.map (·.1)).eraseDups }).bump O.fallbacksTotal 64 l.length

/-- What a query row names: its session's slot, root and KV position. -/
def State.queryOf (s : State) (r : Run) (b : BlockEntry) (t : Nat) : Nat × Root × Nat :=
  let row := s.tokenRow r.covered b t
  let draft := (s.templ r.covered (oddOf (s.streamOf r.covered).course)).isDraft r.inst.toNat
  (row.slot, (s.session row.slot).root draft, row.kvPos)

/-- The rates of a rotary block: those kept at template load; of a block that the template names nowhere, computed here (R174). -/
def Template.omegasOf (t : Template) (h : Option Nat) (p : Rotary) : List Fx :=
  match h.bind (SMap.find t.rates) with
  | some l => l.map (fun w => ⟨w.1, w.2⟩)
  | none => p.omegas

/-- ATTEND and ROTARY_SCORE share their operands: the rows' spans under a function of the row. -/
def State.spans (s : State) (r : Run) (kind : Nat) (f : Ashlar → Rotary → List Fx → Bool → Nat → Nat × Root × Nat → List Fx → Span) : State :=
  match s.ashlar r kind with
  | none => s
  | some a =>
    match s.inBlock r.covered a a.d.h0, s.inBlock r.covered a a.d.h3, s.outBlock r.covered a a.d.h2 with
    | some x, some rb, some out =>
      let t := s.templ r.covered a.odd
      let layer := t.kvLayer r.inst.toNat (handleOf a.d.h1 a.i)
      let p := readRotary (s.peek (rb.row 0) 64).1
      let om := (t.omegasOf (handleOf a.d.h3 a.i |>.map (s.resolve r.covered a.odd)) p)
      let n := p.heads * p.group * p.dim
      let rows := (List.range x.rows).map (fun k =>
        let q := s.queryOf r x k
        (k, q.1, f a p om (t.isDraft r.inst.toNat) layer q (s.elems x k n)))
      let s := s.finish r a.odd {
        writes := rows.map (fun y => out.put y.1 y.2.2.bytes), range := rows.any (fun y => y.2.2.range)
        scale := rows.findSome? (fun y => y.2.2.scale), reads := (rb.row 0, 64) :: elemSpan (some x) x.rows n }
      let s := s.noteLate r.covered (rows.flatMap (fun y => y.2.2.late.map (fun pg => (y.2.1, pg))))
      s.kvPoison r a.odd ((rows.filter (fun y => y.2.2.poison)).map (fun y => y.2.1)).eraseDups
    | _, _, _ => s.finish r a.odd {}

/-- The page form a page list's FORMAT expects (R163, R180). -/
def State.expectForm (s : State) (cov : Bool) (a : Ashlar) : Nat :=
  match s.inBlock cov a a.d.h1 with
  | some b => if b.format = 0x09 then 3 else 2
  | none => 2

/-- ATTEND. -/
def attend (s : State) (r : Run) : State :=
  s.spans r 0x03 (fun a p om draft layer q row =>
    s.attendRow p om q.1 q.2.2 q.2.1 draft layer a.d.p0.toNat a.d.p1.toNat a.d.p2.toNat (s.expectForm r.covered a) row)

/-- ROTARY_SCORE (R183). -/
def rotaryScore (s : State) (r : Run) : State :=
  s.spans r 0x0B (fun a p om draft layer q row =>
    let head := a.d.p0.toNat
    let p1 := a.d.p1.toNat
    let p2 := a.d.p2.toNat
    let vis := s.visible q.1 layer q.2.2 q.2.1 draft p1 p2
    let keys := vis.map (fun x => (x, s.keyCodes p om q.2.1 layer head x))
    let heads := (List.range p.group).map (fun j =>
      let qc := queryCodes p om (q.2.1.rotPos layer q.2.2) (head * p.group + j) row
      (List.range p2).map (fun k => match keys.find? (fun y => y.1 == p1 + k) with
        | some y => score qc.1 y.2.1 qc.2 y.2.2.1
        | none => fx 0xFF7FFFFF))
    { bytes := (heads.flatten.map (fun x => leBytes 4 x.v.toNat)).flatten, range := heads.flatten.any (·.r)
      scale := keys.findSome? (fun y => y.2.2.2.1), poison := keys.any (fun y => y.2.2.2.2)
      late := s.latePagesIn q.1 layer q.2.2 q.2.1 draft p1 p2 })

/-- ATTN_MERGE (R181). -/
def attnMerge (s : State) (r : Run) : State :=
  s.runKind r 0x04 (fun a =>
    match s.inBlock r.covered a a.d.h0, s.outBlock r.covered a a.d.h2 with
    | some x, some out =>
      let t := s.templ r.covered a.odd
      let dim := if t.isDraft r.inst.toNat then t.draft.dim else t.main.dim
      let group := if t.isDraft r.inst.toNat then t.draft.group else t.main.group
      let size := 16 + 16 * dim
      let rows := (List.range x.rows).map (fun k =>
        (List.range group).map (fun g =>
          let parts := (List.range a.d.p0.toNat).filterMap (fun j => match s.inBlock r.covered a a.d.h0 j with
            | none => none
            | some b =>
              let l := (s.peek (b.row k + g * size) size).1
              if u32 l 8 = 0 then none else some l)
          if parts.isEmpty then (List.replicate dim (fx 0), true)
          else
            let mus := parts.map (fun l => fx (BitVec.ofNat 32 (u32 l 0)))
            let m := rowMax mus
            let fs := mus.map (fun mu => fexp (fsub mu m))
            let den := lsum (List.zipWith (fun f l => fmul f (rneUnits false (u32 l 4 * one149) 1)) fs parts)
            ((List.range dim).map (fun d =>
              fdiv (lsum (List.zipWith (fun f l => fmul f (rneInt false (ofAccBytes (l.drop (16 + 16 * d)) * 2 ^ 125) 1)) fs parts)) den), false)))
      let ws := (List.range x.rows).map (fun k => outRow out k ((rows.getD k []).flatMap (·.1)))
      { writes := ws.map (·.1), range := ws.any (·.2), shape := rows.flatten.any (·.2)
        reads := (List.range a.d.p0.toNat).flatMap (fun j => spanOf (s.inBlock r.covered a a.d.h0 j) x.rows (group * size)) }
    | _, _ => {})

/-! ## Writing and sealing (R164 to R172) -/

/-- Sessions of a course whose first token lies in a tile (R165). -/
def Stream.firstIn (st : Stream) (tile : Nat) : List Nat :=
  (st.sessions.filter (fun slot => match st.rows.findIdx? (fun x => x.slot == slot) with
    | some k => k / 64 == tile
    | none => false))

/-- The pages of a session that the course seals in a layer and has not sealed yet. -/
def State.toSeal (s : State) (cov : Bool) (slot : Nat) (draft : Bool) (layer : Nat) : List Sealing :=
  (s.streamOf cov).sealing.filter (fun p => p.slot == slot && p.draft == draft && p.layer == layer &&
    (((s.session slot).root draft).page layer p.page).st == 1)

/-- Seal the full open pages of a session in a layer into their sealed slots, before any row is written (R165). The sealed slots lie in the
near tier, those of pages that were parked too. -/
def State.sealPages (s : State) (cov : Bool) (slot : Nat) (draft : Bool) (layer : Nat) : State :=
  let r := (s.session slot).root draft
  (s.toSeal cov slot draft layer).foldl (fun t p =>
    let e := r.page layer p.page
    (t.poke (localOf p.addr.toNat) (sealPage r r.form (t.pageRows r e)).1).putPage slot draft layer p.page
      { e with addr := p.addr, st := if r.form then 3 else 2, far := false }) s

/-- Sealing limited a scale (R153 step 4). -/
def State.sealRange (s : State) (cov : Bool) (slot : Nat) (draft : Bool) (layer : Nat) : Bool :=
  let r := (s.session slot).root draft
  (s.toSeal cov slot draft layer).any (fun p => (sealPage r r.form (s.pageRows r (r.page layer p.page))).2)

/-- Sealing reads a poisoned word (09 R299). -/
def State.sealPoison (s : State) (cov : Bool) (slot : Nat) (draft : Bool) (layer : Nat) : Bool :=
  let r := (s.session slot).root draft
  (s.toSeal cov slot draft layer).any (fun p => (s.peek (localOf p.from_.toNat) (64 * r.tr)).2)

/-- Write one row (R164, R167, R172): none of it past the limit or in an EMPTY position. Whether it met ARITH_RANGE comes with it: the
instance raises that once (03 R96). -/
def State.writeKvRow (s : State) (run : Run) (odd : Bool) (slot kvPos : Nat) (draft : Bool) (layer : Nat) (vals : List W32) : State × Bool :=
  let r := (s.session slot).root draft
  if kvPos ≥ 262144 then
    ((s.raise (runCore run) 0 0x31 1 (instAddr run.inst.toNat odd)).endSessions (fun k _ => k == slot) 0x26, false)
  else if kvPos ≥ r.setEnd + r.scaffold then (s.raise (runCore run) 0 0x30 2 (instAddr run.inst.toNat odd), false)
  else
    let e := r.page layer (kvPos / 64)
    let hd := r.heads * r.dim
    let parts := (List.range r.heads).map (fun h => openHead ((vals.drop (h * r.dim)).take r.dim) ((vals.drop (hd + h * r.dim)).take r.dim))
    (s.poke (localOf e.addr.toNat + kvPos % 64 * r.tr) (parts.flatMap (·.1)), parts.any (·.2))

/-- KV_SET (R164, R165). A row whose session has no root of the model (a draft-model instance, DRAFT_MAX 0) has 0 heads there: the whole
instance is then refused with ASHLAR_SHAPE (DESIGN CHOICE, log entry 27: R164 speaks of a root's head count). -/
def kvSet (s : State) (r : Run) : State :=
  match s.ashlar r 0x13 with
  | none => s
  | some a =>
    match s.inBlock r.covered a a.d.h0 with
    | none => s.finish r a.odd {}
    | some x =>
      let draft := (s.templ r.covered a.odd).isDraft r.inst.toNat
      let layer := a.d.p0.toNat
      let rows := (List.range x.rows).map (fun t => (t, s.tokenRow r.covered x t))
      if rows.any (fun y => ((s.session y.2.slot).root draft).heads != a.d.p1.toNat) then s.finish r a.odd { shape := true }
      else
        let slots := (s.streamOf r.covered).firstIn x.tile
        let rng := slots.any (fun k => s.sealRange r.covered k draft layer)
        let lost := slots.filter (fun k => s.sealPoison r.covered k draft layer)
        let words := fun (t n : Nat) => (s.elems x t n).map (·.v)
        let s1 := slots.foldl (fun t k => t.sealPages r.covered k draft layer) s
        let s2 := rows.foldl (fun (t : State × Bool) y =>
          let g := (t.1.session y.2.slot).root draft
          let w := t.1.writeKvRow r a.odd y.2.slot y.2.kvPos draft layer (words y.1 (2 * g.heads * g.dim))
          (w.1, t.2 || w.2)) (s1, rng)
        s2.1.finish r a.odd { range := s2.2, reads := elemSpan (some x) x.rows (2 * a.d.p1.toNat * ((if draft then (s.templ r.covered a.odd).draft else (s.templ r.covered a.odd).main).dim)) } |>.kvPoison r a.odd lost

/-! ## Repacking, satchels and shipping -/

/-- KV_REPACK (R155; 08 R260): the K8V8 pages of its layer that the course parks are converted into their far slots. -/
def kvRepack (s : State) (r : Run) : State :=
  match s.ashlar r 0x15 with
  | none => s
  | some a =>
    let plan := (s.streamOf r.covered).parking.filter (fun p => p.2.2.1 == a.d.p0.toNat)
    let work := plan.filterMap (fun p =>
      let g := (s.session p.1).root p.2.1
      let e := g.page p.2.2.1 p.2.2.2.1
      if e.st = 2 then some (localOf p.2.2.2.2.toNat, sealPage g true (s.pageRows g e), (localOf e.addr.toNat, g.pageBytes 2)) else none)
    s.finish r a.odd { writes := work.map (fun w => (w.1, w.2.1.1)), range := work.any (fun w => w.2.1.2), reads := work.map (fun w => w.2.2) }

/-- A satchel's bytes (08 Table 8.7). -/
def satchelBytes (tag : W64) (length : Nat) (next : W32) (tokens : List Nat) : List Byte :=
  let head := leBytes 8 tag.toNat ++ leBytes 4 length ++ leBytes 2 tokens.length ++ zeros 2 ++ leBytes 4 next.toNat ++ zeros 40
  let body := fit 16320 ((tokens.map (leBytes 4)).flatten)
  head ++ leBytes 4 (crc32c (head ++ body)).toNat ++ body

/-- Sessions being reduced to satchels, ascending slot. -/
def State.satchelling (s : State) (cov : Bool) : List Nat :=
  (s.sessionsOpen.filter (fun e => e.2.st == .satchelling && e.2.covered == cov)).map (·.1)

/-- SATCHEL_STORE (08 R262): instance i stores the satchel of the i-th session being reduced. -/
def satchelStore (s : State) (r : Run) : State :=
  match s.ashlar r 0x16 with
  | none => s
  | some a =>
    match s.inBlock r.covered a a.d.h0, (s.satchelling r.covered)[a.i]? with
    | some x, some slot =>
      let n := Nat.min x.rows 4080
      let toks := (List.range n).map (fun t => s.peekLe (x.row t) 4)
      let y := s.session slot
      let s := s.finish r a.odd {
        writes := [(localOf y.satchel.toNat, satchelBytes y.tag y.main.length (y.nextToken.getD 0) toks)], reads := spanOf (some x) n 4 }
      s.editSession slot (fun z => { z with satchelCount := n })
    | _, _ => s.finish r a.odd {}

/-- RCRC of a 64-byte record (R186): bytes 0x00 to 0x3B and their CRC-32C. -/
def withRcrc (l : List Byte) : List Byte := fit 60 l ++ leBytes 4 (crc32c (fit 60 l)).toNat

/-- RCRC is correct. -/
def rcrcOk (l : List Byte) : Bool := u32 l 0x3C == (crc32c (fit 60 l)).toNat

/-- A page record and its payload (R185, R186). -/
def State.pageRecordOf (s : State) (x : Session) (draft : Bool) (id : W64) (layer page : Nat) : List Byte × List Byte :=
  let r := x.root draft
  let e := r.page layer page
  let rows := Nat.min 64 (r.length - 64 * page)
  let n := if e.st = 1 then rows * r.tr else r.pageBytes e.st
  let p := (s.peek (localOf e.addr.toNat) n).1
  (withRcrc (leBytes 1 (if e.st = 1 then 2 else 1) ++ leBytes 1 e.st ++ leBytes 2 layer ++ leBytes 4 page ++ leBytes 8 x.tag.toNat ++ leBytes 8 id.toNat ++
    leBytes 4 e.rotBase.toNat ++ leBytes 1 rows ++ zeros 3 ++ leBytes 4 n ++ leBytes 4 (crc32c p).toNat ++
    leBytes 4 (layer * pagesFor r.length + page) ++ zeros 16), p)

/-- Bytes of a layer's pages as they are shipped. -/
def State.shipReads (s : State) (slot : Nat) (draft : Bool) (layer : Nat) : List (Nat × Nat) :=
  let r := (s.session slot).root draft
  (List.range (pagesFor r.length)).map (fun j =>
    let e := r.page layer j
    (localOf e.addr.toNat, if e.st = 1 then Nat.min 64 (r.length - 64 * j) * r.tr else r.pageBytes e.st))

/-- One layer of a session's root as an instance ships it: a page record and its payload for each page. -/
def State.shipLayer (s : State) (run : Run) (odd : Bool) (slot : Nat) (draft : Bool) (layer : Nat) (dest : Node) : List Sending :=
  let x := s.session slot
  let id := if draft then x.ship.id + 1 else x.ship.id
  (List.range (pagesFor (x.root draft).length)).map (fun j =>
    let p := s.pageRecordOf x draft id layer j
    { covered := run.covered, odd := odd, inst := run.inst.toNat, dest := dest, body := .pageRecord p.1 p.2, root := some (slot, draft) })

/-- Sessions granted by a target before the running course started and not yet shipped whole. -/
def State.shippingTo (s : State) (cov : Bool) (dest : Node) : List Nat :=
  (s.sessionsOpen.filter (fun e => e.2.st == .shipping && e.2.covered == cov && e.2.ship.granted && e.2.ship.target == some dest && e.2.ship.recordAt.isNone &&
    Tick.atLeast (s.streamOf cov).startT e.2.ship.grantAt)).map (·.1)

/-- KV_SHIP (R185): layer P1 of the sessions shipped to node P0. The records go out when the instance retires (04 R130). -/
def kvShip (s : State) (r : Run) : State :=
  match s.ashlar r 0x14 with
  | none => s
  | some a =>
    let dest := BitVec.ofNat 17 a.d.p0.toNat
    let draft := (s.templ r.covered a.odd).isDraft r.inst.toNat
    let slots := s.shippingTo r.covered dest
    (s.putOut r.covered a.odd r.inst.toNat (slots.flatMap (fun k => s.shipLayer r a.odd k draft a.d.p1.toNat dest))).finish r a.odd { reads := slots.flatMap (fun k => s.shipReads k draft a.d.p1.toNat) }

/-! ## The commands -/

/-- ATTEND. -/
def execAttend (r : Run) (s : State) : Host.Outcome State Fault Refusal :=
  .next (attend s r)
/-- ATTN_MERGE. -/
def execAttnMerge (r : Run) (s : State) : Host.Outcome State Fault Refusal :=
  .next (attnMerge s r)
/-- ROTARY_SCORE. -/
def execRotaryScore (r : Run) (s : State) : Host.Outcome State Fault Refusal :=
  .next (rotaryScore s r)
/-- KV_SET. -/
def execKvSet (r : Run) (s : State) : Host.Outcome State Fault Refusal :=
  .next (kvSet s r)
/-- KV_REPACK. -/
def execKvRepack (r : Run) (s : State) : Host.Outcome State Fault Refusal :=
  .next (kvRepack s r)
/-- SATCHEL_STORE. -/
def execSatchelStore (r : Run) (s : State) : Host.Outcome State Fault Refusal :=
  .next (satchelStore s r)
/-- KV_SHIP. -/
def execKvShip (r : Run) (s : State) : Host.Outcome State Fault Refusal :=
  .next (kvShip s r)

end Sys2Proof.Machine
end

