-- ==== Sys2Proof/Machine/Sampling.lean ====
section
/-! DEFINITION. Probabilities, sampling, verification of drafts and depth adaptation (06_speculative_decoding.md R196 to R206; 08
R252, R253; 03 R104, R105). -/

namespace Sys2Proof.Machine

/-! ## Probabilities (08 R253) -/

/-- Indices of a row by descending value, the lower first among equals. -/
def descending (key : Nat → Int) (l : List Nat) : List Nat := (l.foldl (fun acc i =>
  let rec ins : List Nat → List Nat
    | [] => [i]
    | a :: r => if key a < key i then i :: a :: r else a :: ins r
  ins acc) [])

/-- The shortest prefix whose exact sum reaches a bound, or the whole list when none does. -/
def prefixReaching (vals : Nat → Int) (bound : Int) : Int → List Nat → List Nat
  | _, [] => []
  | acc, a :: r => if acc + vals a ≥ bound then [a] else a :: prefixReaching vals bound (acc + vals a) r

/-- Probabilities of one row under a profile. -/
def probsRow (temp : W32) (topK : Nat) (topP : W32) (x : List Fx) : List Fx :=
  let v := x.length
  let rng := x.any (fun y => fbad y.v)
  if fmag temp = 0 then
    let best := (argMax (x.map (fun y => (fin y.v).v))).getD 0
    (List.range v).map (fun i => ⟨if i = best then fone else 0, rng⟩)
  else
    let z := x.map (fun y => fdiv y (fx temp))
    let key := fun (i : Nat) => fkey (z.getD i (fx 0)).v
    let kept := if 0 < topK ∧ topK < v then (descending key (List.range v)).take topK else List.range v
    let kept := sortBy id kept
    let e := fsoftmax (kept.map (fun i => z.getD i (fx 0)))
    let p := fun (i : Nat) => ((List.zip kept e).find? (fun y => y.1 == i)).map (·.2)
    let met := rng || z.any (·.r) || e.any (·.r)
    if units topP < (one149 : Nat) then
      let u := fun (i : Nat) => units ((p i).getD (fx 0)).v
      let order := descending u kept
      let top := sortBy id (prefixReaching u (units topP) 0 order)
      let s := lsum (top.map (fun i => (p i).getD (fx 0)))
      (List.range v).map (fun i => (if top.contains i then fdiv ((p i).getD (fx 0)) s else fx 0).also met)
    else (List.range v).map (fun i => ((p i).getD (fx 0)).also met)

/-- The session index in the course that row t of a block of the draft model's head stands for: the words of H1's rows say it, one for each
eight rows; where H1 names no block, rows 8c to 8c + 7 are course session c's (DESIGN CHOICE, log entry 28: the manual gives the session
blocks no layout). -/
def State.headSession (s : State) (cov : Bool) (a : Ashlar) (t : Nat) : Nat :=
  match s.inBlock cov a a.d.h1 with
  | some b => s.peekLe (b.row (t / 8)) 4
  | none => t / 8

/-- The slot of the session a row of PROBS stands for: in the draft model's segment the head's numbering, else the course token table. -/
def State.probsSlot (s : State) (r : Run) (a : Ashlar) (b : BlockEntry) (t : Nat) : Nat :=
  if (s.templ r.covered a.odd).isDraft r.inst.toNat then
    (s.streamOf r.covered).sessions.getD (s.headSession r.covered a (tokenIndex b t)) 262144
  else (s.tokenRow r.covered b t).slot

/-- PROBS: each row under the profile of its session (06 R200). -/
def probs (s : State) (r : Run) : State :=
  s.runKind r 0x10 (fun a =>
    let v := a.d.p0.toNat
    match s.inBlock r.covered a a.d.h0 with
    | none => {}
    | some x => rowsOut (s.outBlock r.covered a a.d.h2) x.rows (fun t =>
        let p := (s.session (s.probsSlot r a x t)).profile
        let f := fun (o : Nat → Obj) => s.cnum r.covered (o p)
        probsRow (BitVec.ofNat 32 (f O.profTemperature)) (f O.profTopK) (BitVec.ofNat 32 (f O.profTopP)) (s.elems x t v)) (elemSpan (some x) x.rows v))

/-! ## Selection (03 R104, R105) -/

/-- The selected index; when the total is zero, the lowest index of the largest main logit (R105). -/
def select (p : List W32) (u : Nat) (logits : List W32) : Nat :=
  match drawIndex (p.map (fun w => (units (fin w).v).natAbs)) u with
  | some i => i
  | none => (argMax (logits.map (fun w => (fin w).v))).getD 0

/-- A session's draw. -/
def Session.draw (x : Session) (domain n : Nat) : Nat := drawU x.seed x.tag x.tenant domain n 0

/-- FP32 words of a row. -/
def State.words32 (s : State) (b : Option BlockEntry) (t n : Nat) : List W32 :=
  match b with
  | none => List.replicate n 0
  | some b => (s.elems b t n).map (·.v)

/-- The logits that the k-th block from a handle was made of: H0 of the PROBS that writes it. Probabilities that no PROBS writes stand for
their own logits (log entry 28). -/
def State.logitsOf (s : State) (cov : Bool) (a : Ashlar) (h : W32) (k : Nat := 0) : Option BlockEntry :=
  let t := s.templ cov a.odd
  match (handleOf h a.i).bind (fun j => t.writer (j + k)) with
  | some (d, i) => if d.kind = 0x10 then s.inBlock cov ⟨d, i, a.odd⟩ d.h0 else s.inBlock cov a h k
  | none => s.inBlock cov a h k

/-- Some operand of a row is infinite or NaN (R96). -/
def anyBad (l : List W32) : Bool := l.any fbad

/-- VERIFY_MODE of a session's profile is REJECT. -/
def State.rejects (s : State) (cov : Bool) (x : Session) : Bool := s.cnum cov (O.profVerifyMode x.profile) == 1

/-! ## Depth adaptation (06 R206) -/

/-- The depth state after a course, and the depth it returns. -/
def Session.adapt (x : Session) : Session × Nat :=
  let v := x.verified
  let acc := x.accepted
  if x.probe && v == 0 then (x, 1)
  else if x.probe && acc == 1 then ({ x with probe := false, depth := 1, idle := 0, dry := 0, full := 0 }, 1)
  else
    let x := if x.probe then { x with probe := false }
      else if v = 0 then x
      else
        let x := if acc = 0 then { x with dry := x.dry + 1, full := 0 }
          else if acc = v then { x with full := x.full + 1, dry := 0 }
          else { x with dry := 0, full := 0 }
        let x := if x.dry = 4 then { x with depth := x.depth / 2, dry := 0 } else x
        if x.full = 4 then { x with depth := Nat.min (2 * x.depth) x.draftMax, full := 0 } else x
    if x.depth > 0 then ({ x with idle := 0 }, x.depth)
    else if x.draftMax = 0 then (x, 0)
    else if x.idle + 1 = 64 then ({ x with idle := 0, probe := true }, 1)
    else ({ x with idle := x.idle + 1 }, 0)

/-! ## SAMPLE -/

/-- The last row of a session in a course that is not speculative, with its index. -/
def Stream.lastRow (st : Stream) (slot : Nat) : Option (Nat × TokenRow) :=
  (((List.range st.rows.length).zip st.rows).filter (fun x => x.2.slot == slot && !x.2.speculative)).getLast?

/-- Drafts of a session in a course, with their row indices. -/
def Stream.drafts (st : Stream) (slot : Nat) : List (Nat × TokenRow) :=
  ((List.range st.rows.length).zip st.rows).filter (fun x => x.2.slot == slot && x.2.speculative)

/-- A session samples its next token in this course: its input rows are done and it carries no drafts. -/
def State.samples (s : State) (st : Stream) (slot index : Nat) : Bool :=
  let x := s.session slot
  x.inputLeft == 0 && x.nextToken.isNone && (st.drafts slot).isEmpty && (match st.lastRow slot with | some y => y.1 == index | none => false)

/-- A session drafts on a package whose role is decode (R191). -/
def State.draftsHere (s : State) (cov : Bool) : Bool := s.cnum cov O.role == 1

/-- Put a draft into a session's strip (R191, R196, R197). -/
def State.propose (s : State) (cov : Bool) (slot j token : Nat) : State :=
  let st := s.streamOf cov
  let x := s.session slot
  match st.lastRow slot with
  | none => s
  | some y =>
    if !s.draftsHere cov then s else
    let d := Nat.min 8 x.adapt.2
    if j ≥ d then s
    else
      let first := y.2.position + x.accepted + 2
      let old := if x.strip.course = st.course ∧ x.strip.first = first ∧ x.strip.drafts.length = d then x.strip.drafts else List.replicate d 0
      s.putStrip slot { x.strip with
        course := st.course, first := first, depth := d, reject := s.rejects cov x, drafts := setAt old j (BitVec.ofNat 32 token) }

/-- What a head reads of a session's outcome (R196), as SAMPLE and SCAFFOLD_VERIFY write it: the token at P', the index of the trunk row P + a
in the course, the session's index in the course (DESIGN CHOICE, log entry 28: the manual gives these rows no layout). -/
def headWords (token index csession : Nat) : List Byte := leBytes 4 token ++ leBytes 4 index ++ leBytes 4 csession

/-- SAMPLE of domain 0x02: the rows of draft probabilities (R196, R200). A row of no session of the course proposes nothing. -/
def State.sampleDrafts (s : State) (r : Run) (a : Ashlar) (x out : BlockEntry) : State :=
  let st := s.streamOf r.covered
  let v := (s.templ r.covered a.odd).vocab
  let lb := s.logitsOf r.covered a a.d.h0
  let work := (List.range x.rows).map (fun t =>
    let k := tokenIndex x t
    let slot := st.sessions.getD (s.headSession r.covered a k) 262144
    let y := s.session slot
    let p := s.words32 (some x) t v
    let pos := ((st.lastRow slot).map (fun l => l.2.position + y.accepted + 2 + k % 8)).getD 0
    let tok := if s.rejects r.covered y then select p (y.draw 0x02 pos) (s.words32 lb t v) else (argMax (p.map (fun w => (fin w).v))).getD 0
    (t, slot, k % 8, tok, p))
  let s1 := work.foldl (fun t w =>
    let t := t.propose r.covered w.2.1 w.2.2.1 w.2.2.2.1
    let y := t.session w.2.1
    if t.draftsHere r.covered && t.rejects r.covered y && decide (w.2.2.1 < y.adapt.2) then
      t.poke (localOf y.strip.qbase.toNat + 4 * v * w.2.2.1) ((w.2.2.2.2.map (fun p => leBytes 4 p.toNat)).flatten)
    else t) s
  s1.finish r a.odd {
    writes := work.map (fun w => out.put w.1 (leBytes 4 w.2.2.2.1)), range := work.any (fun w => anyBad w.2.2.2.2)
    reads := spanOf (some x) x.rows (4 * v) }

/-- SAMPLE (03 R105; R201). -/
def sample (s : State) (r : Run) : State :=
  match s.ashlar r 0x11 with
  | none => s
  | some a =>
    match s.inBlock r.covered a a.d.h0, s.outBlock r.covered a a.d.h2 with
    | some x, some out =>
      if a.d.p0.toNat = 2 then s.sampleDrafts r a x out
      else
        let st := s.streamOf r.covered
        let v := (s.templ r.covered a.odd).vocab
        let lb := s.logitsOf r.covered a a.d.h0
        let work := (List.range x.rows).map (fun t =>
          let row := s.tokenRow r.covered x t
          let k := tokenIndex x t
          let p := s.words32 (some x) t v
          let mine := s.samples st row.slot k
          let tok := select p ((s.session row.slot).draw a.d.p0.toNat (row.position + 1)) (s.words32 lb t v)
          (t, row.slot, tok, mine, headWords tok k (if mine then row.csession else 2 ^ 32 - 1), anyBad p))
        let s1 := s.finish r a.odd {
          writes := work.map (fun w => out.put w.1 w.2.2.2.2.1), range := work.any (fun w => w.2.2.2.2.2), reads := spanOf (some x) x.rows (4 * v) }
        work.foldl (fun t w =>
          if w.2.2.2.1 then t.editSession w.2.1 (fun y => { y with confirmed := [BitVec.ofNat 32 w.2.2.1], verified := 0, accepted := 0 }) else t) s1
    | _, _ => s.finish r a.odd {}

/-! ## SCAFFOLD_VERIFY (R201) -/

/-- Row k of the course in a block that H1 names: blocks of a tile lie on consecutive handles. -/
def State.mainRow (s : State) (r : Run) (a : Ashlar) (f : Nat → Option BlockEntry) (v k : Nat) : List W32 :=
  match s.inBlock r.covered a a.d.h1 with
  | none => List.replicate v 0
  | some b => if b.courseRows then s.words32 (f (k / 64)) (k % 64) v else s.words32 (f 0) k v

/-- The main probabilities of course token row k, and the logits they were made of. -/
def State.mainProbs (s : State) (r : Run) (a : Ashlar) (v k : Nat) : List W32 × List W32 :=
  (s.mainRow r a (fun n => s.inBlock r.covered a a.d.h1 n) v k, s.mainRow r a (fun n => s.logitsOf r.covered a a.d.h1 n) v k)

/-- What the reference finds: drafts accepted, tokens confirmed, whether an operand it used was infinite or NaN. -/
structure Verdict where
  accepted : Nat := 0
  tokens : List W32 := []
  range : Bool := false
  deriving DecidableEq, Repr

/-- The reference: verify drafts from the j-th on. `main j` is p at position P + 1 + j with its logits, `q j` the vector stored for draft j. -/
def verifyFrom (x : Session) (reject : Bool) (pos : Nat) (main : Nat → List W32 × List W32) (q : Nat → List W32) : Nat → List W32 → Verdict
  | j, [] =>
    let m := main j
    { accepted := j, tokens := [BitVec.ofNat 32 (select m.1 (x.draw 0x01 (pos + j + 1)) m.2)], range := anyBad m.1 }
  | j, d :: rest =>
    let y := pos + j + 1
    let m := main j
    let go := fun (bad : Bool) =>
      let n := verifyFrom x reject pos main q (j + 1) rest
      ({ n with tokens := d :: n.tokens, range := bad || n.range } : Verdict)
    if !reject then
      let t := select m.1 (x.draw 0x01 y) m.2
      if t = d.toNat then go (anyBad m.1) else { accepted := j, tokens := [BitVec.ofNat 32 t], range := anyBad m.1 }
    else
      let at_ := fun (l : List W32) => l.getD d.toNat 0
      let w := fun (l : List W32) => units (fin (at_ l)).v
      if (x.draw 0x03 y : Int) * w (q j) < w m.1 * 2 ^ 24 then go (fbad (at_ m.1) || fbad (at_ (q j)))
      else
        let res := List.zipWith (fun p n => let z := (fsub (fx p) (fx n)).v; if fneg z then (0 : W32) else z) m.1 (q j)
        { accepted := j, tokens := [BitVec.ofNat 32 (select res (x.draw 0x04 y) m.2)], range := anyBad m.1 || anyBad (q j) }

/-- The verdict on one session's drafts, and the bytes it takes: the strip, the main probabilities, in REJECT the stored vectors. -/
def State.verdictOn (s : State) (r : Run) (a : Ashlar) (slot : Nat) : Verdict × List (Nat × Nat) :=
  let st := s.streamOf r.covered
  let v := (s.templ r.covered a.odd).vocab
  let x := s.session slot
  let ds := st.drafts slot
  let last := (st.lastRow slot).getD (0, {})
  let index := fun (j : Nat) => if j = 0 then last.1 else (ds.getD (j - 1) (0, {})).1
  let base := localOf x.strip.qbase.toNat
  let q := fun (j : Nat) => let l := (s.peek (base + 4 * v * j) (4 * v)).1; (List.range v).map (fun k => BitVec.ofNat 32 (u32 l (4 * k)))
  let reject := s.rejects r.covered x
  let main := (List.range (ds.length + 1)).flatMap (fun j =>
    let b := s.inBlock r.covered a a.d.h1
    if b.any (·.courseRows) then rowSpan (s.inBlock r.covered a a.d.h1 (index j / 64)) (index j % 64) (4 * v) else rowSpan b (index j) (4 * v))
  (verifyFrom x reject last.2.position (fun j => s.mainProbs r a v (index j)) q 0 (ds.map (fun d => d.2.token)),
    (localOf x.stripAddr.toNat, 64) :: main ++ (if reject then [(base, 4 * v * ds.length)] else []))

/-- SCAFFOLD_VERIFY: the verdicts of every session with drafts; they take effect at its retirement (R195). An output row holds what a head
reads of the outcome, then the tokens confirmed. -/
def scaffoldVerify (s : State) (r : Run) : State :=
  match s.ashlar r 0x12 with
  | none => s
  | some a =>
    let st := s.streamOf r.covered
    let work := (st.drafting.map (fun c => (c, st.sessions.getD c 0))).map (fun c =>
      let w := s.verdictOn r a c.2
      let ds := st.drafts c.2
      let n := w.1.accepted
      let index := if n = 0 then ((st.lastRow c.2).getD (0, {})).1 else (ds.getD (n - 1) (0, {})).1
      (c.2, ds.length, w.1, w.2, headWords ((w.1.tokens.getLast?).getD 0).toNat index c.1 ++ (w.1.tokens.map (fun t => leBytes 4 t.toNat)).flatten))
    let s1 := work.foldl (fun t w => t.editSession w.1 (fun x => { x with verified := w.2.1, accepted := w.2.2.1.accepted, confirmed := w.2.2.1.tokens })) s
    s1.finish r a.odd {
      writes := match s.outBlock r.covered a a.d.h2 with
        | none => []
        | some out => ((List.range work.length).zip work).map (fun w => out.put w.1 w.2.2.2.2.2)
      range := work.any (fun w => w.2.2.1.range), reads := work.flatMap (fun w => w.2.2.2.1) }

/-! ## The commands -/

/-- PROBS. -/
def execProbs (r : Run) (s : State) : Host.Outcome State Fault Refusal :=
  .next (probs s r)
/-- SAMPLE. -/
def execSample (r : Run) (s : State) : Host.Outcome State Fault Refusal :=
  .next (sample s r)
/-- SCAFFOLD_VERIFY. -/
def execScaffoldVerify (r : Run) (s : State) : Host.Outcome State Fault Refusal :=
  .next (scaffoldVerify s r)

end Sys2Proof.Machine
end

