-- ==== Sys2Proof/Machine/Formation.lean ====
section
/-! DEFINITION. Formation of a course: admission, splices, pauses, resumes, selection of rows, page slots and the course token table
(08_serving_control.md R238 to R269, R274, R275, R606; 02 R72, R73; 05 R162, R163, R171; 06 R191 to R199; 07 R222). -/

namespace Sys2Proof.Machine

/-- The open sessions of a stream, ascending slot. -/
def State.sessionsOf (s : State) (covered : Bool) : List (Nat × Session) := s.sessionsOpen.filter (fun e => e.2.covered == covered)

/-- A session holds a return record that waits (02 R67). -/
def State.returnHeld (s : State) (slot : Nat) (x : Session) : Bool :=
  (s.hodRt (hodKey x.covered x.hod)).waiting.any (fun r => r.slot == slot && r.tag == x.tag && r.flags.toNat / 2 % 2 == 0)

/-! ## Admission (R248) -/

/-- A root of a geometry with its page table at an address; none for a model without layers. -/
def newRoot (g : Geometry) (base : W64) : Root :=
  if g.layers = 0 then {} else { layers := g.layers, ptPages := 4096, heads := g.heads, dim := g.dim, ptBase := base }

/-- Pages a prompt of n tokens takes in both roots, and their bytes as open pages (R274). -/
def promptPages (t : Template) (n : Nat) (drafts : Bool) : (Nat × Nat) × Nat :=
  let m := newRoot t.main 0
  let d := if drafts then newRoot t.draft 0 else {}
  let p := (pagesFor n * m.layers, pagesFor n * d.layers)
  (p, p.1 * m.openBytes + p.2 * d.openBytes)

/-- The lowest descriptor slot that is free and not held by a grant (R241, R246). -/
def State.freeSlot (s : State) : Option Nat :=
  ((List.range (s.ses.table.length + s.ses.grants.length + 1)).find? (fun k =>
    (s.session k).st == .free && !s.ses.grants.any (fun g => g.slot == k))).bind (fun k => if k < 262144 then some k else none)

/-- A profile needs a REJECT region for a session that drafts (06 R197). -/
def State.needsReject (s : State) (covered : Bool) (profile draftMax : Nat) : Bool :=
  s.cnum covered (O.profVerifyMode profile) == 1 && draftMax != 0

/-- Checks 0x14 to 0x19 of Table 8.5: the first status that refuses, 0 for none. -/
def State.capacityStatus (s : State) (covered : Bool) (t : Template) (cls tenant profile draftMax count : Nat) : Nat :=
  let mine := s.sessionsOf covered
  let p := promptPages t count (draftMax != 0)
  let bytes := p.2 + 64 + (if s.needsReject covered profile draftMax then s.rejectBytes else 0)
  if (mine.filter (fun e => e.2.tenant == tenant)).length ≥ s.cnum covered (O.tenSessionQuota tenant) then 0x14
  else if (mine.filter (fun e => e.2.cls == cls)).length ≥ s.cnum covered (O.sessionCap cls) then 0x15
  else if s.freeSlot.isNone then 0x16
  else if cls = 3 ∧ !t.summariser then 0x17
  else if s.tenantNear covered tenant bytes > s.cnum covered (O.tenQuotaNear tenant) then 0x18
  else if p.1.1 + p.1.2 > s.nearFree then 0x19
  else 0

/-- The package admits sessions (Table 8.5 check 1; 02 R41, R52). -/
def State.admits (s : State) : Bool :=
  (s.pkg.st == .serving || s.pkg.st == .covering) && s.clk.mode != .unlocked && !(s.clk.mode == .holdover && decide (s.clk.holdElapsed ≥ 10000000))

/-- Status of a record under Table 8.5, with the session it is for. -/
def State.admissionStatus (s : State) (covered : Bool) (t : Template) (r : TakenRec) (x : Option Session) : Nat :=
  if !s.admits then 0x10
  else if r.op = 1 ∧ s.cnum covered O.role = 1 then 0x11
  else if s.cnum covered (O.tenActive r.tenant) ≠ 1 then 0x12
  else if r.op = 1 then s.capacityStatus covered t r.cls r.tenant r.profile r.draftMax r.count
  else match x with
    | none => 0x1B
    | some x => if x.st = .shipping then 0x13 else 0

/-- INPUT_ADDR follows the first run of input. -/
def Session.withInput (x : Session) : Session := { x with inputAddr := (x.segs.head?.map (·.1)).getD 0 }

/-- Fill a free slot with a session whose prompt pages are reserved. -/
def State.newSession (s : State) (slot : Nat) (x : Session) (t : Template) (count : Nat) : State :=
  let p := promptPages t count (x.draftMax != 0)
  let rej := s.needsReject x.covered x.profile x.draftMax
  let d := if x.draftMax = 0 then {} else newRoot t.draft 0
  let a := s.newPlaces x.covered x.tenant (newRoot t.main 0) d rej
  let x := { x with
    main := newRoot t.main a.1.main, draft := if x.draftMax = 0 then {} else newRoot t.draft a.1.draft
    stripAddr := a.1.strip, strip := { qbase := a.1.reject, reject := rej }
    depth := x.draftMax, resMain := p.1.1, resDraft := p.1.2 }
  (a.2.putSession slot x.withInput).putStrip slot x.strip

/-- Open the session of an admitted OPEN in PREFILL; its slot. -/
def State.openSession (s : State) (covered : Bool) (t : Template) (r : TakenRec) (slot : Nat) : State :=
  s.newSession slot {
    tag := r.tag, seed := r.seed, deadline := r.deadline, st := .prefill, cls := r.cls, tenant := r.tenant, hod := r.hod % 64
    profile := r.profile, draftMax := r.draftMax, maxLeft := r.maxNew, segs := [(r.tokenAddr, r.count)], inputLeft := r.count
    covered := covered } t r.count

/-- An admitted APPEND (R247, R266). -/
def Session.append (x : Session) (r : TakenRec) : Session :=
  { x with
    inputLeft := x.inputLeft + r.count, segs := x.segs ++ [(r.tokenAddr, r.count)], maxLeft := r.maxNew
    deadline := if r.deadline = 0 then x.deadline else r.deadline
    st := if x.st = SessState.active then SessState.feeding else x.st }.withInput

/-- Admit or refuse one taken record; the slots opened so far, in take order. -/
def State.admitOne (s : State) (covered : Bool) (t : Template) (opened : List Nat) (r : TakenRec) : State × List Nat :=
  let rt := s.hodRt r.hod
  let s := s.setHodRt r.hod { rt with admitted := r.seq + 1 }
  let slot := if r.op = 1 then none else s.openIn covered r.tag r.tenant
  let st := s.admissionStatus covered t r (slot.map s.session)
  if st ≠ 0 then
    let rt := s.hodRt r.hod
    (s.setHodRt r.hod { rt with refused := rt.refused ++ [{ tag := r.tag, slot := slot.getD 262144, status := st, deadline := (slot.map (fun k => (s.session k).deadline)).getD r.deadline }] }, opened)
  else match r.op.toNat, slot, s.freeSlot with
    | 1, _, some k => (s.openSession covered t r k, opened ++ [k])
    | 2, some k, _ => (s.editSession k (fun x => x.append r), opened)
    | 3, some k, _ => ((s.editSession k (fun x => x.because 0x23)).dropStrip k, opened)
    | _, _, _ => (s, opened)

/-- Admission at a cut-off, in take order. -/
def State.admitAll (s : State) (covered : Bool) (t : Template) : State × List Nat :=
  let mine := s.crs.taken.filter (fun r => hodCovered r.hod == covered)
  let s := { s with crs := { s.crs with taken := s.crs.taken.filter (fun r => hodCovered r.hod != covered) } }
  mine.foldl (fun a r => a.1.admitOne covered t a.2 r) (s, [])

/-! ## Splices (R268, R269) -/

/-- A session may take part in a splice. -/
def SessState.splices (st : SessState) : Bool := st == .active || st == .held

/-- The refusal of a SPLICE request, and its sessions. -/
def State.spliceError (s : State) (req : List Byte) : Nat :=
  let tenant := u8 req 0
  let pair := (s.openIn false (BitVec.ofNat 64 (u64 req 8)) tenant, s.openIn false (BitVec.ofNat 64 (u64 req 0x10)) tenant)
  if s.crs.splice.isSome then Err.splicePending
  else match pair with
    | (some a, some b) =>
      let x := s.session a
      let y := s.session b
      let total := x.main.length + y.main.length
      if !x.st.splices || !y.st.splices || a == b then Err.spliceState
      else if x.main.length % 64 ≠ 0 ∨ x.main.form ∨ y.main.form then Err.spliceAlign
      else if (x.draft.layers = 0) ≠ (y.draft.layers = 0) then Err.spliceDraft
      else if total > 262143 ∨ x.main.ptPages < pagesFor total ∨ (x.draft.layers ≠ 0 ∧ x.draft.ptPages < pagesFor total) then Err.spliceLimit
      else Err.ok
    | _ => Err.spliceState

/-- A write to SPLICE: reserved bytes zero, then R268. -/
def State.spliceWrite (s : State) (req : List Byte) : Nat × State :=
  if !allZero (slice req 1 7) || u64 req 0x18 != 0 then (Err.range, s)
  else
    let e := s.spliceError req
    if e ≠ Err.ok then (e, s) else (Err.ok, { s with crs := { s.crs with splice := some req } })

/-- Move a source root's pages behind a target root's. -/
def Root.splice (t src : Root) : Root :=
  let j0 := t.length / 64
  let moved := src.pages.map (fun e =>
    let layer := e.1 / 4096
    let page := e.1 % 4096 + j0
    (pageKey layer page, { e.2 with rotBase := BitVec.ofNat 32 (64 * page) }))
  { t with
    pages := moved.foldl (fun m e => SMap.set {} m e.1 e.2) t.pages
    length := t.length + src.length, setEnd := t.length + src.length }

/-- Write a session's page tables to memory (05 R161). -/
def State.pokePages (s : State) (r : Root) : State :=
  r.pages.foldl (fun t e => t.poke (localOf r.ptBase.toNat + 16 * (e.1 / 4096 * r.ptPages + e.1 % 4096)) e.2.image) s

/-- Apply a waiting splice at a cut-off (R269): the source ends at the next close. A splice whose sessions are no longer both ACTIVE
or HELD is dropped. -/
def State.applySplice (s : State) : State :=
  match s.crs.splice with
  | none => s
  | some req =>
    let s := { s with crs := { s.crs with splice := none } }
    let tenant := u8 req 0
    match s.openIn false (BitVec.ofNat 64 (u64 req 8)) tenant, s.openIn false (BitVec.ofNat 64 (u64 req 0x10)) tenant with
    | some a, some b =>
      let x := s.session a
      let y := s.session b
      if s.spliceError req ≠ Err.ok then s
      else
        let x' := { x with main := x.main.splice y.main, draft := if x.draft.layers = 0 then x.draft else x.draft.splice y.draft
                           nextToken := y.nextToken, nextAfter := y.nextAfter, maxLeft := y.maxLeft }
        let y' := { y with main := { y.main with pages := [] }, draft := { y.draft with pages := [] } }.because 0x2C
        let s := ((s.putSession a x').putSession b y')
        (((s.pokePages x'.main).pokePages x'.draft).dropStrip a).dropStrip b |>.icxEvent 0x0C4
    | _, _ => s

/-! ## Pauses (R254 to R257) -/

/-- Mean course period at a formation (R254, R255): none at the first course of a stream. -/
def Stream.meanPeriod (st : Stream) (nominal : Tick) : Option Nat :=
  let j := Nat.min 8 st.history.length
  if j = 0 then none else some (Tick.since nominal (st.history.getD (j - 1) nominal) / j)

/-- Rows of a session in the stream's last course. -/
def Stream.rowsOf (st : Stream) (slot : Nat) : Nat := (st.rows.filter (fun r => r.slot == slot)).length

/-- A session that may run. -/
def SessState.runnable (st : SessState) : Bool := st == .prefill || st == .active || st == .feeding

/-- Sessions of a stream that may be chosen for a pause: they run, and do not end at the next close (R265). -/
def State.victims (s : State) (covered : Bool) (cls : Nat) : List (Nat × Session) :=
  (s.sessionsOf covered).filter (fun e => e.2.cls == cls && e.2.st.runnable && e.2.reasons.isEmpty)

/-- Bytes a root's near pages take in the far tier once parked (R260). -/
def Root.parkBytes (r : Root) : Nat :=
  sumNat ((r.pages.filter (fun e => !e.2.far)).map (fun e => if e.2.st = 1 then r.openBytes else if e.2.st = 0 then 0 else r.sealedBytes true))

/-- Bytes a session's near pages take once parked. -/
def Session.parkBytes (x : Session) : Nat := x.main.parkBytes + x.draft.parkBytes

/-- Far-tier pages that sessions already PARKING will take. -/
def State.farClaims (s : State) : Nat := sumNat ((s.sessionsOpen.filter (fun e => e.2.st == .parking)).map (fun e => e.2.slots false))

/-- Bytes a tenant's sessions already PARKING will take. -/
def State.farClaimBytes (s : State) (covered : Bool) (tenant : Nat) : Nat :=
  sumNat (((s.sessionsOf covered).filter (fun e => e.2.st == .parking && e.2.tenant == tenant)).map (fun e => e.2.parkBytes))

/-- What a pause makes of a session (R254): PARKING, SATCHELLING or HELD. -/
def State.pauseTo (s : State) (t : Template) (x : Session) : SessState :=
  let quota := s.cnum x.covered (O.tenQuotaFar x.tenant)
  let claim := s.farClaimBytes x.covered x.tenant
  if x.st ≠ .active then .held
  else if x.cls = 2 then
    if t.parkSegment && decide (s.farFree ≥ s.farClaims + x.slots false) && decide (s.tenantFar x.covered x.tenant (claim + x.parkBytes) ≤ quota) then .parking else .held
  else if x.cls = 3 then
    if t.summariser && decide (s.farFree ≥ s.farClaims + 1) && decide (s.tenantFar x.covered x.tenant (claim + 16384) ≤ quota) then .satchelling else .held
  else .held

/-- Pause a session. -/
def State.pause (s : State) (t : Template) (slot : Nat) : State :=
  let x := s.session slot
  let goal := s.pauseTo t x
  let x := { x with waitSince := s.clk.tick, heldFrom := x.st, st := goal, quotaSince := none }
  let s := match goal with
    | .parking => s.putSession slot { x with main := { x.main with form := true }, draft := { x.draft with form := true }, moved := 0 }
    | .satchelling => let a := s.newSlot x.covered x.tenant true 16384; a.2.putSession slot { x with satchel := a.1 }
    | _ => s.putSession slot x
  (s.dropStrip slot).icxEvent 0x0C2

/-- Victims under R256 within a class: greatest LENGTH first, ties to the higher slot. -/
def State.victimOrder (s : State) (covered : Bool) (cls : Nat) : List Nat :=
  (sortBy (fun e => (262144 - e.2.main.length) * 262144 + (262143 - e.1)) (s.victims covered cls)).map (·.1)

/-- Victims under R257 within a class: most near-tier pages first, ties to the higher slot. -/
def State.pageVictims (s : State) (covered : Bool) (t : Template) (cls : Nat) : List Nat :=
  (sortBy (fun e => (2 ^ 24 - e.2.slots false) * 262144 + (262143 - e.1))
    ((s.victims covered cls).filter (fun e => e.2.st == .active && s.pauseTo t e.2 != .held))).map (·.1)

/-- There is pressure from a class (R256). -/
def State.pressure (s : State) (covered : Bool) (period : Option Nat) (cls : Nat) : Bool :=
  let goal := s.cnum covered (O.goal cls)
  match period with
  | none => false
  | some p => goal != 0 && decide (p > goal) && (s.sessionsOf covered).any (fun e => e.2.cls == cls && e.2.st.runnable)

/-- Pauses for pressure: the state and how many were made. -/
def State.pausePressure (s : State) (covered : Bool) (t : Template) (classes : List Nat) : State × Nat :=
  let st := s.streamOf covered
  let want := ceilDiv st.rows.length 8
  let r := (classes.flatMap (s.victimOrder covered)).foldl (fun (a : State × Nat × Nat) slot =>
    if a.2.1 ≥ s.cnum covered O.pauseLimit ∨ a.2.2 ≥ want then a
    else (a.1.pause t slot, a.2.1 + 1, a.2.2 + st.rowsOf slot)) (s, 0, 0)
  (r.1, r.2.1)

/-- Pauses for memory (R257). -/
def State.pauseMemory (s : State) (covered : Bool) (t : Template) : State × Nat :=
  let low := s.num O.nearLow
  if s.nearFree ≥ low then (s, 0)
  else
    let r := [3, 2].foldl (fun (a : State × Nat × Nat) cls =>
      (a.1.pageVictims covered t cls).foldl (fun (b : State × Nat × Nat) slot =>
        if b.2.1 ≥ s.cnum covered O.pauseLimit ∨ s.nearFree + b.2.2 ≥ low ∨ b.1.pauseTo t (b.1.session slot) = .held then b
        else (b.1.pause t slot, b.2.1 + 1, b.2.2 + (s.session slot).slots false)) a) (s, 0, 0)
    (r.1, r.2.1)

/-- The pauses of a formation: the state and how many were made. -/
def State.pauses (s : State) (covered : Bool) (t : Template) (nominal : Tick) : State × Nat :=
  let st := s.streamOf covered
  let p := st.meanPeriod nominal
  let a := s.pressure covered p 0
  let b := s.pressure covered p 1
  let r := if st.sincePause < 7 ∨ (!a && !b) then (s, 0) else s.pausePressure covered t (if a then [3, 2, 1] else [3, 2])
  let m := r.1.pauseMemory covered t
  (m.1, r.2 + m.2)

/-! ## Resumes (R258, R259, R261, R263) -/

/-- The state a paused session resumes to (Table 8.4). -/
def Session.resumeTo (x : Session) : SessState :=
  match x.st with
  | .held => if x.heldFrom = .active ∧ x.inputLeft > 0 then .feeding else x.heldFrom
  | .parked => if x.inputLeft > 0 then .feeding else .active
  | _ => .feeding

/-- Estimated rows of a resumed session (R258). -/
def State.resumeRows (s : State) (x : Session) : Nat :=
  if x.resumeTo = .active then 1 + x.draftMax
  else Nat.min (s.cnum x.covered O.prefillChunk) (x.inputLeft + (if x.st = .satchelled then x.satchelCount else 0))

/-- The satchel's check code holds (R263). -/
def satchelOk (l : List Byte) : Bool := u32 l 0x3C == (crc32c (l.take 0x3C ++ l.drop 0x40)).toNat

/-- Resume from a satchel (R263). -/
def State.resumeSatchel (s : State) (t : Template) (slot : Nat) : State :=
  let x := s.session slot
  let a := localOf x.satchel.toNat
  let b := s.peek a 16384
  let s := s.readBad [(a, 16384)]
  if b.2 || !satchelOk b.1 then s.editSession slot (fun y => y.because 0x22)
  else
    let n := u16 b.1 0x0C
    let gap := BitVec.toNat (BitVec.ofNat 32 (u32 b.1 8) - BitVec.ofNat 32 n)
    let rej := s.needsReject x.covered x.profile x.draftMax
    let p := s.newPlaces x.covered x.tenant (newRoot t.main 0) (if x.draftMax = 0 then {} else newRoot t.draft 0) rej
    let s := p.2.putSession slot { x with
      st := .feeding, main := newRoot t.main p.1.main, draft := if x.draftMax = 0 then {} else newRoot t.draft p.1.draft
      posOffset := (x.posOffset + gap) % 2 ^ 32, segs := (fabAddr s.node (a + 0x40), n) :: x.segs, nextAfter := n
      inputLeft := x.inputLeft + n, stripAddr := p.1.strip, strip := { x.strip with qbase := p.1.reject } }.withInput
    s.dropStrip slot

/-- Resume a session. -/
def State.resume (s : State) (t : Template) (slot : Nat) : State :=
  let x := s.session slot
  if x.st = .satchelled then s.resumeSatchel t slot else s.putSession slot { x with st := x.resumeTo, expiry := 0 }

/-- A paused session may be resumed into a course of this nominal start. -/
def State.mayResume (s : State) (nominal : Tick) (x : Session) : Bool :=
  let room := decide (s.nearFree ≥ s.num O.nearResume)
  x.reasons.isEmpty && (match x.st with
    | .held => true
    | .parked => room && !Tick.atLeast nominal (BitVec.ofNat 48 x.expiry.toNat)
    | .satchelled => room
    | _ => false)

/-- The resumes of a formation (R258). -/
def State.resumes (s : State) (covered : Bool) (t : Template) (nominal : Tick) : State :=
  let st := s.streamOf covered
  match st.meanPeriod nominal with
  | none => s
  | some p =>
    let mine := s.sessionsOf covered
    let slack := (List.range 4).all (fun c =>
      let g := s.cnum covered (O.goal c)
      g == 0 || !mine.any (fun e => e.2.cls == c) || decide (8 * p ≤ 7 * g))
    if st.sincePause < 7 ∨ !slack then s
    else
      let want := ceilDiv st.rows.length 8
      let cands := [1, 2, 3].flatMap (fun c => sortBy (fun e => e.2.waitSince.toNat)
        (mine.filter (fun e => e.2.cls == c && s.mayResume nominal e.2)))
      (cands.foldl (fun (a : State × Nat × Nat) e =>
        if a.2.1 ≥ s.cnum covered O.pauseLimit ∨ (a.2.1 > 0 ∧ a.2.2 ≥ want) ∨ !a.1.mayResume nominal e.2 then a
        else (a.1.resume t e.1, a.2.1 + 1, a.2.2 + s.resumeRows e.2)) (s, 0, 0)).1

/-! ## Selection (R251, R73, R606, R275; 06 R198, R199) -/

/-- What a formation means to give a session: its rows that are not speculative, and its drafts. -/
structure Plan where
  slot : Nat := 0
  rows : Nat := 0
  drafts : List W32 := []
  deriving DecidableEq, Repr

/-- Rows of a plan. -/
def Plan.size (p : Plan) : Nat := p.rows + p.drafts.length
/-- Rows of a list of plans. -/
def planRows (l : List Plan) : Nat := sumNat (l.map Plan.size)

/-- The drafts pending for an ACTIVE session, as R198 leaves them (check 4 apart): its strip is taken as it lies in memory, and only if
SSTAMP equals COURSE[31:0] and FIRST is the position after P. -/
def State.pendingDrafts (s : State) (x : Session) : List W32 :=
  let p := x.main.setEnd
  let l := (s.peek (localOf x.stripAddr.toNat) 64).1
  let k := Nat.min (Nat.min (Nat.min (u8 l 0x0C) 8) (if x.probe then 1 else x.depth)) (262142 - p)
  if x.st = .active ∧ s.draftsHere x.covered = true ∧ x.draft.layers ≠ 0 ∧ u32 l 0x3C = u32 l 0 ∧ u32 l 8 = (p + x.posOffset + 1) % 2 ^ 32 then
    (List.range k).map (fun i => BitVec.ofNat 32 (u32 l (0x10 + 4 * i)))
  else []

/-- The plan of a candidate before any limit of the course (R239, R258). -/
def State.planFor (s : State) (slot : Nat) (x : Session) : Plan :=
  let chunk := Nat.min (s.cnum x.covered O.prefillChunk) (262144 - x.main.setEnd)
  { slot := slot
    rows := match x.st with
      | .prefill => Nat.min x.inputLeft chunk
      | .feeding => Nat.min (x.inputLeft + b2n x.nextToken.isSome) chunk
      | .active => b2n x.nextToken.isSome
      | _ => 0
    drafts := s.pendingDrafts x }

/-- The candidates of a course in the order of R251; `opened` are those admitted at this cut-off. -/
def State.candidates (s : State) (covered : Bool) (opened : List Nat) : List Nat :=
  let st := s.streamOf covered
  let ok := (s.sessionsOf covered).filter (fun e => decide (st.sessionsFrom.toNat ≤ st.next.toNat) && e.2.st.runnable && !e.2.reasons.contains 0x23 && !e.2.reasons.contains 0x2C && !s.returnHeld e.1 e.2)
  (sortBy (fun e => match opened.findIdx? (· == e.1) with
    | some i => 2 * e.2.cls * 2 ^ 64 + i
    | none => (2 * e.2.cls + 1) * 2 ^ 64 + e.2.lastCourse.toNat) ok).map (·.1)

/-- Pages of one layer that n rows from position p on touch and that hold no slot. -/
def Root.freshPages (r : Root) (n : Nat) : List Nat :=
  if n = 0 ∨ r.layers = 0 then []
  else ((List.range ((r.setEnd + n - 1) / 64 + 1)).filter (fun j => decide (r.setEnd / 64 ≤ j) && (r.page 0 j).st == 0))

/-- Open slots n rows need beyond the reservation, and the sealed slots of the pages R165 seals. -/
def Session.slotsFor (x : Session) (n : Nat) : Nat :=
  let f := fun (r : Root) (res : Nat) =>
    let need := (r.freshPages n).length * r.layers
    (need - Nat.min need res) + r.layers * ((List.range (r.length / 64)).filter (fun j => (r.page 0 j).st == 1)).length
  f x.main x.resMain + f x.draft x.resDraft

/-- Bytes of the pages n rows need beyond the reservation (R274). -/
def Session.bytesFor (x : Session) (n : Nat) : Nat :=
  let f := fun (r : Root) (res : Nat) =>
    let need := (r.freshPages n).length * r.layers
    (need - Nat.min need res) * r.openBytes
  f x.main x.resMain + f x.draft x.resDraft

/-- The greatest number of rows up to n that a test passes; 0 none. -/
def mostRows (n : Nat) (ok : Nat → Bool) : Nat := ((List.range (n + 1)).reverse.find? (fun k => k == 0 || ok k)).getD 0

/-- The sessions in order with the rows that their tenant's near quota leaves them, none for one whose next page would exceed it, and the
pauses R275 makes for these (log entry 24). -/
def State.quotaPass (s : State) (covered : Bool) (t : Template) (cands : List Nat) : State × List (Nat × Nat) × Nat :=
  let r := cands.foldl (fun (a : State × List (Nat × Nat) × Nat × SMap Nat) slot =>
    let x := a.1.session slot
    let p := a.1.planFor slot x
    let used := SMap.get 0 a.2.2.2 x.tenant
    let ok := fun (n : Nat) => decide (a.1.tenantNear covered x.tenant (used + x.bytesFor n) ≤ a.1.cnum covered (O.tenQuotaNear x.tenant)) || x.bytesFor n == 0
    let n := mostRows p.size ok
    if !x.st.runnable || p.size == 0 then a
    else if n ≠ 0 then (a.1, a.2.1 ++ [(slot, n)], a.2.2.1, SMap.set 0 a.2.2.2 x.tenant (used + x.bytesFor n))
    else
      let s := a.1.editSession slot (fun y => { y with quotaSince := some (y.quotaSince.getD a.1.clk.tick) })
      let vs := [3, 2].flatMap (fun c => (s.pageVictims covered t c).filter (fun k => (s.session k).tenant == x.tenant))
      (vs.foldl (fun u k => u.pause t k) s, a.2.1, a.2.2.1 + vs.length, a.2.2.2)) (s, [], 0, [])
  (r.1, r.2.1, r.2.2.1)

/-- Rows a tenant's core-store and quarter-store quotas allow in a course (R275). -/
def State.tenantRows (s : State) (covered : Bool) (t : Template) (tenant : Nat) : Nat :=
  let lim := fun (q b : Nat) => if b = 0 then 4096 else q * 1024 / b
  Nat.min (lim (s.cnum covered (O.tenQuotaCore tenant)) t.coreBytes) (lim (s.cnum covered (O.tenQuotaQuarter tenant)) t.quarterBytes)

/-- Shorten a plan to n rows: drafts go first. -/
def Plan.cut (p : Plan) (n : Nat) : Plan := { p with rows := Nat.min p.rows n, drafts := p.drafts.take (n - p.rows) }

/-- Hold each tenant's rows to its store quotas, in order; plans left with no row are left out. -/
def State.storePass (s : State) (covered : Bool) (t : Template) (l : List Plan) : List Plan :=
  ((l.foldl (fun (a : List Plan × SMap Nat) p =>
    let tn := (s.session p.slot).tenant
    let used := SMap.get 0 a.2 tn
    let q := p.cut (s.tenantRows covered t tn - used)
    (a.1 ++ [q], SMap.set 0 a.2 tn (used + q.size))) ([], [])).1).filter (fun p => p.rows != 0)

/-- Take the last draft of the plan with most drafts, the last among equals (06 R199). -/
def dropDraft (l : List Plan) : List Plan :=
  let most := l.foldl (fun a p => Nat.max a p.drafts.length) 0
  match ((List.range l.length).filter (fun i => (l.getD i {}).drafts.length == most)).getLast? with
  | none => l
  | some i => let p := l.getD i {}; setAt l i { p with drafts := p.drafts.dropLast }

/-- Remove drafts until the rows fit, at most n of them. -/
def trimDrafts : Nat → List Plan → List Plan
  | 0, l => l
  | n + 1, l => if planRows l ≤ 4096 ∨ l.all (fun p => p.drafts.isEmpty) then l else trimDrafts n (dropDraft l)

/-- Shorten chunks of PREFILL and FEEDING sessions from the end, each down to one row, while more than 4,096 rows remain. -/
def State.trimChunks (s : State) (l : List Plan) : List Plan :=
  (l.reverse.foldl (fun (a : List Plan × Nat) p =>
    let st := (s.session p.slot).st
    let c := if st = .prefill ∨ st = .feeding then Nat.min a.2 (p.rows - 1) else 0
    ({ p with rows := p.rows - c } :: a.1, a.2 - c)) ([], planRows l - 4096)).1

/-- Leave sessions out from the end, at most n of them. -/
def leaveOut : Nat → List Plan → List Plan
  | 0, l => l
  | n + 1, l => if planRows l ≤ 4096 then l else leaveOut n l.dropLast

/-- The room rules of R251 and R199. -/
def State.roomPass (s : State) (l : List Plan) : List Plan :=
  let l := l.take 1024
  let l := trimDrafts (8 * l.length) l
  let l := s.trimChunks l
  leaveOut l.length l

/-- The page rule of R606, in order: a session keeps the drafts whose pages can be given slots, then of a chunk the rows. -/
def State.pagePass (s : State) (l : List Plan) : List Plan :=
  (l.foldl (fun (a : List Plan × Nat) p =>
    let x := s.session p.slot
    let n := mostRows p.size (fun n => decide (x.slotsFor n ≤ a.2))
    let q := if n ≥ p.rows ∨ x.st = .prefill ∨ x.st = .feeding then p.cut n else p.cut 0
    if q.rows = 0 then a else (a.1 ++ [q], a.2 - x.slotsFor q.size)) ([], s.nearFree)).1

/-! ## Rows (05 R162, R163; 06 R193) -/

/-- The token at a fabric address: the package's own memory, the cover area, or a value that comes from another node (log entry 4). -/
def State.tokenAt (s : State) (a : W64) : W32 × State :=
  let n := nodeOf a.toNat
  let l := localOf a.toNat
  if n = s.node then (BitVec.ofNat 32 (s.peekLe l 4), s.readBad [(l, 4)])
  else match (if s.mir.covered = some n then s.coverAddr l else none) with
    | some c => (BitVec.ofNat 32 (s.peekLe c 4), s.readBad [(c, 4)])
    | none => let d := s.drawNat; (BitVec.ofNat 32 d.1, d.2)

/-- Take the next n rows' tokens of a session: NEXT_TOKEN in its place, input tokens in order. -/
def State.takeInput : Nat → Session → State → List W32 × Session × State
  | 0, x, s => ([], x, s)
  | n + 1, x, s =>
    match x.nextToken, x.nextAfter, x.segs with
    | some t, 0, _ => let r := State.takeInput n { x with nextToken := none } s; (t :: r.1, r.2)
    | _, _, [] => ([], x, s)
    | _, k, (a, c) :: rest =>
      let d := s.tokenAt a
      let y := { x with segs := if c ≤ 1 then rest else (a + 4, c - 1) :: rest, nextAfter := k - 1, inputLeft := x.inputLeft - 1 }
      let r := State.takeInput n y d.2
      (d.1 :: r.1, r.2)

/-- Give a session's rows their open slots in every layer of both roots (05 R162). -/
def State.giveSlots (s : State) (slot n : Nat) : State :=
  [false, true].foldl (fun (t : State) (draft : Bool) =>
    let r := (t.session slot).root draft
    (List.range r.layers).foldl (fun (u : State) l => (r.freshPages n).foldl (fun (v : State) j => v.givePage slot draft l j) u) t) s

/-- Give a sealed slot to every page that R165 will seal for a session in the course (05 R162). -/
def State.giveSealed (s : State) (covered : Bool) (slot : Nat) : State :=
  [false, true].foldl (fun (t : State) (draft : Bool) =>
    let r := (t.session slot).root draft
    ((List.range r.layers).flatMap (fun l => ((List.range (r.length / 64)).filter (fun j => (r.page l j).st == 1)).map (fun j => (l, j)))).foldl
      (fun (u : State) p =>
        let x := u.session slot
        let a := u.newSlot x.covered x.tenant false (r.sealedBytes r.form)
        let st := a.2.streamOf covered
        a.2.setStream covered { st with
          sealing := st.sealing ++ [{ slot := slot, draft := draft, layer := p.1, page := p.2, from_ := (r.page p.1 p.2).addr, addr := a.1 }] }) t) s

/-- Form one session's rows. -/
def State.formSession (s : State) (covered : Bool) (csession : Nat) (p : Plan) : State × List TokenRow :=
  let s := (s.giveSlots p.slot p.size).giveSealed covered p.slot
  let x := s.session p.slot
  let r := State.takeInput p.rows x s
  let toks := r.1 ++ p.drafts
  let y := { r.2.1 with verified := p.drafts.length, accepted := 0, confirmed := [], quotaSince := none }.withInput
  (r.2.2.putSession p.slot y, (List.range toks.length).map (fun i => {
    slot := p.slot, position := x.main.setEnd + i + x.posOffset, kvPos := x.main.setEnd + i, csession := csession
    speculative := decide (p.rows ≤ i), token := toks.getD i 0 }))

/-- An entry of the course token table (05 R163). -/
def TokenRow.bytes (r : TokenRow) : List Byte :=
  leBytes 4 r.slot ++ leBytes 4 r.position ++ leBytes 2 r.csession ++ leBytes 2 (b2n r.speculative) ++ zeros 4

/-- Write the course token table into every quarter store. -/
def State.writeTokens (s : State) (covered : Bool) (course : W64) (rows : List TokenRow) : State :=
  let b := (rows.map TokenRow.bytes).flatten
  (List.range 4).foldl (fun t q => t.poke (sramBase + q * 0x10000000 + 0x0FB80000 + (2 * b2n covered + b2n (oddOf course)) * 0x10000) b) s

/-- The pages the course's park segment moves: ascending slot, root, layer, page, up to PARK_PAGES (R260), each with a far slot. -/
def State.parkPlan (s : State) (covered : Bool) : State × List (Nat × Bool × Nat × Nat × W64) :=
  let all := ((s.sessionsOf covered).filter (fun e => e.2.st == .parking)).flatMap (fun e => [false, true].flatMap (fun d =>
    ((e.2.root d).pages.filter (fun p => p.2.st != 0 && !p.2.far)).map (fun p => (e.1, d, p.1 / 4096, p.1 % 4096))))
  (all.take (s.cnum covered O.parkPages)).foldl (fun (a : State × List (Nat × Bool × Nat × Nat × W64)) x =>
    let y := a.1.session x.1
    let f := a.1.newSlot y.covered y.tenant true (y.root x.2.1).openBytes (a.2.map (fun z => (localOf z.2.2.2.2.toNat, ((a.1.session z.1).root z.2.1).openBytes)))
    (f.2, a.2 ++ [(x.1, x.2.1, x.2.2.1, x.2.2.2, f.1)])) (s, [])

/-- FEEDING sessions whose input rows have run out are ACTIVE (Table 8.4). -/
def State.endFeeding (s : State) (covered : Bool) : State :=
  ((s.sessionsOf covered).filter (fun e => e.2.st == .feeding && e.2.inputLeft == 0)).foldl (fun t e =>
    t.editSession e.1 (fun x => { x with st := .active })) s

/-- Form the next course of a stream at its cut-off. -/
def State.form (s : State) (covered : Bool) : State :=
  let st := s.streamOf covered
  let nominal := st.nextNominal.getD s.clk.tick
  let t := (s.templateOn covered st.nextSlot).getD noTemplate
  let s := (s.hodsOn covered).foldl State.sampleHod s
  let s := if covered then s else s.applySplice
  let a := s.admitAll covered t
  let b := a.1.pauses covered t nominal
  let s := if b.2 = 0 then b.1.resumes covered t nominal else b.1
  let s := s.endFeeding covered
  let cands := s.candidates covered a.2
  let q := s.quotaPass covered t cands
  let s := q.1
  let cands := q.2.1.filter (fun k => (s.session k.1).st.runnable)
  let s := s.readBad ((cands.filter (fun k => (s.session k.1).st == .active)).map (fun k => (localOf (s.session k.1).stripAddr.toNat, 64)))
  let plans := (cands.map (fun k => (s.planFor k.1 (s.session k.1)).cut k.2)).filter (fun p => p.rows != 0)
  let plans := s.pagePass (s.roomPass (s.storePass covered t plans))
  let f := ((List.range plans.length).zip plans).foldl (fun (acc : State × List TokenRow) p =>
    let r := acc.1.formSession covered p.1 p.2
    (r.1, acc.2 ++ r.2)) (s, [])
  let rows := f.2.filter (fun r => !r.speculative) ++ f.2.filter (fun r => r.speculative)
  let pk := f.1.parkPlan covered
  let s := pk.1.writeTokens covered st.next rows
  let paused := decide (b.2 + q.2.2 > 0)
  s.setStream covered { s.streamOf covered with
    rows := rows, sessions := plans.map (·.slot), parking := pk.2, formed := true
    avail := BitVec.ofNat 64 (s.cnum covered O.holderAvailable), sincePause := if paused then 0 else st.sincePause + 1 }

end Sys2Proof.Machine
end

