-- ==== Sys2Proof/Machine/Courses.lean ====
section
/-! DEFINITION. Courses up to their close: close markers, the nominal start of the next course, cut-offs and starts
(02_course_clock_and_courses.md R55 to R57, R68 to R75; 04 R126, R132; 05 R167; 06 R194; 13 R432, R447). -/

namespace Sys2Proof.Machine

/-! ## The copy a course runs on (R75) -/

/-- A copy slot whose copy meets a condition. -/
def WeightUnit.slotWith (w : WeightUnit) (p : Copy → Bool) : Option Nat := [0, 1].find? (fun k => p (w.copy k))

/-- The slot of the copy whose switch tick is not later than a nominal start. -/
def State.slotFor (s : State) (nominal : Tick) : Nat :=
  let w := s.wts
  let live := (w.slotWith (fun c => c.st == .live)).getD 0
  if w.sw == .confirmed && Tick.atLeast nominal w.swTick then (w.slotWith (fun c => c.st == .ready && c.epoch == w.swEpoch)).getD live
  else if Tick.atLeast nominal (w.copy live).swTick then live
  else (w.slotWith (fun c => c.st == .outgoing)).getD live

/-- Prepare the next parity on a slot; grants that have come already are applied to the new template (R126). -/
def State.prepareOn (s : State) (covered : Bool) (course : W64) (slot : Nat) : State :=
  let odd := oddOf course
  let p := s.parity covered odd
  if p.course ≠ some course then s.prepare covered course slot
  else if p.slot = slot then s
  else
    let s := s.setParity covered odd { course := some course, slot := slot, rows := p.rows }
    s.grants (p.counters.map (fun e => { covered := covered, odd := odd, counter := e.1, amount := e.2, cause := none }))

/-! ## The next course's nominal start (R70, R72, R74) -/

/-- Remove a stream's scheduled cut-off and start. -/
def State.dropCourseEvents (s : State) (covered : Bool) : State := s.unschedule (fun e => e == .cutoff covered || e == .start covered)

/-- The first multiple of COURSE_GRID at least 2 ticks away. -/
def State.soonest (s : State) : Tick := Tick.grid (s.clk.tick + 2) (s.num O.courseGrid)

/-- The start tick of a course of this nominal start (R74). -/
def State.startFor (s : State) (nominal : Tick) : Tick := if Tick.atLeast nominal (s.clk.tick + 2) then nominal else s.soonest

/-- A start is late: counted once for a course (R74). -/
def State.countLate (s : State) (covered : Bool) : State :=
  let st := s.streamOf covered
  if st.late then s else (s.setStream covered { st with late := true }).bump O.lateStarts

/-- The next course of a stream has its number and nominal start: its parity is ready, its pre-ramp, cut-off and start are scheduled,
or it is formed at once when the cut-off is too near. -/
def State.setNominal (s : State) (covered : Bool) (course : W64) (nominal : Tick) : State :=
  let slot := s.slotFor nominal
  let s := s.dropCourseEvents covered
  let s := s.setStream covered { s.streamOf covered with next := course, nextNominal := some nominal, nextSlot := slot, formed := false }
  let s := (s.prepareOn covered course slot).planPreRamp nominal
  let cut := nominal - BitVec.ofNat 48 (s.num O.formationLead)
  if Tick.atLeast cut (s.clk.tick + 2) then (s.schedule cut (.cutoff covered)).schedule nominal (.start covered)
  else ((s.countLate covered).form covered).schedule (s.startFor nominal) (.start covered)

/-- Bond members of a stream's current membership other than the stream's own node. -/
def State.needed (s : State) (covered : Bool) : List Node :=
  let b := s.bondOf covered
  ((List.range b.length).filter (fun i => (s.streamOf covered).members.getLsbD i)).map (fun i => b.getD i 0)
    |>.filter (fun n => n != s.streamNode covered)

/-- The marker held from a member. -/
def Stream.markerOf (st : Stream) (n : Node) : Option Marker := st.markers.find? (fun m => m.node == n)

/-- The member's marker for the stream's last course has come (R71); for a stream that has run none, its marker for the newest course
heard of. -/
def Stream.heard (st : Stream) (n : Node) : Bool :=
  match st.markerOf n with
  | none => false
  | some m => if st.fresh then st.markers.all (fun k => decide (k.course.toNat ≤ m.course.toNat)) else decide (m.course.toNat ≥ st.course.toNat)

/-- Compute the next course's nominal start when every marker needed is here (R69, R70). -/
def State.planNext (s : State) (covered : Bool) : State :=
  let st := s.streamOf covered
  let need := s.needed covered
  if st.running || st.nextNominal.isSome || !s.pkg.st.runs || !need.all st.heard then s
  else
    let lead := fun (t : Tick) => Tick.grid (t + BitVec.ofNat 48 (s.num O.closeLead)) (s.num O.courseGrid)
    let marks := need.filterMap st.markerOf
    if st.fresh then
      match marks with
      | [] => s.setNominal covered 0 (lead s.clk.tick)
      | m :: r => s.setNominal covered (m.course + 1) (lead (r.foldl (fun a x => Tick.max a x.close) m.close))
    else s.setNominal covered (st.course + 1)
      (lead ((marks.filter (fun m => m.course == st.course)).foldl (fun a x => Tick.max a x.close) st.closeT))

/-- A stream begins: every bond member belongs to it, and the parity of its first course is prepared (R69, R126). -/
def State.openStream (s : State) (covered : Bool) : State :=
  let s := s.setStream covered { fresh := true, closeT := s.clk.tick, members := BitVec.allOnes 64, sincePause := 100 }
  ((s.newWindow covered).prepare covered 0 (s.slotFor s.clk.tick)).planNext covered

/-! ## The commands -/

/-- COURSE_CUTOFF at its tick (R72). -/
def courseCutoff (s : State) (covered : Bool) : State :=
  match s.dueEvent (fun e => e == .cutoff covered) with
  | none => s
  | some _ =>
    let s := s.unschedule (fun e => e == .cutoff covered)
    let st := s.streamOf covered
    if s.pkg.st.runs && st.nextNominal.isSome && !st.running && !st.formed then s.form covered else s

/-- A close marker on one stream: the member is of the current membership again, and what was retained for it up to that course is
let go (R69, R71; 13 R444). -/
def State.takeMarker (s : State) (covered : Bool) (m : Marker) : State :=
  match s.indexIn covered m.node with
  | none => s
  | some i =>
    let st := s.streamOf covered
    let s := s.setStream covered { st with
      markers := st.markers.filter (fun k => k.node != m.node) ++ [m], members := st.members ||| BitVec.ofNat 64 (2 ^ i) }
    let s := { s with mir := { s.mir with
      retained := s.mir.retained.filter (fun r => !(r.covered == covered && r.dest == m.node && decide (r.course.toNat ≤ m.course.toNat))) } }
    s.planNext covered

/-- CLOSE_MARKER from a bond member, or from its covering twin in its name. -/
def closeMarker (s : State) (src : Node) (course : W64) (close : Tick) : State :=
  if !s.pkg.st.runs then s
  else
    let m : Marker := { node := src, course := course, close := close }
    let s := s.takeMarker false m
    if s.pkg.st == .covering then s.takeMarker true m else s

/-- MARKER_TIMEOUT after the stream's own close: the missing members are named and left out (R71). -/
def markerTimeout (s : State) (covered : Bool) : State :=
  let st := s.streamOf covered
  let missing := (s.needed covered).filter (fun n => !st.heard n)
  if st.running || st.nextNominal.isSome || !s.pkg.st.runs || missing.isEmpty || decide (Tick.since s.clk.tick st.closeT < s.num O.markerTimeout) then s
  else
    let s := missing.foldl (fun t n =>
      let st := t.streamOf covered
      let t := match t.indexIn covered n with
        | some i => t.setStream covered { st with members := st.members &&& ~~~ (BitVec.ofNat 64 (2 ^ i)), markerMissing := true }
        | none => t
      t.raise srcSched 0 0x14 1 n.toNat) s
    s.planNext covered

/-- The start is held for the other stream: it runs a course, or in strict alternation it is its turn (13 R447). -/
def State.otherFirst (s : State) (covered : Bool) : Bool :=
  let o := s.streamOf (!covered)
  o.running || (s.pkg.st == .covering && s.crs.lastRan == some covered && o.nextNominal.isSome)

/-- A close that the start must wait for is not committed (13 R432). -/
def Stream.uncommitted (st : Stream) : Bool := st.commits.any (fun c => decide (c.course.toNat + 2 ≤ st.next.toNat))

/-- Give the sessions of a course their rows: SET_END covers what is not speculative, SCAFFOLD the drafts (05 R167; 06 R194). -/
def State.openRows (s : State) (covered : Bool) : State :=
  let st := s.streamOf covered
  st.sessions.foldl (fun t slot =>
    let mine := st.rows.filter (fun r => r.slot == slot)
    let n := (mine.filter (fun r => !r.speculative)).length
    let f := fun (r : Root) => if r.layers = 0 then r else { r with setEnd := r.setEnd + n, scaffold := mine.length - n }
    t.editSession slot (fun x => { x with main := f x.main, draft := f x.draft, lastCourse := st.course })) s

/-- The course's token words, in the input block of each EMBED (04 R122). -/
def State.writeEmbeds (s : State) (covered : Bool) : State :=
  let st := s.streamOf covered
  let odd := oddOf st.course
  let hs := (((s.templ covered odd).all.filter (fun x => x.2.1.kind.toNat == 0x0F)).filterMap (fun x => handleOf x.2.1.h0 x.2.2)).eraseDups
  hs.foldl (fun t h => match t.blockOf covered odd h with
    | none => t
    | some b => if b.courseRows then
        (List.range b.rows).foldl (fun u k => u.poke (b.row k) (leBytes 4 (st.rows.getD (tokenIndex b k) {}).token.toNat)) t
      else t) s

/-- What the router engine keeps of a stream when a course of it starts: what has come for that course. -/
def RouterEngine.begin_ (e : RouterEngine) (covered : Bool) (course : W64) : RouterEngine :=
  let other := fun (k : Nat) => decide (k ≥ 2 ^ 26) != covered
  { fill := e.fill.filter (fun x => other x.1), nextTile := e.nextTile.filter (fun x => other x.1)
    waiting := e.waiting.filter (fun x => x.1 != covered), accepted := e.accepted.filter (fun x => x.1 != covered)
    staged := e.staged.filter (fun x => x.1 != covered || x.2.course == course)
    gathered := e.gathered.filter (fun x => x.1 != covered || x.2.1 == course)
    seen := e.seen.filter (fun x => x.1 != covered || x.2.1 == course) }

/-- Cores whose rejoin was asked take part from a course start on (04 R148). -/
def CreditUnit.rejoin (u : CreditUnit) : CreditUnit :=
  { u with cores := u.cores.map (fun e => (e.1, if e.2.rejoin then { e.2 with rejoin := false, st := .active } else e.2)) }

/-- Start a stream's next course at this tick. -/
def State.startCourse (s : State) (covered : Bool) : State :=
  let s := s.joinGang
  let s := { s with cred := s.cred.rejoin }
  let st := s.streamOf covered
  let nominal := st.nextNominal.getD s.clk.tick
  -- a switch confirmed or cancelled since the course was planned decides (R75; 10 R336)
  let slot := s.slotFor nominal
  let s := s.prepareOn covered st.next slot
  let s := s.setStream covered { st with
    running := true, course := st.next, fresh := false, nominal := nominal, startT := s.clk.tick
    nextNominal := none, formed := false, fenceDone := false, history := nominal :: st.history.take 7
    opStart := s.pwr.op, gangStart := s.crs.gang, copySlot := slot
    unplaced := 0, fallbacks := 0, fellBack := [], poisoned := [], placedOn := [], layerPassed := [], layerUnplaced := [], layerShort := [], layerSkipped := [], sentWords := [], rejoins := [] }
  let s := { s with
    eng := s.eng.begin_ covered st.next
    mem := { s.mem with latePages := [] }
    pwr := { s.pwr with preTarget := none, courseSum := 0, courseTicks := 0 }
    crs := { s.crs with lastRan := some covered, lastOdd := oddOf st.next } }
  ((s.openRows covered).writeEmbeds covered).beginCourse covered (oddOf st.next)

/-- COURSE_START at its tick (R53, R55 to R57, R74). A course that may not start yet is tried again at the next grid tick. -/
def courseStart (s : State) (covered : Bool) : State :=
  match s.dueEvent (fun e => e == .start covered) with
  | none => s
  | some _ =>
    let s := s.unschedule (fun e => e == .start covered)
    let st := s.streamOf covered
    if !s.pkg.st.runs || st.running || !st.formed then s
    else if s.otherFirst covered then (s.countLate covered).schedule s.soonest (.start covered)
    else if st.uncommitted then s.schedule s.soonest (.start covered)
    else if s.joinGang.crs.gang = 0 then (s.askWakes [0, 1, 2, 3]).schedule s.soonest (.start covered)
    else s.startCourse covered

/-- CLOSE_MARKER. -/
def execCloseMarker (src : Node) (course : W64) (close : Tick) (s : State) : Host.Outcome State Fault Refusal :=
  .next (closeMarker s src course close)
/-- MARKER_TIMEOUT. -/
def execMarkerTimeout (covered : Bool) (s : State) : Host.Outcome State Fault Refusal :=
  .next (markerTimeout s covered)

end Sys2Proof.Machine
end

