-- ==== Sys2Proof/Machine/MirrorStream.lean ====
section
/-! DEFINITION. The mirror stream that leaves this package: the records of a close, a full image, and the commitment of closes
(13_mirror_pair_and_failover.md R429 to R432, Table 13.2). The manual gives each record's contents and no byte layout: the layout
here is the model's. -/

namespace Sys2Proof.Machine

/-! ## Records -/

/-- A record's bytes, as the fold of CLOSE runs over them. -/
def mirrorBytes (r : MirrorRec) : List Byte := leBytes 1 r.kind.toNat ++ leBytes 4 r.slot ++ r.body

/-- The fold of a run of records. -/
def foldOf (l : List MirrorRec) : W32 := crc32c ((l.map mirrorBytes).flatten)

/-- A record of a page: root, layer, page, entry, and its bytes. Of an open page only the rows below LENGTH leave the package (05 R168;
06 R202): zeros stand for the others. -/
def State.pageMirror (s : State) (slot : Nat) (draft : Bool) (key : Nat) (r : Root) (e : PageEntry) : MirrorRec :=
  let kept := if e.st = 1 then Nat.min 64 (r.length - 64 * (key % 4096)) * r.tr else r.pageBytes e.st
  { kind := 0x03, slot := slot
    body := leBytes 1 (b2n draft) ++ leBytes 2 (key / 4096) ++ leBytes 4 (key % 4096) ++ e.image ++
      fit (r.pageBytes e.st) (s.peek (localOf e.addr.toNat) kept).1 }

/-- A KV_ROWS record: the open rows of a run of positions. -/
def State.rowMirror (s : State) (slot : Nat) (draft : Bool) (r : Root) (layer first count : Nat) : MirrorRec :=
  { kind := 0x02, slot := slot
    body := leBytes 1 (b2n draft) ++ leBytes 2 layer ++ leBytes 4 first ++ leBytes 4 count ++
      ((List.range count).map (fun i =>
        let p := first + i
        (s.peek (localOf (r.page layer (p / 64)).addr.toNat + p % 64 * r.tr) r.tr).1)).flatten }

/-- KV_ROWS of one layer, a record for each page that is still open: a sealed page goes as KV_PAGE. -/
def State.layerRows (s : State) (slot : Nat) (draft : Bool) (r : Root) (layer lo hi : Nat) : List MirrorRec :=
  ((List.range ((hi + 63) / 64)).filter (fun p => decide (lo < 64 * (p + 1)) && (r.page layer p).st == 1)).map (fun p =>
    let first := Nat.max lo (64 * p)
    s.rowMirror slot draft r layer first (Nat.min hi (64 * (p + 1)) - first))

/-- What has changed in one root since the previous CLOSE: sealed and moved pages, then new rows. In a full image every page. -/
def State.rootRecords (s : State) (slot : Nat) (draft full : Bool) (old new : Root) : List MirrorRec :=
  let pages := new.pages.filter (fun e => full && e.2.st != 0 || decide (e.2.st ≥ 2) && SMap.get {} old.pages e.1 != e.2)
  let rows := if full ∨ new.length ≤ old.length then []
    else (List.range new.layers).flatMap (fun l => s.layerRows slot draft new l old.length new.length)
  pages.map (fun e => s.pageMirror slot draft e.1 new e.2) ++ rows

/-- Page addresses of a session. -/
def Session.pageList (x : Session) : List Byte := ((x.main.pages ++ x.draft.pages).map (fun e => leBytes 8 e.2.addr.toNat)).flatten

/-- Records of one slot. -/
def State.slotRecords (s : State) (slot : Nat) (full : Bool) (old new : Session) : List MirrorRec :=
  let other := old.st != .free && (new.st == .free || new.tag != old.tag || new.tenant != old.tenant)
  let freed := if other then [({ kind := 0x05, slot := slot, body := old.pageList } : MirrorRec)] else []
  let old := if other then {} else old
  if new.st = .free then freed
  else
    freed ++ (if new.image slot ≠ old.image slot then [{ kind := 0x01, slot := slot, body := new.image slot }] else []) ++
      s.rootRecords slot false full old.main new.main ++ s.rootRecords slot true full old.draft new.draft ++
      (if !full && new.st == .satchelled && old.st != .satchelled then
        [{ kind := 0x04, slot := slot, body := (s.peek (localOf new.satchel.toNat) 16384).1 }] else [])

/-- Objects that OBJECTS records carry: 0x2011, 0x2012, 0x6000 to 0x63FF and 0x21hh. -/
def mirroredKey (key : Nat) : Bool :=
  let i := key / 256
  i == 0x2011 || i == 0x2012 || (decide (0x6000 ≤ i) && decide (i ≤ 0x63FF)) || (decide (0x2100 ≤ i) && decide (i ≤ 0x213F))

/-- An OBJECTS record of some objects, none when there are none. -/
def State.objectRecords (s : State) (covered : Bool) (keys : List Nat) : List MirrorRec :=
  let nums := if covered then s.mir.coverNums else s.dict.nums
  match keys with
  | [] => []
  | _ => [{ kind := 0x06, slot := 0, body := (keys.map (fun k => leBytes 4 k ++ leBytes 8 (SMap.get (dfltOf k) nums k))).flatten }]

/-- The SCHEDULER record: course, close tick, each hod's ADMITTED index and return sequence, accounting index. -/
def State.schedulerRecord (s : State) (covered : Bool) : MirrorRec :=
  let st := s.streamOf covered
  { kind := 0x07, slot := 0
    body := leBytes 8 st.course.toNat ++ leBytes 8 st.closeT.toNat ++
      ((List.range 64).map (fun h => let r := s.hodRt (hodKey covered h); leBytes 4 r.admitted.toNat ++ leBytes 4 r.retSeq.toNat)).flatten ++
      leBytes 8 (s.cnum covered O.acctIndex) }

/-- The sessions of a stream by slot, a free one left out. -/
def State.tableOf (s : State) (covered : Bool) : SMap Session := s.ses.table.filter (fun e => e.2.st != .free && e.2.covered == covered)

/-- Slots of two tables, ascending. -/
def slotsOf (a b : SMap Session) : List Nat := sortBy id (((a ++ b).map (·.1)).eraseDups)

/-- The records of a close. -/
def State.closeRecords (s : State) (covered : Bool) : List MirrorRec :=
  let old := if covered then s.mir.sentCover else s.mir.sent
  let new := s.tableOf covered
  (slotsOf old new).flatMap (fun k => s.slotRecords k false (SMap.get {} old k) (SMap.get {} new k)) ++
    s.objectRecords covered (if covered then [] else s.mir.written.filter mirroredKey) ++ [s.schedulerRecord covered]

/-- The records of a full image. -/
def State.fullImage (s : State) (covered : Bool) : List MirrorRec :=
  let new := s.tableOf covered
  let nums := if covered then s.mir.coverNums else s.dict.nums
  (new.flatMap (fun e => s.slotRecords e.1 true {} e.2)) ++ s.objectRecords covered ((nums.map (·.1)).filter mirroredKey)

/-- The CLOSE record that ends a run of records. -/
def State.closeOf (s : State) (covered : Bool) (l : List MirrorRec) : MirrorCloseRec :=
  let st := s.streamOf covered
  { course := st.course, count := l.length, fold := foldOf l
    greatest := BitVec.ofNat 64 (st.markers.foldl (fun a m => Nat.max a m.course.toNat) st.course.toNat), members := st.members }

/-! ## Sending (R430, R452) -/

/-- MIRROR_STATE in which a stream goes to the twin. -/
def MirrorState.sends (m : MirrorState) : Bool := m == .syncing || m == .mirroring || m == .restoring

/-- Note what has been sent: the tables and the objects. -/
def State.noteSent (s : State) (covered : Bool) : State :=
  if covered then { s with mir := { s.mir with sentCover := s.tableOf true } }
  else { s with mir := { s.mir with sent := s.tableOf false, written := [] } }

/-- Send a run of records and its CLOSE: mirror packets for the own stream, restore packets for the covered one. -/
def State.sendRecords (s : State) (covered image : Bool) (l : List MirrorRec) : State :=
  let c := s.closeOf covered l
  let t := s.twinNode
  let s := if covered then (l.foldl (fun u r => u.sendM (.restore (.image r))) s).sendM (.restore (.imageClose c))
    else (l.foldl (fun u r => u.send t (.mirror r)) s).send t (.mirrorClose c)
  let x : AwaitAck := { covered := covered, course := c.course, image := image }
  ({ s with mir := { s.mir with awaiting := s.mir.awaiting ++ [x] } } : State).noteSent covered

/-- The full image of a stream goes out, at the stream's next close while a course of it runs: the committed serving state is that of a
close (R430). -/
def State.sendImage (s : State) (covered : Bool) : State :=
  if (s.streamOf covered).running then { s with mir := { s.mir with imageDue := s.mir.imageDue ++ [covered] } }
  else s.sendRecords covered true (s.fullImage covered)

/-- Step 5 of R76: the records of a close. The covered stream goes to the package being restored, once its image has gone. -/
def State.mirrorStep (s : State) (covered : Bool) : State :=
  let sends := if covered then (s.mir.st == .restoring && (match s.mir.restore with | some r => decide (r.step ≥ 3) | none => false))
    else s.mir.st.sends && (s.mir.st != .restoring || (match s.mir.restore with | some r => decide (r.step ≥ 3) | none => false))
  if !sends then s.noteSent covered
  else if s.mir.imageDue.contains covered then
    ({ s with mir := { s.mir with imageDue := s.mir.imageDue.filter (· != covered) } } : State).sendRecords covered true
      (s.fullImage covered ++ [s.schedulerRecord covered])
  else s.sendRecords covered false (s.closeRecords covered)

/-! ## Commitment (R432) -/

/-- A close is committed at once (R432). -/
def State.commitsAtOnce (s : State) : Bool :=
  s.mir.st == .none || s.mir.st == .covering || s.mir.st == .uncovered ||
    (s.mir.st == .restoring && (match s.mir.restore with | some r => decide (r.acks < 2) | none => true))

/-- Commit a close: RETURN_COMMITTED of each hod, the course-close interrupt, COMMITTED_COURSE. -/
def State.commit (s : State) (covered : Bool) (c : Commit) : State :=
  let s := c.seqs.foldl (fun t e => t.setHodNum e.1 O.hodReturnCommitted e.2) s
  let s := if covered then s
    else { (s.setNum O.committedCourse c.course.toNat) with mir := { s.mir with committed := some c.course, committedTick := s.clk.tick } }
  s.icxEvent (if covered then 0x001 else 0x000)

/-- Commit the closes of a stream up to a course. -/
def State.commitUpTo (s : State) (covered : Bool) (course : W64) : State :=
  let st := s.streamOf covered
  let ready := st.commits.filter (fun c => decide (c.course.toNat ≤ course.toNat))
  ready.foldl (fun t c => t.commit covered c)
    (s.setStream covered { st with commits := st.commits.filter (fun c => !decide (c.course.toNat ≤ course.toNat)) })

/-- The close of a stream's last course awaits its commitment, or is committed at once. -/
def State.closeCommit (s : State) (covered : Bool) : State :=
  let st := s.streamOf covered
  let seqs := (List.range 64).map (fun h => let k := hodKey covered h; (k, (s.hodRt k).retSeq.toNat))
  let s := s.setStream covered { st with commits := st.commits ++ [{ course := st.course, seqs := seqs }] }
  if s.commitsAtOnce then s.commitUpTo covered st.course else s

/-! ## Aliases and the end of a restore (R438, R439, R452) -/

/-- Every identity of the fabric, ascending: the 2^k of rack 0, and those of rack 1 when a lintel port is up or the package lies in
rack 1 (11 R371). -/
def State.fabricNodes (s : State) : List Node :=
  let near := List.range (2 ^ Nat.min s.lnk.k 16)
  let both := s.portUp 16 || s.portUp 17 || decide (s.node.toNat ≥ 65536)
  (if both then near ++ near.map (fun n => 65536 + n) else near).map (BitVec.ofNat 17)

/-- Remove or install an alias here, at most 64 held. -/
def State.setAlias (s : State) (failed : Node) (cover : Option Node) : State :=
  let rest := s.lnk.aliases.filter (fun a => a.1 != failed)
  match cover with
  | none => { s with lnk := { s.lnk with aliases := rest } }
  | some c => if rest.length < 64 then { s with lnk := { s.lnk with aliases := rest ++ [(failed, c)] } } else s

/-- Step 5 of R452 at a covered close: HANDBACK_TICK, the covered stream stops and its sessions, hods and objects leave with it, the
alias is removed everywhere, and the package returns to SERVING. -/
def State.handback (s : State) (n : Node) : State :=
  let st := s.crs.covered
  let seq := s.mir.aliasSeq + 1
  let s := (s.setNum O.handbackTick st.closeT.toNat).sendM (.restore (.handback st.course))
  let s := s.unschedule (fun e => e == .cutoff true || e == .start true)
  let s := s.dropCovered
  let s := { s with
    crs := { s.crs with covered := {}, own := { s.crs.own with history := [] }, hods := s.crs.hods.filter (fun e => !hodCovered e.1), taken := s.crs.taken.filter (fun r => !hodCovered r.hod), lastRan := none }
    cred := { s.cred with cov0 := {}, cov1 := {} }
    mir := { s.mir with
      st := .mirroring, covered := none, restore := none, takeover := none, coverNums := [], sentCover := [], aliasSeq := seq
      retained := s.mir.retained.filter (fun r => !r.covered) } }
  let s := s.setAlias n none
  let s := (s.fabricNodes.filter (fun m => m != s.node)).foldl (fun t m => t.send m (.aliasSet n none seq)) s
  (s.transition .serving).icxEvent 0x003

/-- A covered close hands the sessions back when the package being restored has acknowledged both images 1,000 ticks before (R452). -/
def State.handbackDue (s : State) : Bool :=
  match s.mir.restore with
  | none => false
  | some r => s.mir.st == .restoring && s.pkg.st == .covering && decide (r.acks ≥ 2) && decide (Tick.since s.crs.covered.closeT r.lastAck ≥ 1000)

end Sys2Proof.Machine
end

