-- ==== Sys2Proof/Machine/Shipping.lean ====
section
/-! DEFINITION. Hand-over of sessions: targets, shipments, replies (05_attention_and_kv_cache.md R185 to R190; 06 R207;
08_serving_control.md R240 to R243), and the ends that a wait brings (R261, R275); a tenant's ACTIVE (R50, R276, R483). -/

namespace Sys2Proof.Machine

/-! ## Records (Tables 5.7, 8.1, 8.2) -/

/-- A hand-over request (0x1D) or hand-over record (0x1E). -/
def handoverBytes (typ : Nat) (x : Session) (id : W64) : List Byte :=
  withRcrc (leBytes 1 typ ++ leBytes 1 x.cls ++ leBytes 1 x.profile ++ leBytes 1 x.draftMax ++ leBytes 4 (x.nextToken.getD 0).toNat ++
    leBytes 8 x.tag.toNat ++ leBytes 8 id.toNat ++ leBytes 8 x.seed.toNat ++ leBytes 8 x.deadline.toNat ++ leBytes 4 x.maxLeft ++
    leBytes 4 x.main.length ++ leBytes 1 x.tenant)

/-- A reply record. -/
def replyBytes (verdict status slot : Nat) (tag : W64) (id : Nat) : List Byte :=
  withRcrc (leBytes 1 0x1F ++ leBytes 1 verdict ++ leBytes 2 status ++ leBytes 4 slot ++ leBytes 8 tag.toNat ++ leBytes 8 id)

/-- A closing record of a root whose page records have been sent. -/
def closingBytes (x : Session) (r : Root) (id : W64) (recs : List (List Byte)) : List Byte :=
  let inOrder := sortBy (fun b => u32 b 0x28) recs
  withRcrc (leBytes 1 0x0F ++ leBytes 1 (b2n r.form) ++ leBytes 2 r.layers ++ leBytes 4 recs.length ++ leBytes 8 x.tag.toNat ++
    leBytes 8 id.toNat ++ leBytes 4 r.length ++ leBytes 2 r.geometry ++ zeros 2 ++ leBytes 1 x.tenant ++ zeros 3 ++
    leBytes 4 (crc32c ((inOrder.map (fit 60)).flatten)).toNat)

/-- The session that a reply is for: SHIPPING, its target the node that answers. -/
def State.shipOf (s : State) (src : Node) (rec : List Byte) : Option Nat :=
  (s.sessionsOpen.find? (fun e => e.2.st == .shipping && e.2.tag == BitVec.ofNat 64 (u64 rec 8) && e.2.ship.target == some src)).map (·.1)

/-- A reply's RCRC, TYPE and VERDICT are as a command wants. -/
def replyIs (rec : List Byte) (verdict : Nat) : Bool := rcrcOk rec && u8 rec 0 == 0x1F && u8 rec 1 == verdict

/-! ## The sender (R240, R243) -/

/-- Send a hand-over request for a session to the target at a position of the list. -/
def State.askAt (s : State) (slot i : Nat) : State :=
  let x := s.session slot
  let n : Node := BitVec.ofNat 17 (s.cnum x.covered (O.decodeTarget i))
  let x := { x with ship := { x.ship with target := some n, index := i, granted := false, recordAt := none, mainRecs := [], draftRecs := [] } }
  (s.putSession slot x).send n (.handover (handoverBytes 0x1D x 0))

/-- Begin a round of requests at the target after the one last granted a session; without targets the session waits. -/
def State.askRound (s : State) (slot : Nat) : State :=
  let x := s.session slot
  let count := s.cnum x.covered O.targetCount
  let s := s.putSession slot { x with ship := { x.ship with declined := 0, target := none } }
  if count = 0 then s else s.askAt slot (s.crs.lastTarget % count)

/-- Ask the target after the present one. -/
def State.askNext (s : State) (slot : Nat) : State :=
  let x := s.session slot
  let count := s.cnum x.covered O.targetCount
  if count = 0 then s else s.askAt slot ((x.ship.index + 1) % count)

/-- Give a session's shipment its identifier: the node and an even count, the draft's being one more (Table 5.7; R207). -/
def State.newShipment (s : State) (slot : Nat) : State :=
  let n := s.crs.shipCount
  let x := s.session slot
  ({ s with crs := { s.crs with shipCount := n + 2 } }).putSession slot { x with ship := { x.ship with
    id := fabAddr (s.streamNode x.covered) n, recordAt := none, mainRecs := [], draftRecs := [], grantAt := s.clk.tick } }

/-- HANDOVER_GRANT (R241): the session is shipped by the KV_SHIP instances of the next course. -/
def handoverGrant (s : State) (src : Node) (rec : List Byte) : State :=
  match s.shipOf src rec with
  | none => s
  | some slot =>
    let x := s.session slot
    if !replyIs rec 0 || x.ship.granted then s
    else
      let s := { s with crs := { s.crs with lastTarget := x.ship.index + 1 } }
      (s.putSession slot { x with ship := { x.ship with granted := true } }).newShipment slot

/-- HANDOVER_DECLINE: the next target is asked, until all have declined in this round. -/
def handoverDecline (s : State) (src : Node) (rec : List Byte) : State :=
  match s.shipOf src rec with
  | none => s
  | some slot =>
    let x := s.session slot
    if !replyIs rec 1 || x.ship.granted then s
    else
      let n := x.ship.declined + 1
      let s := s.putSession slot { x with ship := { x.ship with declined := n, target := none } }
      if n ≥ s.cnum x.covered O.targetCount then s else s.askNext slot

/-- Shipping has failed once more: again to the same target, then to the next, then the session ends (R243). -/
def State.shipFailed (s : State) (slot : Nat) : State :=
  let x := s.session slot
  let n := x.ship.tries + 1
  let s := s.putSession slot { x with ship := { x.ship with tries := n, recordAt := none } }
  if n ≥ 3 then s.editSession slot (fun y => y.because 0x2B)
  else if n = 1 then s.newShipment slot
  else (s.editSession slot (fun y => { y with ship := { y.ship with since := s.clk.tick, declined := 0 } })).askNext slot

/-- HANDOVER_REFUSE. -/
def handoverRefuse (s : State) (src : Node) (rec : List Byte) : State :=
  match s.shipOf src rec with
  | none => s
  | some slot =>
    let x := s.session slot
    if replyIs rec 3 && x.ship.recordAt.isSome && u64 rec 0x10 == x.ship.id.toNat then s.shipFailed slot else s

/-- VERDICT_TIMEOUT of a session's hand-over record. -/
def verdictTimeout (s : State) (slot : Nat) : State :=
  let x := s.session slot
  match x.ship.recordAt with
  | none => s
  | some t => if x.st = .shipping ∧ Tick.since s.clk.tick t ≥ s.num O.handoverWait then s.shipFailed slot else s

/-- HANDOVER_ACCEPT: the session is freed, and a HANDED_OVER record is due at the next close (R243). -/
def handoverAccept (s : State) (src : Node) (rec : List Byte) : State :=
  match s.shipOf src rec with
  | none => s
  | some slot =>
    let x := s.session slot
    if !replyIs rec 2 || x.ship.recordAt.isNone || u64 rec 0x10 != x.ship.id.toNat then s
    else
      let k := hodKey x.covered x.hod
      let rt := s.hodRt k
      let s := s.setHodRt k { rt with refused := rt.refused ++ [{ tag := x.tag, slot := slot, status := 0x2F, deadline := x.deadline, position := BitVec.ofNat 32 src.toNat }] }
      (s.freeDescriptor slot 0x2F).icxEvent 0x0C1

/-- HANDOVER_WAIT_EXPIRY: NO_DECODE (R240). -/
def handoverWaitExpiry (s : State) (slot : Nat) : State :=
  let x := s.session slot
  if x.st = .shipping ∧ !x.ship.granted ∧ Tick.since s.clk.tick x.ship.since ≥ s.num O.handoverWait then s.editSession slot (fun y => y.because 0x2A) else s

/-- Sessions of a stream whose shipments are complete and have no closing record yet. -/
def State.shipped (s : State) (covered : Bool) : List Nat :=
  (s.sessionsOpen.filter (fun e =>
    let x := e.2
    let whole := fun (r : Root) (l : List (List Byte)) => decide (l.length = r.layers * pagesFor r.length)
    x.covered == covered && x.st == .shipping && x.ship.granted && x.ship.recordAt.isNone && !x.ship.mainRecs.isEmpty &&
      whole x.main x.ship.mainRecs && whole x.draft x.ship.draftRecs)).map (·.1)

/-- Send the closing records of a session's shipments and its hand-over record (R187, R241). -/
def State.closeShipment (s : State) (slot : Nat) : State :=
  let x := s.session slot
  match x.ship.target with
  | none => s
  | some n =>
    let s := s.send n (.closingRecord (closingBytes x x.main x.ship.id x.ship.mainRecs))
    let s := if x.draft.layers = 0 then s else s.send n (.closingRecord (closingBytes x x.draft (x.ship.id + 1) x.ship.draftRecs))
    (s.send n (.handover (handoverBytes 0x1E x x.ship.id))).putSession slot { x with ship := { x.ship with recordAt := some s.clk.tick } }

/-! ## The target (R241, R242) -/

/-- The template a target serves by: that of its LIVE copy. -/
def State.serving (s : State) : Template := (s.liveCopy.templ).getD noTemplate

/-- Status under which a request is declined, 0 for a grant. A package with no LIVE copy holds nothing the checks could pass against: 0x10
(log entry 29). -/
def State.handoverStatus (s : State) (rec : List Byte) : Nat :=
  let tenant := u8 rec 0x30
  let c := s.capacityStatus false s.serving (u8 rec 1) tenant (u8 rec 2) (u8 rec 3) (u32 rec 0x2C)
  let hod := s.num (O.tenReturnHod tenant)
  if !s.hasLive then 0x10
  else if s.num (O.tenActive tenant) ≠ 1 then 0x12
  else if c ≠ 0 then c
  else if s.num (O.hodEnable hod) = 1 ∧ s.num (O.hodTenant hod) = tenant then 0
  else 0x1A

/-- HANDOVER_REQUEST. -/
def handoverRequest (s : State) (src : Node) (rec : List Byte) : State :=
  if !rcrcOk rec || u8 rec 0 != 0x1D || !s.pkg.st.hubRuns then s
  else
    let tag : W64 := BitVec.ofNat 64 (u64 rec 8)
    let st := s.handoverStatus rec
    match (if st = 0 then s.freeSlot else none) with
    | none => s.send src (.reply (replyBytes 1 st 0 tag (u64 rec 0x10)))
    | some slot =>
      let p := promptPages s.serving (u32 rec 0x2C) (u8 rec 3 != 0)
      let g : GrantHold := { slot := slot, src := src, tag := tag, tenant := u8 rec 0x30, heldAt := s.clk.tick, pages := p.1.1 + p.1.2, bytes := p.2 }
      ({ s with ses := { s.ses with grants := s.ses.grants ++ [g] } }).send src (.reply (replyBytes 0 0 slot tag (u64 rec 0x10)))

/-- GRANT_HOLD_EXPIRY of a slot held. -/
def grantHoldExpiry (s : State) (slot : Nat) : State :=
  { s with ses := { s.ses with grants := s.ses.grants.filter (fun g =>
      !(g.slot == slot && decide (Tick.since s.clk.tick g.heldAt ≥ s.num O.handoverWait))) } }

/-- Replace a shipment. -/
def State.putShipment (s : State) (h : Shipment) : State :=
  { s with ses := { s.ses with shipments := s.ses.shipments.filter (fun x => x.id != h.id) ++ [h] } }

/-- The shipment of an identifier. -/
def State.shipment (s : State) (id : W64) : Option Shipment := s.ses.shipments.find? (fun x => x.id == id)

/-- PAGE_RECORD. -/
def pageRecord (s : State) (src : Node) (rec payload : List Byte) : State :=
  let id : W64 := BitVec.ofNat 64 (u64 rec 0x10)
  match s.shipment id with
  | none => s.putShipment { id := id, src := src, firstAt := s.clk.tick, recs := [(rec, payload)] }
  | some h => if h.accepted.isSome ∨ h.failed ≠ 0 then s else s.putShipment { h with recs := h.recs ++ [(rec, payload)] }

/-- A page record arrived good. -/
def pageRecordOk (r : List Byte × List Byte) : Bool := rcrcOk r.1 && u32 r.1 0x24 == (crc32c r.2).toNat && u32 r.1 0x20 == r.2.length

/-- The first check of R188 that a closing record fails, 0 for none. -/
def Shipment.check (h : Shipment) (rec : List Byte) (g : Geometry) : Nat :=
  let good := h.recs.filter pageRecordOk
  let layers := u16 rec 2
  let length := u32 rec 0x18
  let pages := pagesFor length
  let r := newRoot g 0
  if !rcrcOk rec then 1
  else if good.length ≠ u32 rec 4 then 2
  else if !(List.range layers).all (fun l => (List.range pages).all (fun p =>
      (good.filter (fun x => u16 x.1 2 == l && u32 x.1 4 == p)).length == 1)) then 3
  else if !good.all (fun x => u8 x.1 0x1C == (if u32 x.1 4 + 1 = pages then length - 64 * (pages - 1) else 64)) then 4
  else if u32 rec 0x24 ≠ (crc32c (((sortBy (fun b => u32 b 0x28) (good.map (·.1))).map (fit 60)).flatten)).toNat then 5
  else if u16 rec 0x1C ≠ r.geometry ∨ layers ≠ r.layers then 6
  else 0

/-- Install one page record: a near slot of its own, its payload, its STATE and ROT_BASE (R190). -/
def State.installPage (s : State) (h : Shipment) (r : List Byte × List Byte) : State × Shipment :=
  let a := s.newSlot false h.tenant false h.slotBytes (h.pages.map (fun e => (localOf e.2.addr.toNat, h.slotBytes)))
  (a.2.poke (localOf a.1.toNat) r.2,
    { h with pages := SMap.set {} h.pages (pageKey (u16 r.1 2) (u32 r.1 4)) { addr := a.1, rotBase := BitVec.ofNat 32 (u32 r.1 0x18), st := u8 r.1 1 } })

/-- CLOSING_RECORD: the shipment is accepted and its pages installed, or it is discarded and the failed check kept. -/
def closingRecord (s : State) (src : Node) (rec : List Byte) : State :=
  let id : W64 := BitVec.ofNat 64 (u64 rec 0x10)
  match s.shipment id with
  | none => s
  | some h =>
    if h.src ≠ src ∨ h.accepted.isSome ∨ h.failed ≠ 0 then s
    else
      let g := if id.toNat % 2 = 0 then s.serving.main else s.serving.draft
      let k := h.check rec g
      let tag : W64 := BitVec.ofNat 64 (u64 rec 8)
      if k ≠ 0 then s.putShipment { h with recs := [], failed := k, tag := tag }
      else
        let r := (h.recs.filter pageRecordOk).foldl (fun (a : State × Shipment) p => a.1.installPage a.2 p) (s, { h with tenant := u8 rec 0x20, slotBytes := (newRoot g 0).openBytes })
        let r1 := newRoot g 0
        -- the pages given their slots are counted at their own size, no more as reserved (R274)
        let held := sumNat (r.2.pages.map (fun e => r1.pageBytes e.2.st))
        let s := r.1.putShipment { r.2 with recs := [], accepted := some (u32 rec 0x18), form := u8 rec 1 == 1, tag := tag }
        { s with ses.grants := s.ses.grants.map (fun x =>
            if x.src == src && x.tag == tag && x.tenant == u8 rec 0x20 then { x with bytes := x.bytes - r.2.pages.length * r1.openBytes + held } else x) }

/-- SHIPMENT_TIMEOUT (R189). -/
def shipmentTimeout (s : State) (id : W64) : State :=
  match s.shipment id with
  | none => s
  | some h =>
    if h.accepted.isSome ∨ h.failed ≠ 0 ∨ Tick.since s.clk.tick h.firstAt < 1000000 then s
    else { s with ses := { s.ses with shipments := s.ses.shipments.filter (fun x => x.id != id), discarded := s.ses.discarded + 1 } }

/-- The root a shipment leaves (R190). -/
def Shipment.root (h : Shipment) (g : Geometry) (base : W64) (length : Nat) : Root :=
  if g.layers = 0 then {} else { newRoot g base with length := length, setEnd := length, form := h.form, pages := h.pages }

/-- Accept a session whose shipments are here (R242). -/
def State.acceptSession (s : State) (g : GrantHold) (rec : List Byte) (m d : Shipment) : State :=
  let t := s.serving
  let length := u32 rec 0x2C
  let rej := s.needsReject false (u8 rec 2) (u8 rec 3)
  let p := s.newPlaces false g.tenant (newRoot t.main 0) (if u8 rec 3 = 0 then {} else newRoot t.draft 0) rej
  let x : Session := {
    tag := g.tag, seed := BitVec.ofNat 64 (u64 rec 0x18), deadline := BitVec.ofNat 48 (u64 rec 0x20), st := .active, cls := u8 rec 1, tenant := g.tenant
    hod := s.num (O.tenReturnHod g.tenant), profile := u8 rec 2, draftMax := u8 rec 3, depth := u8 rec 3
    nextToken := some (BitVec.ofNat 32 (u32 rec 4)), maxLeft := u32 rec 0x28, main := m.root t.main p.1.main length
    draft := if u8 rec 3 = 0 then {} else d.root t.draft p.1.draft length
    stripAddr := p.1.strip, strip := { qbase := p.1.reject, reject := rej } }
  let s := (((p.2.putSession g.slot x).putStrip g.slot x.strip).pokePages x.main).pokePages x.draft
  { s with ses := { s.ses with
      grants := s.ses.grants.filter (fun h => h != g)
      shipments := s.ses.shipments.filter (fun h => h.id != m.id && h.id != d.id)
      movedPages := SMap.set 0 s.ses.movedPages g.tenant (SMap.get 0 s.ses.movedPages g.tenant + x.slots false) } }.icxEvent 0x0C0

/-- HANDOVER_RECORD: ACCEPT or REFUSE (R242; R207). -/
def handoverRecord (s : State) (src : Node) (rec : List Byte) : State :=
  let tag : W64 := BitVec.ofNat 64 (u64 rec 8)
  let id : W64 := BitVec.ofNat 64 (u64 rec 0x10)
  let m := (s.shipment id).getD {}
  let d := (s.shipment (id + 1)).getD {}
  let drafts := u8 rec 3 != 0
  let refuse :=
    let k := if m.failed ≠ 0 then m.failed else if drafts && d.failed != 0 then d.failed else 7
    let s := { s with ses := { s.ses with shipments := s.ses.shipments.filter (fun h => h.src != src || (h.id != id && h.id != id + 1)) } }
    s.send src (.reply (replyBytes 3 k 0 tag id.toNat))
  match s.ses.grants.find? (fun g => g.src == src && g.tag == tag) with
  | none => refuse
  | some g =>
    let ok := rcrcOk rec && u8 rec 0 == 0x1E && m.accepted == some (u32 rec 0x2C) && m.tag == tag && m.id == id && u8 rec 0x30 == g.tenant &&
      (!drafts || d.accepted == some (u32 rec 0x2C))
    if ok then (s.acceptSession g rec m d).send src (.reply (replyBytes 2 0 0 tag id.toNat)) else refuse

/-! ## Waits and tenants -/

/-- TTL_EXPIRY of a PARKED session (R261). -/
def ttlExpiry (s : State) (slot : Nat) : State :=
  let x := s.session slot
  if x.st = .parked ∧ Tick.atLeast s.clk.tick (BitVec.ofNat 48 x.expiry.toNat) then s.editSession slot (fun y => y.because 0x28) else s

/-- QUOTA_WAIT_EXPIRY of a session left out for its tenant's near quota (R275). -/
def quotaWaitExpiry (s : State) (slot : Nat) : State :=
  let x := s.session slot
  match x.quotaSince with
  | none => s
  | some t => if x.st ≠ .free ∧ Tick.since s.clk.tick t ≥ s.num O.quotaWait then s.editSession slot (fun y => y.because 0x29) else s

/-- A write of ACTIVE of a tenant (R50, R276; 14 R483). -/
def State.tenantWrite (s : State) (t v : Nat) : Nat × State :=
  if v = 0 then
    let mine := s.sessionsOpen.filter (fun e => e.2.tenant == t && !e.2.covered)
    (Err.ok, mine.foldl (fun u e => (u.dropStrip e.1).editSession e.1 (fun x => x.because 0x20)) (s.setNum (O.tenActive t) 0))
  else
    let none_ := !s.sessionsOpen.any (fun e => e.2.tenant == t && !e.2.covered)
    if none_ && s.clk.mode == .holdover then (Err.holdover, s)
    else if none_ && s.num O.rackState == 1 then (Err.rackSilent, s)
    else (Err.ok, s.setNum (O.tenActive t) 1)

/-! ## The commands -/

/-- PAGE_RECORD. -/
def execPageRecord (src : Node) (rec : List Byte) (payload : List Byte) (s : State) : Host.Outcome State Fault Refusal :=
  .next (pageRecord s src rec payload)
/-- CLOSING_RECORD. -/
def execClosingRecord (src : Node) (rec : List Byte) (s : State) : Host.Outcome State Fault Refusal :=
  .next (closingRecord s src rec)
/-- SHIPMENT_TIMEOUT. -/
def execShipmentTimeout (id : W64) (s : State) : Host.Outcome State Fault Refusal :=
  .next (shipmentTimeout s id)
/-- HANDOVER_REQUEST. -/
def execHandoverRequest (src : Node) (rec : List Byte) (s : State) : Host.Outcome State Fault Refusal :=
  .next (handoverRequest s src rec)
/-- HANDOVER_GRANT. -/
def execHandoverGrant (src : Node) (rec : List Byte) (s : State) : Host.Outcome State Fault Refusal :=
  .next (handoverGrant s src rec)
/-- HANDOVER_DECLINE. -/
def execHandoverDecline (src : Node) (rec : List Byte) (s : State) : Host.Outcome State Fault Refusal :=
  .next (handoverDecline s src rec)
/-- HANDOVER_RECORD. -/
def execHandoverRecord (src : Node) (rec : List Byte) (s : State) : Host.Outcome State Fault Refusal :=
  .next (handoverRecord s src rec)
/-- HANDOVER_ACCEPT. -/
def execHandoverAccept (src : Node) (rec : List Byte) (s : State) : Host.Outcome State Fault Refusal :=
  .next (handoverAccept s src rec)
/-- HANDOVER_REFUSE. -/
def execHandoverRefuse (src : Node) (rec : List Byte) (s : State) : Host.Outcome State Fault Refusal :=
  .next (handoverRefuse s src rec)
/-- HANDOVER_WAIT_EXPIRY. -/
def execHandoverWaitExpiry (slot : BitVec 18) (s : State) : Host.Outcome State Fault Refusal :=
  .next (handoverWaitExpiry s slot.toNat)
/-- GRANT_HOLD_EXPIRY. -/
def execGrantHoldExpiry (slot : BitVec 18) (s : State) : Host.Outcome State Fault Refusal :=
  .next (grantHoldExpiry s slot.toNat)
/-- VERDICT_TIMEOUT. -/
def execVerdictTimeout (slot : BitVec 18) (s : State) : Host.Outcome State Fault Refusal :=
  .next (verdictTimeout s slot.toNat)
/-- TTL_EXPIRY. -/
def execTtlExpiry (slot : BitVec 18) (s : State) : Host.Outcome State Fault Refusal :=
  .next (ttlExpiry s slot.toNat)
/-- QUOTA_WAIT_EXPIRY. -/
def execQuotaWaitExpiry (slot : BitVec 18) (s : State) : Host.Outcome State Fault Refusal :=
  .next (quotaWaitExpiry s slot.toNat)

end Sys2Proof.Machine
end

