-- ==== Sys2Proof/Machine/Close.lean ====
section
/-! DEFINITION. The close of a course (02_course_clock_and_courses.md R65 to R67, R76, R77; 04 R126; 05 R168, R187; 06 R206; 08 R239, R240,
R249, R250, R260 to R263, R267, R270 to R273; 10 R338; 13 R430, R432, R452; 14 R461, R475 to R477; 17 R577). -/

namespace Sys2Proof.Machine

/-! ## A session at the close (R168, R249, R250, R267) -/

/-- The stop tokens of a session's profile. -/
def State.stopTokens (s : State) (x : Session) : List Nat :=
  ((List.range 4).map (fun i => s.cnum x.covered (O.profStopToken x.profile i))).filter (fun v => v != 0xFFFFFFFF)

/-- The tokens delivered of those confirmed (R250): up to a stop token, and no more than MAX_LEFT. -/
def delivered (stops : List Nat) : Nat → List W32 → List W32
  | 0, _ => []
  | _, [] => []
  | n + 1, t :: rest => if stops.contains t.toNat then [t] else t :: delivered stops n rest

/-- A session's close is past its DEADLINE. -/
def Session.pastDeadline (x : Session) (close : Tick) : Bool := x.deadline != 0 && Tick.after close x.deadline

/-- What a session of a course has at its close: LENGTH is SET_END, the confirmed token waits for its row, the depth state is stored,
the delivered tokens are counted; and the reasons its tokens and its length give. A session that lost KV delivers nothing (09 R299). -/
def State.settle (s : State) (x : Session) (lost : Bool) : Session × List W32 :=
  let stops := s.stopTokens x
  let out := if lost then [] else delivered stops x.maxLeft x.confirmed
  let f := fun (r : Root) => { r with length := r.setEnd }
  let y : Session := if x.confirmed.isEmpty then x else x.adapt.1
  let y : Session := { y with
    main := f y.main, draft := f y.draft, confirmed := []
    nextToken := match x.confirmed.getLast? with | some t => some t | none => x.nextToken
    maxLeft := x.maxLeft - out.length, generated := x.generated + out.length }
  let y : Session := if out.any (fun t => stops.contains t.toNat) then y.because 0x24 else y
  let y : Session := if !out.isEmpty && y.maxLeft == 0 then y.because 0x25 else y
  let y : Session := if y.nextToken.isSome && decide (y.main.setEnd ≥ 262143) then y.because 0x26 else y
  (y, out)

/-- Reasons that the close itself brings (R240, R261, R267, R275). -/
def State.waitReasons (s : State) (close : Tick) (x : Session) : Session :=
  let x := if x.st = .shipping ∧ !x.ship.granted ∧ Tick.since close x.ship.since ≥ s.num O.handoverWait then x.because 0x2A else x
  let x := if x.pastDeadline close ∧ s.cnum x.covered (O.deadlineAction x.cls) = 1 then x.because 0x27 else x
  let x := if x.st = .parked ∧ Tick.atLeast close (BitVec.ofNat 48 x.expiry.toNat) then x.because 0x28 else x
  match x.quotaSince with
  | some t => if Tick.since close t ≥ s.num O.quotaWait then x.because 0x29 else x
  | none => x

/-- The reason a session ends with: the lowest. -/
def Session.endReason (x : Session) : Option Nat := x.reasons.foldl (fun a r => match a with | none => some r | some b => some (Nat.min b r)) none

/-- The return record of a session, none when it has none due (R66). -/
def Stream.recordOf (st : Stream) (slot : Nat) (x : Session) (out : List W32) : Option RetRec :=
  let first := ((st.lastRow slot).map (fun r => r.2.position + 1)).getD 0
  let flags := b2n (x.pastDeadline st.closeT) + 2 * b2n x.endReason.isSome + 4 * b2n (st.fellBack.contains slot)
  if out.isEmpty && x.endReason.isNone then none
  else some {
    tag := x.tag, slot := slot, course := st.course, status := x.endReason.getD 0, flags := BitVec.ofNat 8 flags
    position := BitVec.ofNat 32 first, tokens := out }

/-- Settle one open session: its state at the close and its record. -/
def State.settleSlot (s : State) (covered : Bool) (slot : Nat) : State × List (Nat × RetRec) :=
  let st := s.streamOf covered
  let x := s.session slot
  let y := if st.sessions.contains slot then s.settle x (st.poisoned.contains slot || x.reasons.contains 0x22) else (x, [])
  let z := s.waitReasons st.closeT y.1
  let r := st.recordOf slot z y.2
  let z := if r.isSome && z.pastDeadline st.closeT then { z with late := true } else z
  -- a record that carries no token has no stated POSITION
  let d := s.drawNat
  let r := r.map (fun q => if q.tokens.isEmpty then { q with position := BitVec.ofNat 32 d.1 } else q)
  ((if r.isSome then d.2 else s).putSession slot z, (r.map (fun q => (hodKey covered z.hod, q))).toList)

/-- Settle every open session of a stream. -/
def State.settleAll (s : State) (covered : Bool) : State × List (Nat × RetRec) :=
  ((s.sessionsOf covered).map (·.1)).foldl (fun (a : State × List (Nat × RetRec)) slot =>
    let r := a.1.settleSlot covered slot
    (r.1, a.2 ++ r.2)) (s, [])

/-! ## Return records (R66, R67) -/

/-- A value of RETURN_RELEASE is later than return sequence − RECORDS, modulo 2^32. -/
def released (release seq records : Nat) : Bool :=
  let d := (release + records + 2 ^ 32 - seq % 2 ^ 32) % 2 ^ 32
  decide (0 < d) && decide (d < 2 ^ 31)

/-- Write the waiting records of a hod while it is enabled and space is released, at most n of them. -/
def State.writeWaiting : Nat → Nat → State → State
  | 0, _, s => s
  | n + 1, k, s =>
    let rt := s.hodRt k
    match rt.waiting with
    | [] => s
    | r :: rest =>
      if s.hodNum k O.hodEnable ≠ 1 ∨ !released (s.hodNum k O.hodReturnRelease) rt.retSeq.toNat (s.hodNum k O.hodRecords) then s
      else
        let a := s.streamAddr (hodCovered k) (s.hodNum k O.hodReturnBase) + 64 * (rt.retSeq.toNat % s.hodNum k O.hodRecords)
        State.writeWaiting n k ((s.setHodRt k { rt with waiting := rest, retSeq := rt.retSeq + 1 }).poke a (r.bytes rt.retSeq.toNat))

/-- A record that no course of its session gave, with the course of the close and LATE (R66); its POSITION, with no token, is open (a
HANDED_OVER record has its own). -/
def State.stampRecord (s : State) (course : W64) (close : Tick) (r : RetRec) : State × RetRec :=
  let late := r.deadline != 0 && Tick.after close r.deadline
  let r := { r with course := course, flags := if late then r.flags ||| 1 else r.flags, deadline := 0 }
  if r.status = 0x2F then (s, r)
  else let d := s.drawNat; (d.2, { r with position := BitVec.ofNat 32 d.1 })

/-- Stamp a list of records. -/
def State.stampAll (s : State) (course : W64) (close : Tick) (l : List RetRec) : State × List RetRec :=
  l.foldl (fun (a : State × List RetRec) r => let x := a.1.stampRecord course close r; (x.1, a.2 ++ [x.2])) (s, [])

/-- Return records marked LATE at a close (R77): those of the sessions, and the refused ones that the close marks. -/
def State.lateAt (s : State) (covered : Bool) (recs : List (Nat × RetRec)) : Nat :=
  let close := (s.streamOf covered).closeT
  let refused := ((List.range 64).map (hodKey covered)).flatMap (fun k => (s.hodRt k).refused)
  (recs.filter (fun e => bit e.2.flags.toNat 0)).length +
    (refused.filter (fun r => bit r.flags.toNat 0 || r.deadline != 0 && Tick.after close r.deadline)).length

/-- One hod at a close: its records become due in the order of R67 and are written as far as they can be. -/
def State.closeHod (s : State) (covered : Bool) (recs : List (Nat × RetRec)) (k : Nat) : State :=
  let rt := s.hodRt k
  let st := s.streamOf covered
  let a := s.stampAll st.course st.closeT rt.rejects
  let b := a.1.stampAll st.course st.closeT rt.refused
  let mine := (recs.filter (fun e => e.1 == k)).map (·.2)
  let due := a.2 ++ sortBy (fun r => r.slot) (mine ++ b.2)
  let s := b.1.setHodRt k { rt with rejects := [], refused := [], waiting := rt.waiting ++ due }
  State.writeWaiting (rt.waiting.length + due.length) k s

/-- Return records of a stream. -/
def State.writeReturns (s : State) (covered : Bool) (recs : List (Nat × RetRec)) : State :=
  ((List.range 64).map (hodKey covered)).foldl (fun t k => t.closeHod covered recs k) s

/-! ## The course record (R77) -/

/-- The course record's bytes. -/
def State.courseRecord (s : State) (covered : Bool) (late : Nat) : List Byte :=
  let st := s.streamOf covered
  let flags := b2n st.late + 2 * b2n st.markerMissing + 4 * b2n (s.clk.mode == .holdover)
  leBytes 8 st.course.toNat ++ leBytes 8 st.nominal.toNat ++ leBytes 8 st.startT.toNat ++ leBytes 8 st.closeT.toNat ++
  leBytes 2 st.sessions.length ++ leBytes 2 st.rows.length ++ leBytes 2 late ++ leBytes 1 st.gangStart.toNat ++ leBytes 1 st.opStart ++
  leBytes 4 (s.wts.copy st.copySlot).epoch.toNat ++ leBytes 4 st.fallbacks ++ leBytes 4 st.unplaced ++ leBytes 4 flags ++ zeros 4 ++
  leBytes 4 (st.course.toNat % 2 ^ 32)

/-- Log the course record; LAYER_PASSED is replaced (07 R219, Table 7.5: a layer numbered 1 to 255 has an entry). -/
def State.logCourse (s : State) (covered : Bool) (late : Nat) : State :=
  let r := s.courseRecord covered late
  let st := s.streamOf covered
  let s := { s with crs := { s.crs with log := ringPush 4096 s.crs.log r } }
  (List.range 255).foldl (fun t i => t.setNum (O.layerPassed i) (SMap.get 0 st.layerPassed (i + 1) % 2 ^ 32)) s

/-! ## Accounting (R270 to R273) -/

/-- Largest remainder (R272): the shares of weights in a measure, in order. -/
def apportion (x : Nat) (ws : List Nat) : List Nat :=
  let total := sumNat ws
  if total = 0 then ws.map (fun _ => 0)
  else
    let q := ws.map (fun w => x * w / total)
    let left := x - sumNat q
    let order := sortBy (fun i => total - x * ws.getD i 0 % total) (List.range ws.length)
    let extra := order.take left
    (List.range ws.length).map (fun i => q.getD i 0 + b2n (extra.contains i))

/-- Weight of a tenant in a window (R271), from the LENGTH that sessions had at the start tick. -/
def State.weightOf (s : State) (covered : Bool) (lengths : SMap Nat) (tenant : Nat) : Nat :=
  sumNat (((s.streamOf covered).rows.filter (fun r => (s.session r.slot).tenant == tenant)).map (fun r => 1024 + SMap.get 0 lengths r.slot)) +
    64 * SMap.get 0 s.ses.movedPages (tenant + 256 * b2n covered)

/-- An accounting record (Table 8.9). -/
def acctBytes (course tenant sessions rows engine hbm sram fabric energy weight : Nat) : List Byte :=
  leBytes 8 course ++ leBytes 1 tenant ++ zeros 1 ++ leBytes 2 sessions ++ leBytes 4 rows ++ leBytes 8 engine ++ leBytes 8 hbm ++ leBytes 8 sram ++
    leBytes 8 fabric ++ leBytes 4 energy ++ leBytes 4 weight ++ zeros 4 ++ leBytes 4 course

/-- Add to a cumulative object of a stream. -/
def State.addCnum (s : State) (covered : Bool) (o : Obj) (n : Nat) : State := s.setCnum covered o ((s.cnum covered o + n) % 2 ^ 64)

/-- Write one tenant's record. -/
def State.acctRecord (s : State) (covered : Bool) (tenant weight : Nat) (m : List Nat) : State :=
  let st := s.streamOf covered
  let mine := st.rows.filter (fun r => (s.session r.slot).tenant == tenant)
  let at_ := fun (i : Nat) => m.getD i 0
  let b := acctBytes st.course.toNat tenant ((mine.map (·.slot)).eraseDups).length mine.length (at_ 0) (at_ 1) (at_ 2) (at_ 3) (at_ 4) weight
  let i := s.cnum covered O.acctIndex
  let s := s.poke (s.streamAddr covered (s.cnum covered O.acctBase) + 64 * (i % s.cnum covered O.acctRecords)) b
  ((((((s.setCnum covered O.acctIndex ((i + 1) % 2 ^ 64)).addCnum covered (O.tenEngineTotal tenant) (at_ 0)).addCnum covered (O.tenHbmTotal tenant) (at_ 1)).addCnum
    covered (O.tenSramTotal tenant) (at_ 2)).addCnum covered (O.tenFabricTotal tenant) (at_ 3)).addCnum covered (O.tenEnergyTotal tenant) (at_ 4))

/-- Accounting of a window. The bytes moved are those this model's accesses count, and a free value for what an implementation moves beside
them (log entry 70). -/
def State.account (s : State) (covered : Bool) (lengths : SMap Nat) : State :=
  let hbm := s.drawNat
  let sram := hbm.2.drawNat
  let fab := sram.2.drawNat
  let s := fab.2
  let e := s.pwr.takeEnergy covered
  let s := { s with pwr := e.2 }
  let engine := if covered then s.ses.engineCov else s.ses.engineOwn
  let moved := if covered then s.ses.movedCov else s.ses.movedOwn
  let ts := (List.range 256).filter (fun t => s.weightOf covered lengths t != 0)
  let ws := ts.map (s.weightOf covered lengths)
  let per := [engine, moved.hbm + hbm.1, moved.sram + sram.1, moved.fabric + fab.1, e.1].map (fun x => apportion x ws)
  let u := (List.range ts.length).foldl (fun (t : State) i =>
    t.acctRecord covered (ts.getD i 0) (ws.getD i 0) (per.map (fun l => l.getD i 0))) s
  let u := if ts.isEmpty then (u.addCnum covered O.unattributedEngine engine).addCnum covered O.unattributedEnergy e.1 else u
  { u with ses := { u.ses with
      engine := 0, engineOwn := if covered then u.ses.engineOwn else 0, engineCov := if covered then 0 else u.ses.engineCov
      movedOwn := if covered then u.ses.movedOwn else {}, movedCov := if covered then {} else u.ses.movedCov
      movedPages := u.ses.movedPages.filter (fun x => decide (x.1 ≥ 256) != covered) } }

/-! ## Pauses and satchels at a close (R260 to R263) -/

/-- Count pages moved for a session's tenant. -/
def State.countMoved (s : State) (x : Session) (n : Nat) : State :=
  let tenant := x.tenant + 256 * b2n x.covered
  { s with ses := { s.ses with movedPages := SMap.set 0 s.ses.movedPages tenant (SMap.get 0 s.ses.movedPages tenant + n) } }

/-- One page of the park segment: what KV_REPACK did not convert is copied; the entry names the far slot. A page that holds a poisoned
word is lost, and its session ends at the next close (09 R299). -/
def State.parkPage (s : State) (p : Nat × Bool × Nat × Nat × W64) : State :=
  let x := s.session p.1
  let r := x.root p.2.1
  let e := r.page p.2.2.1 p.2.2.2.1
  if x.st ≠ .parking ∨ !x.reasons.isEmpty ∨ e.st = 0 ∨ e.far then s
  else
    let b := s.peek (localOf e.addr.toNat) (r.pageBytes e.st)
    let s := s.readBad [(localOf e.addr.toNat, r.pageBytes e.st)]
    let s := if e.st = 2 then s else s.poke (localOf p.2.2.2.2.toNat) b.1
    let s := if b.2 then s.editSession p.1 (fun y => y.because 0x22) else s
    (s.putPage p.1 p.2.1 p.2.2.1 p.2.2.2.1 { e with addr := p.2.2.2.2, far := true, st := if e.st = 2 then 3 else e.st }).countMoved x 1

/-- Sessions whose last page has moved are PARKED (R260, R261). -/
def State.closeParking (s : State) (covered : Bool) : State :=
  let st := s.streamOf covered
  let s := st.parking.foldl State.parkPage s
  ((s.sessionsOf covered).filter (fun e => e.2.st == .parking && e.2.reasons.isEmpty && e.2.slots false == 0)).foldl (fun t e =>
    t.editSession e.1 (fun x => { x with st := .parked, expiry := st.closeT + BitVec.ofNat 48 (t.cnum covered (O.ttl 2)) })) s

/-- Sessions reduced to satchels are SATCHELLED: their pages and REJECT region are free (R262). -/
def State.closeSatchels (s : State) (covered : Bool) : State :=
  ((s.sessionsOf covered).filter (fun e => e.2.st == .satchelling && e.2.reasons.isEmpty)).foldl (fun t e =>
    (t.countMoved e.2 (e.2.slots false + e.2.slots true)).editSession e.1 (fun x =>
      { x with st := .satchelled, main := {}, draft := {}, strip := { x.strip with qbase := 0 } })) s

/-- Satchels of sessions that have had their first course of FEEDING are freed (R263). -/
def State.freeSatchels (s : State) (covered : Bool) : State :=
  ((s.sessionsOf covered).filter (fun e => e.2.st.runnable && e.2.satchel != 0 && (s.streamOf covered).sessions.contains e.1)).foldl (fun t e =>
    t.editSession e.1 (fun x => { x with satchel := 0, satchelCount := 0 })) s

/-- Prompts done: SHIPPING, with a hand-over request (R239, R240); sessions whose targets have all declined ask again. -/
def State.closePrefill (s : State) (covered : Bool) : State :=
  let close := (s.streamOf covered).closeT
  let again := (s.sessionsOf covered).filter (fun e =>
    e.2.st == .shipping && e.2.reasons.isEmpty && !e.2.ship.granted && e.2.ship.target.isNone)
  let done := (s.sessionsOf covered).filter (fun e => e.2.st == .prefill && e.2.reasons.isEmpty && e.2.inputLeft == 0 && e.2.nextToken.isSome)
  let s := again.foldl (fun t e => t.askRound e.1) s
  done.foldl (fun t e =>
    (((t.dropStrip e.1).editSession e.1 (fun x => { x with st := .shipping, resMain := 0, resDraft := 0, ship := { since := close } }))).askRound e.1) s

/-- Sessions of a stream that have a reason to end. -/
def State.ending (s : State) (covered : Bool) : List Nat := ((s.sessionsOf covered).filter (fun e => e.2.endReason.isSome)).map (·.1)

/-- End the sessions whose records gave a reason: pages, strip, satchel and slot are freed (R249). -/
def State.endAll (s : State) (slots : List Nat) : State :=
  slots.foldl (fun t k =>
    let r := (t.session k).endReason.getD 0
    let t := (t.dropStrip k).freeDescriptor k r
    if r = 0x28 ∨ r = 0x29 then t.icxEvent 0x0C3 else t) s

/-! ## The package at a close -/

/-- Close markers to the other bond members (R69). -/
def State.sendMarkers (s : State) (covered : Bool) : State :=
  let st := s.streamOf covered
  ((s.bondOf covered).filter (fun n => n != s.streamNode covered)).foldl (fun t n => t.send n (.closeMarker st.course st.closeT)) s

/-- The mean power of the course (14 R475) and what fallow keeps (R477). -/
def State.closePower (s : State) (covered : Bool) (busy : Nat) : State :=
  let u := s.pwr
  let s := { s with pwr := { u with lastMean := if u.courseTicks = 0 then u.lastMean else u.courseSum / u.courseTicks } }
  let st := s.streamOf covered
  s.fallowClose busy (Tick.since st.closeT st.startT)

/-- A test slot (17 R577): first to a withdrawn core that awaits its test, else to the next core of the rotation. -/
def State.grantTest (s : State) : State :=
  let due := match s.cred.testLast with
    | none => true
    | some t => decide (Tick.since s.clk.tick t ≥ s.num O.selftestInterval)
  let cores := (List.range 384).map (fun g => (g, s.coreAt g))
  if s.num O.selftestEnable ≠ 1 ∨ cores.any (fun c => c.2.st == .test || c.2.forTest) ∨ !due then s
  else
    let began := fun (t : State) => { t with cred := { t.cred with testLast := some t.clk.tick } }
    match cores.find? (fun c => c.2.awaitTest && !c.2.failed && c.2.st == .withdrawn) with
    | some c => began (s.setCore c.1 { c.2 with st := .test })
    | none =>
      let from_ := s.num O.selftestNext
      let order := (List.range 384).map (fun k => (from_ + k) % 384)
      match order.find? (fun g => (s.coreAt g).st == .active && s.crs.gang.getLsbD (g / 96)) with
      | none => s
      | some g => began ((s.setNum O.selftestNext ((g + 1) % 384)).setCore g { s.coreAt g with st := .leaving, leave := true, forTest := true })

/-- LENGTH of every session's main root in the course, as at its start tick. -/
def State.startLengths (s : State) (covered : Bool) : SMap Nat :=
  (s.streamOf covered).sessions.foldl (fun m k => SMap.set 0 m k (s.session k).main.length) []

/-- Close a course: the order of R76, and what the other rules tie to a close. -/
def State.closeCourse (s : State) (covered : Bool) : State :=
  let st := s.streamOf covered
  let lengths := s.startLengths covered
  let busy := s.ses.engine
  let s := s.setStream covered { st with running := false }
  let s := { s with crs := { s.crs with exchangeOpen := false } }
  let s := s.prepare covered (st.course + 1) (s.slotFor s.clk.tick)
  -- 1: the close marker; 2: the return records
  let s := s.sendMarkers covered
  let r := s.settleAll covered
  let ends := r.1.ending covered
  let late := r.1.lateAt covered r.2
  let s := r.1.writeReturns covered r.2
  -- 3: the course record; 4: accounting
  let s := s.logCourse covered late
  let s := (s.closeParking covered).closeSatchels covered
  let ships := s.shipped covered
  let s := ships.foldl (fun t k => t.countMoved (t.session k) (((t.session k).ship.mainRecs ++ (t.session k).ship.draftRecs).length)) s
  let s := s.account covered lengths
  let s := ((s.freeSatchels covered).closePrefill covered).endAll ends
  let s := s.setStream covered { s.streamOf covered with late := false, markerMissing := false, fenceDone := false, parking := [], sealing := [] }
  -- 5: the mirror stream; then the closing records of shipments
  let s := (s.mirrorStep covered).closeCommit covered
  let s := ships.foldl (fun t k => if (t.session k).st = .shipping then t.closeShipment k else t) s
  let s := ((s.closePower covered busy).grantTest).retireOutgoing
  match s.mir.covered with
  | some n => if covered && s.handbackDue then s.handback n else s.planNext covered
  | none => s.planNext covered

/-- COURSE_CLOSE once the final fence has retired. -/
def courseClose (s : State) (covered : Bool) : State :=
  let st := s.streamOf covered
  if s.pkg.st.hubRuns && st.running && st.fenceDone then s.closeCourse covered else s

/-- COURSE_CLOSE. -/
def execCourseClose (covered : Bool) (s : State) : Host.Outcome State Fault Refusal :=
  .next (courseClose s covered)

end Sys2Proof.Machine
end

