-- ==== Sys2Proof/Machine/Mirror.lean ====
section
/-! DEFINITION. The mirror engine: incoming records, beats, takeover, rejoining the bond, lost shards, restore
(13_mirror_pair_and_failover.md R429 to R452). -/

namespace Sys2Proof.Machine

/-! ## Reading records (08 Table 8.3, 05 Table 5.3, Table 13.2) -/

/-- The session state of a code. -/
def stateOfCode (n : Nat) : SessState :=
  [SessState.free, .prefill, .shipping, .active, .held, .parking, .parked, .satchelling, .satchelled, .feeding].getD n .free

/-- A root's 32 bytes; its pages are those already held. -/
def readRoot (b : List Byte) (old : Root) : Root :=
  let g := u16 b 0x0E
  if u16 b 0x0A = 0 then {}
  else {
    length := u32 b 0, setEnd := u32 b 4, scaffold := u8 b 8, form := u8 b 9 == 1, layers := u16 b 0x0A, ptPages := u16 b 0x0C
    heads := g / 256 + 1, dim := (g / 64 % 4 + 1) * 64, ptBase := BitVec.ofNat 64 (u64 b 0x10), pages := old.pages }

/-- A descriptor's 256 bytes. A descriptor holds no run list: input lies in one run at INPUT_ADDR. A session that is not in PREFILL
holds its NEXT_TOKEN, but in FEEDING only when the field is not 0; it was held from ACTIVE. -/
def readDescriptor (b : List Byte) (old : Session) : Session :=
  let st := stateOfCode (u8 b 0x30)
  let d := u16 b 0x36
  let next := u32 b 0x38
  let left := u32 b 0x88
  let input : W64 := BitVec.ofNat 64 (u64 b 0x80)
  { old with
    tag := BitVec.ofNat 64 (u64 b 0), seed := BitVec.ofNat 64 (u64 b 8), deadline := BitVec.ofNat 48 (u64 b 0x10)
    lastCourse := BitVec.ofNat 64 (u64 b 0x18), expiry := BitVec.ofNat 48 (u64 b 0x20), waitSince := BitVec.ofNat 48 (u64 b 0x28)
    st := st, heldFrom := .active, cls := u8 b 0x31, tenant := u8 b 0x32, hod := u8 b 0x33, profile := u8 b 0x34, draftMax := u8 b 0x35
    depth := d % 16, dry := d / 16 % 4, full := d / 64 % 4, idle := d / 256 % 64, probe := bit d 14
    nextToken := if st = .prefill ∨ (st = .feeding ∧ next = 0) then none else some (BitVec.ofNat 32 next)
    maxLeft := u32 b 0x3C, main := readRoot (slice b 0x40 32) old.main, draft := readRoot (slice b 0x60 32) old.draft
    inputAddr := input, inputLeft := left, segs := if left = 0 then [] else [(input, left)], nextAfter := 0, posOffset := u32 b 0x8C
    satchel := BitVec.ofNat 64 (u64 b 0x98), generated := u32 b 0xA0, late := bit (u8 b 0xA5) 0 }

/-- Where a page of the twin is kept here: at its place in the cover area, or in a slot the control cores give it. -/
def State.placePage (s : State) (x : Session) (n : Nat) (a : W64) (twin : Bool) : W64 × State :=
  match (if twin then s.coverAddr (localOf a.toNat) else none) with
  | some c => (BitVec.ofNat 64 c, s)
  | none => s.newSlot twin x.tenant false n (x.runs s.rejectBytes)

/-- Apply a KV_PAGE record: entry and bytes. -/
def State.applyPage (s : State) (x : Session) (b : List Byte) (twin : Bool) : State × Session :=
  let draft := u8 b 0 == 1
  let key := u16 b 1 * 4096 + u32 b 3
  let r := x.root draft
  let held := (SMap.get {} r.pages key).addr
  let from_ : W64 := BitVec.ofNat 64 (u64 b 7)
  let p := if held ≠ 0 then (held, s) else s.placePage x (b.length - 23) from_ twin
  let e : PageEntry := { addr := p.1, rotBase := BitVec.ofNat 32 (u32 b 15), st := u8 b 19, far := u8 b 20 == 1 }
  (p.2.poke (localOf p.1.toNat) (b.drop 23), x.setRoot draft { r with pages := SMap.set {} r.pages key e })

/-- Apply one row of a KV_ROWS record: an open page is given to it where there is none. -/
def State.applyRow (s : State) (x : Session) (twin draft : Bool) (layer pos : Nat) (row : List Byte) : State × Session :=
  let r := x.root draft
  let key := layer * 4096 + pos / 64
  let e := SMap.get {} r.pages key
  let p := if e.st = 0 then
      let a := s.newSlot twin x.tenant false r.openBytes (x.runs s.rejectBytes)
      (({ addr := a.1, rotBase := BitVec.ofNat 32 (64 * (pos / 64)), st := 1 } : PageEntry), a.2)
    else (e, s)
  (p.2.poke (localOf p.1.addr.toNat + pos % 64 * r.tr) row, x.setRoot draft { r with pages := SMap.set {} r.pages key p.1 })

/-- Apply one record to an image (R431). -/
def State.applyRecord (s : State) (m : MirrorImage) (r : MirrorRec) (twin : Bool) : State × MirrorImage :=
  let x := SMap.get {} m.sessions r.slot
  let put := fun (y : Session) => { m with sessions := SMap.set {} m.sessions r.slot y }
  match r.kind.toNat with
  | 0x01 => (s, put (readDescriptor r.body x))
  | 0x02 =>
    let draft := u8 r.body 0 == 1
    let n := u32 r.body 7
    let tr := (x.root draft).tr
    let y := (List.range n).foldl (fun (a : State × Session) i =>
      a.1.applyRow a.2 twin draft (u16 r.body 1) (u32 r.body 3 + i) (slice r.body (11 + i * tr) tr)) (s, x)
    (y.1, put y.2)
  | 0x03 => let y := s.applyPage x r.body twin; (y.1, put y.2)
  | 0x04 =>
    let a := s.newSlot twin x.tenant true 16384
    (a.2.poke (localOf a.1.toNat) r.body, put { x with satchel := a.1, satchelCount := u16 r.body 0x0C })
  | 0x05 => (s, { m with sessions := SMap.del m.sessions r.slot })
  | 0x06 => (s, { m with nums := (List.range (r.body.length / 12)).foldl (fun t i =>
      let k := u32 r.body (12 * i); SMap.set (dfltOf k) t k (u64 r.body (12 * i + 4))) m.nums })
  | 0x07 => (s, { m with sched := r.body })
  | _ => (s, m)

/-- A CLOSE record checks against the records before it. -/
def MirrorCloseRec.ok (c : MirrorCloseRec) (l : List MirrorRec) : Bool := c.count == l.length && c.fold == foldOf l

/-- MIRROR: a record waits for its CLOSE. -/
def mirror (s : State) (r : MirrorRec) : State := { s with mir := { s.mir with incoming := s.mir.incoming ++ [r] } }

/-- MIRROR_CLOSE: the records are applied and acknowledged, or discarded (R431). -/
def mirrorClose (s : State) (c : MirrorCloseRec) : State :=
  let l := s.mir.incoming
  let s := { s with mir := { s.mir with incoming := [] } }
  if MirrorCloseRec.ok c l then
    let a := l.foldl (fun (a : State × MirrorImage) r => a.1.applyRecord a.2 r true) (s, s.mir.image)
    ({ a.1 with mir := { a.1.mir with image := a.2, twinClosed := some c.course, twinMembers := c.members, twinGreatest := c.greatest } }).send
      s.twinNode (.mirrorAck c.course)
  else s

/-- MIRROR_ACK: of the full image, of a restored image, or of a close (R431, R432, R452). Records are acknowledged in the order in which
they went out. -/
def mirrorAck (s : State) (course : W64) : State :=
  match s.mir.awaiting.find? (fun x => x.course == course) with
  | none => s
  | some x =>
    let s := { s with mir := { s.mir with awaiting := s.mir.awaiting.erase x } }
    match s.mir.st, s.mir.restore with
    | .syncing, _ => if x.image then (s.setMirror .mirroring).commitUpTo x.covered course else s
    | .mirroring, _ => s.commitUpTo x.covered course
    | .restoring, some r =>
      if x.image then
        let r := { r with acks := r.acks + 1, lastAck := s.clk.tick, step := if r.acks = 1 then 4 else r.step }
        { s with mir := { s.mir with restore := some r } }
      else if r.acks < 2 then s else s.commitUpTo x.covered course
    | _, _ => s

/-! ## Beats (R429, R435, R436) -/

/-- The mirror ranges in use (R429). -/
def State.mirrorRanges (s : State) : List W64 := (List.range (s.num O.rangeCount)).map (fun i => BitVec.ofNat 64 (s.num (O.mirrorRange i)))

/-- Pages of some mirror ranges. -/
def rangePages (l : List W64) : Nat := sumNat (l.map (fun v => bits v.toNat 35 18))

/-- BEAT_SEND, every BEAT_PERIOD ticks. The beat carries the ranges and COVER_PAGES, for the exchange of R429 (log entry 54). -/
def beatSend (s : State) : State :=
  if s.pkg.st.hubRuns && s.clk.counting && s.lnk.plumb.ident.isSome && s.clk.tick.toNat % s.num O.beatPeriod == 0 then
    s.send s.twinNode (.beat s.clk.tick s.pkg.st.code s.mirrorRanges (BitVec.ofNat 32 (s.num O.coverPages)))
  else s

/-- READY or later, of the states that serve. -/
def codeReady (code : Nat) : Bool := decide (4 ≤ code) && decide (code ≤ 8)

/-- Mirroring begins: with M up and both packages in READY or later, the range sizes are compared and the full image goes out (R429,
R432). A cover area smaller than the twin's ranges is a fault of the package that holds it; neither mirrors then. -/
def State.beginMirror (s : State) (code : Nat) (cover : W32) : State :=
  if s.mir.st != .none || s.mir.sizeBad || !codeReady code || !codeReady s.pkg.st.code || !s.portUp 18 then s
  else if s.num O.coverPages < rangePages s.mir.twinRanges then ({ s with mir := { s.mir with sizeBad := true } }).raise srcMirror 0 0x70 1 0
  else if cover.toNat < rangePages s.mirrorRanges then { s with mir := { s.mir with sizeBad := true } }
  else
    (s.setMirror .syncing).sendImage false

/-- A restore goes on (R452): the header once the package being restored is READY, the images once every granule has been served. -/
def State.restoreStep (s : State) (code : Nat) : State :=
  match s.mir.restore, s.mir.covered with
  | some r, some _ =>
    if s.mir.st != .restoring then s
    else if r.step = 1 ∧ codeReady code then
      let c := s.liveCopy
      ({ s with mir := { s.mir with restore := some { r with step := 2 } } }).sendM (.restore (.header c.epoch c.digest r.own r.twin c.layout))
    else if r.step = 2 ∧ r.fetched ≥ r.total then
      let s := { s with mir := { s.mir with restore := some { r with step := 3 } } }
      (s.sendImage false).sendImage true
    else s
  | _, _ => s

/-- BEAT from the twin. -/
def beat (s : State) (_tick : Tick) (state : Nat) (ranges : List W64) (cover : W32) : State :=
  let missed := match s.mir.lastBeat with
    | none => 0
    | some t => Tick.since s.clk.tick t / s.num O.beatPeriod - 1
  let s := s.bump O.beatsMissed 32 missed
  let s := { s with mir := { s.mir with
    lastBeat := some s.clk.tick, silent := false, twinFailed := s.mir.twinFailed && s.mir.covered.isSome
    twinRanges := if s.mir.covered.isSome then s.mir.twinRanges else ranges } }
  (s.beginMirror state cover).restoreStep state

/-! ## Failure and takeover (R436 to R441) -/

/-- The twin is declared failed (R436): takeover, or the path of R448. -/
def State.declareFailed (s : State) : State :=
  let f := s.twinNode
  let s := { s with mir := { s.mir with twinFailed := true, incoming := [], awaiting := [], imageDue := [] } }.icxEvent 0x003
  let takes := (s.pkg.st == .ready || s.pkg.st == .serving) && s.pkg.request != some .draining && s.mir.st == .mirroring &&
    s.liveCopy.twin.isSome && s.mir.committed.isSome
  if s.mir.covered.isSome then
    -- the covered node's replacement has failed: its shard is still covered here, and the restore is over
    { s with mir := { s.mir with st := .covering, restore := none } }
  else if takes then
    let seq := s.mir.aliasSeq + 1
    let s := s.send f (.aliasSet f (some s.node) seq)
    let s := { s.setAlias f (some s.node) with pkg.declared := true }
    let s := (s.fabricNodes.filter (fun n => n != s.node && n != f)).foldl (fun t n => t.send n (.aliasSet f (some t.node) seq)) s
    let s := { s with mir := { s.mir with
      st := .covering, aliasSeq := seq, takeover := some { failed := f, declared := s.clk.tick, lastAck := s.clk.tick, seq := seq } } }
    (s.bump O.takeovers).commitUpTo false (BitVec.allOnes 64)
  else
    let s := if s.mir.st = .none then s else { s with mir := { s.mir with st := .uncovered } }
    (s.commitUpTo false (BitVec.allOnes 64)).shardLost f s.twinBond true

/-- BEAT_LOSS: no beat for BEAT_LOSS ticks. -/
def beatLoss (s : State) : State :=
  match s.mir.lastBeat with
  | none => s
  | some t =>
    if s.mir.twinFailed || !s.pkg.st.hubRuns || decide (Tick.since s.clk.tick t < s.num O.beatLoss) then s
    else if s.clk.mode = .locked then s.declareFailed
    else if s.clk.mode = .holdover ∧ !s.mir.silent then ({ s with mir := { s.mir with silent := true } }).raise srcMirror 0 0x71 1 s.twinNode.toNat
    else s

/-- FAIL_NOTICE from the twin. -/
def failNotice (s : State) (node : Node) (_kind : Byte) : State :=
  if node = s.twinNode ∧ s.pkg.st.hubRuns ∧ !s.mir.twinFailed then s.declareFailed else s

/-- ALIAS_SET at this router (R439). -/
def aliasSet (s : State) (src failed : Node) (cover : Option Node) (seq : W32) : State :=
  if failed = s.node ∧ cover.isSome then s.raise srcMirror 0 0x72 3 s.node.toNat
  else
    let s := (s.setAlias failed cover).send src (.aliasAck seq)
    match failed == s.node, s.mir.restore with
    | true, some r => { s with mir := { s.mir with restore := some { r with lastAck := s.clk.tick } } }
    | _, _ => s

/-- ALIAS_ACK. -/
def aliasAck (s : State) (src : Node) (seq : W32) : State :=
  match s.mir.takeover with
  | none => s
  | some t =>
    if seq ≠ t.seq ∨ src = t.failed ∨ t.acks.contains src then s
    else { s with mir := { s.mir with takeover := some { t with acks := t.acks ++ [src], lastAck := s.clk.tick } } }

/-- The quiet period of R440 is over. -/
def State.quietOver (s : State) (t : Takeover) : Bool :=
  let others := s.fabricNodes.filter (fun n => n != s.node && n != t.failed)
  let wait := t.declared + BitVec.ofNat 48 (s.num O.aliasWait)
  let a := if others.all t.acks.contains && Tick.atLeast wait t.lastAck then t.lastAck else wait
  Tick.atLeast s.clk.tick (a + BitVec.ofNat 48 (2 * s.num O.loadBound))

/-- A hod of an image takes up from its committed state (R441 step 4). -/
def State.importHod (s : State) (k : Nat) (sched : List Byte) : State :=
  let h := k % 64
  let adm := u32 sched (16 + 8 * h)
  let seq := u32 sched (20 + 8 * h)
  let s := (s.setHodNum k O.hodConsumerIndex adm).setHodNum k O.hodReturnCommitted seq
  s.setHodRt k { s.hodRt k with retSeq := BitVec.ofNat 32 seq, admitted := BitVec.ofNat 32 adm, tornSince := none }

/-- A session of an image with places of its own here: page tables, strip and, where its profile verifies in REJECT, a region for that;
SCAFFOLD is 0. -/
def State.houseSession (s : State) (x : Session) : Session × State :=
  let rej := s.needsReject x.covered x.profile x.draftMax
  let p := s.newPlaces x.covered x.tenant x.main x.draft rej
  let re := fun (r : Root) (base : W64) => if r.layers = 0 then r else { r with ptBase := base, scaffold := 0 }
  ({ x with main := re x.main p.1.main, draft := re x.draft p.1.draft, stripAddr := p.1.strip, strip := { qbase := p.1.reject, reject := rej } }, p.2)

/-- Bring one session of the image into a free slot, or end it with SHARD_LOST (R441). -/
def State.importSession (s : State) (x : Session) : State :=
  let x := { x with covered := true, strip := {}, stripAddr := 0 }
  match (if x.slots false ≤ s.nearFree then s.freeSlot else none) with
  | none =>
    let k := hodKey true x.hod
    let rt := s.hodRt k
    s.setHodRt k { rt with refused := rt.refused ++ [{ tag := x.tag, status := 0x21, flags := 2 }] }
  | some slot =>
    let p := s.houseSession x
    let x := p.1
    (((p.2.putSession slot x).putStrip slot x.strip).pokePages x.main).pokePages x.draft

/-- Import the twin's image (R441): objects, hods, then sessions, class A first and in ascending slot. -/
def State.importImage (s : State) (f : Node) : State :=
  let m := s.mir.image
  let s := { s with mir := { s.mir with covered := some f, coverNums := m.nums } }
  let s := (List.range 64).foldl (fun t h => t.importHod (64 + h) m.sched) s
  let s := s.setCnum true O.acctIndex (u64 m.sched (16 + 512))
  (([0, 1, 2, 3].flatMap (fun c => (m.sessions.filter (fun e => e.2.cls == c && e.2.st != .free)))).map (·.2)).foldl State.importSession s

/-- A package that has left READY and SERVING, or holds no LIVE copy, takes over no longer: the twin's shard is unavailable (00 R15;
10 R324; R448). -/
def State.abandonTakeover (s : State) (f : Node) : State :=
  let s := { s with mir := { s.mir with takeover := none, covered := none, coverNums := [] } }
  (s.setMirror .uncovered).dropCovered.shardLost f s.twinBond true

/-- A takeover may still end in COVERING. -/
def State.mayCover (s : State) : Bool := edge s.pkg.st .covering && s.hasLive

/-- TAKEOVER_QUIET_END: the image is imported (R440, R441). -/
def takeoverQuietEnd (s : State) : State :=
  match s.mir.takeover with
  | none => s
  | some t =>
    if t.imported || !s.quietOver t then s
    else if !s.mayCover then s.abandonTakeover t.failed
    else (s.importImage t.failed).prepare true ((s.mir.twinClosed.getD 0) + 1) (s.slotFor s.clk.tick) |> fun u =>
      { u with mir := { u.mir with takeover := some { t with imported := true, expect := 0 } } }

/-! ## Rejoining the bond (R444 to R447) -/

/-- The greatest course the covered stream's first follows: of the answers and of the committed CLOSE. -/
def State.lastOfBond (s : State) (t : Takeover) : Nat :=
  t.answers.foldl (fun a x => Nat.max a x.2.1.toNat) (s.mir.twinClosed.getD 0).toNat

/-- Every answer is here: the first covered course (R446). -/
def State.planCovered (s : State) (t : Takeover) : State :=
  let n := s.lastOfBond t + 1
  let me := (s.indexIn true t.failed).getD 0
  let all := t.answers.all (fun x => x.2.2.getLsbD me)
  let st := s.streamOf true
  let s := s.setStream true { st with
    course := BitVec.ofNat 64 (n - 1), fresh := false, sessionsFrom := BitVec.ofNat 64 (if all then n else n + 1), closeT := s.clk.tick }
  s.setNominal true (BitVec.ofNat 64 n) (Tick.grid (s.clk.tick + BitVec.ofNat 48 (s.num O.closeLead)) (s.num O.courseGrid))

/-- COVERING_ENTER: the imported sessions are served beside the package's own; REJOIN goes to each of the covered node's bond members
(R446). -/
def coveringEnter (s : State) : State :=
  match s.mir.takeover with
  | none => s
  | some t =>
    if !t.imported || s.pkg.st == .covering then s
    else if !s.mayCover then s.abandonTakeover t.failed
    else
      let fromReady := s.pkg.st == .ready
      let s := s.transition .covering
      if s.pkg.st != .covering then s
      else
        let s := s.icxEvent 0x003
        let s := if fromReady then s.openStream false else { s with crs := { s.crs with own := { s.crs.own with history := [] } } }
        let closed := s.mir.twinClosed.getD 0
        let others := (s.bondOf true).filter (fun n => n != t.failed)
        let s := s.setStream true { fresh := true, closeT := s.clk.tick, members := s.mir.twinMembers, sincePause := 100, next := closed + 1 }
        let s := s.newWindow true
        let s := others.foldl (fun u n => u.send n (.rejoin t.failed closed s.mir.twinMembers)) s
        let t := { t with expect := others.length }
        let s := { s with mir := { s.mir with takeover := some t } }
        if others.isEmpty then s.planCovered t else s

/-- The course a stream answers a REJOIN with: its last closed course, the committed one when the covered stream has run none. -/
def State.lastClosed (s : State) (covered : Bool) : W64 :=
  let st := s.streamOf covered
  if st.fresh then (if covered then s.mir.twinClosed.getD 0 else 0) else if st.running then st.course - 1 else st.course

/-- Answer a REJOIN of a bond member and send again what is retained for it (R444). -/
def State.answerRejoin (s : State) (covered : Bool) (n : Node) : State :=
  if (s.indexIn covered n).isNone then s
  else
    let st := s.streamOf covered
    let s := s.setStream covered { st with rejoins := st.rejoins ++ [n] }
    let s := s.send n (.rejoin (s.streamNode covered) (s.lastClosed covered) st.members)
    ((s.mir.retained.filter (fun r => r.covered == covered && r.dest == n)).map (·.body)).foldl (fun t b => t.send n b) s

/-- REJOIN: an answer to this package's own, or a member's that is answered. -/
def rejoin (s : State) (identity : Node) (closed : W64) (members : W64) : State :=
  let answered := fun (t : Takeover) => t.answers.any (fun a => a.1 == identity)
  match s.mir.takeover with
  | some t =>
    if s.pkg.st == .covering && (s.indexIn true identity).isSome && decide (t.answers.length < t.expect) && !answered t then
      let t := { t with answers := t.answers ++ [(identity, closed, members)] }
      let st := s.streamOf true
      let s := { s.setStream true { st with rejoins := st.rejoins ++ [identity] } with mir := { s.mir with takeover := some t } }
      let s := if t.answers.length = t.expect then s.planCovered t else s
      s.answerRejoin false identity
    else
      let s := s.answerRejoin false identity
      if s.pkg.st == .covering then s.answerRejoin true identity else s
  | none => s.answerRejoin false identity

/-! ## Lost shards (R448 to R450) -/

/-- A stand-in for a grant of member x that has not come in the running course: applied once, as x's own would be (R445, R449). -/
def State.standGrant (s : State) (covered : Bool) (course : W64) (sender : Node) (no counter : Nat) : State :=
  match s.firstTime covered course sender no with
  | none => s
  | some t => t.grants [{ covered := covered, odd := oddOf course, counter := counter, amount := 1, cause := none }]

/-- Take an empty marker in place of every transfer and grant still awaited from member x in the course that runs. The counters are
those of the package's own instances of the same kinds: every member runs one template (log entry 32). -/
def State.standIns (s : State) (covered : Bool) (x : Nat) (sender : Node) : State :=
  let st := s.streamOf covered
  let course := st.course
  let odd := oddOf course
  let me := (s.indexIn covered (s.streamNode covered)).getD 0
  let t := s.templ covered odd
  t.all.foldl (fun (u : State) i =>
    let d := i.2.1
    match d.kind.toNat with
    | 0x06 =>
      if d.p0.toNat ≠ me then u
      else (List.range d.p3.toNat).foldl (fun v k =>
        match holderSlot (v.tableRow covered odd d.h3 i.2.2 (d.p2.toNat + k)) me with
        | none => v
        | some slot =>
          let m : ExpertMsg := {
            course := course, inst := BitVec.ofNat 20 i.1, layer := t.layerOf (handleOf d.h0 i.2.2), expert := slot, source := BitVec.ofNat 6 x
            counter := BitVec.ofNat 18 (d.p1.toNat + slot), rows := [] }
          if v.eng.staged.any (fun y => y.1 == covered && y.2.course == course && y.2.layer == m.layer && y.2.expert == slot && y.2.source == m.source) then v
          else expertTransfer v covered sender m) u
    | 0x07 => if d.p0.toNat = x then
        u.standGrant covered course sender (arrivalNo (BitVec.ofNat 20 i.1) (t.layerOf (handleOf d.h1 i.2.2)) (64 + d.p2.toNat % 64)) d.p1.toNat else u
    | 0x1A => u.standGrant covered course sender (arrivalNo (BitVec.ofNat 20 i.1) 0 255) d.p0.toNat
    | 0x1B => if d.p0.toNat = 1 then u.standGrant covered course sender (arrivalNo (BitVec.ofNat 20 i.1) 0 255) d.p1.toNat else u
    | _ => u) s

/-- R449 on one stream. -/
def State.dropMember (s : State) (covered : Bool) (n : Node) : State :=
  match s.indexIn covered n with
  | none => s
  | some x =>
    let mask := s.cnum covered O.holderAvailable
    let s := if bit mask x then s.setCnum covered O.holderAvailable (mask - 2 ^ x) else s
    let st := s.streamOf covered
    let s := s.setStream covered { st with members := st.members &&& ~~~ (BitVec.ofNat 64 (2 ^ x)) }
    let hit := (st.placedOn.filter (fun p => p.2 == x)).map (·.1)
    let s := if st.running then (s.standIns covered x n).endSessions (fun k y => y.covered == covered && hit.contains k) 0x21 else s
    s.planNext covered

/-- SHARD_DOWN for a node. -/
def shardDown (s : State) (node : Node) : State :=
  let s := (s.icxEvent 0x004).dropMember false node
  if s.pkg.st == .covering then s.dropMember true node else s

/-- STALL_LIMIT on a member that has sent neither a marker for the previous course nor a REJOIN (R450). -/
def stallLimit (s : State) (member : Node) : State :=
  let stalled := fun (covered : Bool) =>
    let st := s.streamOf covered
    st.running && decide (Tick.since s.clk.tick st.startT ≥ s.num O.stallLimit) && (s.needed covered).contains member &&
      !st.markers.any (fun m => m.node == member && m.course + 1 == st.course) && !st.rejoins.contains member
  let s' := if stalled false then s.dropMember false member else s
  if s.pkg.st == .covering && stalled true then s'.dropMember true member else s'

/-! ## Restore (R452) -/

/-- A write of 1 to RESTORE_START. -/
def State.restoreWrite (s : State) : Nat × State :=
  match s.mir.covered with
  | none => (Err.state, s)
  | some n =>
    let p := s.port 18
    let held := s.lnk.aliases.any (fun a => a.1 == n)
    if s.pkg.st ≠ .covering then (Err.state, s)
    else if !(p.st == .active && p.peerPhase == 2 && held) then (Err.noTwin, s)
    else
      let c := s.liveCopy
      let parts := c.mirrored.partSizes
      let s := s.setMirror .restoring
      let s := { s with mir := { s.mir with
        restore := some { step := 1, epoch := c.epoch, digest := c.digest, own := parts.1, twin := parts.2, total := (parts.1 + parts.2) / 256 } } }
      let b := s.lnk.plumb
      let standby := match b.standby with | some x => x.toNat * 16384 | none => 32
      let w := payload96 [(b.tag.toNat, 48), (s.clk.master.toNat, 31), (standby, 0), (s.clk.epoch.toNat, 6)]
      (Err.ok, s.sendCtl 18 ctFabric w)

/-- The granule after one: the own part first. -/
def Restore.after (r : Restore) (part : Bool) (off : Nat) : Option (Bool × Nat) :=
  if !part && decide (off + 256 < r.own) then some (false, off + 256)
  else if !part then (if r.twin > 0 then some (true, 0) else none)
  else if off + 256 < r.twin then some (true, off + 256) else none

/-- A segment as it is read back out of a part, n bytes at an address: the chunk it was relocated from. -/
def State.segmentAt (s : State) (at_ n : Nat) (l : TemplateLayout) (base size : Nat) : Segment :=
  { bytes := mapAddrs l (s.hbmGet at_ n).1 (unrelocate base size), lay := l }

/-- Slot 0 is filled: its templates are read back out of its own part, and it becomes READY, or LIVE under R324 (10). -/
def State.restoreCopy (s : State) (r : Restore) : State :=
  let c := s.wts.k0
  let l := r.lay
  let own := s.areaBase c.own
  let at_ := own + ({ c with placed := l.placed } : Copy).templateBase
  let len := fun (x : Option (Nat × TemplateLayout)) => (x.map (·.1)).getD 0
  let c := { c with
    st := (if s.hasLive then .ready else .live : CopyState), placed := l.placed, vocab := l.vocab, layers := l.layers, geometry := l.geometry
    draftLayers := l.draftLayers, draftGeometry := l.draftGeometry
    ownSeg := l.own.map (fun x => s.segmentAt at_ x.1 x.2 own r.own)
    draftSeg := l.draft.map (fun x => s.segmentAt (at_ + len l.own) x.1 x.2 own r.own)
    twinSeg := l.twin.map (fun x => s.segmentAt (at_ + len l.own + len l.draft) x.1 x.2 (s.areaBase c.twin) r.twin) }
  { s with wts := { s.wts with k0 := s.withTemplates c } }

/-- Ask for a granule. -/
def State.askGranule (s : State) (r : Restore) (g : Bool × Nat) : State :=
  s.sendM (.twinFetch r.epoch g.1 (s.areaBase s.wts.k0.own) (s.areaBase s.wts.k0.twin) g.2)

/-- The package takes up its own identity's sessions, hods and course numbering (R452 step 6). -/
def State.takeBack (s : State) (course : W64) : State :=
  let m := s.mir.restored
  let s := { s with mir := { s.mir with restored := {}, restoring := [] } }
  let s := m.nums.foldl (fun t e => { t with dict := { t.dict with nums := SMap.set (dfltOf e.1) t.dict.nums e.1 e.2 } }) s
  let s := (List.range 64).foldl (fun t h => t.importHod h m.sched) s
  let s := s.setNum O.acctIndex (u64 m.sched (16 + 512))
  let s := m.sessions.foldl (fun (t : State) e =>
    if e.2.st = SessState.free then t
    else
      let p := t.houseSession { e.2 with covered := false }
      let x := p.1
      (((p.2.putSession e.1 x).putStrip e.1 x.strip).pokePages x.main).pokePages x.draft) s
  let s := (s.transition .serving).icxEvent 0x003
  let s := s.setStream false { s.crs.own with course := course, fresh := false, closeT := s.clk.tick, members := BitVec.allOnes 64, sincePause := 100 }
  ((s.newWindow false).prepare false (course + 1) (s.slotFor s.clk.tick)).planNext false

/-- RESTORE at the package being restored. -/
def restore (s : State) (m : RestoreMsg) : State :=
  match m with
  | .header epoch digest own twin lay =>
    let r : Restore := { step := 2, epoch := epoch, digest := digest, own := own, twin := twin, lay := lay, total := (own + twin) / 256 }
    let free := s.freeAreas
    let a := s.roomy free own
    let b := s.roomy (free.filter (fun i => some i != a)) twin
    let s := { s with
      wts := { s.wts with k0 := { st := .loading, epoch := epoch, digest := digest, own := a, twin := b } }
      mir := { s.mir with restore := some r } }
    if r.total = 0 then s.restoreCopy r else s.askGranule r (if own > 0 then (false, 0) else (true, 0))
  | .granule part off bytes =>
    match s.mir.restore with
    | none => s
    | some r =>
      let base := s.areaBase (if part then s.wts.k0.twin else s.wts.k0.own)
      let s := s.hbmPut (base + off) (fit 256 bytes) (mkTag s.oddNow 0)
      let r := { r with fetched := r.fetched + 1 }
      let s := { s with mir := { s.mir with restore := some r } }
      match r.after part off with
      | some g => s.askGranule r g
      | none => s.restoreCopy r
  | .image r => { s with mir := { s.mir with restoring := s.mir.restoring ++ [r] } }
  | .imageClose c =>
    let l := s.mir.restoring
    let s := { s with mir := { s.mir with restoring := [] } }
    if MirrorCloseRec.ok c l then
      let a := l.foldl (fun (a : State × MirrorImage) r => a.1.applyRecord a.2 r false) (s, s.mir.restored)
      ({ a.1 with mir := { a.1.mir with restored := a.2 } }).send s.twinNode (.mirrorAck c.course)
    else s
  | .handback course =>
    match s.mir.restore with
    | none => s
    | some r => ({ s with mir := { s.mir with restore := some { r with handback := some s.clk.tick, lastAck := s.clk.tick } } }).takeBack course

/-- HANDBACK_QUIET_END at the restored package: from here it serves requests to its identity (R452). -/
def handbackQuietEnd (s : State) : State :=
  match s.mir.restore with
  | none => s
  | some r =>
    if r.handback.isNone || decide (Tick.since s.clk.tick r.lastAck < 2 * s.num O.loadBound) then s
    else { s with mir := { s.mir with restore := none }, fab := { s.fab with readyAt := s.us } }

/-- TWIN_FETCH. A granule served to the package being restored counts towards its restore, and is carried as a RESTORE
packet (Table 13.1). -/
def twinFetch (s : State) (port : Port) (src : Node) (epoch : W32) (part : Bool) (ownBase twinBase off : Nat) : State :=
  match s.mir.st, s.mir.restore with
  | .restoring, some r =>
    match s.fetched port.val src epoch part ownBase twinBase off with
    | some g =>
      let r := { r with fetched := r.fetched + 1 }
      let t := { s.bump O.twinFetchesServed with mir := { (s.bump O.twinFetchesServed).mir with restore := some r } }
      ((t.setNum O.restoreProgress (if r.total = 0 then 1000 else Nat.min 1000 (r.fetched * 1000 / r.total))).sendM (.restore (.granule part off g)))
    | none => s.send src (.twinData none)
  | _, _ => s.serveFetch port.val src epoch part ownBase twinBase off

/-! ## The commands -/

/-- MIRROR. -/
def execMirror (r : MirrorRec) (s : State) : Host.Outcome State Fault Refusal :=
  .next (mirror s r)
/-- MIRROR_CLOSE. -/
def execMirrorClose (r : MirrorCloseRec) (s : State) : Host.Outcome State Fault Refusal :=
  .next (mirrorClose s r)
/-- MIRROR_ACK. -/
def execMirrorAck (course : W64) (s : State) : Host.Outcome State Fault Refusal :=
  .next (mirrorAck s course)
/-- BEAT_SEND. -/
def execBeatSend (s : State) : Host.Outcome State Fault Refusal :=
  .next (beatSend s)
/-- BEAT_LOSS. -/
def execBeatLoss (s : State) : Host.Outcome State Fault Refusal :=
  .next (beatLoss s)
/-- FAIL_NOTICE. -/
def execFailNotice (node : Node) (kind : Byte) (s : State) : Host.Outcome State Fault Refusal :=
  .next (failNotice s node kind)
/-- ALIAS_SET. -/
def execAliasSet (src failed : Node) (cover : Option Node) (seq : W32) (s : State) : Host.Outcome State Fault Refusal :=
  .next (aliasSet s src failed cover seq)
/-- ALIAS_ACK. -/
def execAliasAck (src : Node) (seq : W32) (s : State) : Host.Outcome State Fault Refusal :=
  .next (aliasAck s src seq)
/-- TAKEOVER_QUIET_END. -/
def execTakeoverQuietEnd (s : State) : Host.Outcome State Fault Refusal :=
  .next (takeoverQuietEnd s)
/-- COVERING_ENTER. -/
def execCoveringEnter (s : State) : Host.Outcome State Fault Refusal :=
  .next (coveringEnter s)
/-- REJOIN. -/
def execRejoin (identity : Node) (closed : W64) (members : W64) (s : State) : Host.Outcome State Fault Refusal :=
  .next (rejoin s identity closed members)
/-- SHARD_DOWN. -/
def execShardDown (node : Node) (s : State) : Host.Outcome State Fault Refusal :=
  .next (shardDown s node)
/-- STALL_LIMIT. -/
def execStallLimit (member : Node) (s : State) : Host.Outcome State Fault Refusal :=
  .next (stallLimit s member)
/-- RESTORE. -/
def execRestore (m : RestoreMsg) (s : State) : Host.Outcome State Fault Refusal :=
  .next (restore s m)
/-- HANDBACK_QUIET_END. -/
def execHandbackQuietEnd (s : State) : Host.Outcome State Fault Refusal :=
  .next (handbackQuietEnd s)
/-- TWIN_FETCH. -/
def execTwinFetch (port : Port) (src : Node) (epoch : W32) (part : Bool) (ownBase twinBase off : Nat) (s : State) : Host.Outcome State Fault Refusal :=
  .next (twinFetch s port src epoch part ownBase twinBase off)
/-- BEAT. -/
def execBeat (tick : Tick) (body : BeatBody) (s : State) : Host.Outcome State Fault Refusal :=
  .next (beat s tick body.state.toNat body.ranges body.cover)

end Sys2Proof.Machine
end

