-- ==== Sys2Proof/Machine/DictRead.lean ====
section
/-! DEFINITION. What an object reads as (16_object_dictionary_and_bridle.md R549, R550, R554; the object tables of the other chapters):
objects whose value is the state of a unit, and the rest from the object store. -/

namespace Sys2Proof.Machine

/-- LOAD_STATE codes (10 Table 10.8). -/
def LoadState.code (l : LoadState) : Nat :=
  match l with
  | .idle => 0
  | .active => 1
  | .done => 2
  | .refused => 3
  | .twinWait => 4
  | .twinPhase => 5

/-- SWITCH_STATE codes. -/
def SwitchState.code (l : SwitchState) : Nat :=
  match l with
  | .none => 0
  | .pending => 1
  | .confirmed => 2
  | .done => 3
  | .cancelled => 4

/-- MIRROR_STATE codes (13 Table 13.4). -/
def MirrorState.code (l : MirrorState) : Nat :=
  match l with
  | .none => 0
  | .syncing => 1
  | .mirroring => 2
  | .covering => 3
  | .restoring => 4
  | .uncovered => 5

/-- PLUMB_STATE codes (11 Table 11.13). -/
def PlumbState.code (p : PlumbState) : Nat :=
  match p with
  | .idle => 0
  | .gather => 1
  | .assigning => 2
  | .reporting => 3
  | .joining => 4
  | .settled => 5
  | .isolated => 6

/-- PORT_STATE codes. -/
def PortState.code (p : PortState) : Nat :=
  match p with
  | .down => 0
  | .training => 1
  | .active => 2
  | .miswired => 3
  | .foreign => 4
  | .disabled => 5

/-- CLOCK_STATE codes (02 Table 2.6). -/
def ClockState.code (c : ClockState) : Nat :=
  match c with
  | .unlocked => 0
  | .locked => 1
  | .holdover => 2

/-- CLOCK_ROLE codes. -/
def ClockRole.code (c : ClockRole) : Nat :=
  match c with
  | .follower => 0
  | .master => 1
  | .standby => 2

/-- The queried session (08 Table 8.10). -/
def State.queried (s : State) : Option Session :=
  (s.byTag (BitVec.ofNat 64 (s.num O.queryTag)) (s.num O.queryTenant)).map s.session

/-- Course-clock and course objects (02 Table 2.6). -/
def State.clockObject (s : State) (key : Nat) : Option Nat :=
  let c := s.clk
  if key = 0x200001 then some (c.tick.toNat + c.phase.toNat * 2 ^ 48)
  else if key = 0x200002 then some c.mode.code
  else if key = 0x200003 then some c.role.code
  else if key = 0x200004 then some c.master.toNat
  else if key = 0x200005 then some c.epoch.toNat
  else if key = 0x200006 then some c.hops
  else if key = 0x200007 then some ((c.parent.map (·.val)).getD 0xFF)
  else if key = 0x200008 then some (ofSigned 32 c.phaseError)
  else if key = 0x200009 then some (Nat.min c.holdElapsed 10000000)
  else if key = 0x200102 then some (b2n c.cclkValid)
  else if key = 0x202001 then some s.crs.own.course.toNat
  else if key = 0x202003 then some s.pendingEvents
  else if key = 0x203001 then some s.crs.gang.toNat
  else none

/-- Bytes of a tenant's rows in the own stream's course, b bytes each, in KiB rounded up (08 R274). -/
def State.rowUse (s : State) (tenant b : Nat) : Nat :=
  ceilDiv ((s.crs.own.rows.filter (fun r => (s.session r.slot).st != .free && (s.session r.slot).tenant == tenant)).length * b) 1024

/-- The USE objects of tenant t: tiers 0 core store, 1 quarter store, 2 near HBM, 3 far HBM (08 R274). -/
def State.useOf (s : State) (tenant tier : Nat) : Nat :=
  let t := (s.templateOn false s.crs.own.copySlot).getD noTemplate
  if tier = 0 then s.rowUse tenant t.coreBytes
  else if tier = 1 then s.rowUse tenant t.quarterBytes
  else if tier = 2 then s.tenantNear false tenant 0
  else s.tenantFar false tenant 0

/-- Session objects (08 Table 8.10). -/
def State.sessionObject (s : State) (key : Nat) : Option Nat :=
  if key = 0x600004 then some s.sessionsOpen.length
  else if key = 0x600206 then some s.nearFree
  else if key % 256 = 5 ∧ 0x6010 ≤ key / 256 ∧ key / 256 ≤ 0x6013 then some (s.sessionsOpen.filter (fun e => e.2.cls == key / 256 - 0x6010)).length
  else if 0x6200 ≤ key / 256 ∧ key / 256 ≤ 0x62FF ∧ 9 ≤ key % 256 ∧ key % 256 ≤ 12 then some (s.useOf (key / 256 - 0x6200) (key % 256 - 9))
  else if key = 0x630103 then some (match s.queried with | some x => x.main.length | none => 0xFFFFFFFF)
  else if key = 0x630104 then some (match s.queried with | some x => x.st.code | none => 0)
  else none

/-- Load, copy and switch objects (10 Table 10.8). -/
def State.weightObject (s : State) (key : Nat) : Option Nat :=
  if key = 0x810007 then some s.wts.load.code
  else if key = 0x812002 then some s.wts.sw.code
  else if key = 0x812004 then some (if s.liveCopy.st = .live then s.liveCopy.epoch.toNat else 0)
  else if key / 256 = 0x8110 ∨ key / 256 = 0x8111 then
    let c := s.wts.copy (key / 256 - 0x8110)
    if key % 256 = 1 then some c.st.code
    else if key % 256 = 2 then some c.epoch.toNat
    else if key % 256 = 3 then some (b2n c.thin)
    else if key % 256 = 5 then some (c.own.getD 0xFF)
    else if key % 256 = 6 then some (c.twin.getD 0xFF)
    else none
  else none

/-- Fabric and link objects (11 Table 11.13; 13 Table 13.4). -/
def State.linkObject (s : State) (key : Nat) : Option Nat :=
  let b := s.lnk.plumb
  if key = 0x400001 then some s.node.toNat
  else if key = 0x400002 then some b.st.code
  else if key = 0x400003 then some b.tag.toNat
  else if key = 0x400007 then some b.found
  else if key = 0x400008 then some (match b.standby with | some n => n.toNat | none => 0xFFFFFFFF)
  else if key = 0x400009 then some (b2n b.restoreHeld)
  else if key = 0x450001 then some s.mir.st.code
  else if key = 0x450002 then some s.twinNode.toNat
  else if key = 0x450201 then some s.lnk.aliases.length
  else if 0x4100 ≤ key / 256 ∧ key / 256 ≤ 0x4112 then
    let r := s.port (key / 256 - 0x4100)
    let met := r.st == .active || r.st == .miswired || r.st == .foreign
    if key % 256 = 2 then some r.st.code
    else if key % 256 = 3 then some r.width
    else if key % 256 = 4 then some r.failed.toNat
    else if key % 256 = 5 then some (if met then r.peerSerial.toNat else 0)
    else if key % 256 = 6 then some (if met then r.peerPort else 0xFF)
    else none
  else none

/-- Power objects (14 Table 14.9), fault objects (15 Table 15.10). -/
def State.powerObject (s : State) (key : Nat) : Option Nat :=
  if key = 0x500001 then some s.pwr.op
  else if key = 0x500104 then some (Nat.min 4000 (s.pwr.p / 1000))
  else if key = 0x500307 then some s.pwr.fallow.toNat
  else if key = 0x500601 then some s.sec.wear
  else if key / 256 = 0x5009 then some (s.sustain (key % 256 - 1))
  else if key = 0x700108 then some (b2n s.pkg.err)
  else none

/-- Identity, state and security objects (16 Table 16.11; 17 Table 17.10). -/
def State.identityObject (s : State) (key : Nat) : Option Nat :=
  if key = 0x100001 then some Config.serial.toNat
  else if key = 0x100003 then some Config.mac.toNat
  else if key = 0x100004 then some siliconStep
  else if key = 0x102001 then some s.pkg.st.code
  else if key = 0x102002 then some s.pkg.since.toNat
  else if key = 0x800001 then some (b2n s.sec.slotB)
  else if key = 0x800002 then some (b2n s.sec.fallback)
  else if key = 0x800003 then some s.sec.fuses
  else if key = 0x803004 then some s.sec.ksMode
  else none

/-- BOND_MEMBER 1 reads as the own node until it is written (02 Table 2.6). -/
def State.storedNum (s : State) (key : Nat) : Nat := if key = 0x201101 then (s.bondMember 0).toNat else s.rawNum key

/-- The value of a numeric object. -/
def State.readNum (s : State) (key : Nat) : Nat :=
  ((((((s.clockObject key).or (s.sessionObject key)).or (s.weightObject key)).or (s.linkObject key)).or (s.powerObject key)).or
    (s.identityObject key)).getD (s.storedNum key)

/-- A fault message as stored (15 R487). -/
def faultBytes (w : BitVec 128) : List Byte := leBytes 16 w.toNat

/-- An SRAM error log entry (09 Table 9.4). -/
def SramLog.bytes (e : SramLog) : List Byte :=
  leBytes 8 e.addr ++ leBytes 8 e.first.toNat ++ leBytes 8 e.last.toNat ++ leBytes 4 e.count ++ leBytes 2 e.syndrome.toNat ++ leBytes 1 e.symbol ++ zeros 1

/-- "LXM-EU4-384". -/
def orderCode : List Byte := [0x4C, 0x58, 0x4D, 0x2D, 0x45, 0x55, 0x34, 0x2D, 0x33, 0x38, 0x34]

/-- The bytes of a STR or BLOB object. -/
def State.readBytes (s : State) (key : Nat) : List Byte :=
  if key = 0x100002 then orderCode
  else if key = 0x202004 then s.crs.log.flatten
  else if key = 0x301008 then s.mem.log.flatten
  else if 0x301101 ≤ key ∧ key ≤ 0x301105 then ((SMap.get [] s.mem.sramLogs (key - 0x301101)).map SramLog.bytes).flatten
  else if key = 0x811004 then fit 32 s.wts.k0.digest
  else if key = 0x811104 then fit 32 s.wts.k1.digest
  else if key = 0x450202 then (s.lnk.aliases.map (fun a => leBytes 4 a.1.toNat ++ leBytes 4 a.2.toNat)).flatten
  else if key = 0x700001 then (s.fcu.log.map faultBytes).flatten
  else if key = 0x700101 then (s.fcu.store.map faultBytes).flatten
  else if key = 0x700102 then (match s.fcu.first with | some w => faultBytes w | none => zeros 16)
  else if key = 0x700103 then (match s.sec.graveLast with | some w => faultBytes w | none => zeros 16)
  else if key = 0x800008 then sha3 s.sec.ksFirmware
  else if key = 0x800009 then sha3 s.sec.rtFirmware
  else if key = 0x800101 then fit 1312 Config.deviceKey
  else if key = 0x800102 then deviceCert
  else if key = 0x803006 then s.ksDigest
  else if key = 0x803007 then fit 32 s.ownerFpr
  else if key = 0x900001 then s.sec.cal
  else if key = 0x900004 then s.calDigest
  else match objRow key with
    | some r => if r.fixed && (SMap.get [] s.dict.blobs key).isEmpty then zeros r.size else SMap.get [] s.dict.blobs key
    | none => []

/-! ## Reading through the window (R549 to R552) -/

/-- Key and slot offset of a window address. -/
def windowSlot (a : Nat) : Nat × Nat :=
  let o := a - dictBase
  (o / 0x1000000 * 256 + o / 0x10000 % 256, o % 0x10000)

/-- The object carries RESULT: it is neither RO nor CONST. -/
def ObjRow.hasResult (r : ObjRow) : Bool := r.acc != .ro && r.acc != .const

/-- A window address of `n` bytes lies in a populated part of a slot (R549). -/
def windowPopulated (a n : Nat) : Bool :=
  let k := windowSlot a
  match objRow k.1 with
  | none => false
  | some r =>
    let off := k.2
    let numeric := !r.isBytes && decide (off + n ≤ 8)
    let bytes := r.isBytes && decide (off + n ≤ Nat.min r.size (if r.hasResult then 0x8000 else 0x10000))
    let result := r.hasResult && decide (0x8000 ≤ off) && decide (off + n ≤ 0x8004)
    numeric || bytes || result

/-- RESULT of an object. -/
def State.resultWord (s : State) (key : Nat) : Nat :=
  let r := SMap.get (0, 0) s.dict.results key
  r.1 * 65536 + r.2

/-- A numeric object as eight bytes: I32 is sign-extended. -/
def widen (ty v : Nat) : Nat := if ty = 5 then ofSigned 64 (toSigned 32 v) else v

/-- COURSE_LOG through the window: its most recent 1,024 records. -/
def State.windowBytes (s : State) (key : Nat) : List Byte :=
  if key = 0x202004 then (keepLast 1024 s.crs.log).flatten else s.readBytes key

/-- What a LOAD of n bytes at a window address returns; a WO object reads zero. -/
def State.windowRead (s : State) (a n : Nat) : List Byte :=
  let k := windowSlot a
  match objRow k.1 with
  | none => zeros n
  | some r =>
    if r.hasResult && decide (0x8000 ≤ k.2) then slice (leBytes 4 (s.resultWord k.1)) (k.2 - 0x8000) n
    else if r.acc = .wo then zeros n
    else if r.isBytes then slice (s.windowBytes k.1) k.2 n
    else slice (leBytes 8 (widen r.ty (s.readNum k.1))) k.2 n

/-- F's mirrored objects, with STATE reading COVERING (13 R442). -/
def coveredObject (key : Nat) : Bool := mirroredKey key || key == 0x102001

/-- A LOAD of the covered node's window. -/
def State.coveredRead (s : State) (a n : Nat) : List Byte :=
  let k := windowSlot a
  let v := if k.1 = 0x102001 then PkgState.covering.code else SMap.get (dfltOf k.1) s.mir.coverNums k.1
  slice (leBytes 8 v) k.2 n

end Sys2Proof.Machine
end

