-- ==== Sys2Proof/Machine/ObjectWrite.lean ====
section
/-! DEFINITION. A dictionary write applied (16_object_dictionary_and_bridle.md R527 to R532, R539, R553): the checks of Table 16.4, then
the rule that owns the object, then the record of the outcome. -/

namespace Sys2Proof.Machine

/-! ## Stored values, defaults, state requests -/

/-- The slot that holds the newest valid image: false slot 0, true slot 1 (R530). -/
def SecUnit.newestImage (u : SecUnit) : Option Bool :=
  if u.img0.valid && (!u.img1.valid || decide (u.img1.generation ≤ u.img0.generation)) then some false
  else if u.img1.valid then some true else none

/-- Generation of the newest valid image, 0 when there is none. -/
def SecUnit.newestGeneration (u : SecUnit) : Nat :=
  match u.newestImage with
  | some true => u.img1.generation
  | some false => u.img0.generation
  | none => 0

/-- A write to DICT_STORE (R530): the values of the stored set are copied as they stand. -/
def State.dictStoreWrite (s : State) : Nat × State :=
  if s.pkg.st.noFlash then (Err.state, s)
  else if s.num O.storeState = 1 ∨ s.flashBusy then (Err.busy, s)
  else (Err.ok, { s with dict := { s.dict with imaging := some s.storedValues } }.setNum O.storeState 1)

/-- STORE_IMAGE_DONE: the image has been written and read back, well or not (R530). -/
def storeImageDone (s : State) (good : Bool) : State :=
  match s.dict.imaging with
  | none => s
  | some v =>
    let g := s.sec.newestGeneration + 1
    let img : Image := { generation := g, nums := v.1, blobs := v.2, valid := good }
    let to1 := s.sec.newestImage == some false
    let s := { s with
      dict := { s.dict with imaging := none }
      sec := { s.sec with img0 := if to1 then s.sec.img0 else img, img1 := if to1 then img else s.sec.img1 } }
    if good then (s.setNum O.storeGeneration g).setNum O.storeState 2 else s.setNum O.storeState 3

/-- The object is RW or RWD. -/
def isSetting (key : Nat) : Bool := match objRow key with | some r => r.acc == .rw || r.acc == .rwd | none => false

/-- A write to DICT_DEFAULTS (R531): RW and RWD objects return to their defaults, with what the return of the region table
does to memory and copies (09 R281). -/
def State.defaultsWrite (s : State) : Nat × State :=
  if s.pkg.st ≠ .drained then (Err.notDrained, s)
  else
    let t := s.dropObjects isSetting
    let changed := fun p => s.pageClass p != t.pageClass p
    let t := if (regionEdges s t).any changed then { t with mem := t.mem.initPages changed }.loseCopies changed else t
    let ports := (List.range 19).filter (fun p => s.num (O.portPortEnable p) == 0)
    let t := ports.foldl (fun u p => (u.portEnableWrite p 1).2) t
    let t := t.askWakes [0, 1, 2, 3]
    (Err.ok, { t with mir := { t.mir with written := (t.mir.written ++ (s.dict.nums.map (·.1)).filter (fun k => mirroredKey k && isSetting k)).eraseDups } })

/-- A write to STATE_REQUEST (R532): the transition waits for the next tick boundary. Of two requests in one tick the one whose
target comes first in the order of 00 R16 waits. -/
def State.requestWrite (s : State) (n : Nat) : Nat × State :=
  let ask := fun (t : PkgState) =>
    let keep := match s.pkg.request with
      | some r => if r.rank < t.rank then r else t
      | none => t
    (Err.ok, { s with pkg := { s.pkg with request := some keep } })
  if n = 4 then (if s.pkg.st = .drained then ask .ready else (Err.state, s))
  else if n = 5 then
    if s.pkg.st ≠ .ready then (Err.state, s)
    else if s.wts.k0.st ≠ .live ∧ s.wts.k1.st ≠ .live then (Err.notReady, s)
    else ask .serving
  else if n = 6 then (if s.pkg.st = .serving ∨ s.pkg.st = .covering then ask .draining else (Err.state, s))
  else (if s.pkg.st = .ready then ask .drained else (Err.state, s))

/-- STAGING_BASE lies within MODEL_TENANT's windows, its default apart (10 Table 10.8; 16 R531). -/
def State.stagingOk (s : State) : Bool :=
  s.num O.stagingBase == 0 || s.inWindows (s.num O.modelTenant) (s.num O.stagingBase) 1

/-! ## The rule that owns the object (order 7 of Table 16.4) -/

/-- Store a number, when it still meets a check. -/
def State.storeIf (s : State) (key n err : Nat) (ok : State → Bool) : Nat × State :=
  let t := s.storeNum key n
  if ok t then (Err.ok, t) else (err, s)

/-- Hod, tenant, window, port and copy objects, by index. -/
def State.ownIndexed (s : State) (key n : Nat) : Option (Nat × State) :=
  let i := key / 256
  let j := key % 256
  if 0x2100 ≤ i ∧ i ≤ 0x213F then
    if j = 1 then some (s.hodEnableWrite (i - 0x2100) n)
    else if s.num (O.hodEnable (i - 0x2100)) = 1 ∧ j ≠ 0xB then some (Err.hodEnabled, s)
    else none
  else if 0x4100 ≤ i ∧ i ≤ 0x4112 ∧ j = 1 then some (s.portEnableWrite (i - 0x4100) n)
  else if 0x4600 ≤ i ∧ i ≤ 0x467F then
    if j = 4 then some (s.winEnableWrite (i - 0x4600) n)
    else if s.num (O.winEnable (i - 0x4600)) = 1 then some (Err.range, s)
    else none
  else if 0x6200 ≤ i ∧ i ≤ 0x62FF ∧ j = 1 then some (s.tenantWrite (i - 0x6200) n)
  else if i = 0x3001 then some (s.regionWrite key n)
  else if i = 0x8020 then some (s.areaWrite key n)
  else if (i = 0x8110 ∨ i = 0x8111) ∧ j = 7 then some (s.copyFree (i - 0x8110))
  else none

/-- Command objects whose value is a number. -/
def State.ownNumeric (s : State) (key n : Nat) : Option (Nat × State) :=
  if key = O.handoffTick.key then some (s.handoffWrite n)
  else if key = O.plumbRestart.key then some s.plumbRestartWrite
  else if key = O.hbmLogClear.key then some s.hbmLogClear
  else if key = O.sramLogClear.key then some (s.sramLogClear n)
  else if key = O.marginStart.key then some s.marginStart
  else if key = O.loadStart.key then some s.loadStart
  else if key = O.loadAbort.key then some s.loadAbort
  else if key = O.loadPost.key then some (s.loadPost n)
  else if key = O.restoreStart.key then some s.restoreWrite
  else if key = O.rackBeat.key then some s.rackBeat
  else if key = O.faultLogClear.key then some s.logClearWrite
  else if key = O.graveClear.key then some s.graveClearWrite
  else if key = O.errClear.key then some s.errClearWrite
  else if key = O.dictStore.key then some s.dictStoreWrite
  else if key = O.dictDefaults.key then some s.defaultsWrite
  else if key = O.stateRequest.key then some (s.requestWrite n)
  else if key = O.fwUpdate.key then some (s.fwUpdate n)
  else if key = O.escanStart.key then some s.escanStart
  else if key = O.fbistStart.key then some s.fbistStart
  else if key = O.plcaEnable.key ∧ n = 1 ∧ s.num O.plcaId = 255 then some (Err.range, s)
  else if key = O.stagingBase.key ∨ key = O.modelTenant.key then some (s.storeIf key n Err.range State.stagingOk)
  else if key = O.fallowEnable.key ∧ n = 0 then some (Err.ok, (s.storeNum key 0).askWakes [0, 1, 2, 3])
  else none

/-- Command objects whose value is a BLOB. -/
def State.ownBytes (s : State) (key : Nat) (b : List Byte) : Option (Nat × State) :=
  if key = O.splice.key then some (s.spliceWrite b)
  else if key = O.switchRequest.key then some (s.switchRequest b)
  else if key = O.rampEvent.key then some (s.rampWrite b)
  else if key = O.attestNonce.key then some (s.attestNonce b)
  else if key = O.keystonePending.key then some (s.keystonePending b)
  else if key = O.calWrite.key then some (s.calWrite b)
  else none

/-- The effect of a write that passed orders 1 to 6: that of the owning rule, or the value is stored. -/
def State.ownWrite (s : State) (key : Nat) (v : ObjVal) : Nat × State :=
  match v with
  | .num n => ((s.ownNumeric key n).or (s.ownIndexed key n)).getD (Err.ok, s.storeNum key n)
  | .bytes b => (s.ownBytes key b).getD (Err.ok, s.storeVal key (.bytes b))

/-- A mirrored object that was written goes into the next OBJECTS record (13 Table 13.2). -/
def State.noteWritten (s : State) (key : Nat) : State :=
  if mirroredKey key && !s.mir.written.contains key then { s with mir := { s.mir with written := s.mir.written ++ [key] } } else s

/-- Where the server or the management domain holds the object, its RESULT takes the code (R553). -/
def State.noteResult (s : State) (key code : Nat) : State :=
  if s.dict.server = .stopped && !mgmtObject key then s else s.recordResult key code

/-- A dictionary write: its error code, and the state after it. -/
def State.applyWrite (s : State) (p : Path) (key typ : Nat) (v : ObjVal) : Nat × State :=
  let e := s.writeError p key typ v
  if e ≠ Err.ok then (e, (if e = Err.keystone then s.keystoneFault key else s).noteResult key e)
  else
    let r := s.ownWrite key v
    (r.1, (if r.1 = Err.ok then r.2.noteWritten key else r.2).noteResult key r.1)

/-- A write of a numeric object, of a BLOB. -/
def State.writeNum (s : State) (p : Path) (o : Obj) (n : Nat) : State := (s.applyWrite p o.key 0 (.num n)).2
/-- A write of a BLOB. -/
def State.writeBlob (s : State) (p : Path) (o : Obj) (b : List Byte) : State := (s.applyWrite p o.key 0 (.bytes b)).2

/-! ## The commands -/

/-- STATE_REQUEST_READY. -/
def execStateRequestReady (p : Path) (s : State) : Host.Outcome State Fault Refusal :=
  .next (s.writeNum p O.stateRequest 4)
/-- STATE_REQUEST_SERVING. -/
def execStateRequestServing (p : Path) (s : State) : Host.Outcome State Fault Refusal :=
  .next (s.writeNum p O.stateRequest 5)
/-- STATE_REQUEST_DRAINING. -/
def execStateRequestDraining (p : Path) (s : State) : Host.Outcome State Fault Refusal :=
  .next (s.writeNum p O.stateRequest 6)
/-- STATE_REQUEST_DRAINED. -/
def execStateRequestDrained (p : Path) (s : State) : Host.Outcome State Fault Refusal :=
  .next (s.writeNum p O.stateRequest 7)
/-- HANDOFF_TICK. -/
def execHandoffTick (p : Path) (v : W64) (s : State) : Host.Outcome State Fault Refusal :=
  .next (s.writeNum p O.handoffTick v.toNat)
/-- HOD_ENABLE. -/
def execHodEnable (p : Path) (h : Fin 64) (s : State) : Host.Outcome State Fault Refusal :=
  .next (s.writeNum p (O.hodEnable h.val) 1)
/-- HOD_DISABLE. -/
def execHodDisable (p : Path) (h : Fin 64) (s : State) : Host.Outcome State Fault Refusal :=
  .next (s.writeNum p (O.hodEnable h.val) 0)
/-- SPLICE. -/
def execSplice (p : Path) (req : List Byte) (s : State) : Host.Outcome State Fault Refusal :=
  .next (s.writeBlob p O.splice req)
/-- TENANT_ACTIVATE. -/
def execTenantActivate (p : Path) (t : Byte) (s : State) : Host.Outcome State Fault Refusal :=
  .next (s.writeNum p (O.tenActive t.toNat) 1)
/-- TENANT_DEACTIVATE. -/
def execTenantDeactivate (p : Path) (t : Byte) (s : State) : Host.Outcome State Fault Refusal :=
  .next (s.writeNum p (O.tenActive t.toNat) 0)
/-- REGION_WRITE. -/
def execRegionWrite (p : Path) (sub : Byte) (v : W64) (s : State) : Host.Outcome State Fault Refusal :=
  .next (s.writeNum p ⟨O.regionCount.key + sub.toNat, 0⟩ v.toNat)
/-- HBM_LOG_CLEAR. -/
def execHbmLogClear (p : Path) (v : Byte) (s : State) : Host.Outcome State Fault Refusal :=
  .next (s.writeNum p O.hbmLogClear v.toNat)
/-- SRAM_LOG_CLEAR. -/
def execSramLogClear (p : Path) (v : Byte) (s : State) : Host.Outcome State Fault Refusal :=
  .next (s.writeNum p O.sramLogClear v.toNat)
/-- MARGIN_START. -/
def execMarginStart (p : Path) (v : Byte) (s : State) : Host.Outcome State Fault Refusal :=
  .next (s.writeNum p O.marginStart v.toNat)
/-- LOAD_START. -/
def execLoadStart (p : Path) (v : Byte) (s : State) : Host.Outcome State Fault Refusal :=
  .next (s.writeNum p O.loadStart v.toNat)
/-- LOAD_POST. -/
def execLoadPost (p : Path) (v : W64) (s : State) : Host.Outcome State Fault Refusal :=
  .next (s.writeNum p O.loadPost v.toNat)
/-- LOAD_ABORT. -/
def execLoadAbort (p : Path) (v : Byte) (s : State) : Host.Outcome State Fault Refusal :=
  .next (s.writeNum p O.loadAbort v.toNat)
/-- COPY_FREE. -/
def execCopyFree (p : Path) (k : Fin 2) (v : Byte) (s : State) : Host.Outcome State Fault Refusal :=
  .next (s.writeNum p (O.copyFree k.val) v.toNat)
/-- AREA_WRITE. -/
def execAreaWrite (p : Path) (sub : Byte) (v : W64) (s : State) : Host.Outcome State Fault Refusal :=
  .next (s.writeNum p ⟨O.areaCount.key + sub.toNat, 0⟩ v.toNat)
/-- SWITCH_REQUEST. -/
def execSwitchRequest (p : Path) (req : List Byte) (s : State) : Host.Outcome State Fault Refusal :=
  .next (s.writeBlob p O.switchRequest req)
/-- PORT_ENABLE. -/
def execPortEnable (p : Path) (port : Port) (v : Byte) (s : State) : Host.Outcome State Fault Refusal :=
  .next (s.writeNum p (O.portPortEnable port.val) v.toNat)
/-- PLUMB_RESTART. -/
def execPlumbRestart (p : Path) (v : Byte) (s : State) : Host.Outcome State Fault Refusal :=
  .next (s.writeNum p O.plumbRestart v.toNat)
/-- WIN_ENABLE. -/
def execWinEnable (p : Path) (w : Fin 128) (v : Byte) (s : State) : Host.Outcome State Fault Refusal :=
  .next (s.writeNum p (O.winEnable w.val) v.toNat)
/-- RESTORE_START. -/
def execRestoreStart (p : Path) (v : Byte) (s : State) : Host.Outcome State Fault Refusal :=
  .next (s.writeNum p O.restoreStart v.toNat)
/-- RAMP_EVENT. -/
def execRampEvent (p : Path) (req : List Byte) (s : State) : Host.Outcome State Fault Refusal :=
  .next (s.writeBlob p O.rampEvent req)
/-- RACK_BEAT. -/
def execRackBeat (p : Path) (v : W32) (s : State) : Host.Outcome State Fault Refusal :=
  .next (s.writeNum p O.rackBeat v.toNat)
/-- ERR_CLEAR. -/
def execErrClear (p : Path) (v : Byte) (s : State) : Host.Outcome State Fault Refusal :=
  .next (s.writeNum p O.errClear v.toNat)
/-- FAULT_LOG_CLEAR. -/
def execFaultLogClear (p : Path) (v : Byte) (s : State) : Host.Outcome State Fault Refusal :=
  .next (s.writeNum p O.faultLogClear v.toNat)
/-- GRAVE_CLEAR. -/
def execGraveClear (p : Path) (v : Byte) (s : State) : Host.Outcome State Fault Refusal :=
  .next (s.writeNum p O.graveClear v.toNat)
/-- DICT_STORE. -/
def execDictStore (p : Path) (v : Byte) (s : State) : Host.Outcome State Fault Refusal :=
  .next (s.writeNum p O.dictStore v.toNat)
/-- STORE_IMAGE_DONE. -/
def execStoreImageDone (good : Bool) (s : State) : Host.Outcome State Fault Refusal :=
  .next (storeImageDone s good)
/-- DICT_DEFAULTS. -/
def execDictDefaults (p : Path) (v : Byte) (s : State) : Host.Outcome State Fault Refusal :=
  .next (s.writeNum p O.dictDefaults v.toNat)
/-- PLCA_ENABLE. -/
def execPlcaEnable (p : Path) (v : Byte) (s : State) : Host.Outcome State Fault Refusal :=
  .next (s.writeNum p O.plcaEnable v.toNat)
/-- FW_UPDATE. -/
def execFwUpdate (p : Path) (v : W32) (s : State) : Host.Outcome State Fault Refusal :=
  .next (s.writeNum p O.fwUpdate v.toNat)
/-- KEYSTONE_PENDING. -/
def execKeystonePending (p : Path) (rec : List Byte) (s : State) : Host.Outcome State Fault Refusal :=
  .next (s.writeBlob p O.keystonePending rec)
/-- ATTEST_NONCE. -/
def execAttestNonce (p : Path) (nonce : List Byte) (s : State) : Host.Outcome State Fault Refusal :=
  .next (s.writeBlob p O.attestNonce nonce)
/-- CAL_WRITE. -/
def execCalWrite (p : Path) (set : List Byte) (s : State) : Host.Outcome State Fault Refusal :=
  .next (s.writeBlob p O.calWrite set)
/-- ESCAN_START. -/
def execEscanStart (p : Path) (v : Byte) (s : State) : Host.Outcome State Fault Refusal :=
  .next (s.writeNum p O.escanStart v.toNat)
/-- FBIST_START. -/
def execFbistStart (p : Path) (v : Byte) (s : State) : Host.Outcome State Fault Refusal :=
  .next (s.writeNum p O.fbistStart v.toNat)

end Sys2Proof.Machine
end

