-- ==== Sys2Proof/Machine/Registers.lean ====
section
/-! DEFINITION. The control-register space (04 Table 4.9, 14 Table 14.8, 15 Tables 15.8 and 15.9, 17 Table 17.9): what a register
reads as, what a write to it does, and which writes are refused. An access of up to 8 bytes covers the bytes of 32-bit registers. -/

namespace Sys2Proof.Machine

/-! ## Where the registers lie (offsets in the control-register space) -/

/-- The core and the register of an offset among the core registers. -/
def coreRegAt (off : Nat) : Option (Nat × Nat) :=
  let o := off - 0x01000000
  if 0x01000000 ≤ off ∧ o < 0x400000 ∧ o % 0x100000 / 0x1000 < 96 ∧ o % 0x1000 < 0x18 then
    some (o / 0x100000 * 96 + o % 0x100000 / 0x1000, o % 0x1000 / 4 * 4)
  else none

/-- The power register of an offset. -/
def powerRegAt (off : Nat) : Option Nat :=
  let o := off - 0x02000000
  if 0x02000000 ≤ off ∧ (o < 0x1C ∨ (0x20 ≤ o ∧ o < 0x28)) then some (o / 4 * 4) else none

/-- The FCU register of an offset. -/
def fcuRegAt (off : Nat) : Option Nat :=
  let o := off - 0x03000000
  if 0x03000000 ≤ off ∧ (o < 0x08 ∨ (0x10 ≤ o ∧ o < 0x24) ∨ (0x30 ≤ o ∧ o < 0x50) ∨ (0x1000 ≤ o ∧ o < 0x2000)) then some (o / 4 * 4) else none

/-- The ICX register of an offset. -/
def icxRegAt (off : Nat) : Option Nat :=
  let o := off - 0x03100000
  if 0x03100000 ≤ off ∧ (o < 0x0C ∨ (0x100 ≤ o ∧ o < 0x280) ∨ (0x400 ≤ o ∧ o < 0x600) ∨ (0x800 ≤ o ∧ o < 0xC94) ∨ (0xCA0 ≤ o ∧ o < 0xCB4) ∨
      (0xD00 ≤ o ∧ o < 0xE00 ∧ (o % 0x40 < 0x0C ∨ (0x10 ≤ o % 0x40 ∧ o % 0x40 < 0x30)))) then some (o / 4 * 4)
  else none

/-- The security register of an offset. -/
def secRegAt (off : Nat) : Option Nat :=
  let o := off - 0x04000000
  if 0x04000000 ≤ off ∧ o < 8 then some (o / 4 * 4) else none

/-- A register lies at the offset. -/
def regAt (off : Nat) : Bool :=
  (coreRegAt off).isSome || (powerRegAt off).isSome || (fcuRegAt off).isSome || (icxRegAt off).isSome || (secRegAt off).isSome

/-- Word offsets that an access of n bytes covers. -/
def regWords (off n : Nat) : List Nat := (List.range ((off % 4 + n + 3) / 4)).map (fun i => off / 4 * 4 + 4 * i)

/-- Every byte of an access lies in a register (01 R25). -/
def regPopulated (off n : Nat) : Bool := (regWords off n).all regAt

/-! ## Reads -/

/-- A core register (04 Table 4.9). -/
def Core.register (c : Core) (r : Nat) : Nat :=
  if r = 0x00 then
    (match c.st with | .active => 0 | .leaving => 1 | .withdrawn => 2 | .test => 3) * 2 ^ 27 + c.deque.length * 2 ^ 14
  else if r = 0x04 then 2 * b2n c.leave
  else if r = 0x08 then c.retired.toNat
  else if r = 0x0C then c.steals.toNat
  else if r = 0x10 then c.misses.toNat
  else c.busy.toNat

/-- A power register (14 Table 14.8). -/
def State.powerRegister (s : State) (r : Nat) : Nat :=
  if r < 0x10 then s.reinWord (r / 4)
  else if r = 0x10 then s.pwrStatus
  else if r = 0x14 then (s.pwr.tele.map (·.icore)).getD 0 % 2 ^ 14
  else if r = 0x18 then Nat.min 5000 s.pwr.current.length * 2 ^ 16 + s.pwr.excessCount
  else if r = 0x20 then s.pwr.energyTotal % 2 ^ 32
  else s.pwr.hiLatch.toNat

/-- A word of a 512-bit map. -/
def mapWord (m : BitVec 512) (w : Nat) : Nat := m.toNat / 2 ^ (32 * w) % 2 ^ 32

/-- An ICX register other than ICX_CLAIM (15 Table 15.8). -/
def State.icxRegister (s : State) (r : Nat) : Nat :=
  let w := r % 0x40 / 4
  if r = 0x000 then s.icx.prigroup
  else if r = 0x004 then s.icxStatus
  else if r < 0x100 then 0
  else if r < 0x180 then mapWord s.icx.en w
  else if r < 0x200 then mapWord s.icx.pend w
  else if r < 0x240 then mapWord s.icx.active w
  else if r < 0x280 then mapWord s.icx.hpend w
  else if r < 0x600 then
    let b := r - 0x400
    s.pri b + s.pri (b + 1) * 2 ^ 8 + s.pri (b + 2) * 2 ^ 16 + s.pri (b + 3) * 2 ^ 24
  else if r < 0xC00 then
    let b := (r - 0x800) / 2
    s.hostLine b * 2 ^ 8 + s.coreRoute b + (s.hostLine (b + 1) * 2 ^ 8 + s.coreRoute (b + 1)) * 2 ^ 16
  else if r < 0xC80 then s.num (O.icxGroupHoldoff ((r - 0xC00) / 4))
  else if r < 0xCA0 then s.num (O.icxCoalesce ((r - 0xC80) / 4))
  else if r < 0xD00 then SMap.get 0 s.icx.coalCount ((r - 0xCA0) / 4)
  else
    let c := (r - 0xD00) / 0x40
    if r % 0x40 = 8 then s.icxRunning c
    else if r % 0x40 ≥ 0x10 then s.icxStackWord c ((r % 0x40 - 0x10) / 4)
    else 0

/-- FCU_MAP of a source. -/
def State.mapEntry (s : State) (src : Nat) : Nat :=
  let l := s.reactLow src
  let h := s.reactHigh src
  h / 128 * 2 ^ 15 + h % 8 * 2 ^ 12 + l / 128 * 2 ^ 7 + l % 8

/-- An FCU register (15 Table 15.9). -/
def State.fcuRegister (s : State) (r : Nat) : Nat :=
  if r = 0x000 then s.fcuStatus
  else if 0x010 ≤ r ∧ r < 0x020 then
    match s.fcu.traps with
    | [] => 0
    | t :: _ => t.2.toNat / 2 ^ (8 * (r - 0x010)) % 2 ^ 32
  else if 0x1000 ≤ r then s.mapEntry ((r - 0x1000) / 4)
  else 0

/-- A security register (17 Table 17.9). -/
def State.secRegister (s : State) (r : Nat) : Nat := if r = 0 then s.secStatus else b2n s.sec.lock

/-- A read of the 32-bit register at a word offset: ICX_CLAIM claims, PWR_ENERGY_LO latches the upper word, and any access to the ICX
ends doze. -/
def State.readReg (s : State) (who : Requester) (off : Nat) : Nat × State :=
  match coreRegAt off with
  | some (g, r) => ((s.coreAt g).register r, s)
  | none =>
  match powerRegAt off with
  | some r =>
    if r = 0x20 then (s.powerRegister r, { s with pwr := { s.pwr with hiLatch := BitVec.ofNat 32 (s.pwr.energyTotal / 2 ^ 32) } })
    else (s.powerRegister r, s)
  | none =>
  match icxRegAt off with
  | some r =>
    let s := s.wake
    if 0xD00 ≤ r ∧ r % 0x40 = 0 then s.claim who (Fin.ofNat 4 ((r - 0xD00) / 0x40)) else (s.icxRegister r, s)
  | none =>
  match fcuRegAt off with
  | some r => (s.fcuRegister r, s)
  | none =>
  match secRegAt off with
  | some r => (s.secRegister r, s)
  | none => (0, s)

/-- A read of n bytes. -/
def State.readRegs (s : State) (who : Requester) (off n : Nat) : List Byte × State :=
  let r := (regWords off n).foldl (fun (acc : List Byte × State) w => let x := acc.2.readReg who w; (acc.1 ++ leBytes 4 x.1, x.2)) ([], s)
  (slice r.1 (off % 4) n, r.2)

/-! ## Writes -/

/-- The write of a word is refused as a protection fault: not from a control core, where the register takes writes only from those
(04 R149; 14 R484; 15 R521, R522; 17 R582). -/
def regRefused (who : Requester) (off : Nat) : Bool :=
  !isCtl who &&
    ((match coreRegAt off with | some (_, r) => r == 4 | none => false) ||
     (match powerRegAt off with | some r => decide (r < 0x10) | none => false) ||
     (match icxRegAt off with | some r => r != 8 | none => false) ||
     (fcuRegAt off).isSome || (secRegAt off).isSome)

/-- The bits of a word that a write replaces: `mask` names them, the rest keep `old`. -/
def mixBits (old mask v : Nat) : Nat := (old &&& (mask ^^^ 0xFFFFFFFF)) ||| (v &&& mask)

/-- A write of ICX_ROUTE changes CORE of its two sources: HOST_LINE is written through its objects (15 R509). -/
def State.routeWrite (s : State) (r mask v : Nat) : State :=
  let b := (r - 0x800) / 2
  [0, 1].foldl (fun (t : State) i =>
    let c := v / 2 ^ (16 * i) % 256
    if mask / 2 ^ (16 * i) % 256 = 255 ∧ (c ≤ 3 ∨ c = 0xFF) then { t with icx := { t.icx with core := SMap.set (coreDflt (b + i)) t.icx.core (b + i) c } } else t) s

/-- A write of the priorities of four sources. -/
def State.priWrite (s : State) (r mask v : Nat) : State :=
  let n := mixBits (s.icxRegister r) mask v
  let b := r - 0x400
  (List.range 4).foldl (fun (t : State) i => { t with icx := { t.icx with pri := SMap.set 0x80 t.icx.pri (b + i) (n / 2 ^ (8 * i) % 256) } }) s

/-- A write of an ICX register by a requester it takes writes from. -/
def State.icxWrite (s : State) (who : Requester) (r mask v : Nat) : State :=
  let s := s.wake
  let w := Fin.ofNat 16 (r % 0x40 / 4)
  let x : W32 := BitVec.ofNat 32 (v &&& mask)
  if r = 0x000 then { s with icx := { s.icx with prigroup := mixBits s.icx.prigroup mask v % 8 } }
  else if r = 0x004 then (if bit x.toNat 10 then { s with icx := { s.icx with restored := false } } else s)
  else if r = 0x008 then icxSwSet s x
  else if r < 0x140 then icxEnSet s who w x
  else if r < 0x180 then icxEnClr s who w x
  else if r < 0x1C0 then icxPendSet s who w x
  else if r < 0x200 then icxPendClr s who w x
  else if r < 0x400 then s
  else if r < 0x600 then s.priWrite r mask v
  else if r < 0xC00 then s.routeWrite r mask v
  else if r < 0xC80 then s.setNum (O.icxGroupHoldoff ((r - 0xC00) / 4)) (mixBits (s.icxRegister r) mask v % 65536)
  else if r < 0xCA0 then
    let n := mixBits (s.icxRegister r) mask v % 2 ^ 24
    if n / 65536 = 0 ∨ n % 65536 = 0 then s else s.setNum (O.icxCoalesce ((r - 0xC80) / 4)) n
  else if 0xD00 ≤ r ∧ r % 0x40 = 4 then icxEoi s who (Fin.ofNat 4 ((r - 0xD00) / 0x40)) x
  else s

/-- A write of FCU_MAP: REACT above 4 is refused; the RWK fields are read-only under LOCK, and a write that would change them raises
KEYSTONE_WRITE (15 R492; 17 R564). -/
def State.mapWrite (s : State) (src mask v : Nat) : State :=
  let n := mixBits (s.mapEntry src) mask v
  let low := n / 2 ^ 7 % 2 * 128 + n % 8
  let high := n / 2 ^ 15 % 2 * 128 + n / 2 ^ 12 % 8
  let s := if n % 8 ≤ 4 then s.setNum (O.reactLow src) low else s
  if high = s.reactHigh src then s
  else if s.sec.lock then s.raise srcFcu 0 0x92 1 (cregBase + 0x03001000 + 4 * src)
  else if n / 2 ^ 12 % 8 = 4 ∨ n / 2 ^ 12 % 8 = 5 then s.setNum (O.reactHigh src) high
  else s

/-- A write of an FCU register by a control core. -/
def State.fcuWrite (s : State) (who : Requester) (r mask v : Nat) : State :=
  let x : W32 := BitVec.ofNat 32 (v &&& mask)
  let one := x.toNat % 2 == 1
  if r = 0x004 then (if one && s.pkg.st != .grave then s.releaseErr else s)
  else if r = 0x020 then fcuTrapDone s who x
  else if 0x030 ≤ r ∧ r < 0x040 then fcuKick s who (Fin.ofNat 4 ((r - 0x030) / 4)) x
  else if 0x040 ≤ r ∧ r < 0x04C then
    let i := (r - 0x040) / 4
    { s with fcu := { s.fcu with inject := (List.range 3).map (fun k =>
        let old := s.fcu.inject.getD k 0
        if k = i then BitVec.ofNat 32 (mixBits old.toNat mask v) else old) } }
  else if r = 0x04C then fcuInject s who x
  else if 0x1000 ≤ r then s.mapWrite ((r - 0x1000) / 4) mask v
  else s

/-- A write of the masked bits of the register at a word offset. -/
def State.writeReg (s : State) (who : Requester) (off mask v : Nat) : State :=
  match coreRegAt off with
  | some (g, r) =>
    let q := Fin.ofNat 4 (g / 96)
    let nn := Fin.ofNat 96 (g % 96)
    if r ≠ 4 then s
    else
      let s := if bit (v &&& mask) 1 then coreLeave s who q nn else s
      if bit (v &&& mask) 0 then coreRejoin s who q nn else s
  | none =>
  match powerRegAt off with
  | some r =>
    let h := mixBits (s.powerRegister r) mask v % 128
    if r < 0x10 ∧ 1 ≤ h ∧ h ≤ 64 then
      { s with pwr := { s.pwr with reins := SMap.set {} s.pwr.reins (r / 4) { s.rein (r / 4) with host := h } } }
    else s
  | none =>
  match icxRegAt off with
  | some r => s.icxWrite who r mask v
  | none =>
  match fcuRegAt off with
  | some r => s.fcuWrite who r mask v
  | none =>
  match secRegAt off with
  | some r => if r = 4 ∧ (v &&& mask) % 2 = 1 ∧ !s.sec.lock then { s with sec := { s.sec with lock := true } } else s
  | none => s

/-- A STORE of some bytes to the control-register space: whether it was accepted, and the state after it. -/
def State.storeRegs (s : State) (who : Requester) (off : Nat) (data : List Byte) : Bool × State :=
  let words := regWords off data.length
  if words.any (regRefused who) then (false, s.refuseReg off)
  else
    let pad := zeros (off % 4) ++ data ++ zeros 8
    let sel := (List.replicate (off % 4) (0 : Byte)) ++ List.replicate data.length 0xFF ++ zeros 8
    (true, (List.range words.length).foldl (fun t i => t.writeReg who (off / 4 * 4 + 4 * i) (fieldLe sel (4 * i) 4) (fieldLe pad (4 * i) 4)) s)

/-! ## The commands -/

/-- OBJECT_WRITE: a dictionary write along its path, or a write of a register by a requester. -/
def objectWrite (s : State) (w : WriteTarget) : State :=
  match w with
  | .object p key typ v => (s.applyWrite p key typ.toNat v).2
  | .register who off size v =>
    if !s.pkg.st.hubRuns || !(size == 1 || size == 2 || size == 4 || size == 8) || off.toNat % size != 0 then s
    else if !regPopulated off.toNat size then s.raise srcRouter 0 0x07 1 (cregBase + off.toNat)
    else (s.storeRegs who off.toNat (leBytes size v.toNat)).2

/-- OBJECT_WRITE. -/
def execObjectWrite (w : WriteTarget) (s : State) : Host.Outcome State Fault Refusal :=
  .next (objectWrite s w)

end Sys2Proof.Machine
end

