-- ==== Sys2Proof/Machine/FabricTarget.lean ====
section
/-! DEFINITION. A fabric request at its target: the checks, memory, atomics, the dictionary window, registers, and the identity the
package covers (12_memory_semantic_fabric.md R390 to R400, R607; 16_object_dictionary_and_bridle.md R549 to R553; 13 R440, R442;
17 R567, R568). -/

namespace Sys2Proof.Machine

/-! ## Answers (Tables 12.3, 12.4) -/

namespace Status
/-- OK. -/
def ok : Nat := 0
/-- POISONED. -/
def poisoned : Nat := 1
/-- PROTECTION. -/
def protection : Nat := 2
/-- UNMAPPED. -/
def unmapped : Nat := 3
/-- NO_ATOMIC. -/
def noAtomic : Nat := 4
/-- MALFORMED. -/
def malformed : Nat := 5
end Status

/-- Send a response back to the request's SRC. -/
def State.respond (s : State) (b : BatchReq) (r : FabResp) : State := s.send b.req.src (.response r)

/-- An OK response carrying data of a LOAD, or the old value of an atomic. -/
def okResponse (node : Node) (b : BatchReq) (data : List Byte) (old : Nat) : FabResp :=
  { src := node, tag := b.req.tag, op := b.op, status := 0, size := b.req.size
    old := BitVec.ofNat 64 (if data.length ≤ 8 then ofLe data + old else 0), data := if data.length > 8 then data else [] }

/-- Answer a request that a check refused, or that read poison, in the name of a node: counted in REFUSED (0x4200.06), the faults of R607 under
the link router with the request's local address. -/
def State.refuse (s : State) (node : Node) (b : BatchReq) (status : Nat) : State :=
  let a := b.req.addr.toNat
  let s := s.bump O.refused 64
  let s := if status = Status.protection then s.raise srcRouter 0 0x06 1 a
    else if status = Status.unmapped then s.raise srcRouter 0 0x07 1 a
    else if status = Status.noAtomic then s.raise srcRouter 0 0x46 1 a
    else s
  s.respond b (failedResponse node b status)

/-! ## The checks (R394) -/

/-- OP is an atomic (Table 12.2). -/
def isAtomicOp (op : Nat) : Bool := decide (0x10 ≤ op) && decide (op ≤ 0x16)

/-- Check 1: OP, SIZE and alignment of Table 12.2, the reserved bits of ADDR; more than 8 B to the control-register space (R392). -/
def wellFormedReq (b : BatchReq) : Bool :=
  let op := b.op.toNat
  let n := b.req.size.toNat
  let a := b.req.addr.toNat
  decide (a < localTop) &&
  (if isAtomicOp op then (n == 4 || n == 8) && a % n == 0
   else if op = opLoad ∨ op = opStore then
    (((n == 1 || n == 2 || n == 4 || n == 8) && a % n == 0) || (n % 32 == 0 && decide (32 ≤ n) && decide (n ≤ 4096) && a % 32 == 0)) &&
      decide (a % 4096 + n ≤ 4096) && !(decide (n > 8) && space a == .creg)
   else false)

/-- Check 2 (R27, R568) at the node named: its windows and masks for the request's tenant. -/
def State.maskPasses (s : State) (node : Node) (b : BatchReq) : Bool :=
  let t := b.req.tenant.toNat
  let m := s.num (O.accessMask t)
  let a := b.req.addr.toNat
  match space a with
  | .unmapped => true
  | sp =>
    (b.req.own.isSome && node == s.node) || ((bit m 4 || b.req.src == node) &&
      (match sp with
      | .hbm => s.inWindowsOf t node a b.req.size.toNat
      | .sram => bit m (if isAtomicOp b.op.toNat then 1 else 0)
      | .dict => bit m 2
      | _ => bit m 3))

/-- The path a request to the dictionary window takes (R533, R536). -/
def pathOf (b : BatchReq) : Path := match b.req.own with | some c => .control c | none => .fabric b.req.tenant b.req.src

/-- R534 refuses the request: the path may not read, or write, the object's range. -/
def State.rangeRefused (s : State) (b : BatchReq) : Bool :=
  let k := (windowSlot b.req.addr.toNat).1
  let i := k / 256
  decide (0x1000 ≤ i) && decide (i < 0xB000) && !s.pathMay (pathOf b) k (b.op.toNat != opLoad)

/-- The address lies in a populated place (R25, R549, R552). -/
def State.populated (s : State) (a n : Nat) : Bool :=
  match space a with
  | .unmapped => false
  | .dict => s.dict.server == .running && windowPopulated a n
  | .creg => regPopulated (a - cregBase) n
  | _ => true

/-- Check 4: the credit area (R112), or the first 64 KiB of a core store. -/
def controlArea (a : Nat) : Bool :=
  space a == .sram && (decide (0x0FC00000 ≤ sramOffset a) || (decide (sramOffset a < 0x0C000000) && decide (sramOffset a % 0x200000 < 0x10000)))

/-- Status of the first check a request addressed to this node fails. -/
def State.checkReq (s : State) (b : BatchReq) : Nat :=
  let a := b.req.addr.toNat
  if !wellFormedReq b then Status.malformed
  else if !s.maskPasses s.node b || (space a == .dict && s.rangeRefused b) then Status.protection
  else if !s.populated a b.req.size.toNat then Status.unmapped
  else if space a == .dict && decide (b.req.size.toNat > 8) then Status.malformed
  else if controlArea a then Status.protection
  else if isAtomicOp b.op.toNat && space a != .sram then Status.noAtomic
  else Status.ok

/-! ## Atomics (R400) -/

/-- The new value of an atomic. -/
def atomicNew (op n old a b : Nat) : Nat :=
  let m := 2 ^ (8 * n)
  (if op = 0x10 then old + a
   else if op = 0x11 then a
   else if op = 0x12 then old &&& a
   else if op = 0x13 then old ||| a
   else if op = 0x14 then old ^^^ a
   else if op = 0x15 then Nat.max old (a % m)
   else if old = a % m then b else old) % m

/-! ## The dictionary window -/

/-- Forget the staging of an object. -/
def State.dropStage (s : State) (key : Nat) : State :=
  { s with dict := { s.dict with window := s.dict.window.filter (fun x => x.key != key) } }

/-- A refused write along a path: only its RESULT changes. -/
def State.refusedWrite (s : State) (key code : Nat) : State := s.recordResult key code

/-- A STORE to a BLOB object (R551). -/
def State.stageStore (s : State) (p : Path) (r : ObjRow) (key off : Nat) (data : List Byte) : State :=
  let e := s.writeError p key 0 (.bytes (zeros r.size))
  let have_ := (s.dict.window.find? (fun x => x.key == key)).map (fun x => x.data)
  if r.ty ≠ 9 ∨ r.size > 64 then s.refusedWrite key Err.access
  else if e ≠ Err.ok ∧ e ≠ Err.type ∧ e ≠ Err.range then (s.applyWrite p key 0 (.bytes (zeros r.size))).2
  else if data.length ≠ 8 then (s.dropStage key).refusedWrite key Err.type
  else if off ≠ 0 ∧ (have_.map List.length) ≠ some off then (s.dropStage key).refusedWrite key Err.segment
  else
    let all := (if off = 0 then [] else have_.getD []) ++ data
    if all.length ≥ r.size then ((s.dropStage key).applyWrite p key 0 (.bytes (all.take r.size))).2
    else
      let st : Staging := { key := key, data := all, since := s.us }
      { s.dropStage key with dict := { (s.dropStage key).dict with window := (s.dropStage key).dict.window ++ [st] } }

/-- Store in the slot of an object (R549, R550): its value or one of its bytes, staged where it is longer than one write. -/
def State.slotStore (s : State) (p : Path) (o : Option ObjRow) (key off : Nat) (data : List Byte) : State :=
  match o with
  | none => s
  | some r =>
    if off ≥ 0x8000 ∧ r.hasResult then s
    else if r.isBytes then s.stageStore p r key off data
    else if off = 0 ∧ data.length = typeBytes r.ty then (s.applyWrite p key 0 (.num (ofLe data))).2
    else (s.applyWrite p key 0 (.bytes data)).2

/-- A STORE to the window (R551, R553): RESULT itself is read-only. -/
def State.windowStore (s : State) (p : Path) (a : Nat) (data : List Byte) : State :=
  s.slotStore p (objRow (windowSlot a).1) (windowSlot a).1 (windowSlot a).2 data

/-! ## Service -/

/-- Who reads or writes a register on the request's behalf. -/
def whoOf (s : State) (b : BatchReq) : Requester :=
  match b.req.own with
  | some c => .control c
  | none => if b.req.src = s.node then .engine else .remote b.req.src

/-- A LOAD from HBM at a local address, for a request that named a node: it takes the path of 09 R296 to R300 for each uncorrectable word.
It waits while the twin is asked for one, and gets nothing of an activation word that failed its CRC. -/
def State.loadHbm (s : State) (node : Node) (b : BatchReq) (a n : Nat) : State :=
  let bad := s.badIn [(a, n)]
  let t := s.readBad [(a, n)]
  if bad.any s.withheld then
    (if bad.any (fun w => s.pageClass (pageOf w) == .activation) then t else { t with fab := { t.fab with held := t.fab.held ++ [(node, b)] } })
  else
    let r := t.hbmGet a n
    if r.2 then t.refuse node b Status.poisoned else t.respond b (okResponse node b r.1 0)

/-- Serve a LOAD that passed every check. -/
def State.serveLoad (s : State) (b : BatchReq) : State :=
  let a := b.req.addr.toNat
  let n := b.req.size.toNat
  match space a with
  | .hbm => s.loadHbm s.node b a n
  | .sram => (s.tally 0 n 0).respond b (okResponse s.node b (s.sramGet a n) 0)
  | .dict => s.respond b (okResponse s.node b (s.windowRead a n) 0)
  | _ =>
    let r := s.readRegs (whoOf s b) (a - cregBase) n
    r.2.respond b (okResponse s.node b r.1 0)

/-- Serve a STORE that passed every check; a register may still refuse it. -/
def State.serveStore (s : State) (b : BatchReq) : State :=
  let a := b.req.addr.toNat
  let data := fit b.req.size.toNat b.req.data
  let ok := fun (t : State) => t.respond b (okResponse s.node b [] 0)
  match space a with
  | .hbm => ok (s.hbmPut a data (mkTag s.oddNow 0))
  | .sram => ok ((s.sramPut a data).tally 0 data.length 0)
  | .dict => ok (s.windowStore (pathOf b) a data)
  | _ =>
    if (regWords (a - cregBase) data.length).any (regRefused (whoOf s b)) then s.refuse s.node b Status.protection
    else ok (s.storeRegs (whoOf s b) (a - cregBase) data).2

/-- Serve an atomic that passed every check: one indivisible step. -/
def State.serveAtomic (s : State) (b : BatchReq) : State :=
  let a := b.req.addr.toNat
  let n := b.req.size.toNat
  let old := ofLe (s.sramGet a n)
  ((s.sramPut a (leBytes n (atomicNew b.op.toNat n old b.req.opA.toNat b.req.opB.toNat))).tally 0 (2 * n) 0).respond b (okResponse s.node b [] old)

/-- A request addressed to this node. -/
def State.serve (s : State) (b : BatchReq) : State :=
  let e := s.checkReq b
  if e ≠ Status.ok then s.refuse s.node b e
  else if b.op.toNat = opLoad then s.serveLoad b
  else if b.op.toNat = opStore then s.serveStore b
  else s.serveAtomic b

/-! ## The covered identity (13 R442) -/

/-- Key under which the RESULT of a covered object is kept. -/
def coveredKey (key : Nat) : Nat := key + 0x1000000

/-- RESULT of a covered object takes a code. -/
def State.coverResult (s : State) (key code : Nat) : State :=
  let old := SMap.get (0, 0) s.dict.results (coveredKey key)
  { s with dict := { s.dict with results := SMap.set (0, 0) s.dict.results (coveredKey key) (code, (old.2 + 1) % 65536) } }

/-- Error of a write to a covered object: access right, type, range, and an enabled hod's lock. -/
def State.coverError (s : State) (r : ObjRow) (key n len : Nat) : Nat :=
  let h := key / 256 - 0x2100
  if r.acc = .ro ∨ r.acc = .const then Err.readOnly
  else if r.acc == .rwk then Err.keystone
  else if r.acc = .rwd then Err.notDrained
  else if r.isBytes || len != typeBytes r.ty then Err.type
  else if !s.inRange r key n then Err.range
  else if key / 65536 = 0x21 ∧ key % 256 ≠ 1 ∧ key % 256 ≠ 0xB ∧ s.hodNum (hodKey true h) O.hodEnable = 1 then Err.hodEnabled
  else Err.ok

/-- A STORE to a mirrored object of the covered node: it changes the covered stream's copy. Clearing ACTIVE ends the tenant's covered
sessions, setting ENABLE starts the hod's indices anew, as for the package's own. -/
def State.coverStore (s : State) (key n len : Nat) : State :=
  match objRow key with
  | none => s
  | some r =>
    let e := s.coverError r key n len
    let s := s.coverResult key e
    if e ≠ Err.ok then s
    else
      let o : Obj := ⟨key, dfltOf key⟩
      let k := 64 + (key / 256 - 0x2100) % 64
      let s := if key / 65536 = 0x21 ∧ key % 256 = 1 ∧ n = 1 ∧ s.hodNum k O.hodEnable = 0 then
          (((s.setHodNum k O.hodConsumerIndex 0).setHodNum k O.hodReturnRelease 0).setHodNum k O.hodReturnCommitted 0).setHodRt k
            { s.hodRt k with retSeq := 0, tornSince := none, admitted := 0 }
        else s
      let t := key / 256 - 0x6200
      let s := if key / 65536 = 0x62 ∧ key % 256 = 1 ∧ n = 0 then
          (s.sessionsOpen.filter (fun x => x.2.tenant == t && x.2.covered)).foldl (fun u x => (u.dropStrip x.1).editSession x.1 (fun y => y.because 0x20)) s
        else s
      s.setCnum true o n

/-- RESULT of a covered object, or the object itself. -/
def State.coverLoad (s : State) (a n : Nat) : List Byte :=
  let k := windowSlot a
  if k.2 ≥ 0x8000 then
    let r := SMap.get (0, 0) s.dict.results (coveredKey k.1)
    slice (leBytes 4 (r.1 * 65536 + r.2)) (k.2 - 0x8000) n
  else s.coveredRead a n

/-- Status of the first check a request addressed to the covered node fails. -/
def State.checkCovered (s : State) (f : Node) (b : BatchReq) : Nat :=
  let a := b.req.addr.toNat
  let n := b.req.size.toNat
  if !wellFormedReq b then Status.malformed
  else if !s.maskPasses f b || (space a == .dict && s.rangeRefused b) then Status.protection
  else
    let there := match space a with
      | .hbm => (s.coverAddr a).isSome && (s.coverAddr (a + n - 1)) == (s.coverAddr a).map (· + n - 1)
      | .dict => windowPopulated a n && coveredObject (windowSlot a).1
      | _ => false
    if !there then Status.unmapped
    else if space a == .dict && decide (n > 8) then Status.malformed
    else if isAtomicOp b.op.toNat then Status.noAtomic
    else Status.ok

/-- A request addressed to the node this package covers. -/
def State.serveCovered (s : State) (f : Node) (b : BatchReq) : State :=
  let e := s.checkCovered f b
  let a := b.req.addr.toNat
  let n := b.req.size.toNat
  if e ≠ Status.ok then s.refuse f b e
  else if space a = .dict then
    if b.op.toNat = opLoad then s.respond b (okResponse f b (s.coverLoad a n) 0)
    else
      let k := windowSlot a
      let t := if k.2 ≥ 0x8000 then s else s.coverStore k.1 (ofLe b.req.data) (if k.2 = 0 then n else 0)
      t.respond b (okResponse f b [] 0)
  else
    let c := (s.coverAddr a).getD 0
    if b.op.toNat = opLoad then s.loadHbm f b c n
    else (s.hbmPut c (fit n b.req.data) (mkTag s.oddNow 0)).respond b (okResponse f b [] 0)

/-! ## A request reaches the package -/

/-- A takeover of a node is declared and its image not yet imported: requests to it are discarded (13 R440). -/
def State.quietFor (s : State) (n : Node) : Bool := match s.mir.takeover with | some t => t.failed == n && !t.imported | none => false

/-- A fabric request: from one of the package's own control cores to another node it is issued, under SYSTEM_TENANT (17 R568); addressed to this node or to the
covered node it is checked and served. A package in OFF, HALT, STOPPED or GRAVE answers none (R410), and one being restored none until
its identity is its own again (13 R452). -/
def request (s : State) (op : Nat) (r : FabReq) : State :=
  let b : BatchReq := { op := BitVec.ofNat 8 op, req := r }
  if !s.pkg.st.hubRuns then s
  else
    match r.own with
    | some c =>
      if r.dest = s.node then (if s.us < s.fab.readyAt then s else s.serve { b with req := { r with src := s.node } })
      else s.ctlIssue c { b with req := { r with tenant := BitVec.ofNat 8 (s.num O.systemTenant) } }
    | none =>
      if r.dest = s.node then
        if s.mir.covered.isNone && s.mir.restore.isSome && r.src != s.node then s else s.serve b
      else if s.quietFor r.dest then s
      else if s.mir.covered = some r.dest ∧ s.pkg.st.runs then s.serveCovered r.dest b
      else s

/-- TWIN_DATA, and the LOADs that waited for it. -/
def twinArrival (s : State) (addr : BitVec 47) (ok : Bool) (granule : List Byte) (again : RawRead) : State :=
  let t := twinData s addr ok granule again
  t.fab.held.foldl (fun u x =>
    let a := x.2.req.addr.toNat
    u.loadHbm x.1 x.2 (if x.1 = u.node then a else (u.coverAddr a).getD a) x.2.req.size.toNat) { t with fab := { t.fab with held := [] } }

/-- WINDOW_STAGING_TIMEOUT: a staging that has received no STORE for 1 s is discarded (16 R551). -/
def windowStagingTimeout (s : State) (key : Key) : State :=
  { s with dict := { s.dict with window := s.dict.window.filter (fun x => !(x.key == key && decide (x.since + 1000000 ≤ s.us))) } }

/-! ## The commands -/

/-- LOAD. -/
def execLoad (r : FabReq) (s : State) : Host.Outcome State Fault Refusal := .next (request s 0x01 r)
/-- STORE. -/
def execStore (r : FabReq) (s : State) : Host.Outcome State Fault Refusal := .next (request s 0x02 r)
/-- FETCH_ADD. -/
def execFetchAdd (r : FabReq) (s : State) : Host.Outcome State Fault Refusal := .next (request s 0x10 r)
/-- SWAP. -/
def execSwap (r : FabReq) (s : State) : Host.Outcome State Fault Refusal := .next (request s 0x11 r)
/-- FETCH_AND. -/
def execFetchAnd (r : FabReq) (s : State) : Host.Outcome State Fault Refusal := .next (request s 0x12 r)
/-- FETCH_OR. -/
def execFetchOr (r : FabReq) (s : State) : Host.Outcome State Fault Refusal := .next (request s 0x13 r)
/-- FETCH_XOR. -/
def execFetchXor (r : FabReq) (s : State) : Host.Outcome State Fault Refusal := .next (request s 0x14 r)
/-- FETCH_MAX_U. -/
def execFetchMaxU (r : FabReq) (s : State) : Host.Outcome State Fault Refusal := .next (request s 0x15 r)
/-- CAS. -/
def execCas (r : FabReq) (s : State) : Host.Outcome State Fault Refusal := .next (request s 0x16 r)
/-- TWIN_DATA. -/
def execTwinData (_stack : Fin 16) (addr : BitVec 47) (ok : Bool) (granule : List Byte) (again : RawRead) (s : State) :
    Host.Outcome State Fault Refusal := .next (twinArrival s addr ok granule again)
/-- WINDOW_STAGING_TIMEOUT. -/
def execWindowStagingTimeout (key : Key) (s : State) : Host.Outcome State Fault Refusal := .next (windowStagingTimeout s key)

end Sys2Proof.Machine
end

