-- ==== Sys2Proof/Machine/Bridle.lean ====
section
/-! DEFINITION. The Bridle responder on the management segment (16_object_dictionary_and_bridle.md R538 to R548): frames, READ with
snapshots, WRITE with staging and kept responses, DISCOVER and NOTIFY. -/

namespace Sys2Proof.Machine

/-! ## The PDU (Table 16.7) -/

/-- A request's fields. -/
structure Pdu where
  op : Nat := 0
  seq : Nat := 0
  key : Nat := 0
  last : Bool := false
  typ : Nat := 0
  offset : Nat := 0
  length : Nat := 0
  data : List Byte := []
  deriving DecidableEq, Repr

/-- The fields of a PDU that R542 does not discard. -/
def parsePdu (l : List Byte) : Option Pdu :=
  let len := fieldBe l 0x10 2
  if l.length < 20 || u8 l 0 != 1 || !(u8 l 1 == 1 || u8 l 1 == 2 || u8 l 1 == 3) || u8 l 9 / 4 != 0 || u8 l 0xB != 0 || fieldBe l 0x12 2 != 0 ||
      decide (len > 1024) || decide (20 + len > l.length) then none
  else some {
    op := u8 l 1, seq := fieldBe l 2 2, key := fieldBe l 6 2 * 256 + u8 l 8, last := u8 l 9 % 2 == 1, typ := u8 l 0xA
    offset := fieldBe l 0xC 4, length := len, data := slice l 20 len }

/-- A PDU the package sends. -/
def pduBytes (op seq status key flags typ offset : Nat) (data : List Byte) : List Byte :=
  beBytes 1 1 ++ beBytes 1 op ++ beBytes 2 seq ++ beBytes 2 status ++ beBytes 2 (key / 256) ++ beBytes 1 (key % 256) ++ beBytes 1 flags ++
    beBytes 1 typ ++ zeros 1 ++ beBytes 4 offset ++ beBytes 2 data.length ++ zeros 2 ++ data

/-- A response to a request: its SEQ, INDEX, SUB and OFFSET, the object's type (R541). -/
def Pdu.response (p : Pdu) (status flags : Nat) (data : List Byte) : List Byte :=
  pduBytes (p.op + 0x80) p.seq status p.key flags ((objRow p.key).map (·.ty) |>.getD 0) p.offset data

/-- The payload of a frame that carries a PDU: padded with zeros to the Ethernet minimum of 46 bytes (R541). -/
def padded (pdu : List Byte) : List Byte := pdu ++ zeros (46 - pdu.length)

/-- Send a frame, counted in TX_FRAMES. -/
def State.sendFrame (s : State) (dest : BitVec 48) (pdu : List Byte) : State := (s.bump O.txFrames).emit (.frame dest (padded pdu))

/-- A response with its error counted in REFUSED. -/
def State.countRefused (s : State) (status : Nat) : State := if status = Err.ok then s else s.bump O.bridleRefused

/-! ## Snapshots and staging (R545, R546) -/

/-- 1 s of the management domain's timer, µs. -/
def oneSecond : Nat := 1000000

/-- Drop what has gone 1 s without use. -/
def State.expireBridle (s : State) : State :=
  { s with dict := { s.dict with
      staging := (match s.dict.staging with | some g => if g.since + oneSecond ≤ s.us then none else some g | none => none)
      snaps := s.dict.snaps.filter (fun x => decide (s.us < x.since + oneSecond)) } }

/-- A read from a source keeps its snapshot. -/
def State.touchSnap (s : State) (mac : BitVec 48) : State :=
  { s with dict := { s.dict with snaps := s.dict.snaps.map (fun x => if x.mac == mac then { x with since := s.us } else x) } }

/-- Take a snapshot for a source: at most four, a fifth replaces the oldest. -/
def State.takeSnap (s : State) (mac : BitVec 48) (key : Nat) (data : List Byte) : State :=
  let l := s.dict.snaps.filter (fun x => x.mac != mac)
  { s with dict := { s.dict with snaps := keepLast 4 (l ++ [{ mac := mac, key := key, data := data, since := s.us }]) } }

/-- READ of a STR or BLOB: status, MORE, data and the state. -/
def State.readSegment (s : State) (mac : BitVec 48) (p : Pdu) : Nat × Nat × List Byte × State :=
  let s := if p.offset = 0 then s.takeSnap mac p.key (s.readBytes p.key) else s
  match s.dict.snaps.find? (fun x => x.mac == mac && x.key == p.key) with
  | none => (Err.segment, 0, [], s)
  | some x => (Err.ok, if x.data.length > p.offset + p.length then 2 else 0, (x.data.drop p.offset).take p.length, s)

/-- READ (R545, R526): status, flags, data, state. -/
def State.bridleRead (s : State) (mac : BitVec 48) (p : Pdu) : Nat × Nat × List Byte × State :=
  let s := s.expireBridle.touchSnap mac
  let e := s.reachError (.bridle mac) p.key false
  if e ≠ Err.ok then (e, 0, [], s)
  else match objRow p.key with
    | none => (Err.noSubindex, 0, [], s)
    | some r =>
      if r.acc = .wo then (Err.writeOnly, 0, [], s)
      else if r.isBytes then s.readSegment mac p
      else (Err.ok, 0, beBytes (typeBytes r.ty) (s.readNum p.key), s)

/-- Apply a value that has arrived whole. -/
def State.bridleApply (s : State) (mac : BitVec 48) (p : Pdu) (data : List Byte) : Nat × State :=
  match objRow p.key with
  | some r =>
    let v : ObjVal := if !r.isBytes && data.length == typeBytes r.ty then .num (ofLe data.reverse) else .bytes data
    s.applyWrite (.bridle mac) p.key p.typ v
  | none => s.applyWrite (.bridle mac) p.key p.typ (.bytes data)

/-- The staging, replaced. -/
def State.setStaging (s : State) (g : Option Staging) : State := { s with dict := { s.dict with staging := g } }

/-- A WRITE refused with SEGMENT: its code is the object's RESULT (R546, R553). -/
def State.segmentRefused (s : State) (key : Nat) : Nat × State := (Err.segment, s.noteResult key Err.segment)

/-- A segment at a non-zero OFFSET while a staging is open (R546). -/
def State.bridleSegment (s : State) (mac : BitVec 48) (p : Pdu) : Nat × State :=
  match s.dict.staging with
  | none => s.segmentRefused p.key
  | some g =>
    if g.mac ≠ mac then s.segmentRefused p.key
    else if g.key ≠ p.key ∨ p.offset ≠ g.data.length ∨ (p.data.isEmpty ∧ !p.last) then (s.setStaging none).segmentRefused p.key
    else if p.last then (s.setStaging none).bridleApply mac p (g.data ++ p.data)
    else (Err.ok, s.setStaging (some { g with data := g.data ++ p.data, since := s.us }))

/-- WRITE (R546): status and state. -/
def State.bridleWrite (s : State) (mac : BitVec 48) (p : Pdu) : Nat × State :=
  let s := s.expireBridle
  let numeric := match objRow p.key with | some r => !r.isBytes | none => false
  if numeric && (p.offset != 0 || !p.last) then s.segmentRefused p.key
  else if p.offset ≠ 0 then s.bridleSegment mac p
  else
    let mine := match s.dict.staging with | some g => g.mac == mac | none => true
    if p.last then
      let same := match s.dict.staging with | some g => g.mac == mac && g.key == p.key | none => false
      (if same then s.setStaging none else s).bridleApply mac p p.data
    else if !mine then s.segmentRefused p.key
    else if p.data.isEmpty then (s.setStaging none).segmentRefused p.key
    else (Err.ok, s.setStaging (some { mac := mac, key := p.key, data := p.data, since := s.us }))

/-! ## Requests -/

/-- A READ that has reached the head of the queue. -/
def State.serveRead (s : State) (mac : BitVec 48) (p : Pdu) : State :=
  let r := s.bridleRead mac p
  (r.2.2.2.countRefused r.1).sendFrame mac (p.response r.1 r.2.1 r.2.2.1)

/-- A WRITE: applied once for each SEQ of a source among the last four (R544). -/
def State.serveWrite (s : State) (mac : BitVec 48) (p : Pdu) : State :=
  let others := s.dict.kept.filter (fun k => k.mac != mac)
  match s.dict.kept.find? (fun k => k.mac == mac && k.seq == p.seq) with
  | some k => ({ s with dict := { s.dict with kept := others ++ [k] } }.bump O.replayed).sendFrame mac k.pdu
  | none =>
    let r := s.bridleWrite mac p
    let t := r.2.countRefused r.1
    let pdu := p.response r.1 0 []
    let kept : List Kept := others ++ [{ mac := mac, seq := p.seq, pdu := pdu }]
    { t with dict := { t.dict with kept := keepLast 4 kept } }.sendFrame mac pdu

/-- A DISCOVER: its answer is due (SERIAL mod 64) × 100 µs later; one at a time (R547). -/
def State.serveDiscover (s : State) (mac : BitVec 48) (p : Pdu) : State :=
  match s.dict.discover with
  | some _ => s.bump O.rxDiscarded
  | none => { s with dict := { s.dict with discover := some (s.us + Config.serial.toNat % 64 * 100, mac, p.seq * 2 ^ 24 + p.key) } }

/-- A READ or WRITE takes a place in the request queue; the seventeenth in it is discarded (R543). -/
def State.queueRequest (s : State) (f : State → State) : State :=
  if s.dict.queued ≥ 16 then s.bump O.rxDiscarded else f { s with dict.queued := s.dict.queued + 1 }

/-- A frame on the segment: counted, checked by the MAC (R540) and by R542, and served by its OP. Without VAUX nothing answers. -/
def frame (s : State) (f : Frame) : State :=
  if s.pkg.st = .off then s
  else
    let s := s.bump O.rxFrames
    match (if f.good then parsePdu f.pdu else none) with
    | none => s.bump O.rxDiscarded
    | some p =>
      if f.broadcast && p.op != 3 then s.bump O.rxDiscarded
      else if p.op = 1 then s.queueRequest (fun t => t.serveRead f.mac p)
      else if p.op = 2 then s.queueRequest (fun t => t.serveWrite f.mac p)
      else s.serveDiscover f.mac p

/-- DISCOVER_ANSWER (R547). -/
def discoverAnswer (s : State) : State :=
  match s.dict.discover with
  | none => s
  | some (due, mac, k) =>
    if s.us < due then s
    else
      let data := beBytes 8 Config.serial.toNat ++ beBytes 8 Config.mac.toNat ++ beBytes 4 s.node.toNat ++ beBytes 1 s.pkg.st.code ++
        beBytes 1 (s.num O.plcaId) ++ beBytes 1 (s.num O.plcaEnable) ++ zeros 1 ++ zeros 8
      let p : Pdu := { op := 3, seq := k / 2 ^ 24, key := k % 2 ^ 24 }
      { s with dict := { s.dict with discover := none } }.sendFrame mac (p.response Err.ok 0 data)

/-- The NOTIFY of a tick's occasions (R548). -/
def State.sendNotify (s : State) : State :=
  if !s.dict.notifyDue then s
  else
    let s := { s with dict := { s.dict with notifyDue := false } }
    let dest := s.num O.notifyMac
    if dest = 0 ∨ s.pkg.st = .off then s
    else
      let last := match s.dict.lastStore with | some w => w.toNat | none => 0
      let data := beBytes 1 s.pkg.st.code ++ beBytes 1 (b2n s.pkg.err) ++ zeros 6 ++ beBytes 8 s.now.toNat ++ beBytes 16 last
      let q := s.dict.notifySeq
      { s with dict := { s.dict with notifySeq := q + 1 } }.sendFrame (BitVec.ofNat 48 dest) (pduBytes 5 q.toNat 0 0x102001 0 0 0 data)

/-- BRIDLE_STAGING_TIMEOUT: 1 s without a segment, or without a read (R545, R546). -/
def bridleStagingTimeout (s : State) : State := s.expireBridle

/-! ## The commands -/

/-- READ: the frame is served by what its PDU says. -/
def execRead (f : Frame) (s : State) : Host.Outcome State Fault Refusal := .next (frame s f)
/-- WRITE. -/
def execWrite (f : Frame) (s : State) : Host.Outcome State Fault Refusal := .next (frame s f)
/-- DISCOVER. -/
def execDiscover (f : Frame) (s : State) : Host.Outcome State Fault Refusal := .next (frame s f)
/-- DISCOVER_ANSWER. -/
def execDiscoverAnswer (s : State) : Host.Outcome State Fault Refusal := .next (discoverAnswer s)
/-- BRIDLE_STAGING_TIMEOUT. -/
def execBridleStagingTimeout (s : State) : Host.Outcome State Fault Refusal := .next (bridleStagingTimeout s)

end Sys2Proof.Machine
end

