-- ==== Sys2Proof/Machine/Boot.lean ====
section
/-! DEFINITION. The package's way through its states: power, reset, the boot stages, the end of ALIGN and of DRAINING
(00_scope.md R12 to R16; 14 R455, R456, R482; 17 R559, R561 to R565, R576; 18 R597 to R599). -/

namespace Sys2Proof.Machine

/-- VAUX_RISE: VAUX has come up, OFF becomes HALT (Table 0.5). -/
def vauxRise (s : State) : State :=
  if s.pkg.st ≠ .off then s
  else ({ s with pkg := { s.pkg with vaux := true } }.newTick).transition .halt

/-- VAUX_LOSS: the package enters OFF from any state (14 R456). -/
def vauxLoss (s : State) : State := if s.pkg.st = .off then s else s.newTick.transition .off

/-- RESET_N_FALL: taken low. HALT from every state but OFF and GRAVE; in STOPPED only while COOL_OK is high (18 R597). -/
def resetNFall (s : State) : State :=
  let s := { s with pkg := { s.pkg with resetN := false } }
  if s.pkg.st = .off ∨ s.pkg.st = .grave ∨ s.pkg.st = .halt ∨ (s.pkg.st = .stopped ∧ !s.pkg.coolOk) then s
  else s.transition .halt

/-- BOOT_START: 10 µs after the last of RESET_N, PWR_GOOD and COOL_OK was taken high (18 R598), and the boot ROM stage (17 R562). No
fabric request goes out for 2 × LOAD_BOUND ticks (12 R408). -/
def bootStart (s : State) : State :=
  if s.pkg.st ≠ .halt then s
  else
    let s := ({ s with pkg := { s.pkg with resetN := true, pwrGood := true, coolOk := true } }.newTick).transition .boot
    let s := { s with fab := { s.fab with readyAt := s.us + 2 * s.num O.loadBound } }
    s.bootRom

/-- KEYSTONE_STAGE (17 R563): the server for the control-core path, the record's values, LOCK. -/
def keystoneStage (s : State) : State :=
  if s.pkg.st ≠ .boot ∨ s.sec.stage ≠ .keystone then s
  else ({ s with dict := { s.dict with server := .controlOnly } }.selectKeystone).lockKeystone

/-- RUNTIME_LOAD (17 Table 17.3): the server opens, stored values are loaded (16 R531), the calibration set is checked (R576) and its
trim commanded (14 R462), FABRIC_K and WIRING take effect (11 R389), the four quarters form the gang. -/
def runtimeLoad (s : State) : State :=
  if s.pkg.st ≠ .boot ∨ s.sec.stage ≠ .runtimeLoad ∨ !s.sec.lock then s
  else
    let s := { s with dict := { s.dict with server := .running }, sec := { s.sec with stage := .hbmTraining } }
    let s := (s.dropObjects (fun k => k / 256 == 0x1011)).loadStored.checkCal
    let s := { s with
      lnk := { s.lnk with k := s.num O.fabricK, twist := s.num O.wiring == 1 }
      crs := { s.crs with gang := 15 } }
    s.command s.pwr.op

/-- HBM_TRAINING (17 R565): a stack that fails both trainings keeps the package in BOOT; else every word is initialised (09 R281) and
ALIGN begins. -/
def hbmTraining (s : State) (first second : BitVec 16) : State :=
  if s.pkg.st ≠ .boot ∨ s.sec.stage ≠ .hbmTraining then s
  else
    let failed := first &&& second
    if failed ≠ 0 then s.raise srcSec 0 0x93 2 failed.toNat
    else
      let s := { s with mem := s.mem.initStacks 0xFFFF, sec := { s.sec with stage := .runtime } }
      s.transition .align

/-- The first entry to READY after boot: the SVN fuses (17 R559) and the first RACK_TIMEOUT period (14 R482). -/
def State.firstReady (s : State) : State :=
  let blow := s.sec.commitSvn && decide (s.sec.imageSvn > s.sec.fuses)
  { s with
    sec := { s.sec with fuses := if blow then s.sec.imageSvn else s.sec.fuses }
    pwr := { s.pwr with rackFrom := some s.us } }

/-- ALIGN_COMPLETE: settled with RESTORE_HELD clear, and locked (02 R38; 11 R388). -/
def alignComplete (s : State) : State :=
  if s.pkg.st = .align ∧ s.lnk.plumb.st = .settled ∧ !s.lnk.plumb.restoreHeld ∧ s.clk.mode = .locked then
    let t := s.transition .ready
    if t.pkg.st = .ready ∧ !s.pkg.everReady then t.firstReady else t
  else s

/-- What DRAINED leaves of the courses: no stream runs, and none is planned. -/
def State.clearStreams (s : State) : State :=
  let s := s.unschedule (fun e => e == .cutoff false || e == .start false || e == .cutoff true || e == .start true || e == .preRamp)
  { s with crs := { s.crs with own := {}, covered := {} } }

/-- DRAIN_COMPLETE (16 R532): no session is open and no course runs; the merge buffers are written (09 R293), and a deferred clock
step is taken (02 R41). -/
def drainComplete (s : State) : State :=
  if s.pkg.st = .draining ∧ s.sessionsOpen = [] ∧ !s.crs.own.running ∧ !s.crs.covered.running then
    let f := s.flushAll
    if !f.allFlushed then f
    else
      let t := f.transition .drained
      if t.pkg.st = .drained then t.clearStreams.deferredStep else t
  else s

/-- A waiting STATE_REQUEST is taken at a tick boundary (16 R532; 00 R16). Entry to SERVING opens the own stream (02 R69). -/
def State.takeRequest (s : State) : State :=
  match s.pkg.request with
  | none => s
  | some r =>
    let f := if r = .drained then s.flushAll else s
    if r = .drained ∧ !f.allFlushed then f
    else
      let s := { f with pkg := { f.pkg with request := none } }
      let t := if r = .serving ∧ !s.hasLive then s else s.transition r
      if r = .serving ∧ t.pkg.st = .serving then t.openStream false else t

/-! ## The commands -/

/-- VAUX_RISE. -/
def execVauxRise (s : State) : Host.Outcome State Fault Refusal := .next (vauxRise s)
/-- VAUX_LOSS. -/
def execVauxLoss (s : State) : Host.Outcome State Fault Refusal := .next (vauxLoss s)
/-- RESET_N_FALL. -/
def execResetNFall (s : State) : Host.Outcome State Fault Refusal := .next (resetNFall s)
/-- BOOT_START. -/
def execBootStart (s : State) : Host.Outcome State Fault Refusal := .next (bootStart s)
/-- KEYSTONE_STAGE. -/
def execKeystoneStage (s : State) : Host.Outcome State Fault Refusal := .next (keystoneStage s)
/-- RUNTIME_LOAD. -/
def execRuntimeLoad (s : State) : Host.Outcome State Fault Refusal := .next (runtimeLoad s)
/-- HBM_TRAINING. -/
def execHbmTraining (first second : BitVec 16) (s : State) : Host.Outcome State Fault Refusal := .next (hbmTraining s first second)
/-- ALIGN_COMPLETE. -/
def execAlignComplete (s : State) : Host.Outcome State Fault Refusal := .next (alignComplete s)
/-- DRAIN_COMPLETE. -/
def execDrainComplete (s : State) : Host.Outcome State Fault Refusal := .next (drainComplete s)

end Sys2Proof.Machine
end

