-- ==== Sys2Proof/Machine/Boundary.lean ====
section
/-! DEFINITION. The tick-scheduled events of Table 2.2 and their order within one tick (02_course_clock_and_courses.md R53): the
command of an event first carries out what comes above it in the table and is due, and what a tick's commands have not carried out is
carried out before the tick ends (log entry 71). -/

namespace Sys2Proof.Machine

/-! ## What is due at the present tick -/

/-- A quarter's wake is granted at this tick (14 R478). -/
def State.wakeDue (s : State) : Bool := (wakeGrant s).pwr.waking != s.pwr.waking

/-- A switch, or its confirmation, is due. -/
def State.switchDue (s : State) : Bool :=
  s.clk.events.any (fun e => e.due == s.clk.tick && match e.ev with | .weightSwitch _ => true | .switchConfirm => true | _ => false)

/-- Hod k of a stream samples at this tick and has not yet (R62, R67). -/
def State.willSample (s : State) (k : Nat) : Bool :=
  s.samplesAt k && (s.hodRt k).waiting.isEmpty && (s.hodRt k).sampled != some s.clk.tick

/-- A sampling or a cut-off is due. -/
def State.samplingDue (s : State) : Bool :=
  (List.range (if s.pkg.st == .covering then 128 else 64)).any s.willSample ||
    s.clk.events.any (fun e => e.due == s.clk.tick && match e.ev with | .cutoff _ => true | _ => false)

/-- A course start is due. -/
def State.startDue (s : State) : Bool :=
  s.clk.events.any (fun e => e.due == s.clk.tick && match e.ev with | .start _ => true | _ => false)

/-- The exchange window opens or closes (07 R230). -/
def State.exchangeDue (s : State) : Bool :=
  (exchangeWindowOpen s).crs.exchangeOpen != s.crs.exchangeOpen || (exchangeWindowClose s).crs.exchangeOpen != s.crs.exchangeOpen

/-- A ramp or a pre-ramp is due. -/
def State.rampDue (s : State) : Bool :=
  s.clk.events.any (fun e => e.due == s.clk.tick && (e.ev.isRamp || e.ev == .preRamp))

/-- Something of an order below n of Table 2.2 is due. -/
def State.dueBefore (s : State) (n : Nat) : Bool :=
  s.pkg.st.hubRuns && s.clk.counting &&
    (decide (2 < n) && s.rampDue || decide (3 < n) && s.wakeDue || decide (4 < n) && s.switchDue || decide (5 < n) && s.samplingDue ||
      decide (6 < n) && s.startDue || decide (7 < n) && s.exchangeDue || decide (8 < n))

/-! ## Carrying it out -/

/-- Ramps that are due, in the order they were scheduled, and the pre-ramp. -/
def State.carryRamps (s : State) : State := preRamp (s.clk.events.foldl (fun t _ => rampEventApply t) s)

/-- Every sampling of the tick, and the cut-offs. -/
def State.carrySamplings (s : State) : State :=
  courseCutoff (courseCutoff ((List.finRange 64).foldl hodSampling s) false) true

/-- Carry out what is due of the orders 2 to 8 below n, in their order. -/
def State.carry (s : State) (n : Nat) : State :=
  let s := if 2 < n ∧ s.rampDue then s.carryRamps else s
  let s := if 3 < n ∧ s.wakeDue then wakeGrant s else s
  let s := if 4 < n ∧ s.switchDue then weightSwitch (switchConfirm s) else s
  let s := if 5 < n ∧ s.samplingDue then s.carrySamplings else s
  let s := if 6 < n ∧ s.startDue then courseStart (courseStart s false) true else s
  let s := if 7 < n ∧ s.exchangeDue then exchangeWindowOpen (exchangeWindowClose s) else s
  if 8 < n then scrubWindowOpen (scrubWindowClose s) else s

/-- The state in which an event of order n is carried out: what comes above it has been. -/
def State.before (s : State) (n : Nat) : State := if s.dueBefore n then s.carry n else s

/-- The end of a tick: whatever is due and no command has carried out, a planned hand-off among it (R45). -/
def State.endOfTick (s : State) : State :=
  let s := if s.pkg.st.hubRuns && s.clk.originating then masterHandoff s else s
  s.before 9

/-! ## The commands -/

/-- MASTER_HANDOFF. -/
def execMasterHandoff (s : State) : Host.Outcome State Fault Refusal := .next (masterHandoff s)
/-- RAMP_EVENT_APPLY. -/
def execRampEventApply (s : State) : Host.Outcome State Fault Refusal := .next (rampEventApply s)
/-- PRE_RAMP. -/
def execPreRamp (s : State) : Host.Outcome State Fault Refusal := .next (preRamp s)
/-- WAKE_GRANT. -/
def execWakeGrant (s : State) : Host.Outcome State Fault Refusal := .next (wakeGrant (s.before 3))
/-- SWITCH_CONFIRM. -/
def execSwitchConfirm (s : State) : Host.Outcome State Fault Refusal := .next (switchConfirm (s.before 4))
/-- WEIGHT_SWITCH. -/
def execWeightSwitch (s : State) : Host.Outcome State Fault Refusal := .next (weightSwitch (s.before 4))
/-- HOD_SAMPLING. -/
def execHodSampling (h : Fin 64) (s : State) : Host.Outcome State Fault Refusal := .next (hodSampling (s.before 5) h)
/-- COURSE_CUTOFF. -/
def execCourseCutoff (covered : Bool) (s : State) : Host.Outcome State Fault Refusal := .next (courseCutoff (s.before 5) covered)
/-- COURSE_START. -/
def execCourseStart (covered : Bool) (s : State) : Host.Outcome State Fault Refusal := .next (courseStart (s.before 6) covered)
/-- EXCHANGE_WINDOW_OPEN. -/
def execExchangeWindowOpen (s : State) : Host.Outcome State Fault Refusal := .next (exchangeWindowOpen (s.before 7))
/-- EXCHANGE_WINDOW_CLOSE. -/
def execExchangeWindowClose (s : State) : Host.Outcome State Fault Refusal := .next (exchangeWindowClose (s.before 7))
/-- SCRUB_WINDOW_OPEN. -/
def execScrubWindowOpen (s : State) : Host.Outcome State Fault Refusal := .next (scrubWindowOpen (s.before 8))
/-- SCRUB_WINDOW_CLOSE. -/
def execScrubWindowClose (s : State) : Host.Outcome State Fault Refusal := .next (scrubWindowClose (s.before 8))

end Sys2Proof.Machine
end

