-- ==== Sys2Proof/Machine/Clocking.lean ====
section
/-! DEFINITION. What one tick of the course clock brings when no command waits (log entry 2): the timers, the phase slew, what the
power manager accumulates, the tick boundary at which a STATE_REQUEST is taken, and the requesters that issue as they can. -/

namespace Sys2Proof.Machine

/-- The phase slews towards the parent's by at most 100 ppm, one 1,024th of a tick in ten ticks (02 R39, R40); in holdover the rate
stays as it was (R48). -/
def ClockUnit.slew (c : ClockUnit) : Int :=
  if c.mode == .holdover || c.tick.toNat % 10 != 0 then c.phaseError
  else if c.phaseError > 0 then c.phaseError - 1
  else if c.phaseError < 0 then c.phaseError + 1
  else 0

/-- The clock unit after one tick (02 R38 to R41, R43, R48, R50): the count, the consecutive ticks in phase, the elapsed holdover. The
sub-tick phase at which the tick's commands come is a free value (00 R10). With the boundary on a CCLK edge the phase difference is the
edge's. -/
def ClockUnit.advance (c : ClockUnit) (onCclk : Bool) (phase : BitVec 10) : ClockUnit :=
  let inPhase := c.counting && (c.parent.isSome || c.originating) && decide (c.phaseError.natAbs ≤ 16)
  { c with
    tick := if c.counting then c.tick + 1 else c.tick
    phase := phase
    phaseError := if onCclk then c.phaseError else c.slew
    lockRun := if inPhase then c.lockRun + 1 else 0
    holdElapsed := if c.mode == .holdover then c.holdElapsed + 1 else c.holdElapsed }

/-- The management domain's microsecond (15 R503). -/
def State.advanceNow (s : State) : State := { s with pkg := { s.pkg with now := s.pkg.now + 1 } }

/-- The course clock's tick; its generator stands still where the hub's clocks do (00 Table 0.5). -/
def State.advanceClock (s : State) : State := 
  if s.pkg.st.hubRuns then
    let d := s.drawNat
    { d.2 with clk := s.clk.advance s.onCclk (BitVec.ofNat 10 d.1) }
  else s

/-- ERR_N, whose release was asked for within its 10 µs, is released at their end (15 R494). -/
def State.dueRelease (s : State) : State := if s.pkg.errDue then s.releaseErr else s

/-- Gateways, the host bridge and the control cores issue what they hold as requests may be issued (12 R408, R413, R420). -/
def State.pumpAll (s : State) : State := if s.pkg.st.hubRuns then ((s.pumpGateway false).pumpGateway true).pumpHost.pumpCtl else s

/-- One tick on an empty queue: what the tick still has to carry out, then the boundary to the next. -/
def idleTick (s : State) : State :=
  if s.pkg.st = .off then s
  else s.endOfTick.settleRequest.newTick.powerTick.advanceNow.advanceClock.takeRequest.dueRelease.rollRate.pumpAll.sendNotify

end Sys2Proof.Machine
end

