-- ==== Sys2Proof/Machine/Dispatch.lean ====
section
/-! DEFINITION. One arm for each command: the direct call of its meaning. -/

namespace Sys2Proof.Machine

/-- What a command does to everything but the queue. -/
def exec (i : Instr) (s : State) : Host.Outcome State Fault Refusal :=
  match i with
  | .vauxRise => Sys2Proof.Machine.execVauxRise s
  | .vauxLoss => Sys2Proof.Machine.execVauxLoss s
  | .resetNFall => Sys2Proof.Machine.execResetNFall s
  | .bootStart => Sys2Proof.Machine.execBootStart s
  | .keystoneStage => Sys2Proof.Machine.execKeystoneStage s
  | .runtimeLoad => Sys2Proof.Machine.execRuntimeLoad s
  | .hbmTraining first second => Sys2Proof.Machine.execHbmTraining first second s
  | .alignComplete => Sys2Proof.Machine.execAlignComplete s
  | .stateRequestReady p => Sys2Proof.Machine.execStateRequestReady p s
  | .stateRequestServing p => Sys2Proof.Machine.execStateRequestServing p s
  | .stateRequestDraining p => Sys2Proof.Machine.execStateRequestDraining p s
  | .stateRequestDrained p => Sys2Proof.Machine.execStateRequestDrained p s
  | .drainComplete => Sys2Proof.Machine.execDrainComplete s
  | .timeWordSend => Sys2Proof.Machine.execTimeWordSend s
  | .timeWord port w phase => Sys2Proof.Machine.execTimeWord port w phase s
  | .parentTimeout => Sys2Proof.Machine.execParentTimeout s
  | .clockLock => Sys2Proof.Machine.execClockLock s
  | .cclkEdge gapNs offNs => Sys2Proof.Machine.execCclkEdge gapNs offNs s
  | .cclkInvalid => Sys2Proof.Machine.execCclkInvalid s
  | .handoffTick p v => Sys2Proof.Machine.execHandoffTick p v s
  | .masterHandoff => Sys2Proof.Machine.execMasterHandoff s
  | .masterTimeout => Sys2Proof.Machine.execMasterTimeout s
  | .holdoverEnter => Sys2Proof.Machine.execHoldoverEnter s
  | .holdoverLimit => Sys2Proof.Machine.execHoldoverLimit s
  | .hodEnable p h => Sys2Proof.Machine.execHodEnable p h s
  | .hodDisable p h => Sys2Proof.Machine.execHodDisable p h s
  | .hodSampling h => Sys2Proof.Machine.execHodSampling h s
  | .courseCutoff covered => Sys2Proof.Machine.execCourseCutoff covered s
  | .closeMarker src course close => Sys2Proof.Machine.execCloseMarker src course close s
  | .markerTimeout covered => Sys2Proof.Machine.execMarkerTimeout covered s
  | .courseStart covered => Sys2Proof.Machine.execCourseStart covered s
  | .courseClose covered => Sys2Proof.Machine.execCourseClose covered s
  | .grant covered course counter amount sender inst => Sys2Proof.Machine.execGrant covered course counter amount sender inst s
  | .retireRequest r => Sys2Proof.Machine.execRetireRequest r s
  | .runClaim r => Sys2Proof.Machine.execRunClaim r s
  | .steal q nn => Sys2Proof.Machine.execSteal q nn s
  | .stealRetryWait q nn => Sys2Proof.Machine.execStealRetryWait q nn s
  | .depthPublish q nn => Sys2Proof.Machine.execDepthPublish q nn s
  | .coreLeave who q nn => Sys2Proof.Machine.execCoreLeave who q nn s
  | .coreWithdrawn q nn => Sys2Proof.Machine.execCoreWithdrawn q nn s
  | .coreRejoin who q nn => Sys2Proof.Machine.execCoreRejoin who q nn s
  | .matmul r => Sys2Proof.Machine.execMatmul r s
  | .accCombine r => Sys2Proof.Machine.execAccCombine r s
  | .attend r => Sys2Proof.Machine.execAttend r s
  | .attnMerge r => Sys2Proof.Machine.execAttnMerge r s
  | .routerTopk r => Sys2Proof.Machine.execRouterTopk r s
  | .expertScatter r => Sys2Proof.Machine.execExpertScatter r s
  | .expertGather r => Sys2Proof.Machine.execExpertGather r s
  | .normRms r => Sys2Proof.Machine.execNormRms r s
  | .normCentred r => Sys2Proof.Machine.execNormCentred r s
  | .activate r => Sys2Proof.Machine.execActivate r s
  | .rotaryScore r => Sys2Proof.Machine.execRotaryScore r s
  | .softmax r => Sys2Proof.Machine.execSoftmax r s
  | .residualAdd r => Sys2Proof.Machine.execResidualAdd r s
  | .requant r => Sys2Proof.Machine.execRequant r s
  | .embed r => Sys2Proof.Machine.execEmbed r s
  | .probs r => Sys2Proof.Machine.execProbs r s
  | .sample r => Sys2Proof.Machine.execSample r s
  | .scaffoldVerify r => Sys2Proof.Machine.execScaffoldVerify r s
  | .kvSet r => Sys2Proof.Machine.execKvSet r s
  | .kvShip r => Sys2Proof.Machine.execKvShip r s
  | .kvRepack r => Sys2Proof.Machine.execKvRepack r s
  | .satchelStore r => Sys2Proof.Machine.execSatchelStore r s
  | .gateMask r => Sys2Proof.Machine.execGateMask r s
  | .lsumCombine r => Sys2Proof.Machine.execLsumCombine r s
  | .copy r => Sys2Proof.Machine.execCopy r s
  | .collect r got => Sys2Proof.Machine.execCollect r got s
  | .fence r => Sys2Proof.Machine.execFence r s
  | .gatherRows r => Sys2Proof.Machine.execGatherRows r s
  | .placementRequest covered inst => Sys2Proof.Machine.execPlacementRequest covered inst s
  | .expertTransfer covered sender m => Sys2Proof.Machine.execExpertTransfer covered sender m s
  | .expertReturn covered sender m => Sys2Proof.Machine.execExpertReturn covered sender m s
  | .exchangeWindowOpen => Sys2Proof.Machine.execExchangeWindowOpen s
  | .exchangeWindowClose => Sys2Proof.Machine.execExchangeWindowClose s
  | .pageRecord src rec payload => Sys2Proof.Machine.execPageRecord src rec payload s
  | .closingRecord src rec => Sys2Proof.Machine.execClosingRecord src rec s
  | .shipmentTimeout id => Sys2Proof.Machine.execShipmentTimeout id s
  | .handoverRequest src rec => Sys2Proof.Machine.execHandoverRequest src rec s
  | .handoverGrant src rec => Sys2Proof.Machine.execHandoverGrant src rec s
  | .handoverDecline src rec => Sys2Proof.Machine.execHandoverDecline src rec s
  | .handoverRecord src rec => Sys2Proof.Machine.execHandoverRecord src rec s
  | .handoverAccept src rec => Sys2Proof.Machine.execHandoverAccept src rec s
  | .handoverRefuse src rec => Sys2Proof.Machine.execHandoverRefuse src rec s
  | .handoverWaitExpiry slot => Sys2Proof.Machine.execHandoverWaitExpiry slot s
  | .grantHoldExpiry slot => Sys2Proof.Machine.execGrantHoldExpiry slot s
  | .verdictTimeout slot => Sys2Proof.Machine.execVerdictTimeout slot s
  | .ttlExpiry slot => Sys2Proof.Machine.execTtlExpiry slot s
  | .quotaWaitExpiry slot => Sys2Proof.Machine.execQuotaWaitExpiry slot s
  | .splice p req => Sys2Proof.Machine.execSplice p req s
  | .tenantActivate p t => Sys2Proof.Machine.execTenantActivate p t s
  | .tenantDeactivate p t => Sys2Proof.Machine.execTenantDeactivate p t s
  | .hbmRead who addr first again => Sys2Proof.Machine.execHbmRead who addr first again s
  | .hbmWrite who addr data scaleExp => Sys2Proof.Machine.execHbmWrite who addr data scaleExp s
  | .mergeTimeout stack first again => Sys2Proof.Machine.execMergeTimeout stack first again s
  | .twinData stack addr ok granule again => Sys2Proof.Machine.execTwinData stack addr ok granule again s
  | .farReadDeadline slot layer page => Sys2Proof.Machine.execFarReadDeadline slot layer page s
  | .sramRead who addr raw => Sys2Proof.Machine.execSramRead who addr raw s
  | .scrubWindowOpen => Sys2Proof.Machine.execScrubWindowOpen s
  | .scrubWindowClose => Sys2Proof.Machine.execScrubWindowClose s
  | .scrubRead stack pch first again => Sys2Proof.Machine.execScrubRead stack pch first again s
  | .regionWrite p sub v => Sys2Proof.Machine.execRegionWrite p sub v s
  | .hbmLogClear p v => Sys2Proof.Machine.execHbmLogClear p v s
  | .sramLogClear p v => Sys2Proof.Machine.execSramLogClear p v s
  | .marginStart p v => Sys2Proof.Machine.execMarginStart p v s
  | .marginDone aborted => Sys2Proof.Machine.execMarginDone aborted s
  | .loadStart p v => Sys2Proof.Machine.execLoadStart p v s
  | .loadPost p v => Sys2Proof.Machine.execLoadPost p v s
  | .chunkConvert => Sys2Proof.Machine.execChunkConvert s
  | .loadAbort p v => Sys2Proof.Machine.execLoadAbort p v s
  | .copyFree p k v => Sys2Proof.Machine.execCopyFree p k v s
  | .areaWrite p sub v => Sys2Proof.Machine.execAreaWrite p sub v s
  | .switchRequest p req => Sys2Proof.Machine.execSwitchRequest p req s
  | .switchNotice src at_ epoch digest => Sys2Proof.Machine.execSwitchNotice src at_ epoch digest s
  | .switchConfirm => Sys2Proof.Machine.execSwitchConfirm s
  | .switchCancel src epoch => Sys2Proof.Machine.execSwitchCancel src epoch s
  | .weightSwitch => Sys2Proof.Machine.execWeightSwitch s
  | .twinFetch port src epoch part ownBase twinBase off => Sys2Proof.Machine.execTwinFetch port src epoch part ownBase twinBase off s
  | .flitReceive port lanes => Sys2Proof.Machine.execFlitReceive port lanes s
  | .replay port fseq => Sys2Proof.Machine.execReplay port fseq s
  | .replayTimer port => Sys2Proof.Machine.execReplayTimer port s
  | .linkDown port cause => Sys2Proof.Machine.execLinkDown port cause s
  | .echo port payload reply clock => Sys2Proof.Machine.execEcho port payload reply clock s
  | .creditInit port payload => Sys2Proof.Machine.execCreditInit port payload s
  | .laneMap port payload => Sys2Proof.Machine.execLaneMap port payload s
  | .laneFail port lane => Sys2Proof.Machine.execLaneFail port lane s
  | .rewiden port healthy => Sys2Proof.Machine.execRewiden port healthy s
  | .portTrainStart port => Sys2Proof.Machine.execPortTrainStart port s
  | .laneDetect port lane => Sys2Proof.Machine.execLaneDetect port lane s
  | .trainStateLimit port => Sys2Proof.Machine.execTrainStateLimit port s
  | .deskewAligned port => Sys2Proof.Machine.execDeskewAligned port s
  | .portEnable p port v => Sys2Proof.Machine.execPortEnable p port v s
  | .routeRecompute => Sys2Proof.Machine.execRouteRecompute s
  | .packetRoute pkt => Sys2Proof.Machine.execPacketRoute pkt s
  | .hello port payload => Sys2Proof.Machine.execHello port payload s
  | .beacon port payload => Sys2Proof.Machine.execBeacon port payload s
  | .gatherQuietExpiry => Sys2Proof.Machine.execGatherQuietExpiry s
  | .assign port payload => Sys2Proof.Machine.execAssign port payload s
  | .assignQuietExpiry => Sys2Proof.Machine.execAssignQuietExpiry s
  | .report port payload => Sys2Proof.Machine.execReport port payload s
  | .reportTimeout => Sys2Proof.Machine.execReportTimeout s
  | .fabric port payload => Sys2Proof.Machine.execFabric port payload s
  | .join port payload => Sys2Proof.Machine.execJoin port payload s
  | .joinWaitExpiry => Sys2Proof.Machine.execJoinWaitExpiry s
  | .call port payload => Sys2Proof.Machine.execCall port payload s
  | .plumbRestart p v => Sys2Proof.Machine.execPlumbRestart p v s
  | .load r => Sys2Proof.Machine.execLoad r s
  | .store r => Sys2Proof.Machine.execStore r s
  | .fetchAdd r => Sys2Proof.Machine.execFetchAdd r s
  | .swap r => Sys2Proof.Machine.execSwap r s
  | .fetchAnd r => Sys2Proof.Machine.execFetchAnd r s
  | .fetchOr r => Sys2Proof.Machine.execFetchOr r s
  | .fetchXor r => Sys2Proof.Machine.execFetchXor r s
  | .fetchMaxU r => Sys2Proof.Machine.execFetchMaxU r s
  | .cas r => Sys2Proof.Machine.execCas r s
  | .fabricResponse r => Sys2Proof.Machine.execFabricResponse r s
  | .requestTimeout tag => Sys2Proof.Machine.execRequestTimeout tag s
  | .combineTimeout record => Sys2Proof.Machine.execCombineTimeout record s
  | .lintelFlush g => Sys2Proof.Machine.execLintelFlush g s
  | .lintelBatch g src batch reqs => Sys2Proof.Machine.execLintelBatch g src batch reqs s
  | .lintelReturn g recs => Sys2Proof.Machine.execLintelReturn g recs s
  | .hostWrite bar offset data relaxed poisoned => Sys2Proof.Machine.execHostWrite bar offset data relaxed poisoned s
  | .hostRead bar offset len => Sys2Proof.Machine.execHostRead bar offset len s
  | .hostAtomic bar offset op size opA opB => Sys2Proof.Machine.execHostAtomic bar offset op size opA opB s
  | .hostIrq src line => Sys2Proof.Machine.execHostIrq src line s
  | .winEnable p w v => Sys2Proof.Machine.execWinEnable p w v s
  | .mirror r => Sys2Proof.Machine.execMirror r s
  | .mirrorClose r => Sys2Proof.Machine.execMirrorClose r s
  | .mirrorAck course => Sys2Proof.Machine.execMirrorAck course s
  | .beatSend => Sys2Proof.Machine.execBeatSend s
  | .beatLoss => Sys2Proof.Machine.execBeatLoss s
  | .failNotice node kind => Sys2Proof.Machine.execFailNotice node kind s
  | .aliasSet src failed cover seq => Sys2Proof.Machine.execAliasSet src failed cover seq s
  | .aliasAck src seq => Sys2Proof.Machine.execAliasAck src seq s
  | .takeoverQuietEnd => Sys2Proof.Machine.execTakeoverQuietEnd s
  | .coveringEnter => Sys2Proof.Machine.execCoveringEnter s
  | .rejoin identity closed members => Sys2Proof.Machine.execRejoin identity closed members s
  | .shardDown node => Sys2Proof.Machine.execShardDown node s
  | .stallLimit member => Sys2Proof.Machine.execStallLimit member s
  | .restoreStart p v => Sys2Proof.Machine.execRestoreStart p v s
  | .restore m => Sys2Proof.Machine.execRestore m s
  | .plinthCommand => Sys2Proof.Machine.execPlinthCommand s
  | .telemetryFrame w => Sys2Proof.Machine.execTelemetryFrame w s
  | .plinthSilent => Sys2Proof.Machine.execPlinthSilent s
  | .plinthLost => Sys2Proof.Machine.execPlinthLost s
  | .reinUpdate => Sys2Proof.Machine.execReinUpdate s
  | .holdEnd => Sys2Proof.Machine.execHoldEnd s
  | .excessInterval => Sys2Proof.Machine.execExcessInterval s
  | .thermalHoldStep readings => Sys2Proof.Machine.execThermalHoldStep readings s
  | .thermTrip sensor reading => Sys2Proof.Machine.execThermTrip sensor reading s
  | .opStep => Sys2Proof.Machine.execOpStep s
  | .opClockChange => Sys2Proof.Machine.execOpClockChange s
  | .wearCharge => Sys2Proof.Machine.execWearCharge s
  | .rampEvent p req => Sys2Proof.Machine.execRampEvent p req s
  | .rampEventApply => Sys2Proof.Machine.execRampEventApply s
  | .preRamp => Sys2Proof.Machine.execPreRamp s
  | .wakeGrant => Sys2Proof.Machine.execWakeGrant s
  | .wakeComplete q => Sys2Proof.Machine.execWakeComplete q s
  | .pwrGoodFall => Sys2Proof.Machine.execPwrGoodFall s
  | .supplyPullEnd => Sys2Proof.Machine.execSupplyPullEnd s
  | .rackBeat p v => Sys2Proof.Machine.execRackBeat p v s
  | .rackTimeout => Sys2Proof.Machine.execRackTimeout s
  | .coolOkFall => Sys2Proof.Machine.execCoolOkFall s
  | .faultIntake => Sys2Proof.Machine.execFaultIntake s
  | .fcuTrapDone who v => Sys2Proof.Machine.execFcuTrapDone who v s
  | .fcuKick who c v => Sys2Proof.Machine.execFcuKick who c v s
  | .watchdog c => Sys2Proof.Machine.execWatchdog c s
  | .fcuInject who word3 => Sys2Proof.Machine.execFcuInject who word3 s
  | .errClear p v => Sys2Proof.Machine.execErrClear p v s
  | .faultLogClear p v => Sys2Proof.Machine.execFaultLogClear p v s
  | .graveClear p v => Sys2Proof.Machine.execGraveClear p v s
  | .icxClaim who c => Sys2Proof.Machine.execIcxClaim who c s
  | .icxEoi who c v => Sys2Proof.Machine.execIcxEoi who c v s
  | .icxPendSet who w v => Sys2Proof.Machine.execIcxPendSet who w v s
  | .icxPendClr who w v => Sys2Proof.Machine.execIcxPendClr who w v s
  | .icxEnSet who w v => Sys2Proof.Machine.execIcxEnSet who w v s
  | .icxEnClr who w v => Sys2Proof.Machine.execIcxEnClr who w v s
  | .icxSwSet who v => Sys2Proof.Machine.execIcxSwSet who v s
  | .holdoffExpiry g => Sys2Proof.Machine.execHoldoffExpiry g s
  | .coalesceTimeout src => Sys2Proof.Machine.execCoalesceTimeout src s
  | .dozeEnter => Sys2Proof.Machine.execDozeEnter s
  | .dozeWake => Sys2Proof.Machine.execDozeWake s
  | .read f => Sys2Proof.Machine.execRead f s
  | .write f => Sys2Proof.Machine.execWrite f s
  | .discover f => Sys2Proof.Machine.execDiscover f s
  | .discoverAnswer => Sys2Proof.Machine.execDiscoverAnswer s
  | .bridleStagingTimeout => Sys2Proof.Machine.execBridleStagingTimeout s
  | .windowStagingTimeout key => Sys2Proof.Machine.execWindowStagingTimeout key s
  | .objectWrite w => Sys2Proof.Machine.execObjectWrite w s
  | .dictStore p v => Sys2Proof.Machine.execDictStore p v s
  | .storeImageDone good => Sys2Proof.Machine.execStoreImageDone good s
  | .dictDefaults p v => Sys2Proof.Machine.execDictDefaults p v s
  | .plcaEnable p v => Sys2Proof.Machine.execPlcaEnable p v s
  | .fwUpdate p v => Sys2Proof.Machine.execFwUpdate p v s
  | .keystonePending p rec => Sys2Proof.Machine.execKeystonePending p rec s
  | .attestNonce p nonce => Sys2Proof.Machine.execAttestNonce p nonce s
  | .attestDone => Sys2Proof.Machine.execAttestDone s
  | .calWrite p set => Sys2Proof.Machine.execCalWrite p set s
  | .selftestDone q nn pass => Sys2Proof.Machine.execSelftestDone q nn pass s
  | .escanStart p v => Sys2Proof.Machine.execEscanStart p v s
  | .escanDone => Sys2Proof.Machine.execEscanDone s
  | .fbistStart p v => Sys2Proof.Machine.execFbistStart p v s
  | .fbistDone failedCores stores hbm errors => Sys2Proof.Machine.execFbistDone failedCores stores hbm errors s
  | .flitBoundary port => Sys2Proof.Machine.execFlitBoundary port s
  | .beat tick body => Sys2Proof.Machine.execBeat tick body s
  | .coolOkRise => Sys2Proof.Machine.execCoolOkRise s
  | .pcieStateChange state rate width => Sys2Proof.Machine.execPcieStateChange state rate width s
  | .flashWriteDone good => Sys2Proof.Machine.execFlashWriteDone good s
  | .handbackQuietEnd => Sys2Proof.Machine.execHandbackQuietEnd s
  | .lintelReturnFlush g => Sys2Proof.Machine.execLintelReturnFlush g s

end Sys2Proof.Machine
end

