-- ==== Sys2Proof/Safety.lean ====
section
/-! DEFINITION. What the claims call a safe run: the package never stops, its memory stays in canonical form, its state moves only along
the table's transitions, and what is irrevocable only grows. -/

namespace Sys2Proof.Machine

/-- An outcome that is a next state: no fault, no refusal. -/
def goesOn (o : Host.Outcome State Fault Refusal) : Prop := ∃ t, o = .next t

/-- No transition has been taken in the present tick and no request waits: R16 discards nothing. -/
def calm (s : State) : Prop := s.pkg.taken = none ∧ s.pkg.request = none

/-- Table 0.5 allows a target from the present state (00_scope.md R12). -/
def allowed (s : State) (t : PkgState) : Prop := edge s.pkg.st t = true

/-- The package state stays, or moves along one transition of Table 0.5, which one into DRAINING may follow (log entry 8). -/
def moves (s t : State) : Prop :=
  t.pkg.st = s.pkg.st ∨ allowed s t.pkg.st ∨ (t.pkg.st = .draining ∧ ∃ m, allowed s m ∧ edge m .draining = true)

/-- The package state stays, or it becomes DRAINING along a transition of Table 0.5. -/
def drains (s t : State) : Prop := t.pkg.st = s.pkg.st ∨ (t.pkg.st = .draining ∧ allowed s .draining)

/-- What nothing inside the package takes back, from a state to a later one: the queue stays the environment's, memory keeps its canonical
form, what has been sent stays sent (the model's own record of the outputs), blown fuses stay blown (17 R559). -/
structure Kept₀ (s t : State) : Prop where
  queue : t.pending = s.pending
  mem : Memory.wf s.mem.mem → Memory.wf t.mem.mem
  out : ∃ more, t.out = s.out ++ more
  fuses : s.sec.fuses ≤ t.sec.fuses
  free : s.free ≤ t.free

/-- The same, with the package state where it was or DRAINING: what every operation of the package below a transition does. -/
structure Keeps (s t : State) : Prop extends Kept₀ s t where
  st : drains s t

/-- The same, with the package state moved along the table: what every command does. -/
structure Moved (s t : State) : Prop extends Kept₀ s t where
  st : moves s t

/-- The pieces of State that a frame names: its units, the package unit parted from ERR_N's fields, the dictionary unit parted into the
objects (FAULTS_DROPPED apart, which belongs to the fault collector), what calls for a NOTIFY, and the server's own fields. -/
inductive Piece where
  | pkg | errN | clk | crs | cred | eng | ses | mem | wts | lnk | fab | mir | pwr | fcu | icx | objects | notify | server | sec | out | free
  deriving DecidableEq, Repr

/-- A piece is the same in two states. -/
def samePiece (s t : State) : Piece → Prop
  | .pkg => t.pkg = { s.pkg with err := t.pkg.err, errAt := t.pkg.errAt, errDue := t.pkg.errDue }
  | .errN => t.pkg.err = s.pkg.err ∧ t.pkg.errAt = s.pkg.errAt ∧ t.pkg.errDue = s.pkg.errDue
  | .clk => t.clk = s.clk
  | .crs => t.crs = s.crs
  | .cred => t.cred = s.cred
  | .eng => t.eng = s.eng
  | .ses => t.ses = s.ses
  | .mem => t.mem = s.mem
  | .wts => t.wts = s.wts
  | .lnk => t.lnk = s.lnk
  | .fab => t.fab = s.fab
  | .mir => t.mir = s.mir
  | .pwr => t.pwr = s.pwr
  | .fcu => t.fcu = s.fcu ∧ t.num O.faultsDropped = s.num O.faultsDropped
  | .icx => t.icx = s.icx
  | .objects => ∀ o : Obj, (o.key ≠ O.faultsDropped.key → t.num o = s.num o) ∧ t.blob o = s.blob o
  | .notify => t.dict.notifyDue = s.dict.notifyDue ∧ t.dict.lastStore = s.dict.lastStore
  | .server => t.dict = { s.dict with
      nums := t.dict.nums, blobs := t.dict.blobs, notifyDue := t.dict.notifyDue, lastStore := t.dict.lastStore }
  | .sec => t.sec = s.sec
  | .out => t.out = s.out
  | .free => t.free = s.free

/-- The frame: every piece outside the list is the same, and so is the queue. -/
def changesOnly (l : List Piece) (s t : State) : Prop := t.pending = s.pending ∧ ∀ p, p ∉ l → samePiece s t p

/-- A write of a value to an object passes orders 1 to 6 of Table 16.4 (16 R527): what is left are the checks of the rule that owns it. -/
def passes (s : State) (p : Path) (o : Obj) (v : ObjVal) : Prop := s.writeError p o.key 0 v = Err.ok

/-- RESULT of an object: the code of the latest write and the count of writes (16 R553). -/
def resultOf (s : State) (key : Nat) : Nat × Nat := SMap.get (0, 0) s.dict.results key

/-- A stream's credit state but for the ROWS that its instances have written. -/
def Parity.bare (p : Parity) : Parity := { p with rows := [] }

/-- The credit unit but for its cores and the ROWS that instances have written. -/
def CreditUnit.bare (c : CreditUnit) : CreditUnit :=
  { c with own0 := c.own0.bare, own1 := c.own1.bare, cov0 := c.cov0.bare, cov1 := c.cov1.bare, cores := [] }

/-- No stored word of HBM differs from what its check bytes say, so that none reads as uncorrectable (09 R284, R296). -/
def sound (s : State) : Prop := s.mem.chk = []

/-- The core has run an instance of r: memory became m, every write is acknowledged, the other cores are as before, and so
are the state words and counters, the course clock, the fabric requesters, the security and router engines. -/
structure Ran (s t : State) (r : Run) (m : MemUnit) : Prop where
  mem : t.mem = m
  core : t.coreAt (runCore r) = { s.coreAt (runCore r) with done := true }
  others : ∀ k, k ≠ runCore r → t.coreAt k = s.coreAt k
  same : t.cred.bare = s.cred.bare ∧ t.clk = s.clk ∧ t.fab = s.fab ∧ t.sec = s.sec ∧ t.eng = s.eng

/-- Every object but those named reads as before (FAULTS_DROPPED apart). -/
def objectsBut (keys : List Nat) (s t : State) : Prop :=
  ∀ o : Obj, o.key ∉ keys → (o.key ≠ O.faultsDropped.key → t.num o = s.num o) ∧ t.blob o = s.blob o

end Sys2Proof.Machine
end

