-- ==== Sys2Proof/Certificates/Slice0/Obligations.lean ====
section
/-! DEFINITION. The statements for the provers. A statement whose conclusion is `exec c s = .next t`, or that there is such a t with what
it holds, says where the command completes and what it does; its hypotheses are on the state and the operands alone. -/

open Sys2Proof Sys2Proof.Machine

/-- A step takes the command at the front of the queue and runs it with the queue's rest. -/
def Obligations.StepRunsFront : Prop :=
  ∀ (c : Instr) (rest : List Instr) (s : State), step { s with pending := c :: rest } = exec c { s with pending := rest }

/-- An idle step is one tick (the model's choice, log entry 2). -/
def Obligations.IdleTick : Prop :=
  ∀ s : State,
    (s.pending = [] → step s = .next (idleTick s)) ∧ (s.pkg.st = .off → idleTick s = s) ∧
    s.advanceNow.pkg.now = s.pkg.now + 1 ∧
    (s.pkg.st.hubRuns = true → s.advanceClock.clk = s.clk.advance s.onCclk (BitVec.ofNat 10 s.drawNat.1)) ∧
    (∀ (on : Bool) (p : BitVec 10), (s.clk.advance on p).tick = (if s.clk.counting then s.clk.tick + 1 else s.clk.tick) ∧ (s.clk.advance on p).phase = p) ∧ (s.pkg.st.hubRuns = false → s.advanceClock = s)

/-- No command ends in a fault or a refusal. -/
def Obligations.EveryCommandCompletes : Prop := ∀ (c : Instr) (s : State), goesOn (exec c s)

/-- 00 R12: every command, and every idle step, moves the package only along the transitions of Table 0.5. -/
def Obligations.PackageMovesAlongTable : Prop :=
  (∀ (c : Instr) (s t : State), exec c s = .next t → moves s t) ∧
  (∀ s t : State, s.pending = [] → step s = .next t → ∃ u : State, drains s u ∧ moves u t)

/-- Every step keeps the memory's canonical form. -/
def Obligations.MemoryCanonicalKept : Prop := ∀ s t : State, Memory.wf s.mem.mem → step s = .next t → Memory.wf t.mem.mem

/-- The canonical form holds at reset. -/
def Obligations.MemoryCanonicalAtReset : Prop := Memory.wf State.reset.mem.mem ∧ State.reset.mem.mem = []

/-- What no command takes back: the queue is the environment's, outputs are only appended, fuses stay blown (17 R559). -/
def Obligations.NothingTakenBack : Prop :=
  ∀ (c : Instr) (s t : State), exec c s = .next t →
    t.pending = s.pending ∧ (∃ more, t.out = s.out ++ more) ∧ s.sec.fuses ≤ t.sec.fuses

/-- 00 R14, its clause on GRAVE. -/
def Obligations.GraveOnlyToOff : Prop :=
  ∀ (c : Instr) (s t : State), s.pkg.st = .grave → exec c s = .next t → t.pkg.st = .grave ∨ t.pkg.st = .off

/-- 00 R16: within a tick the transition whose target comes first is taken, the others are discarded. -/
def Obligations.OneTransitionATick : Prop :=
  [PkgState.off, .grave, .stopped, .halt, .draining, .covering, .drained, .serving, .ready, .align, .boot].map PkgState.rank = List.range 11 ∧
  ∀ (s : State) (t : PkgState),
    (∀ a, s.pkg.taken = some a → edge s.pkg.tickStart t = true →
      (t.rank < a.rank → edge s.pkg.st t = true → (s.transition t).pkg.st = t) ∧ (a.rank ≤ t.rank → s.transition t = s)) ∧
    (s.pkg.taken = none → s.pkg.request = none → edge s.pkg.st t = true → (s.transition t).pkg.st = t) ∧
    (∀ a, s.pkg.taken = some a → s.pkg.request = some t → a.rank ≤ t.rank → s.settleRequest = { s with pkg := { s.pkg with request := none } })

/-- 14 R456 and Table 0.5: VAUX_RISE and VAUX_LOSS. -/
def Obligations.PowerRail : Prop :=
  (∀ s : State, s.pkg.st = .off → s.pkg.request = none →
    ∃ t, exec .vauxRise s = .next t ∧ t.pkg.st = .halt ∧ t.pkg.vaux = true ∧
      t.sec.fwA = s.sec.fwA ∧ t.sec.fwB = s.sec.fwB ∧ t.sec.cal = s.sec.cal ∧ t.sec.fuses = s.sec.fuses) ∧
  (∀ s : State, s.pkg.st ≠ .off → s.pkg.request = none →
    ∃ t, exec .vauxLoss s = .next t ∧ t.pkg.st = .off ∧ t.pkg.vaux = false ∧
      t.mem = {} ∧ t.dict.nums = [] ∧ t.dict.blobs = [] ∧ t.crs = {} ∧ t.clk = {} ∧ t.fcu = {} ∧ t.icx = {} ∧ t.lnk = {} ∧
      t.sec.fwA = s.sec.fwA ∧ t.sec.fwB = s.sec.fwB ∧ t.sec.ks0 = s.sec.ks0 ∧ t.sec.ks1 = s.sec.ks1 ∧ t.sec.cal = s.sec.cal ∧
      t.sec.img0 = s.sec.img0 ∧ t.sec.img1 = s.sec.img1 ∧ t.sec.graveLast = s.sec.graveLast ∧ t.sec.fuses = s.sec.fuses ∧
      (s.num O.escanState ≠ 1 → t.out = s.out))

/-- 18 R597: RESET_N_FALL and COOL_OK_RISE. -/
def Obligations.ResetPin : Prop :=
  (∀ s : State, calm s →
    ∃ t, exec .resetNFall s = .next t ∧ t.pkg.resetN = false ∧
      ((s.pkg.st = .off ∨ s.pkg.st = .grave ∨ (s.pkg.st = .stopped ∧ s.pkg.coolOk = false)) → t = { s with pkg := { s.pkg with resetN := false } }) ∧
      (s.pkg.st ≠ .off → s.pkg.st ≠ .grave → ¬ (s.pkg.st = .stopped ∧ s.pkg.coolOk = false) → t.pkg.st = .halt)) ∧
  (∀ s : State, s.pkg.request = none →
    ∃ t, exec .coolOkRise s = .next t ∧ t.pkg.coolOk = true ∧
      (s.pkg.st = .stopped → s.pkg.resetN = false → t.pkg.st = .halt) ∧
      (¬ (s.pkg.st = .stopped ∧ s.pkg.resetN = false) → t = { s with pkg := { s.pkg with coolOk := true } }))

/-- Table 0.5, 17 R564, 16 R537: what a chip reset resets and what it keeps. -/
def Obligations.HaltEntryResetsTheHub : Prop :=
  ∀ s : State, calm s → s.pkg.st ≠ .off → s.pkg.st ≠ .grave → s.pkg.st ≠ .halt → s.pkg.st ≠ .stopped → s.num O.marginState ≠ 1 →
    ∃ t, exec .resetNFall s = .next t ∧ t.pkg.st = .halt ∧
      t.clk = {} ∧ t.crs = {} ∧ t.cred = {} ∧ t.eng = {} ∧ t.ses = {} ∧ t.wts = {} ∧ t.lnk = {} ∧ t.fab = {} ∧ t.mir = {} ∧ t.pwr = {} ∧ t.icx = {} ∧
      (∀ o : Obj, vauxHeld o.key = false → t.num o = o.dflt ∧ t.blob o = []) ∧
      (∀ o : Obj, vauxHeld o.key = true → t.num o = s.num o ∧ t.blob o = s.blob o) ∧
      t.dict.window = [] ∧ t.sec.lock = false ∧ t.mem.mem = s.mem.mem ∧ t.mem.merge = [] ∧
      t.sec.fwA = s.sec.fwA ∧ t.sec.fwB = s.sec.fwB ∧ t.sec.ks0 = s.sec.ks0 ∧ t.sec.ks1 = s.sec.ks1 ∧ t.sec.cal = s.sec.cal ∧
      t.sec.img0 = s.sec.img0 ∧ t.sec.img1 = s.sec.img1 ∧ t.sec.fuses = s.sec.fuses ∧
      (s.num O.escanState ≠ 1 → s.fcu.urgent = [] → s.fcu.intake = [] → s.fcu.heldBack = [] → t.out = s.out)

/-- 18 R599, 14 R480 and Table 0.5: COOL_OK_FALL and PWR_GOOD_FALL. -/
def Obligations.PinsFall : Prop :=
  (∀ s : State, calm s → s.pkg.st.hubRuns = true → s.pkg.coolOk = true →
    ∃ t, exec .coolOkFall s = .next t ∧ t.pkg.st = .stopped ∧ t.pkg.coolOk = false ∧ t.mem.merge = [] ∧ t.dict.server = .stopped ∧
      (∀ q, q < 4 → (t.rein q).level = 0) ∧
      ∃ m : FaultMsg, m.source = srcPins ∧ m.kind = 0x8B ∧ m.cls = 1 ∧ t.fcu.store.getLast? = some (m.bits 0)) ∧
  (∀ s : State, s.pkg.pwrGood = true →
    ∃ t, exec .pwrGoodFall s = .next t ∧ t.pkg.st = s.pkg.st ∧ t.pkg.pwrGood = false ∧
      (s.pkg.st.hubRuns = true → t.pwr.supplyPull = true) ∧
      (s.pkg.st = .halt → t = { s with pkg := { s.pkg with pwrGood := false } }))

/-- 18 R598; 17 R562 to R565; 12 R408; 09 R281: BOOT_START, KEYSTONE_STAGE, RUNTIME_LOAD, HBM_TRAINING. -/
def Obligations.BootStages : Prop :=
  (∀ s : State, s.pkg.st = .halt → s.pkg.request = none → s.num O.marginState ≠ 1 → s.num O.escanState ≠ 1 → s.num O.fbistState ≠ 1 →
    ∃ t, exec .bootStart s = .next t ∧ t.pkg.st = .boot ∧ t.pkg.resetN = true ∧ t.pkg.pwrGood = true ∧ t.pkg.coolOk = true ∧
      t.fab.readyAt = s.pkg.now + 2 * s.num O.loadBound ∧
      (s.imageFault (s.sec.slot s.sec.selector) = 0 → t.sec.stage = .keystone ∧ t.sec.fallback = s.sec.fallback) ∧ t.mem = s.mem ∧ t.clk = s.clk) ∧
  (∀ s : State, s.pkg.st = .boot → s.sec.stage = .keystone →
    ∃ t, exec .keystoneStage s = .next t ∧ t.sec.lock = true ∧ t.sec.stage = .runtimeLoad ∧ t.dict.server = .controlOnly ∧ t.pkg.st = .boot ∧ t.mem = s.mem) ∧
  (∀ s : State, s.pkg.st = .boot → s.sec.stage = .runtimeLoad → s.sec.lock = true →
    ∃ t, exec .runtimeLoad s = .next t ∧ t.dict.server = .running ∧ t.crs.gang = 15 ∧ t.sec.stage = .hbmTraining ∧ t.pkg.st = .boot ∧ t.mem = s.mem) ∧
  (∀ (s : State) (a b : BitVec 16), calm s → s.pkg.st = .boot → s.sec.stage = .hbmTraining →
    ∃ t, exec (.hbmTraining a b) s = .next t ∧
      (a &&& b = 0 → t.pkg.st = .align ∧ ∀ x, x < hbmTop → cellGet t.mem.mem x = 0) ∧
      (a &&& b ≠ 0 → t.pkg.st = .boot ∧ t.mem = s.mem))

/-- 02 R38, 11 R388, 17 R559; 16 R532, 09 R293: ALIGN_COMPLETE and DRAIN_COMPLETE. -/
def Obligations.AlignAndDrainEnd : Prop :=
  (∀ s : State, calm s → s.num O.marginState ≠ 1 → s.pkg.st = .align → s.lnk.plumb.st = .settled → s.lnk.plumb.restoreHeld = false → s.clk.mode = .locked →
    ∃ t, exec .alignComplete s = .next t ∧ t.pkg.st = .ready ∧ t.mem.mem = s.mem.mem ∧
      t.sec.fuses = (if s.pkg.everReady = false ∧ s.sec.commitSvn = true ∧ s.sec.fuses < s.sec.imageSvn then s.sec.imageSvn else s.sec.fuses)) ∧
  (∀ s : State, s.pkg.st = .align → ¬ (s.lnk.plumb.st = .settled ∧ s.lnk.plumb.restoreHeld = false ∧ s.clk.mode = .locked) →
    exec .alignComplete s = .next s) ∧
  (∀ s : State, calm s → s.pkg.st = .draining → s.sessionsOpen = [] → s.crs.own.running = false → s.crs.covered.running = false →
    s.num O.marginState ≠ 1 → s.num O.escanState ≠ 1 → (∀ n e, e ∈ s.mem.entries n → (locate e.word).stack = n ∧ s.pageClass (pageOf e.word) ≠ .weights) →
    ∃ t, exec .drainComplete s = .next t ∧ t.pkg.st = .drained ∧ (∀ n, n < 16 → t.mem.entries n = []) ∧ t.sec = s.sec ∧ t.lnk = s.lnk)

/-- 16 R527, R553: OBJECT_WRITE of an object. -/
def Obligations.ObjectWriteResult : Prop :=
  ∀ (s : State) (p : Path) (key : Nat) (typ : Byte) (n : Nat) (r : ObjRow), objRow key = some r → r.acc ≠ .ro → r.acc ≠ .const →
    (s.dict.server ≠ .stopped ∨ mgmtObject key = true) →
    ∃ t, exec (.objectWrite (.object p key typ (.num n))) s = .next t ∧
      (s.writeError p key typ.toNat (.num n) ≠ Err.ok →
        resultOf t key = (s.writeError p key typ.toNat (.num n), ((resultOf s key).2 + 1) % 65536) ∧
        changesOnly [.fcu, .errN, .notify, .out, .server] s t) ∧
      (s.writeError p key typ.toNat (.num n) = Err.ok → s.ownNumeric key n = none → s.ownIndexed key n = none → key ≠ O.faultsDropped.key →
        resultOf t key = (Err.ok, ((resultOf s key).2 + 1) % 65536) ∧
        t.num ⟨key, dfltOf key⟩ = n ∧ objectsBut [key] s t ∧ changesOnly [.objects, .server, .mir] s t)

/-- 16 R532: the four state requests. -/
def Obligations.StateRequests : Prop :=
  (∀ (s : State) (p : Path), passes s p O.stateRequest (.num 4) → s.pkg.request = none →
    (s.pkg.st = .drained → exec (.stateRequestReady p) s = .next ({ s with pkg := { s.pkg with request := some .ready } }.noteResult O.stateRequest.key Err.ok)) ∧
    (s.pkg.st ≠ .drained → exec (.stateRequestReady p) s = .next (s.noteResult O.stateRequest.key Err.state))) ∧
  (∀ (s : State) (p : Path), passes s p O.stateRequest (.num 5) → s.pkg.request = none →
    (s.pkg.st = .ready → s.hasLive = true →
      exec (.stateRequestServing p) s = .next ({ s with pkg := { s.pkg with request := some .serving } }.noteResult O.stateRequest.key Err.ok)) ∧
    (s.pkg.st = .ready → s.hasLive = false → exec (.stateRequestServing p) s = .next (s.noteResult O.stateRequest.key Err.notReady)) ∧
    (s.pkg.st ≠ .ready → exec (.stateRequestServing p) s = .next (s.noteResult O.stateRequest.key Err.state))) ∧
  (∀ (s : State) (p : Path), passes s p O.stateRequest (.num 6) → s.pkg.request = none →
    (s.pkg.st = .serving ∨ s.pkg.st = .covering →
      exec (.stateRequestDraining p) s = .next ({ s with pkg := { s.pkg with request := some .draining } }.noteResult O.stateRequest.key Err.ok)) ∧
    (¬ (s.pkg.st = .serving ∨ s.pkg.st = .covering) → exec (.stateRequestDraining p) s = .next (s.noteResult O.stateRequest.key Err.state))) ∧
  (∀ (s : State) (p : Path), passes s p O.stateRequest (.num 7) → s.pkg.request = none →
    (s.pkg.st = .ready → exec (.stateRequestDrained p) s = .next ({ s with pkg := { s.pkg with request := some .drained } }.noteResult O.stateRequest.key Err.ok)) ∧
    (s.pkg.st ≠ .ready → exec (.stateRequestDrained p) s = .next (s.noteResult O.stateRequest.key Err.state))) ∧
  (∀ (s : State) (r : PkgState), s.pkg.request = some r → s.pkg.taken = none → edge s.pkg.st r = true → (r = .serving → s.hasLive = true) →
    (r = .drained → s.mem.merge = []) → s.takeRequest.pkg.st = r ∧ s.takeRequest.pkg.request = none)

/-- 09 R303, R310; 15 R494, R498; 14 R482; 02 R47, R54; 16 R540: clears, the rack beat, the hand-off tick, PLCA. -/
def Obligations.ClearsAndBeats : Prop :=
  (∀ (s : State) (p : Path) (v : Byte), passes s p O.hbmLogClear (.num v.toNat) →
    exec (.hbmLogClear p v) s = .next ({ s with mem := { s.mem with log := [] } }.noteResult O.hbmLogClear.key Err.ok)) ∧
  (∀ (s : State) (p : Path) (v : Byte), passes s p O.sramLogClear (.num v.toNat) →
    exec (.sramLogClear p v) s = .next ({ s with mem := { s.mem with
      sramLogs := s.mem.sramLogs.filter (fun e => !bit v.toNat e.1) } }.noteResult O.sramLogClear.key Err.ok)) ∧
  (∀ (s : State) (p : Path) (v : Byte), passes s p O.faultLogClear (.num v.toNat) →
    exec (.faultLogClear p v) s = .next ({ s with fcu := { s.fcu with log := [] } }.noteResult O.faultLogClear.key Err.ok)) ∧
  (∀ (s : State) (p : Path) (v : Byte), passes s p O.graveClear (.num v.toNat) →
    exec (.graveClear p v) s = .next ({ s with sec := { s.sec with graveLast := none } }.noteResult O.graveClear.key Err.ok)) ∧
  (∀ (s : State) (p : Path) (v : Byte), passes s p O.errClear (.num v.toNat) →
    (s.pkg.st ≠ .grave → exec (.errClear p v) s = .next (s.releaseErr.noteResult O.errClear.key Err.ok)) ∧
    (s.pkg.err = true → s.pkg.errAt + 10 ≤ s.pkg.now → s.releaseErr.pkg.err = false ∧ s.releaseErr.out = s.out ++ [.errN false])) ∧
  (∀ (s : State) (p : Path) (v : W32), passes s p O.rackBeat (.num v.toNat) →
    ∃ t, exec (.rackBeat p v) s = .next t ∧ t.num O.rackState = 0 ∧ objectsBut [O.rackState.key] s t ∧
      t.pwr = (if s.pkg.everReady then { s.pwr with rackFrom := some s.pkg.now } else s.pwr) ∧
      changesOnly [.objects, .pwr, .icx, .out, .server] s t) ∧
  (∀ (s : State) (p : Path) (v : W64), passes s p O.handoffTick (.num v.toNat) → s.clk.originating = true →
    s.eventRefusal (BitVec.ofNat 48 v.toNat) = Err.ok → v.toNat % 16 = 0 → 1000 ≤ Tick.since (BitVec.ofNat 48 v.toNat) s.clk.tick →
    exec (.handoffTick p v) s = .next ((s.schedule (BitVec.ofNat 48 v.toNat) .handoff).noteResult O.handoffTick.key Err.ok)) ∧
  (∀ (s : State) (p : Path), passes s p O.plcaEnable (.num 1) → s.num O.plcaId ≠ 255 →
    exec (.plcaEnable p 1) s = .next ((s.setNum O.plcaEnable 1).noteResult O.plcaEnable.key Err.ok))

/-- 17 R556, R560, R571, R575; 16 R530: FW_UPDATE, KEYSTONE_PENDING, CAL_WRITE, DICT_STORE, FLASH_WRITE_DONE, STORE_IMAGE_DONE. -/
def Obligations.FlashWrites : Prop :=
  (∀ (s : State) (p : Path) (v : W32), passes s p O.fwUpdate (.num v.toNat) → s.pkg.st.noFlash = false → s.flashBusy = false →
    ∃ t, exec (.fwUpdate p v) s = .next t ∧
      (s.imageFault (s.peek (s.num O.fwStageBase) v.toNat).1 = 0 →
        t.sec = { s.sec with job := some (.firmware (s.peek (s.num O.fwStageBase) v.toNat).1) } ∧ t.num O.fwUpdateState = 2) ∧
      (s.imageFault (s.peek (s.num O.fwStageBase) v.toNat).1 ≠ 0 →
        t.sec = s.sec ∧ t.num O.fwUpdateState = 4 ∧ t.num O.fwUpdateStatus = s.imageFault (s.peek (s.num O.fwStageBase) v.toNat).1) ∧
      objectsBut [O.fwUpdateState.key, O.fwUpdateStatus.key] s t ∧ changesOnly [.sec, .objects, .server] s t) ∧
  (∀ (s : State) (p : Path) (rec : List Byte), passes s p O.keystonePending (.bytes rec) → s.sec.ksMode ≠ 2 → s.flashBusy = false →
    exec (.keystonePending p rec) s = .next (if s.ksPendingFault rec = 0 then
      ({ s.setNum O.keystoneStatus 0 with sec := { s.sec with job := some (.keystone rec) } }).noteResult O.keystonePending.key Err.ok
      else (s.setNum O.keystoneStatus (s.ksPendingFault rec)).noteResult O.keystonePending.key Err.range)) ∧
  (∀ (s : State) (p : Path) (set : List Byte), passes s p O.calWrite (.bytes set) → s.pkg.st = .drained → s.flashBusy = false →
    exec (.calWrite p set) s = .next (if calOk set = true then { s with sec := { s.sec with job := some (.calibration set) } }.noteResult O.calWrite.key Err.ok
      else s.noteResult O.calWrite.key Err.range)) ∧
  (∀ (s : State) (p : Path) (v : Byte), passes s p O.dictStore (.num v.toNat) → s.pkg.st.noFlash = false → s.num O.storeState ≠ 1 → s.flashBusy = false →
    exec (.dictStore p v) s = .next (({ s with dict := { s.dict with imaging := some s.storedValues } }.setNum O.storeState 1).noteResult O.dictStore.key Err.ok)) ∧
  (∀ (s : State) (img : List Byte), s.sec.job = some (.firmware img) →
    (∃ t, exec (.flashWriteDone true) s = .next t ∧ t.sec.job = none ∧ t.sec.slot (!s.sec.slotB) = img ∧ t.sec.slot s.sec.slotB = s.sec.slot s.sec.slotB ∧
      t.sec.selector = (!s.sec.slotB) ∧ t.num O.fwUpdateState = 3 ∧ changesOnly [.sec, .objects] s t) ∧
    (∃ t, exec (.flashWriteDone false) s = .next t ∧ t.sec.job = none ∧ t.sec.slot s.sec.slotB = s.sec.slot s.sec.slotB ∧
      t.sec.selector = s.sec.selector ∧ t.num O.fwUpdateState = 4 ∧ changesOnly [.sec, .objects] s t)) ∧
  (∀ (s : State) (set : List Byte) (good : Bool), s.sec.job = some (.calibration set) →
    exec (.flashWriteDone good) s = .next { s with sec := { s.sec with job := none, cal := if good then set else s.sec.cal } }) ∧
  (∀ (s : State) (v : SMap Nat × SMap (List Byte)), s.dict.imaging = some v →
    (∃ t, exec (.storeImageDone true) s = .next t ∧ t.num O.storeState = 2 ∧ t.dict.imaging = none ∧
      t.num O.storeGeneration = s.sec.newestGeneration + 1 ∧
      { generation := s.sec.newestGeneration + 1, nums := v.1, blobs := v.2, valid := true } ∈ [t.sec.img0, t.sec.img1] ∧
      objectsBut [O.storeState.key, O.storeGeneration.key] s t ∧ changesOnly [.sec, .server, .objects] s t) ∧
    (∃ t, exec (.storeImageDone false) s = .next t ∧ t.num O.storeState = 3 ∧ t.dict.imaging = none ∧ t.sec.newestImage = s.sec.newestImage ∧
      objectsBut [O.storeState.key] s t ∧ changesOnly [.sec, .server, .objects] s t))

/-- 16 R531: DICT_DEFAULTS. -/
def Obligations.DictDefaults : Prop :=
  (∀ (s : State) (p : Path) (v : Byte), passes s p O.dictDefaults (.num v.toNat) → s.pkg.st = .drained →
    ∃ t, exec (.dictDefaults p v) s = .next t ∧
      (∀ o : Obj, isSetting o.key = true → t.num o = o.dflt ∧ t.blob o = []) ∧
      (∀ o : Obj, isSetting o.key = false → t.num o = s.num o ∧ t.blob o = s.blob o) ∧
      t.sec = s.sec ∧ t.pkg.st = .drained) ∧
  (∀ (s : State) (p : Path) (v : Byte), passes s p O.dictDefaults (.num v.toNat) → s.pkg.st ≠ .drained →
    exec (.dictDefaults p v) s = .next (s.noteResult O.dictDefaults.key Err.notDrained))

/-- 17 R573, R577 to R581; 09 R311 to R313: attestation and tests. -/
def Obligations.TestsAndAttestation : Prop :=
  (∀ (s : State) (p : Path) (nonce : List Byte), passes s p O.attestNonce (.bytes nonce) → s.num O.attestState ≠ 1 →
    exec (.attestNonce p nonce) s =
      .next (({ s with sec := { s.sec with attest := some (s.attestBody nonce) } }.setNum O.attestState 1).noteResult O.attestNonce.key Err.ok)) ∧
  (∀ (s : State) (b : List Byte), s.sec.attest = some b →
    ∃ t, exec .attestDone s = .next t ∧ t.num O.attestState = 2 ∧ t.blob O.attestReport = b ++ fit 2420 (Config.deviceSign (sha3 b)) ∧
      t.sec = { s.sec with attest := none } ∧ changesOnly [.sec, .objects] s t) ∧
  (∀ (s : State) (p : Path) (v : Byte), passes s p O.marginStart (.num v.toNat) → s.pkg.st = .drained → s.testRunning = false →
    ∃ t, exec (.marginStart p v) s = .next t ∧ t.num O.marginState = 1 ∧ t.mem = { s.mem with marginMask := BitVec.ofNat 16 (s.num O.marginStacks) } ∧
      t.pwr = (if s.num O.marginMode = 2 then { s.pwr with vmemSet := 1040, cmd := 1 } else s.pwr) ∧
      objectsBut [O.marginState.key] s t ∧ changesOnly [.mem, .pwr, .objects, .server] s t) ∧
  (∀ (s : State) (p : Path) (v : Byte), passes s p O.marginStart (.num v.toNat) → s.pkg.st ≠ .drained →
    exec (.marginStart p v) s = .next (s.noteResult O.marginStart.key Err.notDrained)) ∧
  (∀ (s : State) (p : Path) (v : Byte), passes s p O.escanStart (.num v.toNat) → s.pkg.st = .drained → s.testRunning = false →
    ∃ t, exec (.escanStart p v) s = .next t ∧ t.num O.escanState = 1 ∧
      (∀ q, q < 19 → bit (s.num O.escanPorts) q = true → (t.port q).st = .disabled) ∧
      (∀ q, (19 ≤ q ∨ bit (s.num O.escanPorts) q = false) → t.port q = s.port q) ∧
      objectsBut [O.escanState.key] s t ∧ changesOnly [.lnk, .icx, .objects, .out, .server] s t) ∧
  (∀ (s : State) (p : Path) (v : Byte), passes s p O.fbistStart (.num v.toNat) → s.pkg.st = .drained → s.testRunning = false →
    exec (.fbistStart p v) s = .next ((s.setNum O.fbistState 1).noteResult O.fbistStart.key Err.ok)) ∧
  (∀ s : State, s.num O.marginState = 1 → ∃ t, exec (.marginDone true) s = .next t ∧ t.num O.marginState = 3 ∧ t.mem.marginMask = 0 ∧ t.pkg = s.pkg) ∧
  (∀ s : State, s.num O.marginState = 1 → ∃ t, exec (.marginDone false) s = .next t ∧ t.num O.marginState = 2 ∧ t.mem.marginMask = 0 ∧ t.pkg = s.pkg) ∧
  (∀ s : State, s.num O.escanState = 1 → ∃ t, exec .escanDone s = .next t ∧ t.num O.escanState = 2 ∧ objectsBut [O.escanState.key, O.escanResult.key] s t ∧
      changesOnly [.lnk, .icx, .objects, .out, .free] s t ∧
      ∀ q, q < 19 → bit (s.num O.escanPorts) q = true →
        t.port q = { (s.port q).down with st := if s.num (O.portPortEnable q) = 0 then .disabled else .down }) ∧
  (∀ (s : State) (failed : List (Fin 384)) (stores : BitVec 4) (hbm : BitVec 16) (errors : W32), s.num O.fbistState = 1 →
    ∃ t, exec (.fbistDone failed stores hbm errors) s = .next t ∧ t.num O.fbistState = 2 ∧ t.mem.mem = [] ∧ t.mem.merge = [] ∧
      t.wts = { s.wts with k0 := {}, k1 := {} } ∧ changesOnly [.mem, .wts, .objects, .fcu, .errN, .notify, .out] s t) ∧
  (∀ (s : State) (q : Fin 4) (nn : Fin 96), (s.coreAt (q.val * 96 + nn.val)).st = .test →
    (∃ t, exec (.selftestDone q nn true) s = .next t ∧
      t.coreAt (q.val * 96 + nn.val) = { s.coreAt (q.val * 96 + nn.val) with rejoin := true, awaitTest := false } ∧
      t.num O.selftestPasses = (s.num O.selftestPasses + 1) % 2 ^ 64 ∧ changesOnly [.cred, .objects] s t) ∧
    (∃ t, exec (.selftestDone q nn false) s = .next t ∧
      t.coreAt (q.val * 96 + nn.val) = { s.coreAt (q.val * 96 + nn.val) with st := .withdrawn, failed := true, awaitTest := false } ∧
      changesOnly [.cred, .objects, .fcu, .errN, .notify, .out] s t))

/-- 02 R59, R50, R54; 08 R268, R276; 14 R481, R483: HOD_ENABLE, HOD_DISABLE, TENANT_ACTIVATE, TENANT_DEACTIVATE, SPLICE, RAMP_EVENT. -/
def Obligations.HodsTenantsAndEvents : Prop :=
  (∀ (s : State) (p : Path) (h : Fin 64) (x : Byte) (req : List Byte),
    (∃ t, exec (.hodEnable p h) s = .next t ∧ t.pkg.st = s.pkg.st ∧
      (¬ passes s p (O.hodEnable h.val) (.num 1) → changesOnly [.server, .fcu, .errN, .notify, .out] s t)) ∧
    (∃ t, exec (.hodDisable p h) s = .next t ∧ t.pkg.st = s.pkg.st ∧
      (¬ passes s p (O.hodEnable h.val) (.num 0) → changesOnly [.server, .fcu, .errN, .notify, .out] s t)) ∧
    (∃ t, exec (.splice p req) s = .next t ∧ t.pkg.st = s.pkg.st ∧
      (¬ passes s p O.splice (.bytes req) → changesOnly [.server, .fcu, .errN, .notify, .out] s t)) ∧
    (∃ t, exec (.tenantActivate p x) s = .next t ∧ t.pkg.st = s.pkg.st ∧
      (¬ passes s p (O.tenActive x.toNat) (.num 1) → changesOnly [.server, .fcu, .errN, .notify, .out] s t)) ∧
    (∃ t, exec (.tenantDeactivate p x) s = .next t ∧ t.pkg.st = s.pkg.st ∧
      (¬ passes s p (O.tenActive x.toNat) (.num 0) → changesOnly [.server, .fcu, .errN, .notify, .out] s t)) ∧
    (∃ t, exec (.rampEvent p req) s = .next t ∧ t.pkg.st = s.pkg.st ∧
      (¬ passes s p O.rampEvent (.bytes req) → changesOnly [.server, .fcu, .errN, .notify, .out] s t))) ∧
  (∀ (s : State) (p : Path) (h : Fin 64), passes s p (O.hodEnable h.val) (.num 0) →
    ∃ t, exec (.hodDisable p h) s = .next t ∧ t.num (O.hodEnable h.val) = 0 ∧ objectsBut [(O.hodEnable h.val).key] s t ∧
      changesOnly [.objects, .mir, .server] s t) ∧
  (∀ (s : State) (p : Path) (h : Fin 64), passes s p (O.hodEnable h.val) (.num 1) → s.num (O.hodEnable h.val) ≠ 1 →
    (s.ringsOk h.val = true → ∃ t, exec (.hodEnable p h) s = .next t ∧ t.num (O.hodEnable h.val) = 1 ∧ t.num (O.hodConsumerIndex h.val) = 0 ∧
      t.num (O.hodReturnRelease h.val) = 0 ∧ t.num (O.hodReturnCommitted h.val) = 0 ∧ (t.hodRt h.val).retSeq = 0 ∧
      changesOnly [.objects, .crs, .mir, .server] s t) ∧
    (s.ringsOk h.val = false → exec (.hodEnable p h) s = .next (s.noteResult (O.hodEnable h.val).key Err.window))) ∧
  (∀ (s : State) (p : Path) (x : Byte), x.toNat < 64 → passes s p (O.tenActive x.toNat) (.num 1) →
    ((s.clk.mode ≠ .holdover ∧ s.num O.rackState ≠ 1) ∨ s.sessionsOpen.any (fun e => e.2.tenant == x.toNat && !e.2.covered) = true →
      ∃ t, exec (.tenantActivate p x) s = .next t ∧ t.num (O.tenActive x.toNat) = 1 ∧
      objectsBut [(O.tenActive x.toNat).key] s t ∧ changesOnly [.objects, .mir, .server] s t) ∧
    (s.sessionsOpen.any (fun e => e.2.tenant == x.toNat && !e.2.covered) = false → s.clk.mode = .holdover → exec (.tenantActivate p x) s = .next (s.noteResult (O.tenActive x.toNat).key Err.holdover)) ∧
    (s.sessionsOpen.any (fun e => e.2.tenant == x.toNat && !e.2.covered) = false → s.clk.mode ≠ .holdover → s.num O.rackState = 1 →
      exec (.tenantActivate p x) s = .next (s.noteResult (O.tenActive x.toNat).key Err.rackSilent))) ∧
  (∀ (s : State) (p : Path) (x : Byte), x.toNat < 64 → passes s p (O.tenActive x.toNat) (.num 0) →
    ∃ t, exec (.tenantDeactivate p x) s = .next t ∧ t.num (O.tenActive x.toNat) = 0 ∧
      (s.sessionsOpen.any (fun e => e.2.tenant == x.toNat && !e.2.covered) = false →
        objectsBut [(O.tenActive x.toNat).key] s t ∧ changesOnly [.objects, .mir, .server] s t)) ∧
  (∀ (s : State) (p : Path) (req : List Byte), passes s p O.splice (.bytes req) → allZero (slice req 1 7) = true → u64 req 0x18 = 0 → s.spliceError req = Err.ok →
    exec (.splice p req) s = .next (({ s with crs := { s.crs with splice := some req } }.noteWritten O.splice.key).noteResult O.splice.key Err.ok)) ∧
  (∀ (s : State) (p : Path) (req : List Byte), passes s p O.splice (.bytes req) → allZero (slice req 1 7) = true → u64 req 0x18 = 0 → s.spliceError req ≠ Err.ok →
    exec (.splice p req) s = .next (s.noteResult O.splice.key (s.spliceError req))) ∧
  (∀ (s : State) (p : Path) (req : List Byte), passes s p O.rampEvent (.bytes req) → u64 req 0 < 2 ^ 48 → u16 req 0xE = 0 →
    (u32 req 8 = 0 ∨ (10 ≤ u32 req 8 ∧ u32 req 8 ≤ 100000)) → (u16 req 0xC = 0 ∨ (600 ≤ u16 req 0xC ∧ u16 req 0xC ≤ 2200)) →
    exec (.rampEvent p req) s = .next (if s.eventRefusal (BitVec.ofNat 48 (u64 req 0)) = Err.ok then
      (s.schedule (BitVec.ofNat 48 (u64 req 0)) (.ramp (u32 req 8) (u16 req 0xC))).noteResult O.rampEvent.key Err.ok
      else s.noteResult O.rampEvent.key (s.eventRefusal (BitVec.ofNat 48 (u64 req 0)))))

/-- 09 R280; 10 R320, R338; 12 R417; 11 R353, R378; 13 R452: REGION_WRITE, AREA_WRITE, COPY_FREE, WIN_ENABLE, PORT_ENABLE, PLUMB_RESTART, RESTORE_START. -/
def Obligations.TablesAndPorts : Prop :=
  (∀ (s : State) (p : Path) (sub : Byte) (v : W64), 1 ≤ sub.toNat → sub.toNat ≤ 64 → s.num O.regionCount < sub.toNat →
    passes s p ⟨O.regionCount.key + sub.toNat, 0⟩ (.num v.toNat) → regionOk v.toNat = true → s.enabledHods = [] →
    ∃ t, exec (.regionWrite p sub v) s = .next t ∧ t.num ⟨O.regionCount.key + sub.toNat, 0⟩ = v.toNat ∧
      objectsBut [O.regionCount.key + sub.toNat] s t ∧ t.pkg = s.pkg) ∧
  (∀ (s : State) (p : Path) (sub : Byte) (v : W64), 1 ≤ sub.toNat → sub.toNat ≤ 4 → s.num O.areaCount < sub.toNat → v.toNat < 2 ^ 36 →
    passes s p ⟨O.areaCount.key + sub.toNat, 0⟩ (.num v.toNat) →
    ∃ t, exec (.areaWrite p sub v) s = .next t ∧ t.num ⟨O.areaCount.key + sub.toNat, 0⟩ = v.toNat ∧
      objectsBut [O.areaCount.key + sub.toNat] s t ∧ changesOnly [.objects, .server] s t) ∧
  (∀ (s : State) (p : Path) (k : Fin 2) (v : Byte), passes s p (O.copyFree k.val) (.num v.toNat) → s.wts.k0.st ≠ .outgoing → s.wts.k1.st ≠ .outgoing →
    ((s.wts.copy k.val).st = .ready →
      exec (.copyFree p k v) s = .next ({ s with wts := s.wts.setCopy k.val {} }.noteResult (O.copyFree k.val).key Err.ok)) ∧
    ((s.wts.copy k.val).st = .live → exec (.copyFree p k v) s = .next (s.noteResult (O.copyFree k.val).key Err.range))) ∧
  (∀ (s : State) (p : Path) (w : Fin 128), passes s p (O.winEnable w.val) (.num 1) →
    (s.windowOk w.val = true → exec (.winEnable p w 1) s = .next ((s.setNum (O.winEnable w.val) 1).noteResult (O.winEnable w.val).key Err.ok)) ∧
    (s.windowOk w.val = false → exec (.winEnable p w 1) s = .next (s.noteResult (O.winEnable w.val).key Err.window))) ∧
  (∀ (s : State) (p : Path) (q : Port), q.val < 19 → passes s p (O.portPortEnable q.val) (.num 0) →
    ∃ t, exec (.portEnable p q 0) s = .next t ∧ t.num (O.portPortEnable q.val) = 0 ∧ (t.port q.val).st = .disabled ∧ t.pkg.st = s.pkg.st) ∧
  (∀ (s : State) (p : Path) (q : Port), q.val < 19 → passes s p (O.portPortEnable q.val) (.num 1) → (s.port q.val).st = .disabled →
    ∃ t, exec (.portEnable p q 1) s = .next t ∧ t.num (O.portPortEnable q.val) = 1 ∧ (t.port q.val).st = .down ∧ t.pkg.st = s.pkg.st) ∧
  (∀ (s : State) (p : Path) (v : Byte), passes s p O.plumbRestart (.num v.toNat) →
    (s.pkg.st = .align → ∃ t, exec (.plumbRestart p v) s = .next t ∧ t.lnk.plumb.st = .gather ∧ t.lnk.plumb.best = Config.serial ∧
      t.lnk.plumb.ident = none ∧ t.clk = { s.clk with originating := false, role := .follower } ∧ changesOnly [.clk, .lnk, .icx, .out, .server] s t) ∧
    (s.pkg.st ≠ .align → exec (.plumbRestart p v) s = .next (s.noteResult O.plumbRestart.key Err.state))) ∧
  (∀ (s : State) (p : Path) (v : Byte), passes s p O.restoreStart (.num v.toNat) →
    (s.mir.covered = none → exec (.restoreStart p v) s = .next (s.noteResult O.restoreStart.key Err.state)) ∧
    (∀ n, s.mir.covered = some n → s.pkg.st = .covering → (s.port 18).st = .active → (s.port 18).peerPhase = 2 → s.lnk.aliases.any (fun a => a.1 == n) = true →
      ∃ t, exec (.restoreStart p v) s = .next t ∧ t.mir.st = .restoring ∧ t.mir.restore.isSome = true ∧ changesOnly [.mir, .lnk, .icx, .out, .server] s t))

/-- 10 R325 to R331: LOAD_START, LOAD_POST, LOAD_ABORT, CHUNK_CONVERT. -/
def Obligations.Tannery : Prop :=
  (∀ (s : State) (p : Path) (v : Byte) (m : List Byte) (ab : Option (Nat × Nat)), sound s → passes s p O.loadStart (.num v.toNat) → s.wts.load.runs = false → s.wts.k0.st = .absent →
    (s.pkg.st = .ready ∨ s.pkg.st = .serving ∨ s.pkg.st = .drained) → s.num O.loadMode = 0 → BitVec.ofNat 32 (s.num O.loadEpoch) ≠ 0 →
    (s.wts.k1.st = .absent ∨ s.wts.k1.epoch ≠ BitVec.ofNat 32 (s.num O.loadEpoch)) →
    1 ≤ u32 (s.peek (s.num O.stagingBase + s.num O.loadManifest) 256).1 0x14 → u32 (s.peek (s.num O.stagingBase + s.num O.loadManifest) 256).1 0x14 ≤ 65536 →
    m = (s.peek (s.num O.stagingBase + s.num O.loadManifest) (manifestBytes (u32 (s.peek (s.num O.stagingBase + s.num O.loadManifest) 256).1 0x14))).1 →
    ab = (s.roomy s.freeAreas (s.partBytes m).1).bind (fun a => (s.roomy (s.freeAreas.filter (· != a)) (s.partBytes m).2).map (fun b => (a, b))) →
    ∃ t, exec (.loadStart p v) s = .next t ∧ t.wts.k1 = s.wts.k1 ∧ t.num O.loadDetail = 0 ∧
      (if s.manifestStatus m = 0 ∧ ab.isSome = true then
        t.wts.load = .active ∧ t.wts.slot = 0 ∧ t.wts.k0.st = .loading ∧ ab = t.wts.k0.own.bind (fun a => t.wts.k0.twin.map (fun b => (a, b))) ∧
          t.wts.k0.epoch = BitVec.ofNat 32 (s.num O.loadEpoch) ∧ t.num O.loadStatus = 0 ∧ t.num O.loadReleased = 0 ∧ changesOnly [.wts, .ses, .objects, .server] s t
      else
        t.wts = { s.wts with load := .refused } ∧ t.num O.loadStatus = (if s.manifestStatus m = 0 then 5 else s.manifestStatus m) ∧
          changesOnly [.wts, .ses, .objects, .icx, .out, .server] s t)) ∧
  (∀ (s : State) (p : Path) (v : W64), passes s p O.loadPost (.num v.toNat) →
    ((s.wts.load = .active ∨ s.wts.load = .twinPhase) →
      exec (.loadPost p v) s = .next ({ s with wts := { s.wts with posts := s.wts.posts ++ [v] } }.noteResult O.loadPost.key Err.ok)) ∧
    (¬ (s.wts.load = .active ∨ s.wts.load = .twinPhase) →
      exec (.loadPost p v) s = .next ((s.setNum O.loadIgnored ((s.num O.loadIgnored + 1) % 2 ^ 32)).noteResult O.loadPost.key Err.ok))) ∧
  (∀ (s : State) (p : Path) (v : Byte), passes s p O.loadAbort (.num v.toNat) → s.wts.load.runs = true →
    ∃ t, exec (.loadAbort p v) s = .next t ∧ t.wts.load = .refused ∧ (t.wts.copy s.wts.slot).st = .absent ∧ t.wts.posts = [] ∧
      t.num O.loadStatus = 0x0C ∧ changesOnly [.wts, .objects, .icx, .out, .server] s t) ∧
  (∀ (s : State) (q : W64) (rest : List W64) (i j off : Nat) (e : ChunkEntry) (d : List Byte) (ws : Writes) (n m : Nat) (bad : Bool) (ts : List TensorSeen), sound s →
    s.wts.posts = q :: rest → s.wts.load = .active → i = q.toNat % 2 ^ 32 → off = q.toNat / 2 ^ 32 * 64 → i < manifestChunks s.wts.manifest →
    e = chunkEntry s.wts.manifest i → s.inLoad e = true → s.wts.converted.contains i = false → e.template = false → e.zstd = false →
    d = (s.peek (s.num O.stagingBase + off) e.bytes).1 → sha3 d = e.digest → convertTensor d = .ok (ws, n, m, bad) → n = e.outBytes →
    tensorStep s.wts.tensors (e.tensor + 2 ^ 32 * e.shard) i d m bad = some ts →
    j ∈ s.loadChunks → j ≠ i → s.wts.converted.contains j = false →
    ∃ t, exec .chunkConvert s = .next t ∧ t.mem = ((s.partsOf e).foldl (fun u part => u.writePart (s.areaBase (if part then (s.wts.copy s.wts.slot).twin else
        (s.wts.copy s.wts.slot).own) + (chunkHead d).dest) ws) s).mem ∧
      t.wts.converted = s.wts.converted ++ [i] ∧ t.wts.posts = rest ∧ t.wts.load = .active ∧
      t.num O.loadReleased = (s.num O.loadReleased + 1) % 2 ^ 32) ∧
  (∀ (s : State) (q : W64) (rest : List W64) (i off : Nat) (e : ChunkEntry), sound s →
    s.wts.posts = q :: rest → s.wts.load = .active → i = q.toNat % 2 ^ 32 → off = q.toNat / 2 ^ 32 * 64 → i < manifestChunks s.wts.manifest →
    e = chunkEntry s.wts.manifest i → s.inLoad e = true → s.wts.converted.contains i = false →
    sha3 (s.peek (s.num O.stagingBase + off) e.bytes).1 ≠ e.digest →
    ∃ t, exec .chunkConvert s = .next t ∧ t.wts.load = .refused ∧ t.num O.loadStatus = 6 ∧ t.num O.loadDetail = i ∧ (t.wts.copy s.wts.slot).st = .absent ∧
      t.mem = s.mem)

/-- 10 R333 to R341; 13 R434: SWITCH_REQUEST, SWITCH_NOTICE, SWITCH_CONFIRM, SWITCH_CANCEL, WEIGHT_SWITCH, TWIN_FETCH. -/
def Obligations.WeightSwitch : Prop :=
  (∀ (s : State) (p : Path) (req : List Byte) (due : Tick) (ep : W32), passes s p O.switchRequest (.bytes req) → u64 req 0 < 2 ^ 48 → u32 req 0xC = 0 →
    due = BitVec.ofNat 48 (u64 req 0) → ep = BitVec.ofNat 32 (u32 req 8) → s.wts.k0.st = .ready → s.wts.k0.epoch = ep →
    s.wts.sw ≠ .pending → s.wts.sw ≠ .confirmed → s.clk.mode ≠ .holdover → s.clk.held = true → Tick.after due s.clk.tick = true →
    s.num O.switchConfirm + 1000 ≤ Tick.since due s.clk.tick → Tick.since due s.clk.tick ≤ 2 ^ 32 → s.pendingEvents < 1024 →
    ∃ t, exec (.switchRequest p req) s = .next t ∧ t.wts = { s.wts with sw := .pending, swTick := due, swEpoch := ep } ∧
      t.clk.events = s.clk.events ++ [{ due := due, ev := .weightSwitch ep }, { due := due - BitVec.ofNat 48 (s.num O.switchConfirm), ev := .switchConfirm }] ∧
      changesOnly [.wts, .clk, .out, .server] s t) ∧
  (∀ (s : State) (src : Node) (x : Tick) (ep : W32) (dg : List Byte),
    exec (.switchNotice src x ep dg) s = .next { s with wts := { s.wts with notices := s.wts.notices.filter (fun n => n.1 != src) ++ [(src, x, ep, dg)] } }) ∧
  (∀ s : State, s.dueBefore 4 = false → (s.dueEvent (fun e => e == .switchConfirm)).isSome = true → s.wts.sw = .pending → s.wts.k0.epoch = s.wts.swEpoch → s.wts.k0.st = .ready →
    ((∀ i, i < s.num O.bondCount → s.crs.own.members.getLsbD i = true → s.bondMember i ≠ s.node →
        s.wts.notices.any (fun x => x == (s.bondMember i, s.wts.swTick, s.wts.swEpoch, s.wts.k0.digest)) = true) →
      (s.mir.twinFailed = true ∨ s.wts.notices.any (fun x => x == (s.twinNode, s.wts.swTick, s.wts.swEpoch, s.wts.k0.digest)) = true) →
      ∃ t, exec .switchConfirm s = .next t ∧ t.wts = { s.wts with sw := .confirmed } ∧ changesOnly [.wts, .clk, .icx, .out] s t) ∧
    (s.wts.notices = [] → s.mir.twinFailed = false →
      ∃ t, exec .switchConfirm s = .next t ∧ t.wts = { s.wts with sw := .cancelled } ∧ changesOnly [.wts, .clk, .icx, .fcu, .errN, .notify, .out] s t)) ∧
  (∀ (s : State) (src : Node) (ep : W32),
    ((s.wts.sw = .pending ∨ s.wts.sw = .confirmed) → s.wts.swEpoch = ep →
      ∃ t, exec (.switchCancel src ep) s = .next t ∧ t.wts = { s.wts with sw := .cancelled } ∧ changesOnly [.wts, .clk, .icx, .fcu, .errN, .notify, .out] s t) ∧
    (s.wts.swEpoch ≠ ep → exec (.switchCancel src ep) s = .next s)) ∧
  (∀ (s : State) (e : Sched), s.dueBefore 4 = false → s.dueEvent (fun e => match e with | .weightSwitch _ => true | _ => false) = some e → s.wts.sw = .confirmed →
    s.wts.k0.st = .ready → s.wts.k0.epoch = s.wts.swEpoch → s.wts.k1.st = .live → s.wts.load ≠ .twinWait → s.pkg.st ≠ .covering →
    ∃ t, exec .weightSwitch s = .next t ∧ t.wts.k0 = { s.wts.k0 with st := .live, swTick := e.due } ∧ t.wts.k1.st ≠ .live ∧ t.wts.sw = .done ∧
      t.wts.k1.digest = s.wts.k1.digest ∧ changesOnly [.wts, .clk, .icx, .out] s t) ∧
  (∀ (s : State) (q : Port) (src : Node) (ep : W32) (part : Bool) (a b off : Nat), s.mir.st ≠ .restoring →
    ((s.wts.k0.epoch ≠ ep) → (s.wts.k1.epoch ≠ ep) → exec (.twinFetch q src ep part a b off) s = .next (s.send src (.twinData none))) ∧
    (∀ g, s.fetched q.val src ep part a b off = some g → ∃ t, exec (.twinFetch q src ep part a b off) s = .next t ∧
      t.out = s.out ++ [.send src (.twinData (some g))] ∧ t.num O.twinFetchesServed = (s.num O.twinFetchesServed + 1) % 2 ^ 32 ∧
      changesOnly [.objects, .out] s t))

/-- 02 R32 to R37: TIME_WORD_SEND, TIME_WORD, PARENT_TIMEOUT. -/
def Obligations.TimeWords : Prop :=
  (∀ s : State, s.pkg.st.hubRuns = true → s.clk.tick.toNat % 16 = 0 →
    ((s.clk.originating = true ∧ s.dueEvent (fun e => e == .handoff) = none) ∨ 
      (s.clk.originating = false ∧ (s.clk.mode = .holdover ∨ s.clk.mode = .locked))) →
    ∃ t, exec .timeWordSend s = .next t ∧ changesOnly [.lnk] s t ∧
      ∀ q, t.port q = (if q < 19 ∧ (s.port q).st = .active ∧ (s.clk.originating = true ∨ s.clk.parent.map (·.val) ≠ some q)
        then { s.port q with words := (s.port q).words ++ [ctrlWord ctTime s.ownTimeWord.payload] } else s.port q)) ∧
  (∀ s : State, s.clk.tick.toNat % 16 ≠ 0 → exec .timeWordSend s = .next s) ∧
  (∀ (s : State) (q : Port) (w : BitVec 96) (ph : BitVec 10), s.pkg.st.hubRuns = true → q.val < 19 → (s.port q.val).st = .active →
    ((readTime w).reserved ≠ 0 ∨ (readTime w).hops = 31 ∨ (readTime w).tick.toNat % 16 ≠ 0 ∨
      ((readTime w).epoch ≠ s.clk.epoch ∧ epochLater (readTime w).epoch s.clk.epoch = false)) →
    exec (.timeWord q w ph) s = .next (s.setNum (O.portCtrlDiscarded q.val) ((s.num (O.portCtrlDiscarded q.val) + 1) % 2 ^ 32))) ∧
  (∀ (s : State) (q : Port) (w : BitVec 96) (ph : BitVec 10), s.pkg.st.hubRuns = true → q.val < 19 → (s.port q.val).st = .active →
    (readTime w).reserved = 0 → (readTime w).hops ≠ 31 → (readTime w).tick.toNat % 16 = 0 → (readTime w).epoch = s.clk.epoch →
    s.clk.originating = false → s.clk.words = [] → s.clk.counting = false → 0 < s.num O.parentTimeout →
    ∃ t, exec (.timeWord q w ph) s = .next t ∧ t.clk.parent = some q ∧ t.clk.hops = (readTime w).hops + 1 ∧ t.clk.counting = true ∧
      t.clk.master = (readTime w).master ∧
      t.clk.tick = BitVec.ofNat 48 (((readTime w).tick.toNat * 1024 + (readTime w).phase + s.num (O.portDelay q.val)) / 1024) ∧ changesOnly [.clk] s t) ∧
  (∀ (s : State) (w : WordSeen), s.clk.originating = false → s.clk.words = [w] →
    (s.eligible w = true → exec .parentTimeout s = .next { s with clk := { s.clk with parent := some w.port, hops := w.hops + 1 } }) ∧
    (s.eligible w = false → exec .parentTimeout s = .next s))

/-- 02 R41: the step and what a serving package does instead. -/
def Obligations.CountStep : Prop :=
  ∀ (s : State) (q : Port) (w : BitVec 96) (ph : BitVec 10) (theirs : Nat), s.pkg.st.hubRuns = true → q.val < 19 → (s.port q.val).st = .active →
    (readTime w).reserved = 0 → (readTime w).hops ≠ 31 → (readTime w).tick.toNat % 16 = 0 → (readTime w).epoch = s.clk.epoch →
    s.clk.originating = false → s.clk.words = [] → s.clk.counting = true → s.clk.selfHold = false → 0 < s.num O.parentTimeout →
    theirs = (readTime w).tick.toNat * 1024 + (readTime w).phase + s.num (O.portDelay q.val) →
    (toSigned 58 (s.clk.tick.toNat * 1024 + ph.toNat + (2 ^ 58 - theirs % 2 ^ 58))).natAbs ≥ 16 * 1024 →
    ∃ t, exec (.timeWord q w ph) s = .next t ∧
      ((s.pkg.st = .boot ∨ s.pkg.st = .align ∨ s.pkg.st = .ready ∨ s.pkg.st = .drained) →
        t.clk.tick = BitVec.ofNat 48 (theirs / 1024) ∧ t.clk.mode = .unlocked ∧ t.clk.lockRun = 0 ∧ t.pkg.st = s.pkg.st) ∧
      ((s.pkg.st = .serving ∨ s.pkg.st = .covering) → calm s → t.pkg.st = .draining ∧ t.clk.tick = s.clk.tick ∧ t.clk.mode = .holdover)

/-- 02 R38, R43 to R48, R52: CLOCK_LOCK, HOLDOVER_ENTER, HOLDOVER_LIMIT, MASTER_HANDOFF, MASTER_TIMEOUT, CCLK_EDGE, CCLK_INVALID. -/
def Obligations.LockAndHoldover : Prop :=
  (∀ s : State, s.clk.mode = .unlocked → s.clk.counting = true → s.clk.parent.isSome = true →
    (1024 ≤ s.clk.lockRun → ∃ t, exec .clockLock s = .next t ∧ t.clk = { s.clk with mode := .locked, held := true } ∧ changesOnly [.clk, .icx, .out] s t) ∧
    (s.clk.lockRun < 1024 → exec .clockLock s = .next s)) ∧
  (∀ (s : State) (h : Tick), s.clk.mode = .locked → s.clk.originating = false → s.clk.lastWord = some h → s.num O.timeWordTimeout ≤ Tick.since s.clk.tick h →
    ∃ t, exec .holdoverEnter s = .next t ∧ t.clk = { s.clk with mode := .holdover, holdElapsed := 0, selfHold := false } ∧
      changesOnly [.clk, .icx, .fcu, .errN, .notify, .out] s t) ∧
  (∀ s : State, calm s → s.clk.mode = .holdover → 10000000 ≤ s.clk.holdElapsed →
    ((s.pkg.st = .serving ∨ s.pkg.st = .covering) → ∃ t, exec .holdoverLimit s = .next t ∧ t.pkg.st = .draining ∧ t.clk = s.clk ∧ t.crs = s.crs ∧ t.ses = s.ses) ∧
    (s.pkg.st = .ready → exec .holdoverLimit s = .next s)) ∧
  (∀ s : State, s.clk.role = .standby → s.clk.held = true →
    ∃ t, exec .masterHandoff s = .next t ∧ t.clk.originating = true ∧ t.clk.role = .master ∧ t.clk.master = s.node ∧ t.clk.epoch = s.clk.epoch + 1 ∧
      t.clk.hops = 0 ∧ t.clk.tick = s.clk.tick ∧ t.clk.mode = .locked ∧ changesOnly [.clk, .lnk, .icx, .out] s t) ∧
  (∀ s : State, s.clk.role = .master → s.clk.originating = true → (s.dueEvent (fun e => e == .handoff)).isSome = true →
    exec .masterHandoff s = .next { s with clk := { s.clk with
      events := s.clk.events.filter (fun e => !(e.ev == .handoff)), originating := false, role := .follower } }) ∧
  (∀ (s : State) (h : Tick), s.clk.role = .standby → s.clk.lastWord = some h → s.num O.masterTimeout ≤ Tick.since s.clk.tick h →
    ∃ t, exec .masterTimeout s = .next t ∧ t.clk.originating = true ∧ t.clk.role = .master ∧ t.clk.epoch = s.clk.epoch + 1 ∧ t.clk.tick = s.clk.tick ∧
      changesOnly [.clk, .lnk, .icx, .out] s t) ∧
  (∀ (s : State) (gap : Nat) (off : Int), s.pkg.st.hubRuns = true →
    (1500 < gap → ∃ t, exec (.cclkEdge gap off) s = .next t ∧ t.clk.cclkValid = false ∧ t.clk.cclkGood = 0 ∧ t.clk.tick = s.clk.tick ∧
      changesOnly [.clk, .icx, .fcu, .errN, .notify, .out] s t) ∧
    (gap ≤ 1500 → off.natAbs ≤ 250 → s.clk.cclkEdges < 1000 → s.clk.cclkValid = false → s.clk.cclkGood < 1000 →
      exec (.cclkEdge gap off) s = .next { s with clk := { s.clk with
        cclkGood := s.clk.cclkGood + 1, cclkSum := s.clk.cclkSum + gap, cclkEdges := s.clk.cclkEdges + 1 } })) ∧
  (∀ s : State, s.clk.cclkValid = true →
    ∃ t, exec .cclkInvalid s = .next t ∧ t.clk = { s.clk with cclkValid := false, cclkGood := 0, cclkSum := 0, cclkEdges := 0 } ∧
      changesOnly [.clk, .icx, .fcu, .errN, .notify, .out] s t)

/-- 02 R62 to R67: HOD_SAMPLING. -/
def Obligations.HodSampling : Prop :=
  (∀ (s : State) (h : Fin 64) (a : Nat) (r : TakenRec), s.dueBefore 5 = false → s.badIn [(a, 64)] = [] → s.pkg.st.hubRuns = true → s.pkg.st ≠ .covering → s.clk.counting = true → s.samplesAt h.val = true →
    (s.hodRt h.val).waiting = [] → (s.hodRt h.val).sampled ≠ some s.clk.tick → s.hodNum h.val O.hodTakeLimit = 1 → a = s.hodSlot h.val (s.hodNum h.val O.hodConsumerIndex) →
    s.peek a 4 = (leBytes 4 (s.hodNum h.val O.hodConsumerIndex), false) → s.peek (a + 0x3C) 4 = (leBytes 4 (s.hodNum h.val O.hodConsumerIndex), false) →
    s.hodNum h.val O.hodConsumerIndex < 2 ^ 32 →
    r = { readHodRecord h.val (BitVec.ofNat 32 (s.hodNum h.val O.hodConsumerIndex)) (s.peek a 64).1 with tenant := s.hodNum h.val O.hodTenant } →
    (s.intakeStatus false r (s.peek a 64).1 (s.peek a 64).2 = 0 →
      ∃ t, exec (.hodSampling h) s = .next t ∧ t.crs.taken = s.crs.taken ++ [r] ∧
        t.num (O.hodConsumerIndex h.val) = (s.num (O.hodConsumerIndex h.val) + 1) % 2 ^ 32 ∧
        objectsBut [(O.hodConsumerIndex h.val).key] s t ∧ changesOnly [.crs, .ses, .objects] s t) ∧
    (s.intakeStatus false r (s.peek a 64).1 (s.peek a 64).2 ≠ 0 →
      ∃ t, exec (.hodSampling h) s = .next t ∧ t.crs.taken = s.crs.taken ∧
        (t.hodRt h.val).rejects = (s.hodRt h.val).rejects ++ [{ tag := (if (s.peek (a + 8) 8).2 then 0 else r.tag), status := s.intakeStatus false r (s.peek a 64).1 (s.peek a 64).2 }] ∧
        t.num (O.hodConsumerIndex h.val) = (s.num (O.hodConsumerIndex h.val) + 1) % 2 ^ 32 ∧ changesOnly [.crs, .ses, .objects, .icx, .out] s t)) ∧
  (∀ (s : State) (h : Fin 64) (a : Nat), s.dueBefore 5 = false → s.badIn [(a, 4), (a + 0x3C, 4)] = [] → s.pkg.st.hubRuns = true → s.pkg.st ≠ .covering → s.clk.counting = true → s.samplesAt h.val = true →
    (s.hodRt h.val).waiting = [] → (s.hodRt h.val).sampled ≠ some s.clk.tick → s.hodNum h.val O.hodTakeLimit = 1 → a = s.hodSlot h.val (s.hodNum h.val O.hodConsumerIndex) →
    (s.peek a 4).2 = false → ofLe (s.peek a 4).1 = s.hodNum h.val O.hodConsumerIndex →
    (s.peek (a + 0x3C) 4).2 = false → ofLe (s.peek (a + 0x3C) 4).1 ≠ s.hodNum h.val O.hodConsumerIndex → (s.hodRt h.val).tornSince = none →
    ∃ t, exec (.hodSampling h) s = .next t ∧ t.hodRt h.val = { s.hodRt h.val with sampled := some s.clk.tick, tornSince := some s.clk.tick } ∧
      t.crs = { s.crs with hods := t.crs.hods } ∧ (∀ k, k ≠ h.val → t.hodRt k = s.hodRt k) ∧ changesOnly [.crs, .ses] s t) ∧
  (∀ (s : State) (h : Fin 64), s.dueBefore 5 = false → s.pkg.st ≠ .covering → s.samplesAt h.val = false → exec (.hodSampling h) s = .next s)

/-- 02 R53, R55 to R57, R68 to R77: COURSE_CUTOFF, CLOSE_MARKER, MARKER_TIMEOUT, COURSE_START, COURSE_CLOSE. -/
def Obligations.Courses : Prop :=
  (∀ (s : State) (n : Node) (i : Nat) (course : W64) (close : Tick), s.pkg.st.runs = true → s.pkg.st ≠ .covering → s.indexIn false n = some i → s.crs.own.running = true →
    ∃ t, exec (.closeMarker n course close) s = .next t ∧
      t.crs.own = { s.crs.own with
        markers := s.crs.own.markers.filter (fun k => k.node != n) ++ [{ node := n, course := course, close := close }]
        members := s.crs.own.members ||| BitVec.ofNat 64 (2 ^ i) } ∧ changesOnly [.crs, .mir] s t) ∧
  (∀ (s : State) (c : Bool), (s.needed c).all (s.streamOf c).heard = true → exec (.markerTimeout c) s = .next s) ∧
  (∀ (s : State) (n : Node) (i : Nat), s.crs.own.running = false → s.crs.own.nextNominal = none → s.pkg.st = .serving →
    s.needed false = [n] → s.crs.own.heard n = false → s.num O.markerTimeout ≤ Tick.since s.clk.tick s.crs.own.closeT → s.indexIn false n = some i →
    exec (.markerTimeout false) s = .next (({ s with crs := { s.crs with own := { s.crs.own with
      members := s.crs.own.members &&& ~~~ (BitVec.ofNat 64 (2 ^ i)), markerMissing := true } } }.raise srcSched 0 0x14 1 n.toNat).planNext false)) ∧
  (∀ (s : State) (c : Bool), s.dueBefore 5 = false → s.dueEvent (fun e => e == .cutoff c) = none → exec (.courseCutoff c) s = .next s) ∧
  (∀ (s : State) (c : Bool), s.dueBefore 5 = false → (s.dueEvent (fun e => e == .cutoff c)).isSome = true → s.pkg.st.runs = true → (s.streamOf c).nextNominal.isSome = true →
    (s.streamOf c).running = false → (s.streamOf c).formed = false → exec (.courseCutoff c) s = .next ((s.unschedule (fun e => e == .cutoff c)).form c)) ∧
  (∀ s : State, s.dueBefore 6 = false → (s.dueEvent (fun e => e == .start false)).isSome = true → s.pkg.st = .serving → s.crs.own.running = false → s.crs.own.formed = true →
    s.crs.covered.running = false → s.crs.own.uncommitted = false → s.joinGang.crs.gang ≠ 0 →
    ∃ t, exec (.courseStart false) s = .next t ∧ t.crs.own.running = true ∧ t.crs.own.course = s.crs.own.next ∧ t.crs.own.startT = s.clk.tick ∧
      t.crs.own.copySlot = s.slotFor (s.crs.own.nextNominal.getD s.clk.tick) ∧ t.clk.tick = s.clk.tick) ∧
  (∀ (s : State) (c : Bool), s.dueBefore 6 = false → (s.dueEvent (fun e => e == .start c)).isSome = true → s.pkg.st.runs = true → (s.streamOf c).running = false →
    (s.streamOf c).formed = true → (s.streamOf (!c)).running = true →
    exec (.courseStart c) s = .next (((s.unschedule (fun e => e == .start c)).countLate c).schedule s.soonest (.start c))) ∧
  (∀ (s : State) (c : Bool), (s.streamOf c).fenceDone = false → exec (.courseClose c) s = .next s) ∧
  (∀ s : State, s.pkg.st = .serving → s.crs.own.running = true → s.crs.own.fenceDone = true →
    ∃ t, exec (.courseClose false) s = .next t ∧ t.crs.own.running = false ∧ t.crs.own.course = s.crs.own.course)

/-- 04 R127 to R131, R139, R140; 13 R445: GRANT, RETIRE_REQUEST, RUN_CLAIM. -/
def Obligations.CreditsAndClaims : Prop :=
  (∀ (s : State) (c : Bool) (course : W64) (k : BitVec 18) (n : BitVec 12) (src : Node) (i : BitVec 20),
    (s.courseParity c course = none → exec (.grant c course k n src i) s = .next (s.raise (srcCredit (k.toNat % 4)) 0 0x25 1 0)) ∧
    (∀ odd, s.courseParity c course = some odd → s.eng.seen.contains (c, course, src, arrivalNo i 0 255) = false → (s.templ c odd).waiters k.toNat = [] →
      SMap.get 0 (s.parity c odd).counters k.toNat + n.toNat ≤ 65535 →
      ∃ t, exec (.grant c course k n src i) s = .next t ∧
        SMap.get 0 (t.parity c odd).counters k.toNat = SMap.get 0 (s.parity c odd).counters k.toNat + n.toNat ∧
        t.eng.seen = s.eng.seen ++ [(c, course, src, arrivalNo i 0 255)] ∧ changesOnly [.cred, .eng] s t) ∧
    (∀ odd, s.courseParity c course = some odd → s.eng.seen.contains (c, course, src, arrivalNo i 0 255) = true →
      exec (.grant c course k n src i) s = .next s)) ∧
  (∀ (s : State) (r : Run) (odd : Bool) (d : Descriptor) (i : Nat), odd = oddOf (s.streamOf r.covered).course → s.runs r = true →
    (s.coreAt (runCore r)).done = true → (s.templ r.covered odd).find r.inst.toNat = some (d, i) → d.kind.toNat ∉ [0x05, 0x12, 0x17, 0x1A, 0x1B] → d.grants = [] → s.mir.outbox = [] →
    ∃ t, exec (.retireRequest r) s = .next t ∧ (t.word r.covered odd r.inst.toNat).st = .retired ∧ (t.word r.covered odd r.inst.toNat).holder = none ∧
      (t.coreAt (runCore r)).running = none ∧ (t.coreAt (runCore r)).retired = (s.coreAt (runCore r)).retired + 1 ∧ changesOnly [.cred, .ses, .free] s t) ∧
  (∀ (s : State) (r : Run) (odd : Bool) (rest : List Entry) (w : InstWord), odd = oddOf (s.streamOf r.covered).course →
    (s.coreAt (runCore r)).st = .active → (s.coreAt (runCore r)).running = none → (s.coreAt (runCore r)).waits = false →
    (s.coreAt (runCore r)).deque = rest ++ [entryOf r.covered odd r.inst.toNat] → s.started r.covered odd = true →
    SMap.find (s.parity r.covered odd).words r.inst.toNat = some w → w.st = .ready → w.holder.map (·.val) = some (runCore r) →
    (∀ a b, (s.parity a b).unplaced = []) →
    ∃ t, exec (.runClaim r) s = .next t ∧
      t.coreAt (runCore r) = { s.coreAt (runCore r) with deque := rest, running := some (entryOf r.covered odd r.inst.toNat), done := false } ∧
      t.word r.covered odd r.inst.toNat = { w with st := .running } ∧ changesOnly [.cred] s t)

/-- 04 R141 to R149; 17 R577, R578: STEAL, STEAL_RETRY_WAIT, DEPTH_PUBLISH, CORE_LEAVE, CORE_WITHDRAWN, CORE_REJOIN. -/
def Obligations.StealingAndWithdrawal : Prop :=
  (∀ (s : State) (q : Fin 4) (nn : Fin 96) (g v : Nat) (x : Entry) (rest : List Entry), g = coreNo q nn →
    v = q.val * 96 + 8 * (nn.val / 8) + (nn.val % 8 + 1) % 8 →
    (s.coreAt g).st = .active → (s.coreAt g).running = none → (s.coreAt g).waits = false → (s.coreAt g).deque = [] → s.overflow q.val = [] →
    (s.coreAt v).deque = x :: rest →
    ∃ t, exec (.steal q nn) s = .next t ∧ (t.coreAt g).deque = [x] ∧ (t.coreAt g).steals = (s.coreAt g).steals + 1 ∧ (t.coreAt v).deque = rest ∧
      (∀ k, k ≠ g → k ≠ v → t.coreAt k = s.coreAt k) ∧ changesOnly [.cred, .free] s t) ∧
  (∀ (s : State) (q : Fin 4) (nn : Fin 96), (s.coreAt (coreNo q nn)).st = .active → (s.coreAt (coreNo q nn)).running = none →
    (s.coreAt (coreNo q nn)).waits = false → s.overflow q.val = [] → (∀ k, (s.coreAt k).deque = [] ∧ (s.coreAt k).shown = 0) → (∀ k, s.hubDepth k = 0) →
    ∃ t, exec (.steal q nn) s = .next t ∧ (t.coreAt (coreNo q nn)).waits = true ∧ (t.coreAt (coreNo q nn)).deque = [] ∧
      (t.coreAt (coreNo q nn)).misses = (s.coreAt (coreNo q nn)).misses + 7 ∧ (∀ k, k ≠ coreNo q nn → t.coreAt k = s.coreAt k) ∧ changesOnly [.cred, .free] s t) ∧
  (∀ (s : State) (q : Fin 4) (nn : Fin 96),
    exec (.stealRetryWait q nn) s = .next (s.setCore (coreNo q nn) { s.coreAt (coreNo q nn) with waits := false }) ∧
    ∃ t, exec (.depthPublish q nn) s = .next t ∧ t.coreAt (coreNo q nn) = { s.coreAt (coreNo q nn) with shown := (s.coreAt (coreNo q nn)).deque.length } ∧
      (∀ k, k ≠ coreNo q nn → t.coreAt k = s.coreAt k) ∧ changesOnly [.cred, .free] s t) ∧
  (∀ (s : State) (q : Fin 4) (nn : Fin 96) (c : Fin 4), (s.coreAt (coreNo q nn)).st = .active →
    exec (.coreLeave (.control c) q nn) s = .next (s.setCore (coreNo q nn) { s.coreAt (coreNo q nn) with st := .leaving, leave := true })) ∧
  (∀ (s : State) (q : Fin 4) (nn : Fin 96) (n : Node), 
    exec (.coreLeave (.remote n) q nn) s = .next (s.raise srcRouter 0 0x06 1 (cregBase + (coreReg (coreNo q nn) + 4)))) ∧
  (∀ (s : State) (q : Fin 4) (nn : Fin 96), (s.coreAt (coreNo q nn)).st = .leaving → (s.coreAt (coreNo q nn)).running = none → (s.coreAt (coreNo q nn)).deque = [] →
    exec (.coreWithdrawn q nn) s = .next (s.setCore (coreNo q nn) { s.coreAt (coreNo q nn) with
      st := if (s.coreAt (coreNo q nn)).forTest then .test else .withdrawn, leave := false, forTest := false })) ∧
  (∀ (s : State) (q : Fin 4) (nn : Fin 96) (c : Fin 4), (s.coreAt (coreNo q nn)).st = .withdrawn → (s.coreAt (coreNo q nn)).failed = false →
    (s.coreAt (coreNo q nn)).awaitTest = false →
    exec (.coreRejoin (.control c) q nn) s = .next (s.setCore (coreNo q nn) { s.coreAt (coreNo q nn) with rejoin := true }))

/-- 04 R122, R130, R131, Table 4.6: the ashlar kinds. -/
def Obligations.AshlarsRun : Prop :=
  -- covers: matmul accCombine attend attnMerge routerTopk expertScatter expertGather normRms normCentred activate rotaryScore softmax residualAdd requant embed probs sample scaffoldVerify kvSet kvShip kvRepack satchelStore gateMask lsumCombine copy collect fence gatherRows
  ∀ (s : State) (r : Run), sound s →
    (∀ c ∈ [(Instr.matmul r, 0x01), (.accCombine r, 0x02), (.attend r, 0x03), (.attnMerge r, 0x04), (.routerTopk r, 0x05), (.expertScatter r, 0x06),
        (.expertGather r, 0x07), (.normRms r, 0x08), (.normCentred r, 0x09), (.activate r, 0x0A), (.rotaryScore r, 0x0B), (.softmax r, 0x0C),
        (.residualAdd r, 0x0D), (.requant r, 0x0E), (.embed r, 0x0F), (.probs r, 0x10), (.sample r, 0x11), (.scaffoldVerify r, 0x12), (.kvSet r, 0x13),
        (.kvShip r, 0x14), (.kvRepack r, 0x15), (.satchelStore r, 0x16), (.gateMask r, 0x17), (.lsumCombine r, 0x18), (.copy r, 0x19), (.fence r, 0x1B),
        (.gatherRows r, 0x1C)],
      (∀ a, s.ashlar r c.2 = some a → ∃ t, exec c.1 s = .next t ∧ Ran s t r t.mem) ∧ (s.ashlar r c.2 = none → exec c.1 s = .next s)) ∧
    (∀ (got : List (BitVec 6 × List Byte)), (s.ashlar r 0x1A = none → exec (.collect r got) s = .next s) ∧
      (∀ a, s.ashlar r 0x1A = some a → (∀ k, k < 64 → ∃ g ∈ got, g.1.toNat = k) → (s.bondOf r.covered).length ≤ 64 →
        ∃ t, exec (.collect r got) s = .next t ∧ Ran s t r t.mem))

/-- 03 R97, R100, R103; 04 Table 4.6; 07 R228: the vector kinds on one row. -/
def Obligations.VectorKinds : Prop :=
  ∀ (s : State) (r : Run) (a : Ashlar) (x out : BlockEntry), sound s → s.inBlock r.covered a a.d.h0 = some x → x.rows = 1 → s.outBlock r.covered a a.d.h2 = some out →
    (s.ashlar r 0x08 = some a → ∃ t, exec (.normRms r) s = .next t ∧
      Ran s t r (s.pokeAs a.odd 0 (out.row 0) (outRow out 0 (rmsNorm (s.elems x 0 a.d.p1.toNat) (s.elemsOf (s.inBlock r.covered a a.d.h1) 0 a.d.p1.toNat) (fx a.d.p0))).1.2).mem) ∧
    (s.ashlar r 0x09 = some a → ∃ t, exec (.normCentred r) s = .next t ∧
      Ran s t r (s.pokeAs a.odd 0 (out.row 0) (outRow out 0 (centredNorm (s.elems x 0 a.d.p1.toNat) (s.elemsOf (s.inBlock r.covered a a.d.h1) 0 a.d.p1.toNat)
        (s.elemsOf (s.inBlock r.covered a a.d.h3) 0 a.d.p1.toNat) (fx a.d.p0))).1.2).mem) ∧
    (s.ashlar r 0x0A = some a → ∃ t, exec (.activate r) s = .next t ∧
      Ran s t r (s.pokeAs a.odd 0 (out.row 0) (outRow out 0 (List.zipWith (activation a.d.p0.toNat) (s.elems x 0 a.d.p1.toNat)
        (s.elemsOf (s.inBlock r.covered a a.d.h1) 0 a.d.p1.toNat))).1.2).mem) ∧
    (s.ashlar r 0x0C = some a → ∃ t, exec (.softmax r) s = .next t ∧
      Ran s t r (s.pokeAs a.odd 0 (out.row 0) (outRow out 0 (fsoftmax (s.elems x 0 a.d.p0.toNat))).1.2).mem) ∧
    (s.ashlar r 0x0D = some a → a.d.p0.toNat = 1 → s.inBlock r.covered a a.d.h3 = none → out.skipGroup = 0 → ∃ t, exec (.residualAdd r) s = .next t ∧
      Ran s t r (s.pokeAs a.odd 0 (out.row 0) (outSums out 0 ((List.range a.d.p1.toNat).map (fun k =>
        longSum [(s.elems x 0 a.d.p1.toNat).getD k (fx 0), (s.elemsOf (s.inBlock r.covered a a.d.h1) 0 a.d.p1.toNat).getD k (fx 0)]))).1.2).mem) ∧
    (∀ codes sc, s.ashlar r 0x0E = some a → s.outBlock r.covered a a.d.h3 = none → codes = codeBytes (requantCodes 127 (s.elems x 0 a.d.p0.toNat)).1 →
      sc = leBytes 4 (requantCodes 127 (s.elems x 0 a.d.p0.toNat)).2.v.toNat → ∃ t, exec (.requant r) s = .next t ∧
      Ran s t r ((s.pokeAs a.odd (scaleExpOf sc) (out.row 0) (out.put 0 codes).2).pokeAs a.odd (scaleExpOf sc) (out.row 0 + out.rowBytes) (out.putScale 0 sc).2).mem) ∧
    (∀ p, s.ashlar r 0x10 = some a → p = (s.session (s.probsSlot r a x 0)).profile → ∃ t, exec (.probs r) s = .next t ∧
      Ran s t r (s.pokeAs a.odd 0 (out.row 0) (outRow out 0 (probsRow (BitVec.ofNat 32 (s.cnum r.covered (O.profTemperature p))) (s.cnum r.covered (O.profTopK p))
        (BitVec.ofNat 32 (s.cnum r.covered (O.profTopP p))) (s.elems x 0 a.d.p0.toNat))).1.2).mem)

/-- 03 R92 to R95, R102; 04 R122 to R124, Table 4.6; 07 R232: the matrix and data kinds on one row. -/
def Obligations.MatrixAndDataKinds : Prop :=
  ∀ (s : State) (r : Run) (a : Ashlar) (x out : BlockEntry), sound s → s.inBlock r.covered a a.d.h0 = some x → s.outBlock r.covered a a.d.h2 = some out →
    (∀ w f, s.ashlar r 0x01 = some a → x.rows = 1 → s.inBlock r.covered a a.d.h1 = some w → blockFmt w.format.toNat = some f → a.d.p3.toNat = 1 → bits a.d.p2.toNat 15 0 = 1 →
      ∃ t, exec (.matmul r) s = .next t ∧
        Ran s t r (s.pokeAs a.odd 0 (out.row 0) (out.put 0 (accBytes (s.accumulate f (localOf w.addr.toNat) (64 * s.peekLe (localOf w.addr.toNat + 0xC) 4) (s.peek (x.row 0) x.rowBytes).1
          (bits a.d.p2.toNat 31 16) a.d.p0.toNat a.d.p1.toNat).1)).2).mem) ∧
    (∀ b, s.ashlar r 0x02 = some a → x.rows = 1 → a.d.p0.toNat = 1 → a.d.p1.toNat = 0 → s.inBlock r.covered a a.d.h1 = some b → s.inBlock r.covered a a.d.h3 = none →
      goodScale (BitVec.ofNat 32 (s.peekLe (b.row 0) 4)) = true → ∃ t, exec (.accCombine r) s = .next t ∧
        Ran s t r (s.pokeAs a.odd 0 (out.row 0) (outRow out 0 ((addWords (wordsIn x 16) [s.wordsAt x 0 16 (wordsIn x 16)]).map
          (fun v => finishAcc v (BitVec.ofNat 32 (s.peekLe (b.row 0) 4)) fone))).1.2).mem) ∧
    (s.ashlar r 0x18 = some a → x.rows = 1 → a.d.p0.toNat = 1 → ∃ t, exec (.lsumCombine r) s = .next t ∧
      Ran s t r (s.pokeAs a.odd 0 (out.row 0) (outSums out 0 ((addWords (wordsIn x 40) [s.wordsAt x 0 40 (wordsIn x 40)]).map (fun i => (i, false)))).1.2).mem) ∧
    (∀ got, s.ashlar r 0x1A = some a → r.inst.toNat ∉ (s.streamOf r.covered).sentWords → x.rows = 1 → a.d.p2.toNat = 0 → s.bondOf r.covered = [s.streamNode r.covered] → ∃ t, exec (.collect r got) s = .next t ∧
      Ran s t r (s.pokeAs a.odd 0 (out.row 0) (out.put 0 (((List.range (wordsIn x 16)).map (fun k => accBytes (ofAccBytes ((s.peek (x.row 0) (16 * wordsIn x 16)).1.drop (16 * k))))).flatten)).2).mem ∧
      ∀ m ∈ s.collectMembers r.covered a.odd a.d a.i, OutMsg.send m (.collect (s.parityCourse r.covered a.odd) r.inst.toNat a.d.h3 (s.peek (x.row 0) (16 * wordsIn x 16)).1) ∈ t.out) ∧
    (∀ tb codes sc, s.ashlar r 0x0F = some a → x.rows = 1 → s.inBlock r.covered a a.d.h1 = some tb → codes = (s.peek (tb.row (s.peekLe (x.row 0) 4)) a.d.p0.toNat).1 →
      sc = (s.peek (tb.row (s.peekLe (x.row 0) 4) + tb.rowBytes) 4).1 → ∃ t, exec (.embed r) s = .next t ∧
      Ran s t r ((s.pokeAs a.odd (scaleExpOf sc) (out.row 0) (out.put 0 codes).2).pokeAs a.odd (scaleExpOf sc) (out.row 0 + out.rowBytes) (out.putScale 0 sc).2).mem) ∧
    (s.ashlar r 0x19 = some a → x.rows = 1 → out.rows = 1 → ∃ t, exec (.copy r) s = .next t ∧
      Ran s t r (s.pokeAs a.odd 0 (out.row 0) (out.put 0 (s.peek (x.row 0) (Nat.min x.rowBytes out.rowBytes)).1).2).mem) ∧
    (∀ ix row sc, s.ashlar r 0x1C = some a → s.inBlock r.covered a a.d.h1 = some ix → ix.rows = 1 →
      row = (s.peek (x.row (s.peekLe (ix.row 0) 4)) (a.d.p0.toNat * elemBytes x.format.toNat)).1 → sc = (s.peek (x.row (s.peekLe (ix.row 0) 4) + x.rowBytes) 4).1 →
      ∃ t, exec (.gatherRows r) s = .next t ∧
      Ran s t r (if x.format = 1 then
        (s.pokeAs a.odd (scaleExpOf sc) (out.row 0) (out.put 0 row).2).pokeAs a.odd (scaleExpOf sc) (out.row 0 + out.rowBytes) (out.putScale 0 sc).2
        else s.pokeAs a.odd 0 (out.row 0) (out.put 0 row).2).mem) ∧
    (s.ashlar r 0x17 = some a → (s.streamOf r.covered).rows.length = 1 → ∃ t, exec (.gateMask r) s = .next t ∧
      Ran s t r (s.pokeAs a.odd 0 (out.row 0) (out.put 0 (leBytes 8 ((List.range a.d.p1.toNat).foldl (fun acc k =>
        acc + (if units (((s.elems x 0 a.d.p1.toNat).map (fun v => fin v.v)).getD k (fx 0)).v < units (fin a.d.p2).v then 2 ^ k else 0)) 0 +
        a.d.p0.toNat % 65536 * 2 ^ 32))).2).mem) ∧
    (s.ashlar r 0x1B = some a → ∃ t, exec (.fence r) s = .next t ∧ Ran s t r s.mem)

/-- 05 R155, R164 to R185; 06 R201; 08 R262: the attention and session kinds on one row. -/
def Obligations.AttentionKinds : Prop :=
  (∀ (s : State) (r : Run) (a : Ashlar) (x rb out : BlockEntry) (q : Nat × Root × Nat) (p : Rotary) (y : Span), sound s → s.ashlar r 0x03 = some a →
    s.inBlock r.covered a a.d.h0 = some x → x.rows = 1 → s.inBlock r.covered a a.d.h3 = some rb → s.outBlock r.covered a a.d.h2 = some out → q = s.queryOf r x 0 →
    p = readRotary (s.peek (rb.row 0) 64).1 →
    y = s.attendRow p ((s.templ r.covered a.odd).omegasOf ((handleOf a.d.h3 a.i).map (s.resolve r.covered a.odd)) p) q.1 q.2.2 q.2.1
      ((s.templ r.covered a.odd).isDraft r.inst.toNat) ((s.templ r.covered a.odd).kvLayer r.inst.toNat (handleOf a.d.h1 a.i)) a.d.p0.toNat a.d.p1.toNat a.d.p2.toNat
      (s.expectForm r.covered a) (s.elems x 0 (p.heads * p.group * p.dim)) →
    ∃ t, exec (.attend r) s = .next t ∧ Ran s t r (s.pokeAs a.odd 0 (out.row 0) (out.put 0 y.bytes).2).mem) ∧
  (∀ (s : State) (r : Run) (a : Ashlar) (x rb out : BlockEntry) (p : Rotary) (om : List Fx) (q : Nat × Root × Nat) (layer : Nat) (row : List Fx) (vis : List Nat),
    sound s → s.ashlar r 0x0B = some a → s.inBlock r.covered a a.d.h0 = some x → x.rows = 1 → s.inBlock r.covered a a.d.h3 = some rb → s.outBlock r.covered a a.d.h2 = some out →
    p = readRotary (s.peek (rb.row 0) 64).1 → om = (s.templ r.covered a.odd).omegasOf ((handleOf a.d.h3 a.i).map (s.resolve r.covered a.odd)) p →
    q = s.queryOf r x 0 → layer = (s.templ r.covered a.odd).kvLayer r.inst.toNat (handleOf a.d.h1 a.i) →
    row = s.elems x 0 (p.heads * p.group * p.dim) →
    vis = s.visible q.1 layer q.2.2 q.2.1 ((s.templ r.covered a.odd).isDraft r.inst.toNat) a.d.p1.toNat a.d.p2.toNat →
    ∃ t, exec (.rotaryScore r) s = .next t ∧ Ran s t r (s.pokeAs a.odd 0 (out.row 0) (out.put 0 (((List.range p.group).flatMap (fun j => (List.range a.d.p2.toNat).map (fun k =>
      if vis.contains (a.d.p1.toNat + k) then
        (score (queryCodes p om (q.2.1.rotPos layer q.2.2) (a.d.p0.toNat * p.group + j) row).1 (s.keyCodes p om q.2.1 layer a.d.p0.toNat (a.d.p1.toNat + k)).1
          (queryCodes p om (q.2.1.rotPos layer q.2.2) (a.d.p0.toNat * p.group + j) row).2 (s.keyCodes p om q.2.1 layer a.d.p0.toNat (a.d.p1.toNat + k)).2.1).v
      else 0xFF7FFFFF))).flatMap (fun w => leBytes 4 w.toNat))).2).mem) ∧
  (∀ (s : State) (r : Run) (a : Ashlar) (x out : BlockEntry), sound s → s.ashlar r 0x04 = some a → s.inBlock r.covered a a.d.h0 = some x → x.rows = 1 →
    s.outBlock r.covered a a.d.h2 = some out → a.d.p0.toNat = 1 → (s.templ r.covered a.odd).isDraft r.inst.toNat = false → (s.templ r.covered a.odd).main.group = 1 →
    u32 (s.peek (x.row 0) (16 + 16 * (s.templ r.covered a.odd).main.dim)).1 8 = 0 →
    ∃ t, exec (.attnMerge r) s = .next t ∧
      Ran s t r (s.pokeAs a.odd 0 (out.row 0) (outRow out 0 (List.replicate (s.templ r.covered a.odd).main.dim (fx 0))).1.2).mem) ∧
  (∀ (s : State) (r : Run) (a : Ashlar) (x : BlockEntry) (y : TokenRow) (g : Root) (vals : List W32), sound s → s.ashlar r 0x13 = some a → s.inBlock r.covered a a.d.h0 = some x → x.rows = 1 →
    y = s.tokenRow r.covered x 0 → g = (s.session y.slot).root ((s.templ r.covered a.odd).isDraft r.inst.toNat) → g.heads = a.d.p1.toNat →
    (s.streamOf r.covered).firstIn x.tile = [] → y.kvPos < 262144 → y.kvPos < g.setEnd + g.scaffold →
    vals = (s.elems x 0 (2 * g.heads * g.dim)).map (·.v) →
    ∃ t, exec (.kvSet r) s = .next t ∧
      Ran s t r (s.poke (localOf (g.page a.d.p0.toNat (y.kvPos / 64)).addr.toNat + y.kvPos % 64 * g.tr) ((List.range g.heads).flatMap (fun h =>
        (openHead ((vals.drop (h * g.dim)).take g.dim) ((vals.drop (g.heads * g.dim + h * g.dim)).take g.dim)).1))).mem) ∧
  (∀ (s : State) (r : Run) (a : Ashlar) (x out : BlockEntry) (y : TokenRow) (k : Nat) (mine : Bool), sound s → s.ashlar r 0x11 = some a →
    s.inBlock r.covered a a.d.h0 = some x → x.rows = 1 →
    s.outBlock r.covered a a.d.h2 = some out → a.d.p0.toNat = 0 → y = s.tokenRow r.covered x 0 →
    k = select (s.words32 (some x) 0 (s.templ r.covered a.odd).vocab) ((s.session y.slot).draw 0 (y.position + 1))
      (s.words32 (s.logitsOf r.covered a a.d.h0) 0 (s.templ r.covered a.odd).vocab) →
    mine = s.samples (s.streamOf r.covered) y.slot (tokenIndex x 0) →
    ∃ t u, exec (.sample r) s = .next t ∧
      u = s.pokeAs a.odd 0 (out.row 0) (out.put 0 (headWords k (tokenIndex x 0) (if mine then y.csession else 2 ^ 32 - 1))).2 ∧
      Ran s t r (if mine then u.editSession y.slot (fun z => { z with confirmed := [BitVec.ofNat 32 k], verified := 0, accepted := 0 }) else u).mem ∧
      (mine = true → (t.session y.slot).confirmed = [BitVec.ofNat 32 k])) ∧
  (∀ (s : State) (r : Run) (a : Ashlar), sound s → s.ashlar r 0x12 = some a → (s.streamOf r.covered).drafting = [] →
    ∃ t, exec (.scaffoldVerify r) s = .next t ∧ Ran s t r s.mem ∧ t.ses.table = s.ses.table) ∧
  (∀ (s : State) (r : Run) (a : Ashlar) (p : Nat × Bool × Nat × Nat × W64) (g : Root), sound s → s.ashlar r 0x15 = some a →
    (s.streamOf r.covered).parking.filter (fun p => p.2.2.1 == a.d.p0.toNat) = [p] → g = (s.session p.1).root p.2.1 → (g.page p.2.2.1 p.2.2.2.1).st = 2 →
    ∃ t, exec (.kvRepack r) s = .next t ∧
      Ran s t r (s.pokeAs a.odd 0 (localOf p.2.2.2.2.toNat) (sealPage g true (s.pageRows g (g.page p.2.2.1 p.2.2.2.1))).1).mem) ∧
  (∀ (s : State) (r : Run) (a : Ashlar) (x : BlockEntry) (slot n : Nat), sound s → s.ashlar r 0x16 = some a → s.inBlock r.covered a a.d.h0 = some x →
    (s.satchelling r.covered)[a.i]? = some slot → n = Nat.min x.rows 4080 →
    ∃ t, exec (.satchelStore r) s = .next t ∧
      Ran s t r ((s.pokeAs a.odd 0 (localOf (s.session slot).satchel.toNat) (satchelBytes (s.session slot).tag (s.session slot).main.length ((s.session slot).nextToken.getD 0)
        ((List.range n).map (fun k => s.peekLe (x.row k) 4)))).editSession slot (fun z => { z with satchelCount := n })).mem ∧ (t.session slot).satchelCount = n) ∧
  (∀ (s : State) (r : Run) (a : Ashlar) (slot : Nat), sound s → s.ashlar r 0x14 = some a → s.shippingTo r.covered (BitVec.ofNat 17 a.d.p0.toNat) = [slot] →
    (s.templ r.covered a.odd).isDraft r.inst.toNat = false → pagesFor (s.session slot).main.length = 1 →
    ∃ t p, exec (.kvShip r) s = .next t ∧ p = s.pageRecordOf (s.session slot) false (s.session slot).ship.id a.d.p1.toNat 0 ∧
      t.mir = (s.putOut r.covered a.odd r.inst.toNat [{ covered := r.covered, odd := a.odd, inst := r.inst.toNat, dest := BitVec.ofNat 17 a.d.p0.toNat
                                                        body := .pageRecord p.1 p.2, root := some (slot, false) }]).mir ∧ Ran s t r s.mem)

/-- 15 R488, R490, R496, R497, R500: what raising a fault does. -/
def Obligations.FaultMessagesRaised : Prop :=
  ∀ (s : State) (src part kind cls addr : Nat) (m : FaultMsg),
    m = { tick := s.now, source := src, part := part, kind := BitVec.ofNat 8 kind, cls := cls, addr := BitVec.ofNat 47 addr,
          seq := (SMap.get 0 s.fcu.seqs src + 1) % 8, running := if src < 384 then (SMap.get {} s.cred.cores src).running else none } →
    changesOnly [.fcu, .errN, .notify, .out] s (s.raise src part kind cls addr) ∧
    (s.pkg.st = .off → s.raise src part kind cls addr = s) ∧
    (s.pkg.st.mgmtOnly = true → src < 0x3A0 → s.raise src part kind cls addr = s) ∧
    (s.pkg.st.mgmtOnly = true → 0x3A0 ≤ src → (s.raise src part kind cls addr).fcu.store = keepLast 64 (s.fcu.store ++ [m.bits 0]) ∧
      (s.errFor src cls = true → (s.raise src part kind cls addr).pkg.err = true)) ∧
    (s.pkg.st ≠ .off → s.pkg.st.mgmtOnly = false →
      (src ≠ srcFcu → SMap.get 0 (s.raise src part kind cls addr).fcu.seqs src = m.seq) ∧
      (3 ≤ cls → (s.raise src part kind cls addr).fcu.urgent = s.fcu.urgent ++ [m]) ∧
      (cls ≤ 2 → s.fcu.intake.length < 64 → (s.raise src part kind cls addr).fcu.intake = s.fcu.intake ++ [m]) ∧
      (cls = 2 → 64 ≤ s.fcu.intake.length → (s.raise src part kind cls addr).fcu.heldBack = s.fcu.heldBack ++ [m]) ∧
      (cls ≤ 1 → 64 ≤ s.fcu.intake.length → (s.raise src part kind cls addr).num O.faultsDropped = (s.num O.faultsDropped + 1) % 2 ^ 64 ∧
        (s.raise src part kind cls addr).fcu.intake = s.fcu.intake))

/-- 15 R494, R496, R501 to R507, R522: FAULT_INTAKE, FCU_TRAP_DONE, FCU_KICK, WATCHDOG, FCU_INJECT. -/
def Obligations.FaultCollector : Prop :=
  (∀ (s : State) (m : FaultMsg) (rest : List FaultMsg), s.fcu.urgent = [] → s.fcu.intake = m :: rest → s.fcu.heldBack = [] →
    s.fcu.rateAt = s.clk.tick.toNat / 1000 → s.pkg.st ≠ .off → s.pkg.st.mgmtOnly = false → m.cls ≤ 1 → m.kind ≠ 0x8B →
    SMap.get 0 s.fcu.rate m.source < s.num O.faultRate → s.reactionOf m.source m.cls ≤ 1 → s.stillResetting m.source = false →
    ∃ t, exec .faultIntake s = .next t ∧ t.fcu.intake = rest ∧ t.fcu.log = keepLast 1024 (s.fcu.log ++ [m.bits (s.reactionOf m.source m.cls)]) ∧
      t.num O.faultIndex = (s.num O.faultIndex + 1) % 2 ^ 64 ∧ t.num (O.faultCount m.cls) = (s.num (O.faultCount m.cls) + 1) % 2 ^ 64 ∧
      objectsBut [O.faultIndex.key, (O.faultCount m.cls).key] s t ∧ changesOnly [.fcu, .objects, .errN, .notify, .icx, .out] s t) ∧
  (∀ (s : State) (m : FaultMsg) (rest : List FaultMsg), s.fcu.urgent = m :: rest → m.cls = 3 → s.fcu.rateAt = s.clk.tick.toNat / 1000 → s.pkg.st.hubRuns = true → calm s →
    (∀ x, x ∈ rest ++ s.fcu.intake ++ s.fcu.heldBack → x.cls ≤ 1) → s.reactionOf m.source 3 = 4 → (∀ x ∈ s.fcu.resets, x + stormWindow ≤ s.us) → 2 ≤ s.num O.stormLimit →
    ∃ t, exec .faultIntake s = .next t ∧ t.pkg.st = .halt ∧ t.fcu.resets = [s.us] ∧ t.fcu.log = [] ∧ t.num O.chipResets = (s.num O.chipResets + 1) % 2 ^ 32 ∧
      t.fcu.store = keepLast 64 (s.fcu.store ++ [m.bits 4])) ∧
  (∀ (s : State) (who : Requester) (v : W32),
    (isCtl who = true → v.toNat % 2 = 1 → exec (.fcuTrapDone who v) s = .next { s with fcu := { s.fcu with traps := s.fcu.traps.drop 1 } }) ∧
    (isCtl who = true → v.toNat % 2 = 0 → exec (.fcuTrapDone who v) s = .next s) ∧
    (isCtl who = false → exec (.fcuTrapDone who v) s = .next (s.raise srcRouter 0 0x06 1 (cregBase + 0x03000020)))) ∧
  (∀ (s : State) (who : Requester) (c : Fin 4) (v : W32),
    (isCtl who = true → v.toNat % 2 = 1 → exec (.fcuKick who c v) s = .next { s with fcu := { s.fcu with kicks := SMap.put s.fcu.kicks c s.us } }) ∧
    (isCtl who = true → v.toNat % 2 = 0 → exec (.fcuKick who c v) s = .next s) ∧
    (isCtl who = false → exec (.fcuKick who c v) s = .next (s.raise srcRouter 0 0x06 1 (cregBase + (0x03000030 + 4 * c.val))))) ∧
  (∀ (s : State) (c : Fin 4) (k : Nat), SMap.find s.fcu.kicks c = some k →
    (k + 1000 * s.num O.watchdogPeriod ≤ s.us →
      exec (.watchdog c) s = .next ({ s with fcu := { s.fcu with kicks := SMap.del s.fcu.kicks c } }.raise (srcControl c.val) 0 0x03 3 0)) ∧
    (s.us < k + 1000 * s.num O.watchdogPeriod → exec (.watchdog c) s = .next s)) ∧
  (∀ (s : State) (who : Requester) (w : W32) (a b c : W32) (v : Nat), s.fcu.inject = [a, b, c] →
    v = a.toNat + b.toNat * 2 ^ 32 + c.toNat * 2 ^ 64 + w.toNat * 2 ^ 96 →
    (isCtl who = true → s.pkg.st = .drained → bits v 55 53 ≤ 2 → knownKind (bits v 63 56) = true →
      exec (.fcuInject who w) s = .next (s.raise (bits v 73 64) (bits v 79 74) (bits v 63 56) (bits v 55 53) (bits v 49 3))) ∧
    (isCtl who = true → (s.pkg.st ≠ .drained ∨ 3 ≤ bits v 55 53 ∨ knownKind (bits v 63 56) = false) → exec (.fcuInject who w) s = .next s) ∧
    (isCtl who = false → exec (.fcuInject who w) s = .next (s.raise srcRouter 0 0x06 1 (cregBase + 0x0300004C))))

/-- 15 R510, R513, R514, R521, R522: the controller's registers. -/
def Obligations.IcxRegisters : Prop :=
  ∀ s : State, s.icx.doze = false →
    (∀ (c : Fin 4) (who : Requester), (who ≠ .control c ∨ s.pick c = none) → exec (.icxClaim who c) s = .next (s.emit (.answer who 0))) ∧
    (∀ (c : Fin 4) (src : Nat), s.pick c = some src → (s.icxStack c).length < 16 →
      exec (.icxClaim (.control c) c) s = .next (({ s with icx := { s.icx with pend := setBit512 s.icx.pend src false, active := setBit512 s.icx.active src true, running := SMap.set [] s.icx.running c (src :: s.icxStack c) } }.startHoldoff src).emit (.answer (.control c) (BitVec.ofNat 64 (2 ^ 31 + src))))) ∧
    (∀ (who : Requester) (c : Fin 4) (v : W32), isCtl who = true →
      (∀ rest, s.icxStack c = v.toNat % 512 :: rest → exec (.icxEoi who c v) s =
        .next { s with icx := { s.icx with active := setBit512 s.icx.active (v.toNat % 512) false, running := SMap.set [] s.icx.running c rest } }) ∧
      (∀ x rest, s.icxStack c = x :: rest → x ≠ v.toNat % 512 → exec (.icxEoi who c v) s = .next (s.raise srcIcx 0 0x02 1 (v.toNat % 512 + x * 2 ^ 16)))) ∧
    (∀ (who : Requester) (w : Fin 16) (v : W32), isCtl who = true →
      exec (.icxPendSet who w v) s = .next { s with icx := { s.icx with pend := s.icx.pend ||| wordBits w v } } ∧
      exec (.icxPendClr who w v) s = .next { s with icx := { s.icx with pend := s.icx.pend &&& ~~~ wordBits w v } } ∧
      exec (.icxEnSet who w v) s = .next { s with icx := { s.icx with en := s.icx.en ||| wordBits w v } } ∧
      exec (.icxEnClr who w v) s = .next { s with icx := { s.icx with en := s.icx.en &&& ~~~ wordBits w v } }) ∧
    (∀ (who : Requester) (w : Fin 16) (c : Fin 4) (v : W32), isCtl who = false →
      exec (.icxPendSet who w v) s = .next (s.raise srcRouter 0 0x06 1 (cregBase + (0x03100180 + 4 * w.val))) ∧
      exec (.icxPendClr who w v) s = .next (s.raise srcRouter 0 0x06 1 (cregBase + (0x031001C0 + 4 * w.val))) ∧
      exec (.icxEnSet who w v) s = .next (s.raise srcRouter 0 0x06 1 (cregBase + (0x03100100 + 4 * w.val))) ∧
      exec (.icxEnClr who w v) s = .next (s.raise srcRouter 0 0x06 1 (cregBase + (0x03100140 + 4 * w.val))) ∧
      exec (.icxEoi who c v) s = .next (s.raise srcRouter 0 0x06 1 (cregBase + (0x03100D04 + 0x40 * c.val)))) ∧
    (∀ (who : Requester) (v : W32), (0x100 ≤ v.toNat % 512 → exec (.icxSwSet who v) s = .next (s.icxEvent (v.toNat % 512))) ∧
      (v.toNat % 512 < 0x100 → exec (.icxSwSet who v) s = .next s))

/-- 15 R510, R516 to R520: events, HOLDOFF_EXPIRY, COALESCE_TIMEOUT, DOZE_ENTER, DOZE_WAKE. -/
def Obligations.IcxEvents : Prop :=
  (∀ (s : State) (src : Nat), s.pkg.st ≠ .off → s.pkg.st.mgmtOnly = false →
    (s.icx.doze = true → s.icxEvent src = { s with icx := { s.icx with latch := setBit512 s.icx.latch src true } }) ∧
    (s.icx.doze = false → 5 ≤ src → s.coreRoute src ≠ 0xFF → s.icx.en.getLsbD src = true → s.hostLine src = 0xFF →
      s.icxEvent src = { s with icx := { s.icx with pend := setBit512 s.icx.pend src true } }) ∧
    (s.icx.doze = false → 5 ≤ src → src < 512 → s.hostLine src ≠ 0xFF → s.heldOff (src / 16) = false → s.num (O.icxGroupHoldoff (src / 16)) = 0 →
      s.num O.groupCount ≠ 0 → (s.icxEvent src).out = s.out ++ [.send (BitVec.ofNat 17 (s.num (O.groupMember 0))) (.hostIrq (s.hostLine src))])) ∧
  (∀ (s : State) (g : Fin 32) (due : Tick), SMap.find s.icx.holdEnds g = some due →
    (Tick.atLeast s.clk.tick due = false ∨ s.icx.doze = true → exec (.holdoffExpiry g) s = .next s) ∧
    (s.icx.doze = false → Tick.atLeast s.clk.tick due = true → ((List.range 16).map (fun i => 16 * g.val + i)).filter s.icx.hpend.getLsbD = [] →
      exec (.holdoffExpiry g) s = .next { s with icx := { s.icx with holdEnds := SMap.del s.icx.holdEnds g } }) ∧
    (∀ x, s.icx.doze = false → Tick.atLeast s.clk.tick due = true → ((List.range 16).map (fun i => 16 * g.val + i)).filter s.icx.hpend.getLsbD = [x] → s.num O.groupCount ≠ 0 →
      exec (.holdoffExpiry g) s = .next (({ s with icx := { s.icx with holdEnds := SMap.del s.icx.holdEnds g, hpend := setBit512 s.icx.hpend x false } }.send
        (BitVec.ofNat 17 (s.num (O.groupMember 0))) (.hostIrq (s.hostLine x))).startHoldoff x))) ∧
  (∀ (s : State) (src : Fin 5) (f : Tick), s.icx.doze = false → SMap.find s.icx.coalFirst src = some f → Tick.atLeast s.clk.tick f = true →
    s.num (O.icxCoalesce src) % 65536 ≤ Tick.since s.clk.tick f →
    exec (.coalesceTimeout src) s = .next ({ s with icx := { s.icx with coalCount := SMap.set 0 s.icx.coalCount src 0, coalFirst := SMap.del s.icx.coalFirst src } }.icxFire src)) ∧
  (∀ s : State, s.num O.dozeEnable = 1 → (s.pkg.st = .ready ∨ s.pkg.st = .drained) → s.anyClaimable = [] → s.eventWithin 100 = false → s.windowWithin 100 = false → s.icx.doze = false →
    exec .dozeEnter s = .next { s with icx := { s.icx with doze := true } }) ∧
  (∀ s : State, (s.icx.doze = false → exec .dozeWake s = .next s) ∧
    (s.icx.doze = true → exec .dozeWake s = .next ((sources.filter s.icx.latch.getLsbD).foldl State.icxApply
      { s with icx := { s.icx with doze := false, restored := true, latch := 0 } })))

/-- 14 R457 to R461, R480: PLINTH_COMMAND, TELEMETRY_FRAME, PLINTH_SILENT, PLINTH_LOST. -/
def Obligations.PlinthLink : Prop :=
  ∀ s : State, s.pkg.st.hubRuns = true →
    (exec .plinthCommand s = .next ({ s with pwr := { s.pwr with
        cmd := if s.nextSweep = s.pwr.vmemSet then 0 else 1, cmdAt := if s.pwr.cmd = 1 then some s.clk.tick else s.pwr.cmdAt, vmemSet := s.nextSweep } }.emit
      (.plinth (plinthFrame (s.clk.tick.toNat % 16) (if s.pwr.cmd = 2 then 600 else s.pwr.vcoreSet) s.pwr.vmemSet s.pwr.cmd)))) ∧
    (∀ w, readTelemetry w ((s.clk.tick - 1).toNat % 16) = none → exec (.telemetryFrame w) s = .next (s.setNum O.plinthBad ((s.num O.plinthBad + 1) % 2 ^ 32))) ∧
    (∀ w x, readTelemetry w ((s.clk.tick - 1).toNat % 16) = some x → x.vcoreOk = true → x.vmemOk = true → x.vauxOk = true → x.inputLow = false →
      x.vcore ≤ 950 → x.vmem ≤ 1250 → s.pwr.supplyPull = false →
      ∃ t, exec (.telemetryFrame w) s = .next t ∧ 
        t.pwr.tele = some { x with settled := x.settled && s.pwr.cmd == 0 && s.pwr.cmdAt != some s.clk.tick } ∧ t.pwr.p = (x.vcore * x.icore + x.vmem * x.imem + x.vaux * x.iaux) / 4 ∧
        t.pwr.missed = 0 ∧ t.pwr.silent = false ∧ t.pwr.railBad = 0 ∧ t.pwr.overRun = 0 ∧ t.pwr.supplyPull = false ∧ changesOnly [.pwr] s t) ∧
    (16 ≤ s.pwr.missed → s.pwr.silent = false →
      ∃ t, exec .plinthSilent s = .next t ∧ t.pwr = { s.pwr with silent := true, supplyPull := true, clearSince := none } ∧
        changesOnly [.pwr, .fcu, .errN, .notify, .icx, .out] s t) ∧
    (1000 ≤ s.pwr.missed → s.pwr.lost = false → exec .plinthLost s = .next (({ s with pwr := { s.pwr with lost := true } }).raise srcPlinth 0 0x86 3 0)) ∧
    (s.pwr.missed < 16 → exec .plinthSilent s = .next s) ∧ (s.pwr.missed < 1000 → exec .plinthLost s = .next s)

/-- 14 R466, R467, R470, R471: REIN_UPDATE. -/
def Obligations.ReinIsLeast : Prop :=
  (∀ s : State, s.pkg.st.hubRuns = true → s.pullCases = [] →
    ∃ t, exec .reinUpdate s = .next t ∧ changesOnly [.pwr] s t ∧ t.pwr.op = s.pwr.op ∧ t.pwr.excess = s.pwr.excess ∧ t.pwr.current = s.pwr.current ∧
      t.pwr.holds = s.pwr.holds ∧
      (∀ q, q < 4 → t.rein q = { s.rein q with level := (leastLimit (s.reinLimits q false)).2, source := (leastLimit (s.reinLimits q false)).1 } ∧
        (∀ x ∈ s.reinLimits q false, (t.rein q).level ≤ x.2))) ∧
  (∀ (s : State) (q : Nat), s.pwr.tele = none → s.pwr.supplyPull = false →
    s.pullCases = [] ∧ s.reinLimits q false = (if (s.rein q).thermal < 64 then [(2, Nat.max 1 (s.rein q).thermal)] else []) ++ [(6, (s.rein q).host), (7, issueCap s.pwr.op)]) ∧
  (∀ s : State, s.pkg.st.hubRuns = true → s.pullCases ≠ [] →
    ∃ t, exec .reinUpdate s = .next t ∧ changesOnly [.pwr, .fcu, .errN, .notify, .objects, .icx, .out] s t ∧ objectsBut [O.pulls.key] s t ∧
      t.num O.pulls = (s.num O.pulls + 1) % 2 ^ 32 ∧ t.pwr.op = s.pwr.op ∧ t.pwr.pull = true ∧
      t.pwr.holds = s.pwr.holds ++ s.pullCases.map (fun k => { cause := holdCause k, until_ := s.clk.tick + 1000 }) ∧
      (∀ q, q < 4 → (t.rein q).level ≤ Nat.max 1 (Nat.min (s.rein q).level (s.sustain s.pwr.op))))

/-- 14 R471 to R475, R480, R482: HOLD_END, EXCESS_INTERVAL, THERMAL_HOLD_STEP, THERM_TRIP, RAMP_EVENT_APPLY, PRE_RAMP, SUPPLY_PULL_END, RACK_TIMEOUT. -/
def Obligations.HoldsAndLimits : Prop :=
  (∀ s : State, ∃ t, exec .holdEnd s = .next t ∧ changesOnly [.pwr] s t ∧ t.pwr = { s.pwr with holds := t.pwr.holds } ∧
    ∀ h : Hold, h ∈ t.pwr.holds ↔ h ∈ s.pwr.holds ∧ ¬ (Tick.atLeast s.clk.tick h.until_ = true ∧
      (h.cause = .excess → s.pwr.excessCount < 4000) ∧ (h.cause = .current → s.pwr.currentCount < 5000))) ∧
  (∀ s : State, s.clk.tick.toNat % 1000 = 0 → s.pwr.ivTicks ≠ 0 →
    exec .excessInterval s = .next { s with pwr := { s.pwr with
      excess := (if s.pwr.ivSum > 1600000 * s.pwr.ivTicks then s.pwr.excess ++ [s.pwr.ivNumber] else s.pwr.excess).filter (fun k => decide (k + 30000 > s.pwr.ivNumber)),
      ivNumber := s.pwr.ivNumber + 1, ivSum := 0, ivTicks := 0 } }) ∧
  (∀ (s : State) (l : List Int), s.clk.tick.toNat % 100 ≠ 0 → exec (.thermalHoldStep l) s = .next s) ∧
  (∀ s : State, s.pkg.st.hubRuns = true → s.clk.tick.toNat % 100 = 0 → s.sec.calDefaults = true → s.num O.tjHold = O.tjHold.dflt → s.num O.hbmHold = O.hbmHold.dflt →
    (∀ q, q < 4 → (s.rein q).thermal < 64) →
    ∃ t, exec (.thermalHoldStep (List.replicate 52 0)) s = .next t ∧ (∀ q, q < 4 → t.rein q = { s.rein q with thermal := (s.rein q).thermal + 1 }) ∧
      objectsBut [(O.tempMax 0).key, (O.tempMax 1).key, (O.tempMax 2).key, (O.tempMax 3).key, (O.tempMax 4).key, O.tempStackMax.key] s t ∧
      t.num (O.tempMax 0) = 8 ∧ changesOnly [.pwr, .objects, .icx, .out] s t) ∧
  (∀ (s : State) (k : Fin 52) (r : Int), s.pkg.st.hubRuns = true → k.val < 36 → r + s.sensorOffset k > s.tempLimit O.tjTrip →
    exec (.thermTrip k r) s = .next (s.raise srcPower k 0x88 3 0)) ∧
  (∀ (s : State) (e : Sched) (r c : Nat), s.dueEvent Ev.isRamp = some e → e.ev = .ramp r c →
    ∃ t, exec .rampEventApply s = .next t ∧ t.num O.rampLimit = (if r = 0 then s.num O.rampLimit else r) ∧ t.num O.powerCap = (if c = 0 then s.num O.powerCap else c) ∧
      objectsBut [O.rampLimit.key, O.powerCap.key] s t ∧ t.clk = { s.clk with events := s.clk.events.erase e } ∧ changesOnly [.clk, .objects] s t) ∧
  (∀ (s : State) (e : Sched), s.dueEvent (fun e => e == .preRamp) = some e → s.num O.fillEnable = 1 → s.crs.own.nextNominal.isSome = true →
    exec .preRamp s = .next { s with clk := { s.clk with events := s.clk.events.erase e }, pwr := { s.pwr with preTarget := some s.pwr.lastMean } }) ∧
  (∀ (s : State) (c : Tick), s.pwr.clearSince = some c → s.pwr.supplyPull = true → s.pwr.silent = false → (∀ x, s.pwr.tele = some x → x.inputLow = false) →
    s.num O.pgRelease ≤ Tick.since s.clk.tick c →
    exec .supplyPullEnd s = .next (({ s with pwr := { s.pwr with supplyPull := false, clearSince := none }, pkg := { s.pkg with pwrGood := true } }).icxEvent 0x081)) ∧
  (∀ (s : State) (k : Nat), s.pwr.rackFrom = some k → s.pkg.st.hubRuns = true → k + 1000 * s.num O.rackTimeout ≤ s.us →
    exec .rackTimeout s = .next (((({ s with pwr := { s.pwr with rackFrom := none } }).raise srcPower 0 0x8A 1 0).setNum O.rackState 1).icxEvent 0x084))

/-- 14 R462 to R465, R477, R478: OP_STEP, OP_CLOCK_CHANGE, WEAR_CHARGE, WAKE_GRANT, WAKE_COMPLETE. -/
def Obligations.PointsAndWakes : Prop :=
  (∀ s : State, s.pkg.st.hubRuns = true →
    (s.targetOp < s.pwr.op → exec .opStep s = .next { s with pwr := { s.pwr with op := s.pwr.op - 1, stepping := none, vcoreSet := s.vcoreOf (s.pwr.op - 1), cmd := 1 } }) ∧
    (s.pwr.op < s.targetOp → s.pwr.stepping = none →
      ∃ t, exec .opStep s = .next t ∧ t.pwr.stepping = some (s.pwr.op + 1) ∧ t.pwr.op = s.pwr.op ∧ t.pwr.vcoreSet = s.vcoreOf (s.pwr.op + 1) ∧ t.pwr.cmd = 1 ∧
        (∀ x, t.pwr.tele = some x → x.settled = false) ∧ changesOnly [.pwr] s t) ∧
    (s.pwr.op = s.targetOp → s.pwr.stepping = none → exec .opStep s = .next s)) ∧
  (∀ (s : State) (n : Nat) (x : Tele), s.pwr.stepping = some n → s.pwr.tele = some x → x.settled = true →
    ((n ≠ 7 ∨ (s.pwr.charged = true ∧ s.pwr.op7Ticks < 3600000)) → exec .opClockChange s = .next { s with pwr := { s.pwr with op := n, stepping := none } }) ∧
    (n = 7 → (s.pwr.charged = false ∨ 3600000 ≤ s.pwr.op7Ticks) → exec .opClockChange s = .next s)) ∧
  (∀ s : State, s.pwr.stepping = some 7 → s.pwr.charged = false →
    (s.sec.wear + 1 < 17520 → exec .wearCharge s =
      .next { s with sec := { s.sec with wear := s.sec.wear + 1 }, pwr := { s.pwr with charged := true, op7Ticks := 0 } }) ∧
    (17520 ≤ s.sec.wear → exec .wearCharge s = .next s)) ∧
  (∀ (s : State) (q : Fin 4) (rest : List (Fin 4)), s.dueBefore 3 = false → s.pkg.st.hubRuns = true → s.pwr.wakeAsked = q :: rest → s.pwr.waking = [] → s.clk.tick.toNat % 50 = 0 →
    s.clk.tick.toNat / 50 % s.num O.wakeStride = s.num O.wakePhase →
    exec .wakeGrant s = .next (({ s with pwr := { s.pwr with wakeAsked := rest, waking := [(q, s.clk.tick + 20)] } }).icxEvent 0x083)) ∧
  (∀ (s : State) (q : Fin 4) (due : Tick), s.pwr.waking = [(q, due)] → Tick.atLeast s.clk.tick due = true →
    exec (.wakeComplete q) s = .next { s with pwr := { s.pwr with waking := [], fallow := s.pwr.fallow &&& ~~~ BitVec.ofNat 4 (2 ^ q.val), joining := s.pwr.joining ||| BitVec.ofNat 4 (2 ^ q.val), sinceWake := SMap.set 64 s.pwr.sinceWake q.val 0 } })

/-- 11 R349 to R360: FLIT_RECEIVE, REPLAY, REPLAY_TIMER, LINK_DOWN, CREDIT_INIT, ECHO. -/
def Obligations.LinkReception : Prop :=
  ∀ (s : State) (p : Port) (r : PortRt), r = s.port p.val → r.st = .active →
    (∀ lanes, decodeFec (fromLanes (r.readGroup (lanes.map (·.1))) lanes) = none → r.waiting = false →
      ∃ t, exec (.flitReceive p lanes) s = .next t ∧ (t.port p.val) = { r with failRun := r.failRun + 1, waiting := true, words := r.words ++ [ctrlWord ctReplay (payload96 [(r.rxNext.toNat, 86)])] } ∧
        t.num (O.portFlitsFailed p.val) = (s.num (O.portFlitsFailed p.val) + 1) % 2 ^ 64 ∧ t.num (O.portReplays p.val) = (s.num (O.portReplays p.val) + 1) % 2 ^ 64 ∧
        objectsBut [(O.portFlitsFailed p.val).key, (O.portReplays p.val).key] s t ∧ changesOnly [.lnk, .objects] s t) ∧
    (∀ lanes b n, decodeFec (fromLanes (r.readGroup (lanes.map (·.1))) lanes) = some (b, n) → fieldLe b 232 4 = (crc32c (b.take 232)).toNat → (flitHead b).typ = 1 → (flitHead b).fseq = r.rxNext →
      ∃ t, exec (.flitReceive p lanes) s = .next t ∧ (t.port p.val).rxNext = r.rxNext + 1 ∧ (t.port p.val).waiting = false ∧ (t.port p.val).failRun = 0 ∧
        (t.port p.val).acked = (flitHead b).ack ∧ (t.port p.val).st = .active ∧
        t.lnk.arrived = s.lnk.arrived ++ (takePackets 8 ((r.vc (flitHead b).vc).partly ++ slice (b.drop 8) 0 (32 * (flitHead b).count))).1.map (fun k => (p, k)) ∧
        t.num (O.portRxBytes p.val) = (s.num (O.portRxBytes p.val) + 32 * (flitHead b).count) % 2 ^ 64 ∧
        t.num (O.portFecCorrected p.val) = (s.num (O.portFecCorrected p.val) + n) % 2 ^ 64 ∧
        objectsBut [(O.portRxBytes p.val).key, (O.portFecCorrected p.val).key] s t ∧ changesOnly [.lnk, .objects] s t) ∧
    (∀ fseq, (r.buffer.findIdx? (fun e => e.1 == fseq) = none → exec (.replay p fseq) s = .next s) ∧
      (∀ i, r.buffer.findIdx? (fun e => e.1 == fseq) = some i → exec (.replay p fseq) s = .next (s.setPort p.val { r with resend := (r.buffer.drop i).map (·.2) }))) ∧
    (r.waiting = false → exec (.replayTimer p) s = .next s) ∧
    (r.waiting = true → exec (.replayTimer p) s =
      .next ((s.setPort p.val { r with words := r.words ++ [ctrlWord ctReplay (payload96 [(r.rxNext.toNat, 86)])] }).setNum (O.portReplays p.val) ((s.num (O.portReplays p.val) + 1) % 2 ^ 64))) ∧
    (∃ t, exec (.linkDown p .signal) s = .next t ∧ t.port p.val = r.down ∧ (t.port p.val).st = .down ∧ changesOnly [.lnk, .icx, .fcu, .errN, .notify, .out] s t) ∧
    (r.failRun < 64 → exec (.linkDown p .flits) s = .next s) ∧
    (∀ w, ∃ t, exec (.creditInit p w) s = .next t ∧ changesOnly [.lnk] s t ∧
      (∀ v, v < 4 → ((t.port p.val).vc v).total = bits w.toNat (59 + 12 * v) (48 + 12 * v) ∧ ((t.port p.val).vc v).freedSeen = bits w.toNat (11 + 12 * v) (12 * v) ∧
        ((t.port p.val).vc v).queue = (r.vc v).queue)) ∧
    (∀ w c, exec (.echo p w false c) s = .next (s.setPort p.val { r with words := r.words ++ [ctrlWord ctEcho (payload96 [(bits w.toNat 95 48, 48), (c.toNat, 0)])] })) ∧
    (∀ w c b, r.echoCount = 63 → r.echoBest = some b →
      ∃ t, exec (.echo p w true c) s = .next t ∧ (t.port p.val).echoCount = 64 ∧
        t.num (O.portDelay p.val) = (Nat.min b ((c.toNat + 2 * 2 ^ 48 - bits w.toNat 95 48 - bits w.toNat 47 0) % 2 ^ 48) * 64 + 75) / 150 ∧
        objectsBut [(O.portDelay p.val).key] s t ∧ changesOnly [.lnk, .objects] s t)

/-- 11 R364 to R369, Table 11.8: training and width changes. -/
def Obligations.LinkTraining : Prop :=
  ∀ (s : State) (p : Port) (r : PortRt), r = s.port p.val →
    (p.val < 19 → r.st = .down → r.tried = none → s.num (O.portPortEnable p.val) = 1 → s.linksTrain = true →
      ∃ t, exec (.portTrainStart p) s = .next t ∧ t.port p.val = { r with st := .training, train := .detect, since := s.us, tried := some s.us } ∧ changesOnly [.lnk, .icx, .out] s t) ∧
    (s.linksTrain = false → exec (.portTrainStart p) s = .next s) ∧
    (r.st = .training → ∀ l : Fin 8,
      (r.train = .detect → exec (.laneDetect p l) s = .next (s.setPort p.val { r with train := .equalise, since := s.us })) ∧
      (r.train = .equalise → r.locked ||| BitVec.ofNat 8 (2 ^ l.val) ≠ 0xFF →
        exec (.laneDetect p l) s = .next (s.setPort p.val { r with locked := r.locked ||| BitVec.ofNat 8 (2 ^ l.val) })) ∧
      (r.train = .equalise → r.locked ||| BitVec.ofNat 8 (2 ^ l.val) = 0xFF →
        exec (.laneDetect p l) s = .next (s.setPort p.val { r with locked := 0xFF, train := .deskew, since := s.us }))) ∧
    (r.st = .training → (s.us < r.since + r.train.limit → exec (.trainStateLimit p) s = .next s) ∧
      (r.since + 250000 ≤ s.us → r.train = .equalise → r.locked ≠ 0 → exec (.trainStateLimit p) s = .next (s.setPort p.val { r with train := .deskew, since := s.us })) ∧
      (r.since + 100000 ≤ s.us → r.train = .detect →
        ∃ t, exec (.trainStateLimit p) s = .next t ∧ (t.port p.val).st = .down ∧ (t.port p.val).tried = r.tried ∧ changesOnly [.lnk, .icx, .out] s t)) ∧
    (r.st = .training → r.train = .deskew → r.locked = 0xFF →
      ∃ t more, exec (.deskewAligned p) s = .next t ∧ (t.port p.val).st = .training ∧ (t.port p.val).train = .exchange ∧ (t.port p.val).rxLanes = 0xFF ∧ (t.port p.val).txLanes = 0xFF ∧
        (t.port p.val).words = r.words ++ ctrlWord ctHello (s.helloWord p.val) :: more ∧ more.length = 64 ∧ t.free = s.free + 64 ∧ changesOnly [.lnk, .icx, .free, .out] s t) ∧
    (r.st = .active →
      (∀ w : BitVec 96, bits w.toNat 83 0 ≠ 0 → exec (.laneMap p w) s = .next (s.setNum (O.portCtrlDiscarded p.val) ((s.num (O.portCtrlDiscarded p.val) + 1) % 2 ^ 32))) ∧
      (∀ w : BitVec 96, bits w.toNat 83 0 = 0 → r.rxWant = [BitVec.ofNat 8 (bits w.toNat 95 88)] →
        ∃ t, exec (.laneMap p w) s = .next t ∧ (t.port p.val).rxLanes = BitVec.ofNat 8 (bits w.toNat 95 88) ∧ (t.port p.val).rxWant = [] ∧ (t.port p.val).txLanes = r.txLanes ∧
          changesOnly [.lnk, .free] s t) ∧
      (∀ w : BitVec 96, bits w.toNat 83 0 = 0 → r.rxWant = [] → r.txMap = none → exec (.laneMap p w) s = .next (s.setPort p.val { r with txMap := some w })) ∧
      (∀ l : Fin 8, s.laneNoisy r l.val = false → exec (.laneFail p ⟨l, false⟩) s = .next s) ∧
      (∀ (l : Fin 8) (lock : Bool), (lock = true ∨ s.laneNoisy r l.val = true) → r.rxLanes = 0xFF → r.rxWant = [] → r.failed = 0 →
        ∃ t, exec (.laneFail p ⟨l, lock⟩) s = .next t ∧ (t.port p.val).failed = BitVec.ofNat 8 (2 ^ l.val) ∧ (t.port p.val).rxWant = [if l.val < 4 then 0xF0 else 0x0F] ∧
          t.num (O.portDegrades p.val) = (s.num (O.portDegrades p.val) + 1) % 2 ^ 32 ∧ changesOnly [.lnk, .objects, .fcu, .errN, .notify, .out] s t) ∧
      (∀ ok : Byte, r.rxLanes = 0x0F → r.rxWant = [] → r.failed &&& ~~~ ok = 0 → r.rewidened + 1000 * s.num O.rewidenInterval ≤ s.us →
        ∃ t, exec (.rewiden p ok) s = .next t ∧ (t.port p.val).rxWant = [0xFF] ∧ (t.port p.val).failed = 0 ∧ (t.port p.val).rewidened = s.us ∧ changesOnly [.lnk] s t))

/-- 11 R374, R375; 13 R439: next_hop. -/
def Obligations.NextHop : Prop :=
  ∀ (s : State) (p : Packet) (d : Node), d = s.alias_ p.dest →
    (d = s.node → s.nextHop p = .deliver) ∧
    (d ≠ s.node → p.hops.toNat = s.num O.hopLimit → s.nextHop p = .discard 7) ∧
    (d ≠ s.node → p.hops.toNat ≠ s.num O.hopLimit → isTwinPacket p.ptype.toNat = false → d.getLsbD 16 = s.node.getLsbD 16 → s.lnk.twist = false →
      ∀ j rest, onBits s.lnk.k ((s.node ^^^ d).toNat % 2 ^ s.lnk.k) = j :: rest → s.links j ≠ [] → s.nextHop p = .send (parallel (s.links j) d) false) ∧
    (d ≠ s.node → p.hops.toNat ≠ s.num O.hopLimit → isTwinPacket p.ptype.toNat = false → d.getLsbD 16 ≠ s.node.getLsbD 16 →
      (s.lnk.k < 2 * popcount s.lnk.k ((s.node ^^^ d).toNat % 2 ^ s.lnk.k) → s.routeUp 17 = true → s.nextHop p = .send 17 false) ∧
      (2 * popcount s.lnk.k ((s.node ^^^ d).toNat % 2 ^ s.lnk.k) ≤ s.lnk.k → s.routeUp 16 = true → s.nextHop p = .send 16 false))

/-- 11 R359 to R362, R374 to R377; 12 R404, R411: PACKET_ROUTE, ROUTE_RECOMPUTE, FLIT_BOUNDARY, COMBINE_TIMEOUT, LINTEL_FLUSH. -/
def Obligations.Routing : Prop :=
  (∀ (s : State) (k : Packet), s.pkg.st.hubRuns = true → s.lnk.arrived.find? (fun a => a.2 == k) = none →
    (s.nextHop k = .deliver → exec (.packetRoute k) s = .next (s.emit (.deliver k))) ∧
    (∀ q, s.nextHop k = .send q false → s.num O.combineEnable ≠ 1 →
      exec (.packetRoute k) s = .next (s.setPort q ((s.port q).setVc (vcOf k.ptype.toNat)
        { (s.port q).vc (vcOf k.ptype.toNat) with queue := ((s.port q).vc (vcOf k.ptype.toNat)).queue ++ [{ pkt := k, expert := isExpertPacket k.ptype.toNat }] }))) ∧
    (s.nextHop k = .discard 6 → k.ptype ≠ 1 →
      exec (.packetRoute k) s = .next (((s.setNum O.unreachable ((s.num O.unreachable + 1) % 2 ^ 64)).raise srcRouter 0 0x63 1 0).emit (.discard k 6))) ∧
    (s.nextHop k = .discard 7 → k.ptype ≠ 1 →
      exec (.packetRoute k) s = .next (((s.setNum O.hopDiscards ((s.num O.hopDiscards + 1) % 2 ^ 32)).raise srcRouter 0 0x64 1 0).emit (.discard k 7)))) ∧
  (∀ s : State, (∀ p v, ((s.port p).vc v).queue = []) →
    ∃ t, exec .routeRecompute s = .next t ∧ changesOnly [.lnk] s t ∧
      t.lnk.routes.map (fun r => (r.1.val, r.2)) = ((List.range 19).filter s.portUp).map (fun p => (p, (s.port p).width))) ∧
  (∀ (s : State) (p : Port) (r : PortRt), p.val < 16 → r = s.port p.val → r.st = .active → r.txMap = none →
    (r.words ≠ [] → r.controlRest = 0 → (∀ w ∈ r.words, r.carries w = true) →
      ∃ t, exec (.flitBoundary p) s = .next t ∧ (t.port p.val).words = r.words.drop 14 ∧ (t.port p.val).controlRest = 7 ∧ (t.port p.val).creditVc = (r.creditVc + 1) % 4 ∧
        t.out = s.out ++ [.flit p (toLanes r.txLanes (makeFlit (r.head 2 0 0 (r.words.take 14).length).bytes ((r.words.take 14).map (fun w => beBytes 16 w.toNat)).flatten))] ∧ changesOnly [.lnk, .out] s t) ∧
    (r.words = [] → r.resend = [] → r.nextVc s.crs.exchangeOpen = none →
      ∃ t, exec (.flitBoundary p) s = .next t ∧ t.port p.val = { r with creditVc := (r.creditVc + 1) % 4, controlRest := r.controlRest - 1 } ∧
        t.out = s.out ++ [.flit p (toLanes r.txLanes (makeFlit (r.head 0 0 0 0).bytes []))] ∧ changesOnly [.lnk, .out] s t)) ∧
  (∀ (s : State) (i : Nat) (c : CombineRec) (f : Tick), s.lnk.combine[i]? = some c → c.forwarded = some f → Tick.atLeast s.clk.tick f = true →
    (s.num O.loadBound ≤ Tick.since s.clk.tick f → exec (.combineTimeout i) s = .next (s.fanOut c (c.failed s.node 8))) ∧
    (Tick.since s.clk.tick f < s.num O.loadBound → exec (.combineTimeout i) s = .next s)) ∧
  (∀ (s : State) (g : Bool), ((s.gateway g).near = [] → exec (.lintelFlush g) s = .next s) ∧
    ((s.gateway g).near ≠ [] →
      ∃ t, exec (.lintelFlush g) s = .next t ∧ t.gateway g = { s.gateway g with near := [], batchNext := (s.gateway g).batchNext + 1 } ∧
        t.num O.batchesSent = (s.num O.batchesSent + 1) % 2 ^ 64 ∧ t.num O.batchedRequests = (s.num O.batchedRequests + (s.gateway g).near.length) % 2 ^ 64 ∧
        objectsBut [O.batchesSent.key, O.batchedRequests.key] s t ∧ changesOnly [.fab, .lnk, .objects] s t))

/-- 11 R368, R379 to R383: HELLO, BEACON, GATHER_QUIET_EXPIRY, ASSIGN, ASSIGN_QUIET_EXPIRY, REPORT, REPORT_TIMEOUT. -/
def Obligations.PlumblineDiscovery : Prop :=
  (∀ (s : State) (p : Port) (w : BitVec 96) (r : PortRt), r = s.port p.val → r.st = .training → r.train = .exchange → s.lnk.plumb.st = .settled →
    bits w.toNat 34 34 = 0 → bits w.toNat 16 0 = 0 →
    (bits w.toNat 47 43 = p.val → bits w.toNat 42 38 = s.lnk.k → bits w.toNat 37 37 = b2n s.lnk.twist → p.val ≠ 18 →
      ∃ t, exec (.hello p w) s = .next t ∧ (t.port p.val).st = .active ∧ (t.port p.val).peerSerial = BitVec.ofNat 48 (bits w.toNat 95 48) ∧
        (t.port p.val).peerPhase = bits w.toNat 36 35 ∧ (t.port p.val).peerNode = BitVec.ofNat 17 (bits w.toNat 33 17) ∧ changesOnly [.lnk, .icx, .out] s t) ∧
    (bits w.toNat 47 43 ≠ p.val →
      ∃ t, exec (.hello p w) s = .next t ∧ (t.port p.val).st = .miswired ∧ changesOnly [.lnk, .icx, .fcu, .errN, .notify, .out] s t)) ∧
  (∀ (s : State) (p : Port) (w : BitVec 96), s.portUp p.val = true → bits w.toNat 39 0 = 0 → s.lnk.plumb.st = .gather →
    (bits w.toNat 95 48 < s.lnk.plumb.best.toNat →
      ∃ t, exec (.beacon p w) s = .next t ∧ t.lnk.plumb = { s.lnk.plumb with best := BitVec.ofNat 48 (bits w.toNat 95 48), bestHops := (bits w.toNat 47 40 + 1) % 256, bestAt := s.us, waitFrom := none } ∧
        changesOnly [.lnk] s t) ∧
    (s.lnk.plumb.best.toNat ≤ bits w.toNat 95 48 → exec (.beacon p w) s = .next s)) ∧
  (∀ s : State, s.lnk.plumb.st = .gather → s.lnk.plumb.bestAt + 1000 * s.num O.gatherQuiet ≤ s.us →
    (s.lnk.plumb.best = Config.serial →
      ∃ t, exec .gatherQuietExpiry s = .next t ∧ t.lnk.plumb.st = .assigning ∧ t.lnk.plumb.ident = some 0 ∧ t.lnk.plumb.tag = Config.serial ∧ t.lnk.plumb.round = true ∧
        changesOnly [.lnk, .icx, .out] s t) ∧
    (s.lnk.plumb.best ≠ Config.serial → s.lnk.plumb.waitFrom = none →
      exec .gatherQuietExpiry s = .next { s with lnk := { s.lnk with plumb := { s.lnk.plumb with waitFrom := some s.us } } })) ∧
  (∀ (s : State) (p : Port) (w : BitVec 96), s.portUp p.val = true → bits w.toNat 30 0 = 0 → s.lnk.plumb.st = .gather →
    ∃ t, exec (.assign p w) s = .next t ∧ t.lnk.plumb.st = .assigning ∧ t.lnk.plumb.ident = some (BitVec.ofNat 17 (bits w.toNat 47 31) ^^^ portMask s.lnk.k s.lnk.twist p.val) ∧
      t.lnk.plumb.tag = BitVec.ofNat 48 (bits w.toNat 95 48) ∧ changesOnly [.lnk, .icx, .out] s t) ∧
  (∀ s : State, ((s.lnk.plumb.round = false ∨ s.lnk.plumb.reported = true ∨ s.us < s.lnk.plumb.assignAt + 1000 * s.num O.assignQuiet) → exec .assignQuietExpiry s = .next s) ∧
    (s.lnk.plumb.round = true → s.lnk.plumb.reported = false → s.lnk.plumb.assignAt + 1000 * s.num O.assignQuiet ≤ s.us → s.lnk.plumb.st = .assigning →
      s.children = [] → s.lnk.plumb.reports = [] → highRank s.lnk.k s.node s.lnk.plumb.m = none →
      ∃ t, exec .assignQuietExpiry s = .next t ∧ t.lnk.plumb.st = .settled ∧ t.lnk.plumb.found = 1 ∧ t.lnk.plumb.round = false ∧ t.clk.originating = true ∧ t.clk.role = .master ∧
        t.clk.tick = 0 ∧ t.clk.epoch = 0 ∧ t.clk.mode = .locked ∧ changesOnly [.lnk, .clk, .icx, .fcu, .errN, .notify, .out] s t)) ∧
  (∀ (s : State) (p : Port) (w : BitVec 96), s.portUp p.val = true → s.lnk.plumb.round = true → s.lnk.plumb.reported = false → s.children.contains (s.peerOf p.val) = true →
    s.us < s.lnk.plumb.assignAt + 1000 * s.num O.assignQuiet →
    exec (.report p w) s = .next { s with lnk := { s.lnk with plumb := { s.lnk.plumb with reports := s.lnk.plumb.reports.filter (fun x => x.node != s.peerOf p.val) ++
      [{ port := p, node := s.peerOf p.val, serial := BitVec.ofNat 48 (bits w.toNat 95 48), cand := BitVec.ofNat 17 (bits w.toNat 47 31), count := bits w.toNat 30 13, faults := bits w.toNat 12 0 }] } } }) ∧
  (∀ (s : State) (f : Nat), s.lnk.plumb.waitFrom = some f → s.lnk.plumb.st = .gather →
    (s.us < f + 1000 * s.num O.reportTimeout → exec .reportTimeout s = .next s) ∧
    (f + 1000 * s.num O.reportTimeout ≤ s.us →
      ∃ t, exec .reportTimeout s = .next t ∧ t.lnk.plumb = { s.lnk.plumb with st := .isolated, waitFrom := none } ∧ changesOnly [.lnk, .icx, .fcu, .errN, .notify, .out] s t))

/-- 11 R383 to R387: FABRIC, JOIN, JOIN_WAIT_EXPIRY, CALL. -/
def Obligations.PlumblineFabric : Prop :=
  (∀ (s : State) (p : Port) (w : BitVec 96), s.portUp p.val = true → bits w.toNat 3 0 = 0 →
    (s.lnk.plumb.st = .joining → exec (.fabric p w) s = .next (s.setPort p.val { s.port p.val with answer := some w })) ∧
    (s.lnk.plumb.st = .settled → BitVec.ofNat 48 (bits w.toNat 95 48) ≠ s.lnk.plumb.tag →
      ∃ t, exec (.fabric p w) s = .next t ∧ (t.port p.val).st = .foreign ∧ t.lnk.plumb = s.lnk.plumb ∧ changesOnly [.lnk, .icx, .fcu, .errN, .notify, .out] s t) ∧
    (s.lnk.plumb.st = .settled → BitVec.ofNat 48 (bits w.toNat 95 48) = s.lnk.plumb.tag → s.lnk.plumb.restoreHeld = false → s.lnk.plumb.fabricSeen = some (plainFabric w) →
      exec (.fabric p w) s = .next s) ∧
    (s.lnk.plumb.st = .reporting → s.lnk.plumb.ident.isSome = true → s.lnk.plumb.fabricSeen = none → s.clk.originating = false →
      ∃ t, exec (.fabric p w) s = .next t ∧ t.lnk.plumb.st = .settled ∧ t.lnk.plumb.tag = BitVec.ofNat 48 (bits w.toNat 95 48) ∧ t.lnk.plumb.m = BitVec.ofNat 17 (bits w.toNat 47 31) ∧
        t.lnk.plumb.standby = (if bit w.toNat 5 then none else some (BitVec.ofNat 17 (bits w.toNat 30 14))) ∧ t.clk.epoch = BitVec.ofNat 8 (bits w.toNat 13 6) ∧
        t.clk.master = BitVec.ofNat 17 (bits w.toNat 47 31) ∧ t.clk.tick = s.clk.tick ∧ changesOnly [.lnk, .clk, .icx, .out] s t)) ∧
  (∀ (s : State) (p : Port) (w : BitVec 96), s.portUp p.val = true → bits w.toNat 47 0 = 0 →
    (s.lnk.plumb.st ≠ .settled → exec (.join p w) s = .next s) ∧
    (s.lnk.plumb.st = .settled → exec (.join p w) s = .next (s.sendCtl p.val ctFabric (s.fabricWord (s.lnk.aliases.any (fun a => a.1 == s.peerOf p.val && a.2 != s.peerOf p.val)))))) ∧
  (∀ s : State, ((s.lnk.plumb.st ≠ .joining ∨ s.us < s.lnk.plumb.joinAt + 10000) → exec .joinWaitExpiry s = .next s) ∧
    (∀ p w, s.lnk.plumb.st = .joining → s.lnk.plumb.joinAt + 10000 ≤ s.us → s.upPorts.filterMap (fun p => ((s.port p).answer).map (fun a => (p, a))) = [(p, w)] →
      ∃ t, exec .joinWaitExpiry s = .next t ∧ t.lnk.plumb.st = .settled ∧ t.lnk.plumb.ident = some ((s.port p).peerNode ^^^ portMask s.lnk.k s.lnk.twist p) ∧
        t.lnk.plumb.tag = BitVec.ofNat 48 (bits w.toNat 95 48) ∧ t.lnk.plumb.restoreHeld = bit w.toNat 4 ∧ changesOnly [.lnk, .clk, .icx, .out] s t)) ∧
  (∀ (s : State) (p : Port) (w : BitVec 96), s.portUp p.val = true → bits w.toNat 22 0 = 0 → s.lnk.plumb.st = .settled → BitVec.ofNat 48 (bits w.toNat 95 48) = s.lnk.plumb.tag →
    (s.lnk.plumb.callSeen = some w → exec (.call p w) s = .next s) ∧
    (s.lnk.plumb.callSeen ≠ some w → s.us < s.lnk.plumb.assignAt + 1000 * s.num O.assignQuiet →
      ∃ t, exec (.call p w) s = .next t ∧ t.lnk.plumb = { s.lnk.plumb with callSeen := some w, m := BitVec.ofNat 17 (bits w.toNat 47 31), round := true, reports := [], reported := false, waitFrom := none } ∧
        changesOnly [.lnk] s t))

/-- 09 R277, R279, R290, R301: what memory holds after a write, and the address decode. -/
def Obligations.MemoryHoldsWhatIsWritten : Prop :=
  (∀ (s : State) (a : Nat) (d : List Byte), (s.sramPut a d).sramGet a d.length = d ∧
    (∀ i, (i < a ∨ a + d.length ≤ i) → cellGet (s.sramPut a d).mem.mem i = cellGet s.mem.mem i)) ∧
  (∀ (s : State) (w : Nat) (d : List Byte) (g : BitVec 16), d.length = 32 → (s.writeWord w 0 d g).readWord w = (d, false) ∧
    (∀ i, (i < w ∨ w + 32 ≤ i) → cellGet (s.writeWord w 0 d g).mem.mem i = cellGet s.mem.mem i)) ∧
  (∀ w, w < hbmTop → w % 32 = 0 → (locate w).stack < 16 ∧ (locate w).pch < 32 ∧ (locate w).bank < 64 ∧ (locate w).col < 32 ∧ (locate w).addr = w)

/-- 09 R284, R290 to R310: the memory commands. -/
def Obligations.MemoryCommands : Prop :=
  (∀ (s : State) (who : Requester) (a : BitVec 47) (f g : RawRead) (w : Nat), w = a.toNat / 32 * 32 → space w = .hbm →
    ((s.reading w f).cls = .clean → exec (.hbmRead who a f g) s = .next ((s.tally 32 0 0).deliver who w (s.reading w f).data false)) ∧
    (∀ j e, (s.reading w f).cls = .correctable j e →
      exec (.hbmRead who a f g) s = .next (((s.tally 32 0 0).correctWord w 0 (s.reading w f) g).deliver who w (s.reading w f).data false)) ∧
    (∀ x y, s.pageClass (pageOf w) = .activation → (s.reading w f).cls = .crcBad x → (s.reading w g).cls = .crcBad y →
      exec (.hbmRead who a f g) s =
        .next (((((s.tally 32 0 0).hbmRecord w 4 0 (s.reading w f).syn).hbmRecord w 4 3 (s.reading w g).syn).bump O.actCrc).raise (srcStack (locate w).stack) (locate w).pch 0x43 3 w))) ∧
  (∀ (s : State) (who : Requester) (a : BitVec 47) (d : List Byte) (e : Byte), space a.toNat = .hbm → a.toNat + d.length ≤ hbmTop →
    exec (.hbmWrite who a d e) s = .next (s.hbmPut a.toNat d (s.writerTag who e))) ∧
  (∀ (s : State) (st : Fin 16) (f g : RawRead), (s.mem.entries st.val = [] → exec (.mergeTimeout st f g) s = .next s) ∧
    (∀ e rest, s.mem.entries st.val = e :: rest → (s.reading e.word f).cls = .clean →
      exec (.mergeTimeout st f g) s = .next (((s.tally 32 0 0).dropEntry e.word).storeWord e.word (overlay (s.reading e.word f).data e) (partialTag e.tag)))) ∧
  (∀ (s : State) (st : Fin 16) (a : BitVec 47) (good : Bool) (gr : List Byte) (again : RawRead) (g : Nat), s.fab.held = [] → g = a.toNat / 256 * 256 →
    (s.mem.waits.filter (fun x => x.word / 256 * 256 == g) = [] → exec (.twinData st a good gr again) s = .next s) ∧
    (∀ w0 more u, s.mem.waits.filter (fun x => x.word / 256 * 256 == g) = w0 :: more → good = true → gr.length = 256 → (∀ x ∈ w0 :: more, x.source ≠ 1) →
      u = ((List.range 8).map (fun i => g + 32 * i)).foldl (fun t w => t.storeWord w ((gr.drop (w - g)).take 32) 0)
        { s with mem := { s.mem with waits := s.mem.waits.filter (fun x => x.word / 256 * 256 != g) } } →
      (∀ i, i < 8 → (u.reading (g + 32 * i) (if g + 32 * i = w0.word then again else {})).cls = .clean) →
      ∃ t, exec (.twinData st a good gr again) s = .next t ∧ t.mem.waits = s.mem.waits.filter (fun x => x.word / 256 * 256 != g) ∧
        t.num O.twinRecoveries = (s.num O.twinRecoveries + 1) % 2 ^ 32 ∧ objectsBut [O.twinRecoveries.key] s t ∧ t.mem.mem = u.mem.mem)) ∧
  (∀ (s : State) (slot : BitVec 18) (draft : Bool) (l p : Nat), (s.session slot.toNat).st ≠ .free → (s.streamOf (s.session slot.toNat).covered).running = true →
    (s.streamOf (s.session slot.toNat).covered).sessions.contains slot.toNat = true → s.num (O.farDeadline (s.session slot.toNat).cls) ≠ 0 →
    (((s.session slot.toNat).root draft).page l p).far = true → (((s.session slot.toNat).root draft).page l p).st ≠ 0 →
    s.num (O.farDeadline (s.session slot.toNat).cls) ≤ Tick.since s.clk.tick (s.streamOf (s.session slot.toNat).covered).startT → s.mem.latePages.contains (slot.toNat, draft, l, p) = false →
    exec (.farReadDeadline slot ⟨draft, l⟩ p) s = .next { s with mem := { s.mem with latePages := s.mem.latePages ++ [(slot.toNat, draft, l, p)] } }) ∧
  (∀ (s : State) (who : Requester) (a : BitVec 47) (w : Nat), w = a.toNat / 16 * 16 → space w = .sram →
    sramClass w (xorBytes (sramChecks w (s.sramGet w 16)) (leBytes 2 (SMap.get 0 s.mem.sramChk w).toNat) ++ s.sramGet w 16) = none →
    exec (.sramRead who a {}) s = .next { s.tally 0 16 0 with mem := { s.mem with reply := some ⟨who, w, s.sramGet w 16, false, false⟩ } }) ∧
  (∀ s : State, s.dueBefore 8 = false → s.pkg.st.hubRuns = true → s.clk.counting = true → s.mem.scrubOpen = false → s.clk.tick.toNat % s.num O.scrubGrid = 0 →
    ∃ t, exec .scrubWindowOpen s = .next t ∧ t.mem.scrubOpen = true ∧ t.mem.scrubAt = s.clk.tick ∧ t.mem.mem = s.mem.mem ∧
      (∀ c, c < 512 → SMap.get 0 t.mem.scrubLeft c = s.scrubQuota (c / 32)) ∧ changesOnly [.mem] s t) ∧
  (∀ s : State, s.dueBefore 8 = false → s.mem.scrubOpen = true → s.clk.tick = s.mem.scrubAt + BitVec.ofNat 48 (s.num O.scrubLen) →
    ∃ t, exec .scrubWindowClose s = .next t ∧ t.mem.scrubOpen = false ∧ t.mem.scrubLeft = [] ∧ t.mem.mem = s.mem.mem ∧
      t.num O.scrubBehind = (s.num O.scrubBehind + sumNat (s.mem.scrubLeft.map (·.2))) % 2 ^ 64 ∧ objectsBut [O.scrubBehind.key] s t ∧ changesOnly [.mem, .objects] s t) ∧
  (∀ (s : State) (st : Fin 16) (pc : Fin 32) (f g : RawRead) (c : Nat), c = st.val * 32 + pc.val →
    (s.mem.scrubOpen = false → exec (.scrubRead st pc f g) s = .next s) ∧
    (∀ n, s.mem.scrubOpen = true → SMap.get 0 s.mem.scrubLeft c ≠ 0 → s.scrubNext st.val pc.val = some (n, false) → (s.reading (scrubAddr st.val pc.val n) f).cls = .clean →
      exec (.scrubRead st pc f g) s = .next { s.tally 32 0 0 with mem := { s.mem with scrubLeft := SMap.set 0 s.mem.scrubLeft c (SMap.get 0 s.mem.scrubLeft c - 1), scrubPos := SMap.set 0 s.mem.scrubPos c (n + 1) } }))

/-- 12 R390 to R400, R405, R408, R410: requests, responses, time-outs. -/
def Obligations.FabricRequests : Prop :=
  (∀ (s : State) (r : FabReq), s.pkg.st.hubRuns = true → r.own = none → r.dest = s.node → s.mir.restore = none →
    (s.checkReq ⟨0x01, r⟩ = 0 → space r.addr.toNat = .sram →
      exec (.load r) s = .next ((s.tally 0 r.size.toNat 0).send r.src (.response (okResponse s.node ⟨0x01, r⟩ (s.sramGet r.addr.toNat r.size.toNat) 0)))) ∧
    (s.checkReq ⟨0x02, r⟩ = 0 → space r.addr.toNat = .sram →
      exec (.store r) s = .next (((s.sramPut r.addr.toNat (fit r.size.toNat r.data)).tally 0 r.size.toNat 0).send r.src (.response (okResponse s.node ⟨0x02, r⟩ [] 0)))) ∧
    (s.checkReq ⟨0x01, r⟩ = 0 → space r.addr.toNat = .hbm → s.badIn [(r.addr.toNat, r.size.toNat)] = [] →
      exec (.load r) s = .next ((s.tally r.size.toNat 0 0).send r.src (.response (okResponse s.node ⟨0x01, r⟩ (s.hbmGet r.addr.toNat r.size.toNat).1 0)))) ∧
    (s.checkReq ⟨0x02, r⟩ = 0 → space r.addr.toNat = .hbm →
      ∃ t, exec (.store r) s = .next t ∧ t.mem = (s.hbmPut r.addr.toNat (fit r.size.toNat r.data) (mkTag s.oddNow 0)).mem) ∧
    (∀ c ∈ [(Instr.fetchAdd r, 0x10), (.swap r, 0x11), (.fetchAnd r, 0x12), (.fetchOr r, 0x13), (.fetchXor r, 0x14), (.fetchMaxU r, 0x15), (.cas r, 0x16)],
      s.checkReq ⟨BitVec.ofNat 8 c.2, r⟩ = 0 →
      exec c.1 s = .next (((s.sramPut r.addr.toNat (leBytes r.size.toNat (atomicNew c.2 r.size.toNat (ofLe (s.sramGet r.addr.toNat r.size.toNat)) r.opA.toNat r.opB.toNat))).tally 0 (2 * r.size.toNat) 0).send r.src
        (.response (okResponse s.node ⟨BitVec.ofNat 8 c.2, r⟩ [] (ofLe (s.sramGet r.addr.toNat r.size.toNat)))))) ∧
    (s.checkReq ⟨0x01, r⟩ = 5 → exec (.load r) s =
      .next ((s.setNum O.refused ((s.num O.refused + 1) % 2 ^ 64)).send r.src (.response (failedResponse s.node ⟨0x01, r⟩ 5))))) ∧
  -- covers: fetchAdd swap fetchAnd fetchOr fetchXor fetchMaxU cas
  (∀ (s : State) (r : FabReq), s.pkg.st.hubRuns = false →
    ∀ c ∈ [Instr.load r, .store r, .fetchAdd r, .swap r, .fetchAnd r, .fetchOr r, .fetchXor r, .fetchMaxU r, .cas r], exec c s = .next s) ∧
  (∀ n old a b : Nat, a < 2 ^ (8 * n) → old < 2 ^ (8 * n) → atomicNew 0x10 n old a b = (old + a) % 2 ^ (8 * n) ∧ atomicNew 0x11 n old a b = a ∧
    atomicNew 0x12 n old a b = old &&& a ∧ atomicNew 0x13 n old a b = old ||| a ∧ atomicNew 0x14 n old a b = old ^^^ a ∧ atomicNew 0x15 n old a b = Nat.max old a ∧
    atomicNew 0x16 n old a b = (if old = a then b % 2 ^ (8 * n) else old)) ∧
  (∀ (s : State) (r : FabReq) (c : Fin 4) (tag : W32) (u : State), s.pkg.st.hubRuns = true → r.own = some c → r.dest ≠ s.node → s.fab.readyAt ≤ s.us →
    s.fab.ctlWait.any (fun w => w.1 == c) = false → s.fab.outs.any (fun o => o.who == .control c) = false → s.newTag (.control c) = some (tag, u) →
    ∃ t, exec (.load r) s = .next t ∧ t.out = s.out ++ [.send r.dest (.request 0x01 { r with tenant := BitVec.ofNat 8 (s.num O.systemTenant), src := s.node, tag := tag })] ∧ t.mem = s.mem ∧
      t.fab.outs = s.fab.outs ++ [{ tag := tag, who := .control c, addr := fabAddr r.dest r.addr.toNat, op := 0x01, size := r.size.toNat, issued := s.clk.tick }] ∧
      changesOnly [.fab, .ses, .out] s t) ∧
  (∀ (s : State) (r : FabResp), s.pkg.st.hubRuns = true → s.fab.ctlWait = [] →
    (∀ o c, s.fab.outs.find? (fun o => o.tag == r.tag) = some o → o.who = .control c →
      exec (.fabricResponse r) s = .next (({ s with fab := { s.fab with outs := s.fab.outs.filter (fun x => x.tag != o.tag), lastDone := some (.control c, r) } }.tally 0 0 r.data.length).emit (.answer (.control c) r.old))) ∧
    (s.fab.outs.find? (fun o => o.tag == r.tag) = none → s.lnk.combine.find? (fun c => c.tag == r.tag) = none →
      exec (.fabricResponse r) s = .next (s.setNum O.lateResponses ((s.num O.lateResponses + 1) % 2 ^ 64)))) ∧
  (∀ (s : State) (tag : W32) (o : OutReq), s.fab.outs.find? (fun o => o.tag == tag) = some o → Tick.atLeast s.clk.tick o.issued = true →
    (Tick.since s.clk.tick o.issued < s.num O.loadBound → exec (.requestTimeout tag) s = .next s) ∧
    (∀ c, s.num O.loadBound ≤ Tick.since s.clk.tick o.issued → o.who = .control c → s.fab.ctlWait = [] →
      ∃ t, exec (.requestTimeout tag) s = .next t ∧ t.fab.outs = s.fab.outs.filter (fun x => x.tag != o.tag) ∧ t.mem = s.mem ∧
        SMap.find t.fab.restUntil (tag.toNat % 2 ^ 24) = some (s.us + 2 * s.num O.loadBound) ∧ changesOnly [.fab, .ses, .fcu, .objects, .errN, .notify, .out] s t))

/-- 12 R413 to R425: LINTEL_BATCH, LINTEL_RETURN, LINTEL_RETURN_FLUSH, HOST_WRITE, HOST_READ, HOST_ATOMIC, HOST_IRQ, PCIE_STATE_CHANGE. -/
def Obligations.LintelAndHost : Prop :=
  (∀ (s : State) (g : Bool) (src : Node) (n : W32) (b : BatchReq) (tag : W32) (u : State), s.pkg.st.hubRuns = true → (s.gateway g).waiting = [] → s.fab.readyAt ≤ s.us →
    s.fab.outs.any (fun o => o.who == .gateway g) = false → s.newTag (.gateway g) = some (tag, u) →
    ∃ t, exec (.lintelBatch g src n [b]) s = .next t ∧ (t.gateway g).waiting = [] ∧ (t.gateway g).entries = (s.gateway g).entries ++ [(tag, b.req.src, b.req.tag, n, 0, b.op)] ∧
      t.out = s.out ++ [.send b.req.dest (.request b.op { b.req with src := s.node, tag := tag })] ∧ changesOnly [.fab, .ses, .out] s t) ∧
  (∀ (s : State) (g : Bool) (recs : List LintelRec), s.pkg.st.hubRuns = true →
    ∃ t, exec (.lintelReturn g recs) s = .next t ∧ changesOnly [.out] s t ∧ t.out = s.out ++ recs.map (fun r => .send r.origSrc (.response
      { src := s.node, tag := r.origTag, op := r.op, status := r.status, size := r.size, old := r.old, data := r.data }))) ∧
  (∀ (s : State) (g : Bool), ((s.gateway g).returns = [] → exec (.lintelReturnFlush g) s = .next s) ∧
    ((s.gateway g).returns ≠ [] → ∃ t, exec (.lintelReturnFlush g) s = .next t ∧ t.gateway g = { s.gateway g with returns := [] } ∧ changesOnly [.fab, .lnk, .free] s t)) ∧
  (∀ s : State, s.bridges = true →
    (∀ bar off d x, exec (.hostWrite bar off d x true) s = .next (({ s with fab := { s.fab with storeErr := s.fab.storeErr + 1 } }).icxEvent 0x0F1)) ∧
    (∀ bar off d x, bar ≠ 0 → s.hostWindow bar.val off d.length = none →
      exec (.hostWrite bar off d x false) s = .next ({ s with fab := { s.fab with ur := s.fab.ur + 1 } }.emit .hostUnsupported)) ∧
    (∀ off n, exec (.hostRead 0 off n) s = .next ({ s with fab := { s.fab with hostNext := s.fab.hostNext + 1 } }.emit (.hostData s.fab.hostNext (s.bar0Read off n)))) ∧
    (∀ off w a tag u, s.hostWindow 1 off 4 = some (w, a) → a.toNat % 4 = 0 → s.fab.hostOps = [] → s.fab.readyAt ≤ s.us → s.fab.outs.any (fun o => o.who == .host) = false →
      s.newTag .host = some (tag, u) →
      (∀ d x, d.length = 4 → ∃ t, exec (.hostWrite 1 off d x false) s = .next t ∧ changesOnly [.fab, .ses, .out] s t ∧
        t.out = s.out ++ [.send (nodeOf a.toNat) (.request 0x02 ⟨nodeOf a.toNat, s.node, none, tag, BitVec.ofNat 64 (localOf a.toNat), BitVec.ofNat 8 (s.num (O.winTenant w)), 4, 0, 0, d⟩)]) ∧
      (∃ t, exec (.hostRead 1 off 4) s = .next t ∧ changesOnly [.fab, .ses, .out] s t ∧
        t.out = s.out ++ [.send (nodeOf a.toNat) (.request 0x01 ⟨nodeOf a.toNat, s.node, none, tag, BitVec.ofNat 64 (localOf a.toNat), BitVec.ofNat 8 (s.num (O.winTenant w)), 4, 0, 0, []⟩)]) ∧
      (∀ op x y, (op = 0x10 ∨ op = 0x11 ∨ op = 0x16) → ∃ t, exec (.hostAtomic 1 off op 4 x y) s = .next t ∧ changesOnly [.fab, .ses, .out] s t ∧
        t.out = s.out ++ [.send (nodeOf a.toNat) (.request op ⟨nodeOf a.toNat, s.node, none, tag, BitVec.ofNat 64 (localOf a.toNat), BitVec.ofNat 8 (s.num (O.winTenant w)), 4, x, y, []⟩)])) ∧
    (∀ src line, (List.range (s.num O.groupCount)).find? (fun i => s.num (O.groupMember i) == src.toNat) = none → exec (.hostIrq src line) s = .next s) ∧
    (∀ src line m, (List.range (s.num O.groupCount)).find? (fun i => s.num (O.groupMember i) == src.toNat) = some m →
      (s.num (O.msiRoute m line.val) = 0xFF → exec (.hostIrq src line) s = .next (s.setNum O.irqDropped ((s.num O.irqDropped + 1) % 2 ^ 32))) ∧
      (s.num (O.msiRoute m line.val) ≠ 0xFF → exec (.hostIrq src line) s = .next (s.msix (s.num (O.msiRoute m line.val))))) ∧
    (∀ a b c : Byte, ∃ t, exec (.pcieStateChange a b c) s = .next t ∧ t.num O.pcieState = a.toNat ∧ t.num O.pcieRate = b.toNat ∧ t.num O.pcieWidth = c.toNat ∧
      objectsBut [O.pcieState.key, O.pcieRate.key, O.pcieWidth.key] s t ∧ changesOnly [.objects, .icx, .out] s t)) ∧
  (∀ s : State, s.bridges = false → (∀ bar off d x y, exec (.hostWrite bar off d x y) s = .next s) ∧ (∀ bar off n, exec (.hostRead bar off n) s = .next s) ∧
    (∀ bar off op n x y, exec (.hostAtomic bar off op n x y) s = .next s) ∧ (∀ src line, exec (.hostIrq src line) s = .next s) ∧
    (∀ a b c, exec (.pcieStateChange a b c) s = .next s))

/-- 07 R213, R218, R226, R227, R230; 13 R445: PLACEMENT_REQUEST, EXPERT_TRANSFER, EXPERT_RETURN, the exchange window. -/
def Obligations.Experts : Prop :=
  (∀ (s : State) (c : Bool) (i : BitVec 20) (e : Entry), e = entryOf c (oddOf (s.streamOf c).course) i.toNat →
    (s.cred.cores.find? (fun x => x.2.running == some e && x.2.done) = none → exec (.placementRequest c i) s = .next s) ∧
    (∀ g x key tile, s.cred.cores.find? (fun x => x.2.running == some e && x.2.done) = some (g, x) → s.tileOf c i.toNat = some (key, tile) →
      s.eng.accepted.contains (c, i.toNat) = false → s.eng.waiting = [] → tile ≠ SMap.get 0 s.eng.nextTile key →
      exec (.placementRequest c i) s = .next ({ ((s.drawNat.2.countBusy (s.drawNat.1 % 2 ^ 32)).setCore g { x with running := none, done := false, retired := x.retired + 1, busy := x.busy + BitVec.ofNat 32 (s.drawNat.1 % 2 ^ 32) }) with
        eng := { s.eng with accepted := s.eng.accepted ++ [(c, i.toNat)], waiting := [(c, i.toNat)] } }))) ∧
  (∀ (s : State) (c : Bool) (n : Node) (m : ExpertMsg),
    (s.courseParity c m.course = none → exec (.expertTransfer c n m) s = .next (s.raise (srcCredit (m.counter.toNat % 4)) 0 0x25 1 0) ∧
      exec (.expertReturn c n m) s = .next (s.raise (srcCredit (m.counter.toNat % 4)) 0 0x25 1 0)) ∧
    (∀ odd, s.courseParity c m.course = some odd → s.eng.seen.contains (c, m.course, n, arrivalNo m.inst m.layer (m.expert % 64)) = true → exec (.expertTransfer c n m) s = .next s) ∧
    (∀ odd, s.courseParity c m.course = some odd → s.eng.seen.contains (c, m.course, n, arrivalNo m.inst m.layer (64 + m.expert % 64)) = true → exec (.expertReturn c n m) s = .next s) ∧
    (∀ odd k, s.courseParity c m.course = some odd → s.eng.seen.contains (c, m.course, n, arrivalNo m.inst m.layer (m.expert % 64)) = false →
      m.rows.length ≤ (s.templ c odd).stagingFor m.expert m.source.toNat → k < (s.bondOf c).length → bit (s.streamOf c).members.toNat k = true → m.source.toNat ≠ k →
      (∀ x ∈ s.eng.staged, x.2.source.toNat ≠ k) →
      exec (.expertTransfer c n m) s = .next { s.tally 0 0 (Body.expert m).payload with eng := { s.eng with
        seen := s.eng.seen ++ [(c, m.course, n, arrivalNo m.inst m.layer (m.expert % 64))], staged := s.eng.staged ++ [(c, m)] } }) ∧
    (∀ odd u d i e b row, s.courseParity c m.course = some odd → (s.tally 0 0 (Body.expert m).payload).firstTime c m.course n (arrivalNo m.inst m.layer (64 + m.expert % 64)) = some u →
      (u.templ c odd).routerAt m.layer = some (d, i) → u.expertOf c odd d i ((u.indexIn c n).getD 0) m.expert = some e →
      ((u.templ c odd).returnTable m.layer).bind (u.blockOf c odd) = some b → m.rows = [row] →
      exec (.expertReturn c n m) s = .next ((u.pokeAs odd 0 (b.row (rbase (u.shares c odd d i) e)) row).grants
        [{ covered := c, odd := odd, counter := m.counter.toNat, amount := 1, cause := none }]))) ∧
  (∀ s : State, s.dueBefore 7 = false → (s.startedAgo 0 = true → s.num O.exchangeSpan ≠ 0 →
      exec .exchangeWindowOpen s = .next { s with crs := { s.crs with exchangeOpen := true } }) ∧
    ((s.startedAgo 0 = false ∨ s.num O.exchangeSpan = 0) → exec .exchangeWindowOpen s = .next s) ∧
    (s.startedAgo (s.num O.exchangeSpan) = true → exec .exchangeWindowClose s = .next { s with crs := { s.crs with exchangeOpen := false } }) ∧
    (s.startedAgo (s.num O.exchangeSpan) = false → exec .exchangeWindowClose s = .next s))

/-- 08 R240 to R246, R261, R275: the sender's side of a hand-over, the waits. -/
def Obligations.HandoverSender : Prop :=
  (∀ (s : State) (k : Nat) (x : Session), s.num O.sessionTableBase % 32 = 0 → space (s.num O.sessionTableBase + 256 * k) = .hbm →
    (s.putSession k x).session k = x ∧ (∀ j, j ≠ k → (s.putSession k x).session j = s.session j) ∧ changesOnly [.ses, .mem] s (s.putSession k x)) ∧
  (∀ (s : State) (src : Node) (b : List Byte), s.shipOf src b = none →
    exec (.handoverGrant src b) s = .next s ∧ exec (.handoverDecline src b) s = .next s ∧ exec (.handoverRefuse src b) s = .next s ∧ exec (.handoverAccept src b) s = .next s) ∧
  (∀ (s : State) (src : Node) (b : List Byte) (k : Nat) (x : Session), s.shipOf src b = some k → x = s.session k →
    (replyIs b 0 = true → x.ship.granted = false →
      exec (.handoverGrant src b) s = .next (({ s with crs := { s.crs with lastTarget := x.ship.index + 1 } }.putSession k { x with ship := { x.ship with granted := true } }).newShipment k)) ∧
    (replyIs b 1 = true → x.ship.granted = false → s.cnum x.covered O.targetCount ≤ x.ship.declined + 1 →
      s.num O.sessionTableBase % 32 = 0 → space (s.num O.sessionTableBase + 256 * k) = .hbm →
      exec (.handoverDecline src b) s = .next (s.putSession k { x with ship := { x.ship with declined := x.ship.declined + 1, target := none } })) ∧
    (replyIs b 3 = true → x.ship.recordAt.isSome = true → u64 b 0x10 = x.ship.id.toNat → x.ship.tries = 0 →
      exec (.handoverRefuse src b) s = .next ((s.putSession k { x with ship := { x.ship with tries := 1, recordAt := none } }).newShipment k)) ∧
    (replyIs b 3 = true → x.ship.recordAt.isSome = true → u64 b 0x10 = x.ship.id.toNat → x.ship.tries = 2 →
      exec (.handoverRefuse src b) s = .next ((s.putSession k { x with ship := { x.ship with tries := 3, recordAt := none } }).editSession k (fun y => y.because 0x2B))) ∧
    (replyIs b 2 = true → x.ship.recordAt.isSome = true → u64 b 0x10 = x.ship.id.toNat →
      exec (.handoverAccept src b) s = .next (((s.setHodRt (hodKey x.covered x.hod) { s.hodRt (hodKey x.covered x.hod) with refused := (s.hodRt (hodKey x.covered x.hod)).refused ++ [{ tag := x.tag, slot := k, status := 0x2F, deadline := x.deadline, position := BitVec.ofNat 32 src.toNat }] }).freeDescriptor k 0x2F).icxEvent 0x0C1))) ∧
  (∀ (s : State) (k : BitVec 18) (x : Session), x = s.session k.toNat →
    (∀ f, x.ship.recordAt = some f → x.st = .shipping →
      (Tick.since s.clk.tick f < s.num O.handoverWait → exec (.verdictTimeout k) s = .next s) ∧
      (s.num O.handoverWait ≤ Tick.since s.clk.tick f → x.ship.tries = 0 →
        exec (.verdictTimeout k) s = .next ((s.putSession k.toNat { x with ship := { x.ship with tries := 1, recordAt := none } }).newShipment k.toNat))) ∧
    (x.st = .shipping → x.ship.granted = false →
      (Tick.since s.clk.tick x.ship.since < s.num O.handoverWait → exec (.handoverWaitExpiry k) s = .next s) ∧
      (s.num O.handoverWait ≤ Tick.since s.clk.tick x.ship.since → exec (.handoverWaitExpiry k) s = .next (s.editSession k.toNat (fun y => y.because 0x2A)))) ∧
    (x.st = .parked → (Tick.atLeast s.clk.tick x.expiry = false → exec (.ttlExpiry k) s = .next s) ∧
      (Tick.atLeast s.clk.tick x.expiry = true → exec (.ttlExpiry k) s = .next (s.editSession k.toNat (fun y => y.because 0x28)))) ∧
    (∀ f, x.quotaSince = some f → x.st ≠ .free → (Tick.since s.clk.tick f < s.num O.quotaWait → exec (.quotaWaitExpiry k) s = .next s) ∧
      (s.num O.quotaWait ≤ Tick.since s.clk.tick f → exec (.quotaWaitExpiry k) s = .next (s.editSession k.toNat (fun y => y.because 0x29)))))

/-- 05 R187 to R190; 08 R241 to R243: the target's side of a hand-over. -/
def Obligations.HandoverTarget : Prop :=
  (∀ (s : State) (src : Node) (b : List Byte),
    ((rcrcOk b = false ∨ u8 b 0 ≠ 0x1D ∨ s.pkg.st.hubRuns = false) → exec (.handoverRequest src b) s = .next s) ∧
    (rcrcOk b = true → u8 b 0 = 0x1D → s.pkg.st.hubRuns = true →
      ((s.handoverStatus b ≠ 0 ∨ s.freeSlot = none) →
        exec (.handoverRequest src b) s = .next (s.send src (.reply (replyBytes 1 (s.handoverStatus b) 0 (BitVec.ofNat 64 (u64 b 8)) (u64 b 0x10))))) ∧
      (∀ k, s.handoverStatus b = 0 → s.freeSlot = some k →
        ∃ t, exec (.handoverRequest src b) s = .next t ∧ t.out = s.out ++ [.send src (.reply (replyBytes 0 0 k (BitVec.ofNat 64 (u64 b 8)) (u64 b 0x10)))] ∧
          t.ses = { s.ses with grants := s.ses.grants ++ [{ slot := k, src := src, tag := BitVec.ofNat 64 (u64 b 8), tenant := u8 b 0x30, heldAt := s.clk.tick, pages := (promptPages s.serving (u32 b 0x2C) (u8 b 3 != 0)).1.1 + (promptPages s.serving (u32 b 0x2C) (u8 b 3 != 0)).1.2, bytes := (promptPages s.serving (u32 b 0x2C) (u8 b 3 != 0)).2 }] } ∧ changesOnly [.ses, .out] s t))) ∧
  (∀ (s : State) (k : BitVec 18), exec (.grantHoldExpiry k) s = .next { s with ses := { s.ses with grants := s.ses.grants.filter (fun g =>
      !(g.slot == k.toNat && decide (s.num O.handoverWait ≤ Tick.since s.clk.tick g.heldAt))) } }) ∧
  (∀ (s : State) (src : Node) (b d : List Byte) (id : W64), id = BitVec.ofNat 64 (u64 b 0x10) →
    (s.shipment id = none → exec (.pageRecord src b d) s = .next (s.putShipment { id := id, src := src, firstAt := s.clk.tick, recs := [(b, d)] })) ∧
    (∀ h, s.shipment id = some h → h.accepted = none → h.failed = 0 → exec (.pageRecord src b d) s = .next (s.putShipment { h with recs := h.recs ++ [(b, d)] }))) ∧
  (∀ (s : State) (src : Node) (b : List Byte) (id : W64), id = BitVec.ofNat 64 (u64 b 0x10) →
    (s.shipment id = none → exec (.closingRecord src b) s = .next s) ∧
    (∀ h g, s.shipment id = some h → h.src = src → h.accepted = none → h.failed = 0 → g = (if id.toNat % 2 = 0 then s.serving.main else s.serving.draft) →
      (h.check b g ≠ 0 → exec (.closingRecord src b) s = .next (s.putShipment { h with recs := [], failed := h.check b g, tag := BitVec.ofNat 64 (u64 b 8) })) ∧
      (h.check b g = 0 → ∃ t h', exec (.closingRecord src b) s = .next t ∧ t.shipment id = some h' ∧ h'.accepted = some (u32 b 0x18) ∧ h'.recs = [] ∧
        h'.tag = BitVec.ofNat 64 (u64 b 8)))) ∧
  (∀ (s : State) (id : W64) (h : Shipment), s.shipment id = some h → h.accepted = none → h.failed = 0 →
    (Tick.since s.clk.tick h.firstAt < 1000000 → exec (.shipmentTimeout id) s = .next s) ∧
    (1000000 ≤ Tick.since s.clk.tick h.firstAt → exec (.shipmentTimeout id) s =
      .next { s with ses := { s.ses with shipments := s.ses.shipments.filter (fun x => x.id != id), discarded := s.ses.discarded + 1 } })) ∧
  (∀ (s : State) (src : Node) (b : List Byte) (tag id : W64), tag = BitVec.ofNat 64 (u64 b 8) → id = BitVec.ofNat 64 (u64 b 0x10) →
    (s.ses.grants.find? (fun g => g.src == src && g.tag == tag) = none → s.shipment id = none → u8 b 3 = 0 → exec (.handoverRecord src b) s =
      .next ({ s with ses := { s.ses with shipments := s.ses.shipments.filter (fun h => h.src != src || (h.id != id && h.id != id + 1)) } }.send src (.reply (replyBytes 3 7 0 tag id.toNat)))) ∧
    (∀ g, s.ses.grants.find? (fun g => g.src == src && g.tag == tag) = some g →
      (s.shipment id = none → u8 b 3 = 0 → exec (.handoverRecord src b) s =
        .next ({ s with ses := { s.ses with shipments := s.ses.shipments.filter (fun h => h.src != src || (h.id != id && h.id != id + 1)) } }.send src (.reply (replyBytes 3 7 0 tag id.toNat)))) ∧
      (∀ m, s.shipment id = some m → m.accepted = some (u32 b 0x2C) → m.tag = tag → rcrcOk b = true → u8 b 0 = 0x1E → u8 b 3 = 0 → u8 b 0x30 = g.tenant →
        ∃ t more, exec (.handoverRecord src b) s = .next t ∧ t.out = s.out ++ more ++ [.send src (.reply (replyBytes 2 0 0 tag id.toNat))])))

/-- 13 R429 to R432, R435 to R441: MIRROR, MIRROR_CLOSE, MIRROR_ACK, BEAT_SEND, BEAT, BEAT_LOSS, FAIL_NOTICE, ALIAS_SET, ALIAS_ACK. -/
def Obligations.MirrorAndBeats : Prop :=
  (∀ (s : State) (r : MirrorRec), exec (.mirror r) s = .next { s with mir := { s.mir with incoming := s.mir.incoming ++ [r] } }) ∧
  (∀ (s : State) (c : MirrorCloseRec),
    ((c.count ≠ s.mir.incoming.length ∨ c.fold ≠ foldOf s.mir.incoming) → exec (.mirrorClose c) s = .next { s with mir := { s.mir with incoming := [] } }) ∧
    (c.count = s.mir.incoming.length → c.fold = foldOf s.mir.incoming → ∃ t more, exec (.mirrorClose c) s = .next t ∧ t.mir.twinClosed = some c.course ∧
      t.mir.twinMembers = c.members ∧ t.mir.twinGreatest = c.greatest ∧ t.out = s.out ++ more ++ [.send s.twinNode (.mirrorAck c.course)])) ∧
  (∀ (s : State) (x : W64), (s.mir.awaiting.find? (fun y => y.course == x) = none → exec (.mirrorAck x) s = .next s) ∧
    (∀ y, s.mir.awaiting.find? (fun y => y.course == x) = some y → y.image = true → s.mir.st = .syncing →
      exec (.mirrorAck x) s = .next ((({ s with mir := { s.mir with awaiting := s.mir.awaiting.erase y } } : State).setMirror .mirroring).commitUpTo y.covered x))) ∧
  (∀ s : State, (s.pkg.st.hubRuns = true → s.clk.counting = true → s.lnk.plumb.ident.isSome = true → s.clk.tick.toNat % s.num O.beatPeriod = 0 →
      exec .beatSend s = .next (s.send s.twinNode (.beat s.clk.tick s.pkg.st.code s.mirrorRanges (BitVec.ofNat 32 (s.num O.coverPages))))) ∧
    (s.clk.tick.toNat % s.num O.beatPeriod ≠ 0 → exec .beatSend s = .next s)) ∧
  (∀ (s : State) (x : Tick) (b : Byte) (rg : List W64) (cp : W32), s.mir.st = .mirroring → s.mir.restore = none → s.mir.covered = none → s.mir.lastBeat = none →
    ∃ t, exec (.beat x ⟨b, rg, cp⟩) s = .next t ∧ t.mir = { s.mir with lastBeat := some s.clk.tick, silent := false, twinFailed := false, twinRanges := rg } ∧ objectsBut [O.beatsMissed.key] s t ∧ changesOnly [.mir, .objects] s t) ∧
  (∀ (s : State) (l : Tick), s.mir.lastBeat = some l → s.mir.twinFailed = false → s.pkg.st.hubRuns = true →
    (Tick.since s.clk.tick l < s.num O.beatLoss → exec .beatLoss s = .next s) ∧
    (s.num O.beatLoss ≤ Tick.since s.clk.tick l → s.clk.mode = .holdover → s.mir.silent = false →
      exec .beatLoss s = .next (({ s with mir := { s.mir with silent := true } }).raise srcMirror 0 0x71 1 s.twinNode.toNat)) ∧
    (s.num O.beatLoss ≤ Tick.since s.clk.tick l → s.clk.mode = .locked → s.pkg.st = .serving → s.pkg.request ≠ some .draining → s.mir.st = .mirroring → s.mir.covered = none →
      s.liveCopy.twin.isSome = true → s.mir.committed.isSome = true → s.crs.own.commits = [] →
      ∃ t, exec .beatLoss s = .next t ∧ t.mir.st = .covering ∧ t.mir.twinFailed = true ∧
        t.mir.takeover = some { failed := s.twinNode, declared := s.clk.tick, lastAck := s.clk.tick, seq := s.mir.aliasSeq + 1 } ∧
        t.num O.takeovers = (s.num O.takeovers + 1) % 2 ^ 32 ∧ objectsBut [O.takeovers.key] s t ∧ t.pkg = { s.pkg with declared := true } ∧ changesOnly [.pkg, .mir, .lnk, .crs, .objects, .icx, .out] s t)) ∧
  (∀ (s : State) (n : Node) (k : Byte), (n ≠ s.twinNode → exec (.failNotice n k) s = .next s) ∧
    (n = s.twinNode → s.pkg.st.hubRuns = true → s.mir.twinFailed = false → s.mir.covered.isSome = true →
      ∃ t, exec (.failNotice n k) s = .next t ∧ t.mir = { s.mir with twinFailed := true, incoming := [], awaiting := [], imageDue := [], st := .covering, restore := none } ∧ changesOnly [.mir, .icx, .out] s t)) ∧
  (∀ (s : State) (src f : Node) (c : Option Node) (q : W32),
    (f ≠ s.node → exec (.aliasSet src f c q) s = .next ((s.setAlias f c).send src (.aliasAck q))) ∧
    (f = s.node → c.isSome = true → exec (.aliasSet src f c q) s = .next (s.raise srcMirror 0 0x72 3 s.node.toNat))) ∧
  (∀ (s : State) (src : Node) (q : W32) (x : Takeover), s.mir.takeover = some x →
    (q ≠ x.seq → exec (.aliasAck src q) s = .next s) ∧
    (q = x.seq → src ≠ x.failed → x.acks.contains src = false →
      exec (.aliasAck src q) s = .next { s with mir := { s.mir with takeover := some { x with acks := x.acks ++ [src], lastAck := s.clk.tick } } }))

/-- 13 R440 to R452: TAKEOVER_QUIET_END, COVERING_ENTER, REJOIN, SHARD_DOWN, STALL_LIMIT, RESTORE, HANDBACK_QUIET_END. -/
def Obligations.TakeoverAndRestore : Prop :=
  (∀ (s : State) (x : Takeover), s.mir.takeover = some x →
    (x.imported = false → s.quietOver x = false → exec .takeoverQuietEnd s = .next s) ∧
    (x.imported = false → s.quietOver x = true → s.mayCover = false → ∃ t, exec .takeoverQuietEnd s = .next t ∧ t.mir.takeover = none ∧ t.mir.covered = none) ∧
    (x.imported = false → s.quietOver x = true → s.mayCover = true →
      ∃ t, exec .takeoverQuietEnd s = .next t ∧ t.mir.takeover = some { x with imported := true, expect := 0 } ∧ t.mir.covered = some x.failed) ∧
    (x.imported = false → exec .coveringEnter s = .next s) ∧
    (x.imported = true → s.pkg.st = .serving → s.hasLive = true → calm s → ∃ t, exec .coveringEnter s = .next t ∧ t.pkg.st = .covering)) ∧
  (∀ (s : State) (n : Node) (c m : W64), s.mir.takeover = none →
    (s.indexIn false n = none → exec (.rejoin n c m) s = .next s) ∧
    ((s.indexIn false n).isSome = true →
      ∃ t, exec (.rejoin n c m) s = .next t ∧ t.crs = { s.crs with own := { s.crs.own with rejoins := s.crs.own.rejoins ++ [n] } } ∧ changesOnly [.crs, .out] s t ∧
        t.out = s.out ++ .send n (.rejoin s.node (s.lastClosed false) s.crs.own.members) ::
          ((s.mir.retained.filter (fun r => r.covered == false && r.dest == n)).map (fun r => .send n r.body)))) ∧
  (∀ (s : State) (n : Node), s.pkg.st ≠ .covering →
    (s.indexIn false n = none → exec (.shardDown n) s = .next (s.icxEvent 0x004)) ∧
    (∀ i, s.indexIn false n = some i → s.crs.own.running = false →
      ∃ t, exec (.shardDown n) s = .next t ∧ t.crs.own.members = s.crs.own.members &&& ~~~ BitVec.ofNat 64 (2 ^ i)) ∧
    (s.crs.own.running = false → exec (.stallLimit n) s = .next s) ∧
    (s.crs.own.running = true → s.num O.stallLimit ≤ Tick.since s.clk.tick s.crs.own.startT → (s.needed false).contains n = true →
      s.crs.own.markers.any (fun m => m.node == n && m.course + 1 == s.crs.own.course) = false → s.crs.own.rejoins.contains n = false →
      exec (.stallLimit n) s = .next (s.dropMember false n))) ∧
  (∀ (s : State) (r : MirrorRec), exec (.restore (.image r)) s = .next { s with mir := { s.mir with restoring := s.mir.restoring ++ [r] } }) ∧
  (∀ (s : State) (r : Restore) (h : Tick), s.mir.restore = some r → r.handback = some h →
    (Tick.since s.clk.tick r.lastAck < 2 * s.num O.loadBound → exec .handbackQuietEnd s = .next s) ∧
    (2 * s.num O.loadBound ≤ Tick.since s.clk.tick r.lastAck →
      exec .handbackQuietEnd s = .next { s with mir := { s.mir with restore := none }, fab := { s.fab with readyAt := s.us } }))

/-- 16 R540 to R547, R551: READ, WRITE, DISCOVER, DISCOVER_ANSWER, the staging time-outs. -/
def Obligations.BridleFrames : Prop :=
  (∀ (s u v : State) (f : Frame), s.pkg.st ≠ .off → s.dict.staging = none → s.dict.snaps = [] → s.dict.queued < 16 → u = s.setNum O.rxFrames ((s.num O.rxFrames + 1) % 2 ^ 32) →
    v = { u with dict := { u.dict with queued := u.dict.queued + 1 } } →
    ((f.good = false ∨ parsePdu f.pdu = none) → ∀ c ∈ [Instr.read f, .write f, .discover f], exec c s = .next (u.setNum O.rxDiscarded ((s.num O.rxDiscarded + 1) % 2 ^ 32))) ∧
    (∀ p r, f.good = true → f.broadcast = false → parsePdu f.pdu = some p → p.op = 1 → objRow p.key = some r → r.acc ≠ .wo → r.isBytes = false →
      v.reachError (.bridle f.mac) p.key false = Err.ok →
      exec (.read f) s = .next ((v.setNum O.txFrames ((s.num O.txFrames + 1) % 2 ^ 32)).emit (.frame f.mac (padded (p.response 0 0 (beBytes (typeBytes r.ty) (v.readNum p.key))))))) ∧
    (∀ p, f.good = true → f.broadcast = false → parsePdu f.pdu = some p → p.op = 2 →
      (∀ k, s.dict.kept.find? (fun k => k.mac == f.mac && k.seq == p.seq) = some k →
        ∃ t, exec (.write f) s = .next t ∧ t.out = s.out ++ [.frame f.mac (padded k.pdu)] ∧ t.num O.replayed = (s.num O.replayed + 1) % 2 ^ 32 ∧
          objectsBut [O.rxFrames.key, O.replayed.key, O.txFrames.key] s t ∧ changesOnly [.objects, .server, .out] s t) ∧
      (∀ r, s.dict.kept = [] → p.offset = 0 → p.last = true → objRow p.key = some r → r.isBytes = false → p.data.length = typeBytes r.ty →
        ∃ t more, exec (.write f) s = .next t ∧ t.dict.kept = [⟨f.mac, p.seq, p.response (v.applyWrite (.bridle f.mac) p.key p.typ (.num (ofLe p.data.reverse))).1 0 []⟩] ∧
          t.out = s.out ++ more ++ [.frame f.mac (padded (p.response (v.applyWrite (.bridle f.mac) p.key p.typ (.num (ofLe p.data.reverse))).1 0 []))])) ∧
    (∀ p, f.good = true → parsePdu f.pdu = some p → p.op = 3 → s.dict.discover = none →
      exec (.discover f) s = .next { u with dict := { u.dict with discover := some (s.us + Config.serial.toNat % 64 * 100, f.mac, p.seq * 2 ^ 24 + p.key) } })) ∧
  (∀ (s u : State) (f : Frame) (p : Pdu), s.pkg.st ≠ .off → 16 ≤ s.dict.queued → u = s.setNum O.rxFrames ((s.num O.rxFrames + 1) % 2 ^ 32) →
    f.good = true → f.broadcast = false → parsePdu f.pdu = some p → (p.op = 1 ∨ p.op = 2) →
    ∀ c ∈ [Instr.read f, .write f], exec c s = .next (u.setNum O.rxDiscarded ((s.num O.rxDiscarded + 1) % 2 ^ 32))) ∧
  (∀ (s : State) (due : Nat) (m : BitVec 48) (k : Nat), s.dict.discover = some (due, m, k) →
    (s.us < due → exec .discoverAnswer s = .next s) ∧
    (due ≤ s.us → ∃ t b, exec .discoverAnswer s = .next t ∧ t.dict.discover = none ∧ t.out = s.out ++ [.frame m (padded b)] ∧ t.num O.txFrames = (s.num O.txFrames + 1) % 2 ^ 32 ∧
      objectsBut [O.txFrames.key] s t ∧ changesOnly [.objects, .server, .out] s t)) ∧
  (∀ (s : State) (g : Staging), s.dict.staging = some g →
    ∃ t, exec .bridleStagingTimeout s = .next t ∧ t.dict.staging = (if g.since + 1000000 ≤ s.us then none else some g) ∧ changesOnly [.server] s t) ∧
  (∀ (s : State) (k : Key), exec (.windowStagingTimeout k) s =
    .next { s with dict := { s.dict with window := s.dict.window.filter (fun x => !(x.key == k && decide (x.since + 1000000 ≤ s.us))) } })
end

