-- ==== Sys2Proof/Laws/Maps.lean ====
section
/-! SUPPORT. Sparse maps: reading after a write, and the canonical form that every operation keeps. -/

namespace Sys2Proof.Machine

set_option linter.all false

variable {β : Type}

/-- Every key is above a bound. -/
def SMap.above (lo : Option Nat) (m : SMap β) : Prop := ∀ e ∈ m, ∀ l, lo = some l → l < e.1

theorem SMap.rising_cons (lo : Option Nat) (j : Nat) (v : β) (r : SMap β) :
    SMap.rising lo ((j, v) :: r) = true ↔ (∀ l, lo = some l → l < j) ∧ SMap.rising (some j) r = true := by
  cases lo <;> simp [SMap.rising]

theorem SMap.rising_mono (m : SMap β) (lo hi : Option Nat) (h : SMap.rising hi m = true)
    (hl : ∀ l, lo = some l → ∃ k, hi = some k ∧ l ≤ k) : SMap.rising lo m = true := by
  cases m with
  | nil => simp [SMap.rising]
  | cons e r =>
    obtain ⟨j, v⟩ := e
    rw [SMap.rising_cons] at h ⊢
    refine ⟨fun l hl' => ?_, h.2⟩
    obtain ⟨k, hk, hlk⟩ := hl l hl'
    exact Nat.lt_of_le_of_lt hlk (h.1 k hk)

/-- Rising keys are all above the bound. -/
theorem SMap.rising_above (m : SMap β) (lo : Option Nat) (h : SMap.rising lo m = true) : SMap.above lo m := by
  induction m generalizing lo with
  | nil => intro e he; cases he
  | cons e r ih =>
    obtain ⟨j, v⟩ := e
    rw [SMap.rising_cons] at h
    intro x hx l hl
    cases hx with
    | head => exact h.1 l hl
    | tail _ hx => exact Nat.lt_trans (h.1 l hl) (ih _ h.2 x hx j rfl)

theorem SMap.rising_del (m : SMap β) (lo : Option Nat) (k : Nat) (h : SMap.rising lo m = true) :
    SMap.rising lo (SMap.del m k) = true := by
  induction m generalizing lo with
  | nil => simp [SMap.del, SMap.rising]
  | cons e r ih =>
    obtain ⟨j, v⟩ := e
    have h' := h
    rw [SMap.rising_cons] at h
    unfold SMap.del
    split
    · exact SMap.rising_mono _ lo (some j) (ih _ h.2) (fun l hl => ⟨j, rfl, Nat.le_of_lt (h.1 l hl)⟩)
    · rw [SMap.rising_cons]
      exact ⟨h.1, ih _ h.2⟩

theorem SMap.rising_put (m : SMap β) (lo : Option Nat) (k : Nat) (v : β) (h : SMap.rising lo m = true)
    (hk : ∀ l, lo = some l → l < k) : SMap.rising lo (SMap.put m k v) = true := by
  induction m generalizing lo with
  | nil => simp only [SMap.put]; rw [SMap.rising_cons]; exact ⟨hk, by simp [SMap.rising]⟩
  | cons e r ih =>
    obtain ⟨j, w⟩ := e
    rw [SMap.rising_cons] at h
    unfold SMap.put
    split
    · rename_i hkj
      rw [SMap.rising_cons]
      refine ⟨hk, ?_⟩
      rw [SMap.rising_cons]
      exact ⟨fun l hl => by cases hl; exact hkj, h.2⟩
    · split
      · rename_i hkj
        subst hkj
        rw [SMap.rising_cons]
        exact ⟨h.1, h.2⟩
      · rename_i h1 h2
        rw [SMap.rising_cons]
        exact ⟨h.1, ih _ h.2 (fun l hl => by cases hl; omega)⟩

theorem SMap.all_del (m : SMap β) (k : Nat) (p : Nat × β → Bool) (h : m.all p = true) : (SMap.del m k).all p = true := by
  induction m with
  | nil => simp [SMap.del]
  | cons e r ih =>
    obtain ⟨j, v⟩ := e
    simp only [List.all_cons, Bool.and_eq_true] at h
    unfold SMap.del
    split
    · exact ih h.2
    · simp only [List.all_cons, Bool.and_eq_true]; exact ⟨h.1, ih h.2⟩

theorem SMap.all_put (m : SMap β) (k : Nat) (v : β) (p : Nat × β → Bool) (h : m.all p = true) (hv : p (k, v) = true) :
    (SMap.put m k v).all p = true := by
  induction m with
  | nil => simp [SMap.put, hv]
  | cons e r ih =>
    obtain ⟨j, w⟩ := e
    simp only [List.all_cons, Bool.and_eq_true] at h
    unfold SMap.put
    split
    · simp only [List.all_cons, Bool.and_eq_true]; exact ⟨hv, h.1, h.2⟩
    · split
      · simp only [List.all_cons, Bool.and_eq_true]; exact ⟨hv, h.2⟩
      · simp only [List.all_cons, Bool.and_eq_true]; exact ⟨h.1, ih h.2⟩

/-- A set keeps the canonical form. -/
theorem SMap.wf_set [DecidableEq β] (d : β) (m : SMap β) (k : Nat) (v : β) (h : SMap.wf d m = true) :
    SMap.wf d (SMap.set d m k v) = true := by
  simp only [SMap.wf, Bool.and_eq_true] at h ⊢
  unfold SMap.set
  split
  · exact ⟨SMap.rising_del _ _ _ h.1, SMap.all_del _ _ _ h.2⟩
  · rename_i hv
    exact ⟨SMap.rising_put _ _ _ _ h.1 (fun l hl => by cases hl), SMap.all_put _ _ _ _ h.2 (by simpa using hv)⟩

theorem SMap.rising_filter (m : SMap β) (lo : Option Nat) (p : Nat × β → Bool) (h : SMap.rising lo m = true) :
    SMap.rising lo (m.filter p) = true := by
  induction m generalizing lo with
  | nil => simpa using h
  | cons e r ih =>
    obtain ⟨j, v⟩ := e
    rw [SMap.rising_cons] at h
    rw [List.filter_cons]
    split
    · rw [SMap.rising_cons]; exact ⟨h.1, ih _ h.2⟩
    · exact SMap.rising_mono _ lo (some j) (ih _ h.2) (fun l hl => ⟨j, rfl, Nat.le_of_lt (h.1 l hl)⟩)

/-- Removing entries keeps the canonical form. -/
theorem SMap.wf_filter [DecidableEq β] (d : β) (m : SMap β) (p : Nat × β → Bool) (h : SMap.wf d m = true) :
    SMap.wf d (m.filter p) = true := by
  simp only [SMap.wf, Bool.and_eq_true] at h ⊢
  refine ⟨SMap.rising_filter _ _ _ h.1, ?_⟩
  rw [List.all_eq_true] at h ⊢
  exact fun x hx => h.2 x (List.mem_filter.mp hx).1

theorem SMap.get_put_same (d : β) (m : SMap β) (k : Nat) (v : β) : SMap.get d (SMap.put m k v) k = v := by
  induction m with
  | nil => simp [SMap.put, SMap.get]
  | cons e r ih =>
    obtain ⟨j, w⟩ := e
    unfold SMap.put
    split
    · simp [SMap.get]
    · split
      · simp [SMap.get]
      · rename_i h1 h2
        have h2' : j ≠ k := fun hj => h2 hj.symm
        simp [SMap.get, h2', ih]

theorem SMap.get_put_other (d : β) (m : SMap β) (k i : Nat) (v : β) (hi : i ≠ k) : SMap.get d (SMap.put m k v) i = SMap.get d m i := by
  induction m with
  | nil => simp [SMap.put, SMap.get, hi.symm]
  | cons e r ih =>
    obtain ⟨j, w⟩ := e
    unfold SMap.put
    split
    · simp [SMap.get, hi.symm]
    · split
      · rename_i h1 h2
        subst h2
        simp [SMap.get, hi.symm]
      · simp only [SMap.get]; split
        · rfl
        · exact ih

theorem SMap.get_above (d : β) (m : SMap β) (lo k : Nat) (h : SMap.rising (some lo) m = true) (hk : k ≤ lo) : SMap.get d m k = d := by
  induction m generalizing lo with
  | nil => rfl
  | cons e r ih =>
    obtain ⟨j, v⟩ := e
    rw [SMap.rising_cons] at h
    have hj := h.1 lo rfl
    simp only [SMap.get]
    rw [if_neg (by omega)]
    exact ih j h.2 (by omega)

theorem SMap.get_del_same (d : β) (m : SMap β) (k : Nat) : SMap.get d (SMap.del m k) k = d := by
  induction m with
  | nil => rfl
  | cons e r ih =>
    obtain ⟨j, v⟩ := e
    unfold SMap.del
    split
    · exact ih
    · rename_i hj
      simp only [SMap.get, if_neg hj]
      exact ih

theorem SMap.get_del_other (d : β) (m : SMap β) (k i : Nat) (hi : i ≠ k) : SMap.get d (SMap.del m k) i = SMap.get d m i := by
  induction m with
  | nil => rfl
  | cons e r ih =>
    obtain ⟨j, v⟩ := e
    unfold SMap.del
    split
    · rename_i hj
      subst hj
      rw [ih]
      simp [SMap.get, hi.symm]
    · simp only [SMap.get]; split
      · rfl
      · exact ih

/-- A read of the key just set. -/
theorem SMap.get_set_same [DecidableEq β] (d : β) (m : SMap β) (k : Nat) (v : β) : SMap.get d (SMap.set d m k v) k = v := by
  unfold SMap.set
  split
  · rename_i hv; rw [SMap.get_del_same d m k, hv]
  · exact SMap.get_put_same d m k v

/-- A read of another key. -/
theorem SMap.get_set_other [DecidableEq β] (d : β) (m : SMap β) (k i : Nat) (v : β) (hi : i ≠ k) :
    SMap.get d (SMap.set d m k v) i = SMap.get d m i := by
  unfold SMap.set
  split
  · exact SMap.get_del_other d m k i hi
  · exact SMap.get_put_other d m k i v hi

end Sys2Proof.Machine
end

