-- ==== Sys2Proof/Laws/State.lean ====
section
/-! SUPPORT. One lemma for each field and each named update of the state, and what a read gives after a write of the same kind. -/

namespace Sys2Proof.Machine

set_option linter.all false

@[simp] theorem State.setNum_pkg (s : State) (o : Obj) (v : Nat) : (s.setNum o v).pkg = s.pkg := rfl
@[simp] theorem State.setNum_clk (s : State) (o : Obj) (v : Nat) : (s.setNum o v).clk = s.clk := rfl
@[simp] theorem State.setNum_crs (s : State) (o : Obj) (v : Nat) : (s.setNum o v).crs = s.crs := rfl
@[simp] theorem State.setNum_cred (s : State) (o : Obj) (v : Nat) : (s.setNum o v).cred = s.cred := rfl
@[simp] theorem State.setNum_eng (s : State) (o : Obj) (v : Nat) : (s.setNum o v).eng = s.eng := rfl
@[simp] theorem State.setNum_ses (s : State) (o : Obj) (v : Nat) : (s.setNum o v).ses = s.ses := rfl
@[simp] theorem State.setNum_mem (s : State) (o : Obj) (v : Nat) : (s.setNum o v).mem = s.mem := rfl
@[simp] theorem State.setNum_wts (s : State) (o : Obj) (v : Nat) : (s.setNum o v).wts = s.wts := rfl
@[simp] theorem State.setNum_lnk (s : State) (o : Obj) (v : Nat) : (s.setNum o v).lnk = s.lnk := rfl
@[simp] theorem State.setNum_fab (s : State) (o : Obj) (v : Nat) : (s.setNum o v).fab = s.fab := rfl
@[simp] theorem State.setNum_mir (s : State) (o : Obj) (v : Nat) : (s.setNum o v).mir = s.mir := rfl
@[simp] theorem State.setNum_pwr (s : State) (o : Obj) (v : Nat) : (s.setNum o v).pwr = s.pwr := rfl
@[simp] theorem State.setNum_fcu (s : State) (o : Obj) (v : Nat) : (s.setNum o v).fcu = s.fcu := rfl
@[simp] theorem State.setNum_icx (s : State) (o : Obj) (v : Nat) : (s.setNum o v).icx = s.icx := rfl
@[simp] theorem State.setNum_sec (s : State) (o : Obj) (v : Nat) : (s.setNum o v).sec = s.sec := rfl
@[simp] theorem State.setNum_out (s : State) (o : Obj) (v : Nat) : (s.setNum o v).out = s.out := rfl
@[simp] theorem State.setNum_free (s : State) (o : Obj) (v : Nat) : (s.setNum o v).free = s.free := rfl
@[simp] theorem State.setNum_pending (s : State) (o : Obj) (v : Nat) : (s.setNum o v).pending = s.pending := rfl

@[simp] theorem State.setBlob_pkg (s : State) (o : Obj) (b : List Byte) : (s.setBlob o b).pkg = s.pkg := rfl
@[simp] theorem State.setBlob_clk (s : State) (o : Obj) (b : List Byte) : (s.setBlob o b).clk = s.clk := rfl
@[simp] theorem State.setBlob_crs (s : State) (o : Obj) (b : List Byte) : (s.setBlob o b).crs = s.crs := rfl
@[simp] theorem State.setBlob_cred (s : State) (o : Obj) (b : List Byte) : (s.setBlob o b).cred = s.cred := rfl
@[simp] theorem State.setBlob_eng (s : State) (o : Obj) (b : List Byte) : (s.setBlob o b).eng = s.eng := rfl
@[simp] theorem State.setBlob_ses (s : State) (o : Obj) (b : List Byte) : (s.setBlob o b).ses = s.ses := rfl
@[simp] theorem State.setBlob_mem (s : State) (o : Obj) (b : List Byte) : (s.setBlob o b).mem = s.mem := rfl
@[simp] theorem State.setBlob_wts (s : State) (o : Obj) (b : List Byte) : (s.setBlob o b).wts = s.wts := rfl
@[simp] theorem State.setBlob_lnk (s : State) (o : Obj) (b : List Byte) : (s.setBlob o b).lnk = s.lnk := rfl
@[simp] theorem State.setBlob_fab (s : State) (o : Obj) (b : List Byte) : (s.setBlob o b).fab = s.fab := rfl
@[simp] theorem State.setBlob_mir (s : State) (o : Obj) (b : List Byte) : (s.setBlob o b).mir = s.mir := rfl
@[simp] theorem State.setBlob_pwr (s : State) (o : Obj) (b : List Byte) : (s.setBlob o b).pwr = s.pwr := rfl
@[simp] theorem State.setBlob_fcu (s : State) (o : Obj) (b : List Byte) : (s.setBlob o b).fcu = s.fcu := rfl
@[simp] theorem State.setBlob_icx (s : State) (o : Obj) (b : List Byte) : (s.setBlob o b).icx = s.icx := rfl
@[simp] theorem State.setBlob_sec (s : State) (o : Obj) (b : List Byte) : (s.setBlob o b).sec = s.sec := rfl
@[simp] theorem State.setBlob_out (s : State) (o : Obj) (b : List Byte) : (s.setBlob o b).out = s.out := rfl
@[simp] theorem State.setBlob_free (s : State) (o : Obj) (b : List Byte) : (s.setBlob o b).free = s.free := rfl
@[simp] theorem State.setBlob_pending (s : State) (o : Obj) (b : List Byte) : (s.setBlob o b).pending = s.pending := rfl

@[simp] theorem State.emit_pkg (s : State) (m : OutMsg) : (s.emit m).pkg = s.pkg := rfl
@[simp] theorem State.emit_clk (s : State) (m : OutMsg) : (s.emit m).clk = s.clk := rfl
@[simp] theorem State.emit_crs (s : State) (m : OutMsg) : (s.emit m).crs = s.crs := rfl
@[simp] theorem State.emit_cred (s : State) (m : OutMsg) : (s.emit m).cred = s.cred := rfl
@[simp] theorem State.emit_eng (s : State) (m : OutMsg) : (s.emit m).eng = s.eng := rfl
@[simp] theorem State.emit_ses (s : State) (m : OutMsg) : (s.emit m).ses = s.ses := rfl
@[simp] theorem State.emit_mem (s : State) (m : OutMsg) : (s.emit m).mem = s.mem := rfl
@[simp] theorem State.emit_wts (s : State) (m : OutMsg) : (s.emit m).wts = s.wts := rfl
@[simp] theorem State.emit_lnk (s : State) (m : OutMsg) : (s.emit m).lnk = s.lnk := rfl
@[simp] theorem State.emit_fab (s : State) (m : OutMsg) : (s.emit m).fab = s.fab := rfl
@[simp] theorem State.emit_mir (s : State) (m : OutMsg) : (s.emit m).mir = s.mir := rfl
@[simp] theorem State.emit_pwr (s : State) (m : OutMsg) : (s.emit m).pwr = s.pwr := rfl
@[simp] theorem State.emit_fcu (s : State) (m : OutMsg) : (s.emit m).fcu = s.fcu := rfl
@[simp] theorem State.emit_icx (s : State) (m : OutMsg) : (s.emit m).icx = s.icx := rfl
@[simp] theorem State.emit_dict (s : State) (m : OutMsg) : (s.emit m).dict = s.dict := rfl
@[simp] theorem State.emit_sec (s : State) (m : OutMsg) : (s.emit m).sec = s.sec := rfl
@[simp] theorem State.emit_free (s : State) (m : OutMsg) : (s.emit m).free = s.free := rfl
@[simp] theorem State.emit_pending (s : State) (m : OutMsg) : (s.emit m).pending = s.pending := rfl

@[simp] theorem State.send_pkg (s : State) (n : Node) (b : Body) : (s.send n b).pkg = s.pkg := rfl
@[simp] theorem State.send_clk (s : State) (n : Node) (b : Body) : (s.send n b).clk = s.clk := rfl
@[simp] theorem State.send_crs (s : State) (n : Node) (b : Body) : (s.send n b).crs = s.crs := rfl
@[simp] theorem State.send_cred (s : State) (n : Node) (b : Body) : (s.send n b).cred = s.cred := rfl
@[simp] theorem State.send_eng (s : State) (n : Node) (b : Body) : (s.send n b).eng = s.eng := rfl
@[simp] theorem State.send_ses (s : State) (n : Node) (b : Body) : (s.send n b).ses = s.ses := rfl
@[simp] theorem State.send_mem (s : State) (n : Node) (b : Body) : (s.send n b).mem = s.mem := rfl
@[simp] theorem State.send_wts (s : State) (n : Node) (b : Body) : (s.send n b).wts = s.wts := rfl
@[simp] theorem State.send_lnk (s : State) (n : Node) (b : Body) : (s.send n b).lnk = s.lnk := rfl
@[simp] theorem State.send_fab (s : State) (n : Node) (b : Body) : (s.send n b).fab = s.fab := rfl
@[simp] theorem State.send_mir (s : State) (n : Node) (b : Body) : (s.send n b).mir = s.mir := rfl
@[simp] theorem State.send_pwr (s : State) (n : Node) (b : Body) : (s.send n b).pwr = s.pwr := rfl
@[simp] theorem State.send_fcu (s : State) (n : Node) (b : Body) : (s.send n b).fcu = s.fcu := rfl
@[simp] theorem State.send_icx (s : State) (n : Node) (b : Body) : (s.send n b).icx = s.icx := rfl
@[simp] theorem State.send_dict (s : State) (n : Node) (b : Body) : (s.send n b).dict = s.dict := rfl
@[simp] theorem State.send_sec (s : State) (n : Node) (b : Body) : (s.send n b).sec = s.sec := rfl
@[simp] theorem State.send_free (s : State) (n : Node) (b : Body) : (s.send n b).free = s.free := rfl
@[simp] theorem State.send_pending (s : State) (n : Node) (b : Body) : (s.send n b).pending = s.pending := rfl

@[simp] theorem State.setPort_pkg (s : State) (p : Nat) (r : PortRt) : (s.setPort p r).pkg = s.pkg := rfl
@[simp] theorem State.setPort_clk (s : State) (p : Nat) (r : PortRt) : (s.setPort p r).clk = s.clk := rfl
@[simp] theorem State.setPort_crs (s : State) (p : Nat) (r : PortRt) : (s.setPort p r).crs = s.crs := rfl
@[simp] theorem State.setPort_cred (s : State) (p : Nat) (r : PortRt) : (s.setPort p r).cred = s.cred := rfl
@[simp] theorem State.setPort_eng (s : State) (p : Nat) (r : PortRt) : (s.setPort p r).eng = s.eng := rfl
@[simp] theorem State.setPort_ses (s : State) (p : Nat) (r : PortRt) : (s.setPort p r).ses = s.ses := rfl
@[simp] theorem State.setPort_mem (s : State) (p : Nat) (r : PortRt) : (s.setPort p r).mem = s.mem := rfl
@[simp] theorem State.setPort_wts (s : State) (p : Nat) (r : PortRt) : (s.setPort p r).wts = s.wts := rfl
@[simp] theorem State.setPort_fab (s : State) (p : Nat) (r : PortRt) : (s.setPort p r).fab = s.fab := rfl
@[simp] theorem State.setPort_mir (s : State) (p : Nat) (r : PortRt) : (s.setPort p r).mir = s.mir := rfl
@[simp] theorem State.setPort_pwr (s : State) (p : Nat) (r : PortRt) : (s.setPort p r).pwr = s.pwr := rfl
@[simp] theorem State.setPort_fcu (s : State) (p : Nat) (r : PortRt) : (s.setPort p r).fcu = s.fcu := rfl
@[simp] theorem State.setPort_icx (s : State) (p : Nat) (r : PortRt) : (s.setPort p r).icx = s.icx := rfl
@[simp] theorem State.setPort_dict (s : State) (p : Nat) (r : PortRt) : (s.setPort p r).dict = s.dict := rfl
@[simp] theorem State.setPort_sec (s : State) (p : Nat) (r : PortRt) : (s.setPort p r).sec = s.sec := rfl
@[simp] theorem State.setPort_out (s : State) (p : Nat) (r : PortRt) : (s.setPort p r).out = s.out := rfl
@[simp] theorem State.setPort_free (s : State) (p : Nat) (r : PortRt) : (s.setPort p r).free = s.free := rfl
@[simp] theorem State.setPort_pending (s : State) (p : Nat) (r : PortRt) : (s.setPort p r).pending = s.pending := rfl

@[simp] theorem State.setCore_pkg (s : State) (g : Nat) (c : Core) : (s.setCore g c).pkg = s.pkg := rfl
@[simp] theorem State.setCore_clk (s : State) (g : Nat) (c : Core) : (s.setCore g c).clk = s.clk := rfl
@[simp] theorem State.setCore_crs (s : State) (g : Nat) (c : Core) : (s.setCore g c).crs = s.crs := rfl
@[simp] theorem State.setCore_eng (s : State) (g : Nat) (c : Core) : (s.setCore g c).eng = s.eng := rfl
@[simp] theorem State.setCore_ses (s : State) (g : Nat) (c : Core) : (s.setCore g c).ses = s.ses := rfl
@[simp] theorem State.setCore_mem (s : State) (g : Nat) (c : Core) : (s.setCore g c).mem = s.mem := rfl
@[simp] theorem State.setCore_wts (s : State) (g : Nat) (c : Core) : (s.setCore g c).wts = s.wts := rfl
@[simp] theorem State.setCore_lnk (s : State) (g : Nat) (c : Core) : (s.setCore g c).lnk = s.lnk := rfl
@[simp] theorem State.setCore_fab (s : State) (g : Nat) (c : Core) : (s.setCore g c).fab = s.fab := rfl
@[simp] theorem State.setCore_mir (s : State) (g : Nat) (c : Core) : (s.setCore g c).mir = s.mir := rfl
@[simp] theorem State.setCore_pwr (s : State) (g : Nat) (c : Core) : (s.setCore g c).pwr = s.pwr := rfl
@[simp] theorem State.setCore_fcu (s : State) (g : Nat) (c : Core) : (s.setCore g c).fcu = s.fcu := rfl
@[simp] theorem State.setCore_icx (s : State) (g : Nat) (c : Core) : (s.setCore g c).icx = s.icx := rfl
@[simp] theorem State.setCore_dict (s : State) (g : Nat) (c : Core) : (s.setCore g c).dict = s.dict := rfl
@[simp] theorem State.setCore_sec (s : State) (g : Nat) (c : Core) : (s.setCore g c).sec = s.sec := rfl
@[simp] theorem State.setCore_out (s : State) (g : Nat) (c : Core) : (s.setCore g c).out = s.out := rfl
@[simp] theorem State.setCore_free (s : State) (g : Nat) (c : Core) : (s.setCore g c).free = s.free := rfl
@[simp] theorem State.setCore_pending (s : State) (g : Nat) (c : Core) : (s.setCore g c).pending = s.pending := rfl

@[simp] theorem State.setHodRt_pkg (s : State) (k : Nat) (r : HodRt) : (s.setHodRt k r).pkg = s.pkg := rfl
@[simp] theorem State.setHodRt_clk (s : State) (k : Nat) (r : HodRt) : (s.setHodRt k r).clk = s.clk := rfl
@[simp] theorem State.setHodRt_cred (s : State) (k : Nat) (r : HodRt) : (s.setHodRt k r).cred = s.cred := rfl
@[simp] theorem State.setHodRt_eng (s : State) (k : Nat) (r : HodRt) : (s.setHodRt k r).eng = s.eng := rfl
@[simp] theorem State.setHodRt_ses (s : State) (k : Nat) (r : HodRt) : (s.setHodRt k r).ses = s.ses := rfl
@[simp] theorem State.setHodRt_mem (s : State) (k : Nat) (r : HodRt) : (s.setHodRt k r).mem = s.mem := rfl
@[simp] theorem State.setHodRt_wts (s : State) (k : Nat) (r : HodRt) : (s.setHodRt k r).wts = s.wts := rfl
@[simp] theorem State.setHodRt_lnk (s : State) (k : Nat) (r : HodRt) : (s.setHodRt k r).lnk = s.lnk := rfl
@[simp] theorem State.setHodRt_fab (s : State) (k : Nat) (r : HodRt) : (s.setHodRt k r).fab = s.fab := rfl
@[simp] theorem State.setHodRt_mir (s : State) (k : Nat) (r : HodRt) : (s.setHodRt k r).mir = s.mir := rfl
@[simp] theorem State.setHodRt_pwr (s : State) (k : Nat) (r : HodRt) : (s.setHodRt k r).pwr = s.pwr := rfl
@[simp] theorem State.setHodRt_fcu (s : State) (k : Nat) (r : HodRt) : (s.setHodRt k r).fcu = s.fcu := rfl
@[simp] theorem State.setHodRt_icx (s : State) (k : Nat) (r : HodRt) : (s.setHodRt k r).icx = s.icx := rfl
@[simp] theorem State.setHodRt_dict (s : State) (k : Nat) (r : HodRt) : (s.setHodRt k r).dict = s.dict := rfl
@[simp] theorem State.setHodRt_sec (s : State) (k : Nat) (r : HodRt) : (s.setHodRt k r).sec = s.sec := rfl
@[simp] theorem State.setHodRt_out (s : State) (k : Nat) (r : HodRt) : (s.setHodRt k r).out = s.out := rfl
@[simp] theorem State.setHodRt_free (s : State) (k : Nat) (r : HodRt) : (s.setHodRt k r).free = s.free := rfl
@[simp] theorem State.setHodRt_pending (s : State) (k : Nat) (r : HodRt) : (s.setHodRt k r).pending = s.pending := rfl

@[simp] theorem State.unschedule_pkg (s : State) (p : Ev → Bool) : (s.unschedule p).pkg = s.pkg := rfl
@[simp] theorem State.unschedule_crs (s : State) (p : Ev → Bool) : (s.unschedule p).crs = s.crs := rfl
@[simp] theorem State.unschedule_cred (s : State) (p : Ev → Bool) : (s.unschedule p).cred = s.cred := rfl
@[simp] theorem State.unschedule_eng (s : State) (p : Ev → Bool) : (s.unschedule p).eng = s.eng := rfl
@[simp] theorem State.unschedule_ses (s : State) (p : Ev → Bool) : (s.unschedule p).ses = s.ses := rfl
@[simp] theorem State.unschedule_mem (s : State) (p : Ev → Bool) : (s.unschedule p).mem = s.mem := rfl
@[simp] theorem State.unschedule_wts (s : State) (p : Ev → Bool) : (s.unschedule p).wts = s.wts := rfl
@[simp] theorem State.unschedule_lnk (s : State) (p : Ev → Bool) : (s.unschedule p).lnk = s.lnk := rfl
@[simp] theorem State.unschedule_fab (s : State) (p : Ev → Bool) : (s.unschedule p).fab = s.fab := rfl
@[simp] theorem State.unschedule_mir (s : State) (p : Ev → Bool) : (s.unschedule p).mir = s.mir := rfl
@[simp] theorem State.unschedule_pwr (s : State) (p : Ev → Bool) : (s.unschedule p).pwr = s.pwr := rfl
@[simp] theorem State.unschedule_fcu (s : State) (p : Ev → Bool) : (s.unschedule p).fcu = s.fcu := rfl
@[simp] theorem State.unschedule_icx (s : State) (p : Ev → Bool) : (s.unschedule p).icx = s.icx := rfl
@[simp] theorem State.unschedule_dict (s : State) (p : Ev → Bool) : (s.unschedule p).dict = s.dict := rfl
@[simp] theorem State.unschedule_sec (s : State) (p : Ev → Bool) : (s.unschedule p).sec = s.sec := rfl
@[simp] theorem State.unschedule_out (s : State) (p : Ev → Bool) : (s.unschedule p).out = s.out := rfl
@[simp] theorem State.unschedule_free (s : State) (p : Ev → Bool) : (s.unschedule p).free = s.free := rfl
@[simp] theorem State.unschedule_pending (s : State) (p : Ev → Bool) : (s.unschedule p).pending = s.pending := rfl

@[simp] theorem State.schedule_pkg (s : State) (due : Tick) (ev : Ev) : (s.schedule due ev).pkg = s.pkg := rfl
@[simp] theorem State.schedule_crs (s : State) (due : Tick) (ev : Ev) : (s.schedule due ev).crs = s.crs := rfl
@[simp] theorem State.schedule_cred (s : State) (due : Tick) (ev : Ev) : (s.schedule due ev).cred = s.cred := rfl
@[simp] theorem State.schedule_eng (s : State) (due : Tick) (ev : Ev) : (s.schedule due ev).eng = s.eng := rfl
@[simp] theorem State.schedule_ses (s : State) (due : Tick) (ev : Ev) : (s.schedule due ev).ses = s.ses := rfl
@[simp] theorem State.schedule_mem (s : State) (due : Tick) (ev : Ev) : (s.schedule due ev).mem = s.mem := rfl
@[simp] theorem State.schedule_wts (s : State) (due : Tick) (ev : Ev) : (s.schedule due ev).wts = s.wts := rfl
@[simp] theorem State.schedule_lnk (s : State) (due : Tick) (ev : Ev) : (s.schedule due ev).lnk = s.lnk := rfl
@[simp] theorem State.schedule_fab (s : State) (due : Tick) (ev : Ev) : (s.schedule due ev).fab = s.fab := rfl
@[simp] theorem State.schedule_mir (s : State) (due : Tick) (ev : Ev) : (s.schedule due ev).mir = s.mir := rfl
@[simp] theorem State.schedule_pwr (s : State) (due : Tick) (ev : Ev) : (s.schedule due ev).pwr = s.pwr := rfl
@[simp] theorem State.schedule_fcu (s : State) (due : Tick) (ev : Ev) : (s.schedule due ev).fcu = s.fcu := rfl
@[simp] theorem State.schedule_icx (s : State) (due : Tick) (ev : Ev) : (s.schedule due ev).icx = s.icx := rfl
@[simp] theorem State.schedule_dict (s : State) (due : Tick) (ev : Ev) : (s.schedule due ev).dict = s.dict := rfl
@[simp] theorem State.schedule_sec (s : State) (due : Tick) (ev : Ev) : (s.schedule due ev).sec = s.sec := rfl
@[simp] theorem State.schedule_out (s : State) (due : Tick) (ev : Ev) : (s.schedule due ev).out = s.out := rfl
@[simp] theorem State.schedule_free (s : State) (due : Tick) (ev : Ev) : (s.schedule due ev).free = s.free := rfl
@[simp] theorem State.schedule_pending (s : State) (due : Tick) (ev : Ev) : (s.schedule due ev).pending = s.pending := rfl

@[simp] theorem State.dropObjects_pkg (s : State) (p : Nat → Bool) : (s.dropObjects p).pkg = s.pkg := rfl
@[simp] theorem State.dropObjects_clk (s : State) (p : Nat → Bool) : (s.dropObjects p).clk = s.clk := rfl
@[simp] theorem State.dropObjects_crs (s : State) (p : Nat → Bool) : (s.dropObjects p).crs = s.crs := rfl
@[simp] theorem State.dropObjects_cred (s : State) (p : Nat → Bool) : (s.dropObjects p).cred = s.cred := rfl
@[simp] theorem State.dropObjects_eng (s : State) (p : Nat → Bool) : (s.dropObjects p).eng = s.eng := rfl
@[simp] theorem State.dropObjects_ses (s : State) (p : Nat → Bool) : (s.dropObjects p).ses = s.ses := rfl
@[simp] theorem State.dropObjects_mem (s : State) (p : Nat → Bool) : (s.dropObjects p).mem = s.mem := rfl
@[simp] theorem State.dropObjects_wts (s : State) (p : Nat → Bool) : (s.dropObjects p).wts = s.wts := rfl
@[simp] theorem State.dropObjects_lnk (s : State) (p : Nat → Bool) : (s.dropObjects p).lnk = s.lnk := rfl
@[simp] theorem State.dropObjects_fab (s : State) (p : Nat → Bool) : (s.dropObjects p).fab = s.fab := rfl
@[simp] theorem State.dropObjects_mir (s : State) (p : Nat → Bool) : (s.dropObjects p).mir = s.mir := rfl
@[simp] theorem State.dropObjects_pwr (s : State) (p : Nat → Bool) : (s.dropObjects p).pwr = s.pwr := rfl
@[simp] theorem State.dropObjects_fcu (s : State) (p : Nat → Bool) : (s.dropObjects p).fcu = s.fcu := rfl
@[simp] theorem State.dropObjects_icx (s : State) (p : Nat → Bool) : (s.dropObjects p).icx = s.icx := rfl
@[simp] theorem State.dropObjects_sec (s : State) (p : Nat → Bool) : (s.dropObjects p).sec = s.sec := rfl
@[simp] theorem State.dropObjects_out (s : State) (p : Nat → Bool) : (s.dropObjects p).out = s.out := rfl
@[simp] theorem State.dropObjects_free (s : State) (p : Nat → Bool) : (s.dropObjects p).free = s.free := rfl
@[simp] theorem State.dropObjects_pending (s : State) (p : Nat → Bool) : (s.dropObjects p).pending = s.pending := rfl

@[simp] theorem State.emit_out (s : State) (m : OutMsg) : (s.emit m).out = s.out ++ [m] := rfl
@[simp] theorem State.send_out (s : State) (n : Node) (b : Body) : (s.send n b).out = s.out ++ [.send n b] := rfl
@[simp] theorem State.unschedule_events (s : State) (p : Ev → Bool) :
    (s.unschedule p).clk.events = s.clk.events.filter (fun e => !p e.ev) := rfl
@[simp] theorem State.schedule_events (s : State) (due : Tick) (ev : Ev) :
    (s.schedule due ev).clk.events = s.clk.events ++ [{ due := due, ev := ev }] := rfl
@[simp] theorem State.setNum_blobs (s : State) (o : Obj) (v : Nat) : (s.setNum o v).dict.blobs = s.dict.blobs := rfl
@[simp] theorem State.setBlob_nums (s : State) (o : Obj) (b : List Byte) : (s.setBlob o b).dict.nums = s.dict.nums := rfl

/-- An object reads as what was written to it. -/
@[simp] theorem State.num_setNum_same (s : State) (o : Obj) (v : Nat) : (s.setNum o v).num o = v := SMap.get_set_same _ _ _ _
/-- Another object stays. -/
theorem State.num_setNum_other (s : State) (o p : Obj) (v : Nat) (h : p.key ≠ o.key) : (s.setNum o v).num p = s.num p := by
  unfold State.setNum State.num
  dsimp only
  by_cases hd : o.dflt = p.dflt
  · rw [hd]; exact SMap.get_set_other _ _ _ _ _ h
  · unfold SMap.set
    split
    · exact SMap.get_del_other _ _ _ _ h
    · exact SMap.get_put_other _ _ _ _ _ h
@[simp] theorem State.num_setBlob (s : State) (o p : Obj) (b : List Byte) : (s.setBlob o b).num p = s.num p := rfl
@[simp] theorem State.blob_setBlob_same (s : State) (o : Obj) (b : List Byte) : (s.setBlob o b).blob o = b := SMap.get_set_same _ _ _ _
@[simp] theorem State.blob_setNum (s : State) (o p : Obj) (v : Nat) : (s.setNum o v).blob p = s.blob p := rfl
@[simp] theorem State.port_setPort_same (s : State) (p : Nat) (r : PortRt) : (s.setPort p r).port p = r := SMap.get_set_same _ _ _ _
theorem State.port_setPort_other (s : State) (p q : Nat) (r : PortRt) (h : q ≠ p) : (s.setPort p r).port q = s.port q :=
  SMap.get_set_other _ _ _ _ _ h
@[simp] theorem State.coreAt_setCore_same (s : State) (g : Nat) (c : Core) : (s.setCore g c).coreAt g = c := SMap.get_set_same _ _ _ _
theorem State.coreAt_setCore_other (s : State) (g i : Nat) (c : Core) (h : i ≠ g) : (s.setCore g c).coreAt i = s.coreAt i :=
  SMap.get_set_other _ _ _ _ _ h

end Sys2Proof.Machine
end

