-- ==== Sys2Proof/Laws/Frames.lean ====
section
/-! SUPPORT. Which parts of the state the operations every unit shares leave as they are: fault messages (15 R496), interrupt events
(15 R510), ERR_N (15 R494). -/

namespace Sys2Proof.Machine

set_option linter.all false

/-- The state differs from s at most in the fault collector, the dictionary unit, the outputs and ERR_N. -/
structure Raised (s t : State) : Prop where
  pkg : ∃ a b c, t.pkg = { s.pkg with err := a, errAt := b, errDue := c }
  clk : t.clk = s.clk
  crs : t.crs = s.crs
  cred : t.cred = s.cred
  eng : t.eng = s.eng
  ses : t.ses = s.ses
  mem : t.mem = s.mem
  wts : t.wts = s.wts
  lnk : t.lnk = s.lnk
  fab : t.fab = s.fab
  mir : t.mir = s.mir
  pwr : t.pwr = s.pwr
  icx : t.icx = s.icx
  sec : t.sec = s.sec
  free : t.free = s.free
  pending : t.pending = s.pending

theorem Raised.refl (s : State) : Raised s s := ⟨⟨_, _, _, rfl⟩, rfl, rfl, rfl, rfl, rfl, rfl, rfl, rfl, rfl, rfl, rfl, rfl, rfl, rfl, rfl⟩
theorem Raised.trans {s t u : State} (h : Raised s t) (k : Raised t u) : Raised s u := by
  obtain ⟨⟨a, b, c, h0⟩, h1, h2, h3, h4, h5, h6, h7, h8, h9, h10, h11, h12, h13, h14, h15⟩ := h
  obtain ⟨⟨a', b', c', k0⟩, k1, k2, k3, k4, k5, k6, k7, k8, k9, k10, k11, k12, k13, k14, k15⟩ := k
  exact ⟨⟨a', b', c', by rw [k0, h0]⟩, k1.trans h1, k2.trans h2, k3.trans h3, k4.trans h4, k5.trans h5, k6.trans h6, k7.trans h7,
    k8.trans h8, k9.trans h9, k10.trans h10, k11.trans h11, k12.trans h12, k13.trans h13, k14.trans h14, k15.trans h15⟩
theorem Raised.ite {s a b : State} {c : Prop} [Decidable c] (ha : Raised s a) (hb : Raised s b) : Raised s (if c then a else b) := by
  split <;> assumption
theorem State.raised {s : State} {f : FcuUnit} {d : DictUnit} {o : List OutMsg} :
    Raised s { s with fcu := f, dict := d, out := o } := ⟨⟨_, _, _, rfl⟩, rfl, rfl, rfl, rfl, rfl, rfl, rfl, rfl, rfl, rfl, rfl, rfl, rfl, rfl, rfl⟩
theorem State.assertErr_raised (s : State) : Raised s s.assertErr := by
  unfold State.assertErr
  split
  · exact Raised.refl s
  · exact ⟨⟨_, _, _, rfl⟩, rfl, rfl, rfl, rfl, rfl, rfl, rfl, rfl, rfl, rfl, rfl, rfl, rfl, rfl, rfl⟩
theorem State.vauxStore_raised (s : State) (w : BitVec 128) (cls : Nat) : Raised s (s.vauxStore w cls) := State.raised
theorem State.bump_raised (s : State) (o : Obj) (w n : Nat) : Raised s (s.bump o w n) := State.raised

/-- Raising a fault touches the fault collector, the dictionary unit, the outputs and ERR_N only. -/
theorem State.raise_raised (s : State) (source part kind cls addr : Nat) : Raised s (s.raise source part kind cls addr) := by
  unfold State.raise
  apply Raised.ite (Raised.refl s)
  apply Raised.ite (Raised.refl s)
  extract_lets seq m u t v w q o
  have hu : Raised s t := State.raised
  clear_value t
  refine Raised.ite (Raised.ite ?_ ?_) (Raised.ite ?_ (Raised.ite ?_ (Raised.ite ?_ (Raised.ite ?_ ?_))))
  · exact (hu.trans (State.vauxStore_raised ..)).trans (State.assertErr_raised _)
  · exact hu.trans (State.vauxStore_raised ..)
  · exact hu.trans State.raised
  · exact hu.trans State.raised
  · exact hu.trans State.raised
  · exact hu.trans (State.bump_raised ..)
  · exact (hu.trans (State.bump_raised ..)).trans State.raised

@[simp] theorem State.raise_clk (s : State) (source part kind cls addr : Nat) : (s.raise source part kind cls addr).clk = s.clk := (State.raise_raised ..).clk
@[simp] theorem State.assertErr_clk (s : State)  : (s.assertErr).clk = s.clk := (State.assertErr_raised ..).clk
@[simp] theorem State.raise_crs (s : State) (source part kind cls addr : Nat) : (s.raise source part kind cls addr).crs = s.crs := (State.raise_raised ..).crs
@[simp] theorem State.assertErr_crs (s : State)  : (s.assertErr).crs = s.crs := (State.assertErr_raised ..).crs
@[simp] theorem State.raise_cred (s : State) (source part kind cls addr : Nat) : (s.raise source part kind cls addr).cred = s.cred := (State.raise_raised ..).cred
@[simp] theorem State.assertErr_cred (s : State)  : (s.assertErr).cred = s.cred := (State.assertErr_raised ..).cred
@[simp] theorem State.raise_eng (s : State) (source part kind cls addr : Nat) : (s.raise source part kind cls addr).eng = s.eng := (State.raise_raised ..).eng
@[simp] theorem State.assertErr_eng (s : State)  : (s.assertErr).eng = s.eng := (State.assertErr_raised ..).eng
@[simp] theorem State.raise_ses (s : State) (source part kind cls addr : Nat) : (s.raise source part kind cls addr).ses = s.ses := (State.raise_raised ..).ses
@[simp] theorem State.assertErr_ses (s : State)  : (s.assertErr).ses = s.ses := (State.assertErr_raised ..).ses
@[simp] theorem State.raise_mem (s : State) (source part kind cls addr : Nat) : (s.raise source part kind cls addr).mem = s.mem := (State.raise_raised ..).mem
@[simp] theorem State.assertErr_mem (s : State)  : (s.assertErr).mem = s.mem := (State.assertErr_raised ..).mem
@[simp] theorem State.raise_wts (s : State) (source part kind cls addr : Nat) : (s.raise source part kind cls addr).wts = s.wts := (State.raise_raised ..).wts
@[simp] theorem State.assertErr_wts (s : State)  : (s.assertErr).wts = s.wts := (State.assertErr_raised ..).wts
@[simp] theorem State.raise_lnk (s : State) (source part kind cls addr : Nat) : (s.raise source part kind cls addr).lnk = s.lnk := (State.raise_raised ..).lnk
@[simp] theorem State.assertErr_lnk (s : State)  : (s.assertErr).lnk = s.lnk := (State.assertErr_raised ..).lnk
@[simp] theorem State.raise_fab (s : State) (source part kind cls addr : Nat) : (s.raise source part kind cls addr).fab = s.fab := (State.raise_raised ..).fab
@[simp] theorem State.assertErr_fab (s : State)  : (s.assertErr).fab = s.fab := (State.assertErr_raised ..).fab
@[simp] theorem State.raise_mir (s : State) (source part kind cls addr : Nat) : (s.raise source part kind cls addr).mir = s.mir := (State.raise_raised ..).mir
@[simp] theorem State.assertErr_mir (s : State)  : (s.assertErr).mir = s.mir := (State.assertErr_raised ..).mir
@[simp] theorem State.raise_pwr (s : State) (source part kind cls addr : Nat) : (s.raise source part kind cls addr).pwr = s.pwr := (State.raise_raised ..).pwr
@[simp] theorem State.assertErr_pwr (s : State)  : (s.assertErr).pwr = s.pwr := (State.assertErr_raised ..).pwr
@[simp] theorem State.raise_icx (s : State) (source part kind cls addr : Nat) : (s.raise source part kind cls addr).icx = s.icx := (State.raise_raised ..).icx
@[simp] theorem State.assertErr_icx (s : State)  : (s.assertErr).icx = s.icx := (State.assertErr_raised ..).icx
@[simp] theorem State.raise_sec (s : State) (source part kind cls addr : Nat) : (s.raise source part kind cls addr).sec = s.sec := (State.raise_raised ..).sec
@[simp] theorem State.assertErr_sec (s : State)  : (s.assertErr).sec = s.sec := (State.assertErr_raised ..).sec
@[simp] theorem State.raise_free (s : State) (source part kind cls addr : Nat) : (s.raise source part kind cls addr).free = s.free := (State.raise_raised ..).free
@[simp] theorem State.assertErr_free (s : State)  : (s.assertErr).free = s.free := (State.assertErr_raised ..).free
@[simp] theorem State.raise_pending (s : State) (source part kind cls addr : Nat) : (s.raise source part kind cls addr).pending = s.pending := (State.raise_raised ..).pending
@[simp] theorem State.assertErr_pending (s : State)  : (s.assertErr).pending = s.pending := (State.assertErr_raised ..).pending
@[simp] theorem State.raise_pkg_st (s : State) (source part kind cls addr : Nat) : (s.raise source part kind cls addr).pkg.st = s.pkg.st := by
  obtain ⟨_, _, _, h⟩ := (State.raise_raised s source part kind cls addr).pkg; rw [h]
@[simp] theorem State.raise_pkg_taken (s : State) (source part kind cls addr : Nat) : (s.raise source part kind cls addr).pkg.taken = s.pkg.taken := by
  obtain ⟨_, _, _, h⟩ := (State.raise_raised s source part kind cls addr).pkg; rw [h]
@[simp] theorem State.raise_pkg_tickStart (s : State) (source part kind cls addr : Nat) : (s.raise source part kind cls addr).pkg.tickStart = s.pkg.tickStart := by
  obtain ⟨_, _, _, h⟩ := (State.raise_raised s source part kind cls addr).pkg; rw [h]
@[simp] theorem State.raise_pkg_request (s : State) (source part kind cls addr : Nat) : (s.raise source part kind cls addr).pkg.request = s.pkg.request := by
  obtain ⟨_, _, _, h⟩ := (State.raise_raised s source part kind cls addr).pkg; rw [h]
@[simp] theorem State.raise_pkg_since (s : State) (source part kind cls addr : Nat) : (s.raise source part kind cls addr).pkg.since = s.pkg.since := by
  obtain ⟨_, _, _, h⟩ := (State.raise_raised s source part kind cls addr).pkg; rw [h]
@[simp] theorem State.raise_pkg_vaux (s : State) (source part kind cls addr : Nat) : (s.raise source part kind cls addr).pkg.vaux = s.pkg.vaux := by
  obtain ⟨_, _, _, h⟩ := (State.raise_raised s source part kind cls addr).pkg; rw [h]
@[simp] theorem State.raise_pkg_resetN (s : State) (source part kind cls addr : Nat) : (s.raise source part kind cls addr).pkg.resetN = s.pkg.resetN := by
  obtain ⟨_, _, _, h⟩ := (State.raise_raised s source part kind cls addr).pkg; rw [h]
@[simp] theorem State.raise_pkg_pwrGood (s : State) (source part kind cls addr : Nat) : (s.raise source part kind cls addr).pkg.pwrGood = s.pkg.pwrGood := by
  obtain ⟨_, _, _, h⟩ := (State.raise_raised s source part kind cls addr).pkg; rw [h]
@[simp] theorem State.raise_pkg_coolOk (s : State) (source part kind cls addr : Nat) : (s.raise source part kind cls addr).pkg.coolOk = s.pkg.coolOk := by
  obtain ⟨_, _, _, h⟩ := (State.raise_raised s source part kind cls addr).pkg; rw [h]
@[simp] theorem State.raise_pkg_everReady (s : State) (source part kind cls addr : Nat) : (s.raise source part kind cls addr).pkg.everReady = s.pkg.everReady := by
  obtain ⟨_, _, _, h⟩ := (State.raise_raised s source part kind cls addr).pkg; rw [h]
@[simp] theorem State.raise_pkg_now (s : State) (source part kind cls addr : Nat) : (s.raise source part kind cls addr).pkg.now = s.pkg.now := by
  obtain ⟨_, _, _, h⟩ := (State.raise_raised s source part kind cls addr).pkg; rw [h]

/-- The state differs from s at most in the interrupt controller and the outputs. -/
def Evented (s t : State) : Prop := ∃ i o, t = { s with icx := i, out := o }
theorem Evented.refl (s : State) : Evented s s := ⟨_, _, rfl⟩
theorem Evented.trans {s t u : State} (h : Evented s t) (k : Evented t u) : Evented s u := by
  obtain ⟨i, o, rfl⟩ := h
  obtain ⟨i', o', rfl⟩ := k
  exact ⟨i', o', rfl⟩
theorem Evented.ite {s a b : State} {c : Prop} [Decidable c] (ha : Evented s a) (hb : Evented s b) : Evented s (if c then a else b) := by
  split <;> assumption
theorem State.startHoldoff_evented (s : State) (src : Nat) : Evented s (s.startHoldoff src) := Evented.ite (Evented.refl s) ⟨_, _, rfl⟩
theorem State.hostDeliver_evented (s : State) (src : Nat) : Evented s (s.hostDeliver src) := by
  unfold State.hostDeliver
  exact Evented.ite (Evented.trans (Evented.ite ⟨_, _, rfl⟩ ⟨_, _, rfl⟩) (State.startHoldoff_evented ..)) (Evented.refl s)
theorem State.icxFire_evented (s : State) (src : Nat) : Evented s (s.icxFire src) := by
  unfold State.icxFire
  exact Evented.ite (Evented.trans ⟨_, _, rfl⟩ (State.hostDeliver_evented ..)) ⟨_, _, rfl⟩
theorem State.icxApply_evented (s : State) (src : Nat) : Evented s (s.icxApply src) := by
  unfold State.icxApply
  exact Evented.ite (Evented.ite (Evented.trans ⟨_, _, rfl⟩ (State.icxFire_evented ..)) ⟨_, _, rfl⟩) (State.icxFire_evented ..)
/-- An interrupt event touches the interrupt controller and the outputs only. -/
theorem State.icxEvent_evented (s : State) (src : Nat) : Evented s (s.icxEvent src) := by
  unfold State.icxEvent
  exact Evented.ite (Evented.refl s) (Evented.ite ⟨_, _, rfl⟩ (State.icxApply_evented ..))
theorem State.clockEvent_evented (s : State) (n : Nat) : Evented s (s.clockEvent n) := State.icxEvent_evented ..

@[simp] theorem State.icxEvent_pkg (s : State) (n : Nat) : (s.icxEvent n).pkg = s.pkg := by
  obtain ⟨_, _, h⟩ := State.icxEvent_evented s n; rw [h]
@[simp] theorem State.clockEvent_pkg (s : State) (n : Nat) : (s.clockEvent n).pkg = s.pkg := by
  obtain ⟨_, _, h⟩ := State.clockEvent_evented s n; rw [h]
@[simp] theorem State.icxEvent_clk (s : State) (n : Nat) : (s.icxEvent n).clk = s.clk := by
  obtain ⟨_, _, h⟩ := State.icxEvent_evented s n; rw [h]
@[simp] theorem State.clockEvent_clk (s : State) (n : Nat) : (s.clockEvent n).clk = s.clk := by
  obtain ⟨_, _, h⟩ := State.clockEvent_evented s n; rw [h]
@[simp] theorem State.icxEvent_crs (s : State) (n : Nat) : (s.icxEvent n).crs = s.crs := by
  obtain ⟨_, _, h⟩ := State.icxEvent_evented s n; rw [h]
@[simp] theorem State.clockEvent_crs (s : State) (n : Nat) : (s.clockEvent n).crs = s.crs := by
  obtain ⟨_, _, h⟩ := State.clockEvent_evented s n; rw [h]
@[simp] theorem State.icxEvent_cred (s : State) (n : Nat) : (s.icxEvent n).cred = s.cred := by
  obtain ⟨_, _, h⟩ := State.icxEvent_evented s n; rw [h]
@[simp] theorem State.clockEvent_cred (s : State) (n : Nat) : (s.clockEvent n).cred = s.cred := by
  obtain ⟨_, _, h⟩ := State.clockEvent_evented s n; rw [h]
@[simp] theorem State.icxEvent_eng (s : State) (n : Nat) : (s.icxEvent n).eng = s.eng := by
  obtain ⟨_, _, h⟩ := State.icxEvent_evented s n; rw [h]
@[simp] theorem State.clockEvent_eng (s : State) (n : Nat) : (s.clockEvent n).eng = s.eng := by
  obtain ⟨_, _, h⟩ := State.clockEvent_evented s n; rw [h]
@[simp] theorem State.icxEvent_ses (s : State) (n : Nat) : (s.icxEvent n).ses = s.ses := by
  obtain ⟨_, _, h⟩ := State.icxEvent_evented s n; rw [h]
@[simp] theorem State.clockEvent_ses (s : State) (n : Nat) : (s.clockEvent n).ses = s.ses := by
  obtain ⟨_, _, h⟩ := State.clockEvent_evented s n; rw [h]
@[simp] theorem State.icxEvent_mem (s : State) (n : Nat) : (s.icxEvent n).mem = s.mem := by
  obtain ⟨_, _, h⟩ := State.icxEvent_evented s n; rw [h]
@[simp] theorem State.clockEvent_mem (s : State) (n : Nat) : (s.clockEvent n).mem = s.mem := by
  obtain ⟨_, _, h⟩ := State.clockEvent_evented s n; rw [h]
@[simp] theorem State.icxEvent_wts (s : State) (n : Nat) : (s.icxEvent n).wts = s.wts := by
  obtain ⟨_, _, h⟩ := State.icxEvent_evented s n; rw [h]
@[simp] theorem State.clockEvent_wts (s : State) (n : Nat) : (s.clockEvent n).wts = s.wts := by
  obtain ⟨_, _, h⟩ := State.clockEvent_evented s n; rw [h]
@[simp] theorem State.icxEvent_lnk (s : State) (n : Nat) : (s.icxEvent n).lnk = s.lnk := by
  obtain ⟨_, _, h⟩ := State.icxEvent_evented s n; rw [h]
@[simp] theorem State.clockEvent_lnk (s : State) (n : Nat) : (s.clockEvent n).lnk = s.lnk := by
  obtain ⟨_, _, h⟩ := State.clockEvent_evented s n; rw [h]
@[simp] theorem State.icxEvent_fab (s : State) (n : Nat) : (s.icxEvent n).fab = s.fab := by
  obtain ⟨_, _, h⟩ := State.icxEvent_evented s n; rw [h]
@[simp] theorem State.clockEvent_fab (s : State) (n : Nat) : (s.clockEvent n).fab = s.fab := by
  obtain ⟨_, _, h⟩ := State.clockEvent_evented s n; rw [h]
@[simp] theorem State.icxEvent_mir (s : State) (n : Nat) : (s.icxEvent n).mir = s.mir := by
  obtain ⟨_, _, h⟩ := State.icxEvent_evented s n; rw [h]
@[simp] theorem State.clockEvent_mir (s : State) (n : Nat) : (s.clockEvent n).mir = s.mir := by
  obtain ⟨_, _, h⟩ := State.clockEvent_evented s n; rw [h]
@[simp] theorem State.icxEvent_pwr (s : State) (n : Nat) : (s.icxEvent n).pwr = s.pwr := by
  obtain ⟨_, _, h⟩ := State.icxEvent_evented s n; rw [h]
@[simp] theorem State.clockEvent_pwr (s : State) (n : Nat) : (s.clockEvent n).pwr = s.pwr := by
  obtain ⟨_, _, h⟩ := State.clockEvent_evented s n; rw [h]
@[simp] theorem State.icxEvent_fcu (s : State) (n : Nat) : (s.icxEvent n).fcu = s.fcu := by
  obtain ⟨_, _, h⟩ := State.icxEvent_evented s n; rw [h]
@[simp] theorem State.clockEvent_fcu (s : State) (n : Nat) : (s.clockEvent n).fcu = s.fcu := by
  obtain ⟨_, _, h⟩ := State.clockEvent_evented s n; rw [h]
@[simp] theorem State.icxEvent_dict (s : State) (n : Nat) : (s.icxEvent n).dict = s.dict := by
  obtain ⟨_, _, h⟩ := State.icxEvent_evented s n; rw [h]
@[simp] theorem State.clockEvent_dict (s : State) (n : Nat) : (s.clockEvent n).dict = s.dict := by
  obtain ⟨_, _, h⟩ := State.clockEvent_evented s n; rw [h]
@[simp] theorem State.icxEvent_sec (s : State) (n : Nat) : (s.icxEvent n).sec = s.sec := by
  obtain ⟨_, _, h⟩ := State.icxEvent_evented s n; rw [h]
@[simp] theorem State.clockEvent_sec (s : State) (n : Nat) : (s.clockEvent n).sec = s.sec := by
  obtain ⟨_, _, h⟩ := State.clockEvent_evented s n; rw [h]
@[simp] theorem State.icxEvent_free (s : State) (n : Nat) : (s.icxEvent n).free = s.free := by
  obtain ⟨_, _, h⟩ := State.icxEvent_evented s n; rw [h]
@[simp] theorem State.clockEvent_free (s : State) (n : Nat) : (s.clockEvent n).free = s.free := by
  obtain ⟨_, _, h⟩ := State.clockEvent_evented s n; rw [h]
@[simp] theorem State.icxEvent_pending (s : State) (n : Nat) : (s.icxEvent n).pending = s.pending := by
  obtain ⟨_, _, h⟩ := State.icxEvent_evented s n; rw [h]
@[simp] theorem State.clockEvent_pending (s : State) (n : Nat) : (s.clockEvent n).pending = s.pending := by
  obtain ⟨_, _, h⟩ := State.clockEvent_evented s n; rw [h]
@[simp] theorem State.icxEvent_num (s : State) (n : Nat) (o : Obj) : (s.icxEvent n).num o = s.num o := by
  obtain ⟨_, _, h⟩ := State.icxEvent_evented s n; rw [h]; rfl
@[simp] theorem State.setNum_pkg_st (s : State) (o : Obj) (v : Nat) : (s.setNum o v).pkg.st = s.pkg.st := rfl

end Sys2Proof.Machine
end

