-- ==== Sys2Proof/Laws/Pieces.lean ====
section
/-! SUPPORT. The frame of the shared operations, and how frames compose. -/

namespace Sys2Proof.Machine

set_option linter.all false

theorem changesOnly.refl (l : List Piece) (s : State) : changesOnly l s s := by
  refine ⟨rfl, fun p _ => ?_⟩
  cases p <;> simp [samePiece]

theorem samePiece.trans {s t u : State} {p : Piece} (h : samePiece s t p) (k : samePiece t u p) : samePiece s u p := by
  cases p <;> simp only [samePiece] at *
  case objects => exact fun o => ⟨fun ho => ((k o).1 ho).trans ((h o).1 ho), (k o).2.trans (h o).2⟩
  all_goals first
    | exact k.trans h
    | exact ⟨k.1.trans h.1, k.2.trans h.2⟩
    | exact ⟨k.1.trans h.1, k.2.1.trans h.2.1, k.2.2.trans h.2.2⟩
    | (rw [k, h])

theorem changesOnly.trans {l : List Piece} {s t u : State} (h : changesOnly l s t) (k : changesOnly l t u) : changesOnly l s u :=
  ⟨k.1.trans h.1, fun p hp => (h.2 p hp).trans (k.2 p hp)⟩

theorem changesOnly.mono {l m : List Piece} {s t : State} (h : changesOnly l s t) (hm : ∀ p ∈ l, p ∈ m) : changesOnly m s t :=
  ⟨h.1, fun p hp => h.2 p (fun hl => hp (hm p hl))⟩

theorem changesOnly.ite {l : List Piece} {s a b : State} {c : Prop} [Decidable c] (ha : changesOnly l s a) (hb : changesOnly l s b) :
    changesOnly l s (if c then a else b) := by split <;> assumption

@[simp] theorem State.setNum_notify (s : State) (o : Obj) (v : Nat) : samePiece s (s.setNum o v) .notify := ⟨rfl, rfl⟩
@[simp] theorem State.setNum_serverPiece (s : State) (o : Obj) (v : Nat) : samePiece s (s.setNum o v) .server := rfl

/-- Writing a number changes the objects only (FAULTS_DROPPED apart). -/
theorem State.setNum_changes (s : State) (o : Obj) (v : Nat) (h : o.key ≠ O.faultsDropped.key) : changesOnly [.objects] s (s.setNum o v) := by
  refine ⟨rfl, fun p hp => ?_⟩
  cases p
  case notify => exact State.setNum_notify ..
  case server => exact State.setNum_serverPiece ..
  all_goals simp_all [samePiece]
  exact State.num_setNum_other _ _ _ _ (Ne.symm h)

/-- Counting a dropped fault changes the fault collector's piece only. -/
theorem State.bumpDropped_changes (s : State) : changesOnly [.fcu] s (s.bump O.faultsDropped 64) := by
  refine ⟨rfl, fun p hp => ?_⟩
  unfold State.bump
  cases p
  case notify => exact State.setNum_notify ..
  case server => exact State.setNum_serverPiece ..
  all_goals simp_all [samePiece]
  exact fun o ho => State.num_setNum_other _ _ _ _ ho

theorem State.fcu_changes (s : State) (f : FcuUnit) : changesOnly [.fcu] s { s with fcu := f } := by
  refine ⟨rfl, fun p hp => ?_⟩
  cases p <;> simp_all [samePiece, State.num, State.blob]

theorem State.assertErr_changes (s : State) : changesOnly [.errN, .notify, .out] s s.assertErr := by
  unfold State.assertErr
  refine changesOnly.ite (changesOnly.refl ..) ⟨rfl, fun p hp => ?_⟩
  cases p <;> simp_all [samePiece, State.num, State.blob]

theorem State.releaseErr_changes (s : State) : changesOnly [.errN, .out] s s.releaseErr := by
  unfold State.releaseErr
  refine changesOnly.ite (changesOnly.refl ..) (changesOnly.ite ⟨rfl, fun p hp => ?_⟩ ⟨rfl, fun p hp => ?_⟩) <;>
    cases p <;> simp_all [samePiece, State.num, State.blob]

theorem State.vauxStore_changes (s : State) (w : BitVec 128) (cls : Nat) : changesOnly [.fcu, .notify] s (s.vauxStore w cls) := by
  refine ⟨rfl, fun p hp => ?_⟩
  unfold State.vauxStore
  cases p <;> simp_all [samePiece, State.num, State.blob]

/-- Raising a fault changes the fault collector, ERR_N with what calls for a NOTIFY, and the outputs. -/
theorem State.raise_changes (s : State) (source part kind cls addr : Nat) :
    changesOnly [.fcu, .errN, .notify, .out] s (s.raise source part kind cls addr) := by
  unfold State.raise
  apply changesOnly.ite (changesOnly.refl ..)
  apply changesOnly.ite (changesOnly.refl ..)
  extract_lets seq m u t v w q o
  have hu : changesOnly [.fcu, .errN, .notify, .out] s t := (State.fcu_changes s _).mono (by decide)
  clear_value t
  refine changesOnly.ite (changesOnly.ite ?_ ?_) (changesOnly.ite ?_ (changesOnly.ite ?_ (changesOnly.ite ?_ (changesOnly.ite ?_ ?_))))
  · exact (hu.trans ((State.vauxStore_changes ..).mono (by decide))).trans ((State.assertErr_changes _).mono (by decide))
  · exact hu.trans ((State.vauxStore_changes ..).mono (by decide))
  · exact hu.trans ((State.fcu_changes ..).mono (by decide))
  · exact hu.trans ((State.fcu_changes ..).mono (by decide))
  · exact hu.trans ((State.fcu_changes ..).mono (by decide))
  · exact hu.trans ((State.bumpDropped_changes ..).mono (by decide))
  · exact (hu.trans ((State.bumpDropped_changes ..).mono (by decide))).trans ((State.fcu_changes ..).mono (by decide))

theorem State.icx_changes (s : State) (f : IcxUnit) : changesOnly [.icx] s { s with icx := f } := by
  refine ⟨rfl, fun p hp => ?_⟩
  cases p <;> simp_all [samePiece, State.num, State.blob]

theorem State.emit_changes (s : State) (m : OutMsg) : changesOnly [.out] s (s.emit m) := by
  refine ⟨rfl, fun p hp => ?_⟩
  unfold State.emit
  cases p <;> simp_all [samePiece, State.num, State.blob]

theorem State.send_changes (s : State) (d : Node) (b : Body) : changesOnly [.out] s (s.send d b) := State.emit_changes ..

theorem State.startHoldoff_changes (s : State) (src : Nat) : changesOnly [.icx] s (s.startHoldoff src) := by
  unfold State.startHoldoff
  exact changesOnly.ite (changesOnly.refl ..) (State.icx_changes ..)

theorem State.hostDeliver_changes (s : State) (src : Nat) : changesOnly [.icx, .out] s (s.hostDeliver src) := by
  unfold State.hostDeliver
  refine changesOnly.ite ?_ (changesOnly.refl ..)
  have h := (State.icx_changes s { s.icx with hpend := setBit512 s.icx.hpend src false }).mono (m := [.icx, .out]) (by decide)
  refine changesOnly.trans ?_ ((State.startHoldoff_changes _ src).mono (by decide))
  exact changesOnly.ite h (h.trans ((State.send_changes ..).mono (by decide)))

theorem State.icxFire_changes (s : State) (src : Nat) : changesOnly [.icx, .out] s (s.icxFire src) := by
  unfold State.icxFire
  extract_lets core host u t
  have h : changesOnly [.icx, .out] s t := (State.icx_changes ..).mono (by decide)
  exact changesOnly.ite (h.trans (State.hostDeliver_changes ..)) h

theorem State.icxApply_changes (s : State) (src : Nat) : changesOnly [.icx, .out] s (s.icxApply src) := by
  unfold State.icxApply
  refine changesOnly.ite (changesOnly.ite ?_ ?_) (State.icxFire_changes ..)
  · exact ((State.icx_changes ..).mono (by decide)).trans (State.icxFire_changes ..)
  · exact (State.icx_changes ..).mono (by decide)

/-- An interrupt event changes the interrupt controller and the outputs. -/
theorem State.icxEvent_changes (s : State) (src : Nat) : changesOnly [.icx, .out] s (s.icxEvent src) := by
  unfold State.icxEvent
  exact changesOnly.ite (changesOnly.refl ..) (changesOnly.ite ((State.icx_changes ..).mono (by decide)) (State.icxApply_changes ..))

/-- An object other than FAULTS_DROPPED reads as before after a fault is raised. -/
@[simp] theorem State.num_raise (s : State) (source part kind cls addr : Nat) (o : Obj) (h : o.key ≠ O.faultsDropped.key) :
    (s.raise source part kind cls addr).num o = s.num o := (((State.raise_changes s source part kind cls addr).2 .objects (by decide)) o).1 h
@[simp] theorem State.blob_raise (s : State) (source part kind cls addr : Nat) (o : Obj) :
    (s.raise source part kind cls addr).blob o = s.blob o := (((State.raise_changes s source part kind cls addr).2 .objects (by decide)) o).2
@[simp] theorem State.raise_server (s : State) (source part kind cls addr : Nat) :
    (s.raise source part kind cls addr).dict.server = s.dict.server := by
  have h := (State.raise_changes s source part kind cls addr).2 .server (by decide)
  simp only [samePiece] at h; rw [h]
@[simp] theorem State.num_icxEvent (s : State) (src : Nat) (o : Obj) : (s.icxEvent src).num o = s.num o := by
  have h := (State.icxEvent_changes s src).2
  simp [State.num, State.icxEvent_dict]
@[simp] theorem State.blob_icxEvent (s : State) (src : Nat) (o : Obj) : (s.icxEvent src).blob o = s.blob o := by
  simp [State.blob, State.icxEvent_dict]

end Sys2Proof.Machine
end

