-- ==== Sys2Proof/Laws/Dict.lean ====
section
/-! SUPPORT. A dictionary write that passes the checks of orders 1 to 6: which rule owns each object (16 R527, Table 16.4), and what the
record of its outcome leaves as it is (R553). -/

namespace Sys2Proof.Machine

set_option linter.all false

theorem State.ownNumeric_handoffTick (s : State) (n : Nat) : s.ownNumeric O.handoffTick.key n = some (s.handoffWrite n) := by
  unfold State.ownNumeric; rw [if_pos rfl]
theorem State.ownNumeric_plumbRestart (s : State) (n : Nat) : s.ownNumeric O.plumbRestart.key n = some (s.plumbRestartWrite) := by
  unfold State.ownNumeric; rw [if_neg (by decide), if_pos rfl]
theorem State.ownNumeric_hbmLogClear (s : State) (n : Nat) : s.ownNumeric O.hbmLogClear.key n = some (s.hbmLogClear) := by
  unfold State.ownNumeric; rw [if_neg (by decide), if_neg (by decide), if_pos rfl]
theorem State.ownNumeric_sramLogClear (s : State) (n : Nat) : s.ownNumeric O.sramLogClear.key n = some (s.sramLogClear n) := by
  unfold State.ownNumeric; rw [if_neg (by decide), if_neg (by decide), if_neg (by decide), if_pos rfl]
theorem State.ownNumeric_marginStart (s : State) (n : Nat) : s.ownNumeric O.marginStart.key n = some (s.marginStart) := by
  unfold State.ownNumeric; rw [if_neg (by decide), if_neg (by decide), if_neg (by decide), if_neg (by decide), if_pos rfl]
theorem State.ownNumeric_loadStart (s : State) (n : Nat) : s.ownNumeric O.loadStart.key n = some (s.loadStart) := by
  unfold State.ownNumeric; rw [if_neg (by decide), if_neg (by decide), if_neg (by decide), if_neg (by decide), if_neg (by decide), if_pos rfl]
theorem State.ownNumeric_loadAbort (s : State) (n : Nat) : s.ownNumeric O.loadAbort.key n = some (s.loadAbort) := by
  unfold State.ownNumeric; rw [if_neg (by decide), if_neg (by decide), if_neg (by decide), if_neg (by decide), if_neg (by decide), if_neg (by decide), if_pos rfl]
theorem State.ownNumeric_loadPost (s : State) (n : Nat) : s.ownNumeric O.loadPost.key n = some (s.loadPost n) := by
  unfold State.ownNumeric; rw [if_neg (by decide), if_neg (by decide), if_neg (by decide), if_neg (by decide), if_neg (by decide), if_neg (by decide), if_neg (by decide), if_pos rfl]
theorem State.ownNumeric_restoreStart (s : State) (n : Nat) : s.ownNumeric O.restoreStart.key n = some (s.restoreWrite) := by
  unfold State.ownNumeric; rw [if_neg (by decide), if_neg (by decide), if_neg (by decide), if_neg (by decide), if_neg (by decide), if_neg (by decide), if_neg (by decide), if_neg (by decide), if_pos rfl]
theorem State.ownNumeric_rackBeat (s : State) (n : Nat) : s.ownNumeric O.rackBeat.key n = some (s.rackBeat) := by
  unfold State.ownNumeric; rw [if_neg (by decide), if_neg (by decide), if_neg (by decide), if_neg (by decide), if_neg (by decide), if_neg (by decide), if_neg (by decide), if_neg (by decide), if_neg (by decide), if_pos rfl]
theorem State.ownNumeric_faultLogClear (s : State) (n : Nat) : s.ownNumeric O.faultLogClear.key n = some (s.logClearWrite) := by
  unfold State.ownNumeric; rw [if_neg (by decide), if_neg (by decide), if_neg (by decide), if_neg (by decide), if_neg (by decide), if_neg (by decide), if_neg (by decide), if_neg (by decide), if_neg (by decide), if_neg (by decide), if_pos rfl]
theorem State.ownNumeric_graveClear (s : State) (n : Nat) : s.ownNumeric O.graveClear.key n = some (s.graveClearWrite) := by
  unfold State.ownNumeric; rw [if_neg (by decide), if_neg (by decide), if_neg (by decide), if_neg (by decide), if_neg (by decide), if_neg (by decide), if_neg (by decide), if_neg (by decide), if_neg (by decide), if_neg (by decide), if_neg (by decide), if_pos rfl]
theorem State.ownNumeric_errClear (s : State) (n : Nat) : s.ownNumeric O.errClear.key n = some (s.errClearWrite) := by
  unfold State.ownNumeric; rw [if_neg (by decide), if_neg (by decide), if_neg (by decide), if_neg (by decide), if_neg (by decide), if_neg (by decide), if_neg (by decide), if_neg (by decide), if_neg (by decide), if_neg (by decide), if_neg (by decide), if_neg (by decide), if_pos rfl]
theorem State.ownNumeric_dictStore (s : State) (n : Nat) : s.ownNumeric O.dictStore.key n = some (s.dictStoreWrite) := by
  unfold State.ownNumeric; rw [if_neg (by decide), if_neg (by decide), if_neg (by decide), if_neg (by decide), if_neg (by decide), if_neg (by decide), if_neg (by decide), if_neg (by decide), if_neg (by decide), if_neg (by decide), if_neg (by decide), if_neg (by decide), if_neg (by decide), if_pos rfl]
theorem State.ownNumeric_dictDefaults (s : State) (n : Nat) : s.ownNumeric O.dictDefaults.key n = some (s.defaultsWrite) := by
  unfold State.ownNumeric; rw [if_neg (by decide), if_neg (by decide), if_neg (by decide), if_neg (by decide), if_neg (by decide), if_neg (by decide), if_neg (by decide), if_neg (by decide), if_neg (by decide), if_neg (by decide), if_neg (by decide), if_neg (by decide), if_neg (by decide), if_neg (by decide), if_pos rfl]
theorem State.ownNumeric_stateRequest (s : State) (n : Nat) : s.ownNumeric O.stateRequest.key n = some (s.requestWrite n) := by
  unfold State.ownNumeric; rw [if_neg (by decide), if_neg (by decide), if_neg (by decide), if_neg (by decide), if_neg (by decide), if_neg (by decide), if_neg (by decide), if_neg (by decide), if_neg (by decide), if_neg (by decide), if_neg (by decide), if_neg (by decide), if_neg (by decide), if_neg (by decide), if_neg (by decide), if_pos rfl]
theorem State.ownNumeric_fwUpdate (s : State) (n : Nat) : s.ownNumeric O.fwUpdate.key n = some (s.fwUpdate n) := by
  unfold State.ownNumeric; rw [if_neg (by decide), if_neg (by decide), if_neg (by decide), if_neg (by decide), if_neg (by decide), if_neg (by decide), if_neg (by decide), if_neg (by decide), if_neg (by decide), if_neg (by decide), if_neg (by decide), if_neg (by decide), if_neg (by decide), if_neg (by decide), if_neg (by decide), if_neg (by decide), if_pos rfl]
theorem State.ownNumeric_escanStart (s : State) (n : Nat) : s.ownNumeric O.escanStart.key n = some (s.escanStart) := by
  unfold State.ownNumeric; rw [if_neg (by decide), if_neg (by decide), if_neg (by decide), if_neg (by decide), if_neg (by decide), if_neg (by decide), if_neg (by decide), if_neg (by decide), if_neg (by decide), if_neg (by decide), if_neg (by decide), if_neg (by decide), if_neg (by decide), if_neg (by decide), if_neg (by decide), if_neg (by decide), if_neg (by decide), if_pos rfl]
theorem State.ownNumeric_fbistStart (s : State) (n : Nat) : s.ownNumeric O.fbistStart.key n = some (s.fbistStart) := by
  unfold State.ownNumeric; rw [if_neg (by decide), if_neg (by decide), if_neg (by decide), if_neg (by decide), if_neg (by decide), if_neg (by decide), if_neg (by decide), if_neg (by decide), if_neg (by decide), if_neg (by decide), if_neg (by decide), if_neg (by decide), if_neg (by decide), if_neg (by decide), if_neg (by decide), if_neg (by decide), if_neg (by decide), if_neg (by decide), if_pos rfl]
theorem State.ownBytes_splice (s : State) (b : List Byte) : s.ownBytes O.splice.key b = some (s.spliceWrite b) := by
  unfold State.ownBytes; rw [if_pos rfl]
theorem State.ownBytes_switchRequest (s : State) (b : List Byte) : s.ownBytes O.switchRequest.key b = some (s.switchRequest b) := by
  unfold State.ownBytes; rw [if_neg (by decide), if_pos rfl]
theorem State.ownBytes_rampEvent (s : State) (b : List Byte) : s.ownBytes O.rampEvent.key b = some (s.rampWrite b) := by
  unfold State.ownBytes; rw [if_neg (by decide), if_neg (by decide), if_pos rfl]
theorem State.ownBytes_attestNonce (s : State) (b : List Byte) : s.ownBytes O.attestNonce.key b = some (s.attestNonce b) := by
  unfold State.ownBytes; rw [if_neg (by decide), if_neg (by decide), if_neg (by decide), if_pos rfl]
theorem State.ownBytes_keystonePending (s : State) (b : List Byte) : s.ownBytes O.keystonePending.key b = some (s.keystonePending b) := by
  unfold State.ownBytes; rw [if_neg (by decide), if_neg (by decide), if_neg (by decide), if_neg (by decide), if_pos rfl]
theorem State.ownBytes_calWrite (s : State) (b : List Byte) : s.ownBytes O.calWrite.key b = some (s.calWrite b) := by
  unfold State.ownBytes; rw [if_neg (by decide), if_neg (by decide), if_neg (by decide), if_neg (by decide), if_neg (by decide), if_pos rfl]

theorem State.noteWritten_other (s : State) (key : Nat) (h : mirroredKey key = false) : s.noteWritten key = s := by
  simp [State.noteWritten, h]

/-- A numeric write that passes, to an object that a rule owns and the mirror does not follow. -/
theorem State.writeNum_owned {s : State} {p : Path} {o : Obj} {n : Nat} (h : passes s p o (.num n)) {r : Nat × State}
    (hr : s.ownNumeric o.key n = some r) (hm : mirroredKey o.key = false) : s.writeNum p o n = r.2.noteResult o.key r.1 := by
  unfold State.writeNum State.applyWrite
  simp only [passes] at h
  simp [h, State.ownWrite, hr, State.noteWritten_other _ _ hm]

/-- The same for an object that its index makes a rule own: hods, tenants, windows, ports, regions, areas, copies. -/
theorem State.writeNum_indexed {s : State} {p : Path} {o : Obj} {n : Nat} (h : passes s p o (.num n)) {r : Nat × State}
    (h0 : s.ownNumeric o.key n = none) (hr : s.ownIndexed o.key n = some r) :
    s.writeNum p o n = (if r.1 = Err.ok then r.2.noteWritten o.key else r.2).noteResult o.key r.1 := by
  unfold State.writeNum State.applyWrite
  simp only [passes] at h
  simp [h, State.ownWrite, h0, hr]

/-- A BLOB that passes. -/
theorem State.writeBlob_owned {s : State} {p : Path} {o : Obj} {b : List Byte} (h : passes s p o (.bytes b)) {r : Nat × State}
    (hr : s.ownBytes o.key b = some r) (hm : mirroredKey o.key = false) : s.writeBlob p o b = r.2.noteResult o.key r.1 := by
  unfold State.writeBlob State.applyWrite
  simp only [passes] at h
  simp [h, State.ownWrite, hr, State.noteWritten_other _ _ hm]

/-- The record of an outcome touches RESULT alone. -/
theorem State.noteResult_results (s : State) (k c : Nat) :
    s.noteResult k c = { s with dict := { s.dict with results := (s.noteResult k c).dict.results } } := by
  unfold State.noteResult State.recordResult
  split <;> (try rfl)
  split <;> (try rfl)
  split <;> rfl
theorem State.noteResult_changes (s : State) (k c : Nat) : changesOnly [.server] s (s.noteResult k c) := by
  rw [State.noteResult_results]
  refine ⟨rfl, fun p hp => ?_⟩
  cases p <;> simp_all [samePiece, State.num, State.blob]
@[simp] theorem State.num_noteResult (s : State) (k c : Nat) (o : Obj) : (s.noteResult k c).num o = s.num o := by
  rw [State.noteResult_results]; rfl
@[simp] theorem State.blob_noteResult (s : State) (k c : Nat) (o : Obj) : (s.noteResult k c).blob o = s.blob o := by
  rw [State.noteResult_results]; rfl
@[simp] theorem State.noteResult_pkg (s : State) (k c : Nat) : (s.noteResult k c).pkg = s.pkg := by rw [State.noteResult_results]
@[simp] theorem State.noteResult_clk (s : State) (k c : Nat) : (s.noteResult k c).clk = s.clk := by rw [State.noteResult_results]
@[simp] theorem State.noteResult_crs (s : State) (k c : Nat) : (s.noteResult k c).crs = s.crs := by rw [State.noteResult_results]
@[simp] theorem State.noteResult_cred (s : State) (k c : Nat) : (s.noteResult k c).cred = s.cred := by rw [State.noteResult_results]
@[simp] theorem State.noteResult_eng (s : State) (k c : Nat) : (s.noteResult k c).eng = s.eng := by rw [State.noteResult_results]
@[simp] theorem State.noteResult_ses (s : State) (k c : Nat) : (s.noteResult k c).ses = s.ses := by rw [State.noteResult_results]
@[simp] theorem State.noteResult_mem (s : State) (k c : Nat) : (s.noteResult k c).mem = s.mem := by rw [State.noteResult_results]
@[simp] theorem State.noteResult_wts (s : State) (k c : Nat) : (s.noteResult k c).wts = s.wts := by rw [State.noteResult_results]
@[simp] theorem State.noteResult_lnk (s : State) (k c : Nat) : (s.noteResult k c).lnk = s.lnk := by rw [State.noteResult_results]
@[simp] theorem State.noteResult_fab (s : State) (k c : Nat) : (s.noteResult k c).fab = s.fab := by rw [State.noteResult_results]
@[simp] theorem State.noteResult_mir (s : State) (k c : Nat) : (s.noteResult k c).mir = s.mir := by rw [State.noteResult_results]
@[simp] theorem State.noteResult_pwr (s : State) (k c : Nat) : (s.noteResult k c).pwr = s.pwr := by rw [State.noteResult_results]
@[simp] theorem State.noteResult_fcu (s : State) (k c : Nat) : (s.noteResult k c).fcu = s.fcu := by rw [State.noteResult_results]
@[simp] theorem State.noteResult_icx (s : State) (k c : Nat) : (s.noteResult k c).icx = s.icx := by rw [State.noteResult_results]
@[simp] theorem State.noteResult_sec (s : State) (k c : Nat) : (s.noteResult k c).sec = s.sec := by rw [State.noteResult_results]
@[simp] theorem State.noteResult_out (s : State) (k c : Nat) : (s.noteResult k c).out = s.out := by rw [State.noteResult_results]
@[simp] theorem State.noteResult_free (s : State) (k c : Nat) : (s.noteResult k c).free = s.free := by rw [State.noteResult_results]
@[simp] theorem State.noteResult_pending (s : State) (k c : Nat) : (s.noteResult k c).pending = s.pending := by rw [State.noteResult_results]

end Sys2Proof.Machine
end

