-- ==== Sys2Proof/Laws/Enter.lean ====
section
/-! SUPPORT. What a transition taken does, state by state (00 R12, R16, Table 0.5): the facts of `State.enter` that proofs about the
commands that call for one rest on. -/

namespace Sys2Proof.Machine

set_option linter.all false

/-- A port's new state touches the ports, with what its event does (15 R510). -/
theorem State.putPort_frame (s : State) (p : Nat) (r : PortRt) : ∃ l i o, s.putPort p r = { s with lnk := l, icx := i, out := o } := by
  unfold State.putPort
  dsimp only
  split
  · exact ⟨_, _, _, rfl⟩
  · obtain ⟨i, o, e⟩ := State.icxEvent_evented (s.setPort p r) (0x090 + p)
    rw [e]; exact ⟨_, _, _, rfl⟩
/-- The end of an eye scan touches the ports, with what their events do (17 R580; 15 R510). -/
theorem State.freeScanned_frame (s : State) : ∃ l i o, s.freeScanned = { s with lnk := l, icx := i, out := o } := by
  unfold State.freeScanned
  suffices h : ∀ (ps : List Nat) (f : State → Nat → State), (∀ t p, ∃ l i o, f t p = { t with lnk := l, icx := i, out := o }) →
      ∀ t, ∃ l i o, ps.foldl f t = { t with lnk := l, icx := i, out := o } by
    exact h _ _ (fun t p => State.putPort_frame ..) _
  intro ps f hf
  induction ps with
  | nil => intro t; exact ⟨_, _, _, rfl⟩
  | cons p ps ih =>
    intro t
    obtain ⟨l, i, o, e⟩ := hf t p
    obtain ⟨l', i', o', e'⟩ := ih (f t p)
    exact ⟨l', i', o', by rw [List.foldl_cons, e', e]⟩
@[simp] theorem State.freeScanned_pkg (s : State) : s.freeScanned.pkg = s.pkg := by
  obtain ⟨l, i, o, e⟩ := State.freeScanned_frame s; rw [e]
@[simp] theorem State.freeScanned_clk (s : State) : s.freeScanned.clk = s.clk := by
  obtain ⟨l, i, o, e⟩ := State.freeScanned_frame s; rw [e]
@[simp] theorem State.freeScanned_crs (s : State) : s.freeScanned.crs = s.crs := by
  obtain ⟨l, i, o, e⟩ := State.freeScanned_frame s; rw [e]
@[simp] theorem State.freeScanned_cred (s : State) : s.freeScanned.cred = s.cred := by
  obtain ⟨l, i, o, e⟩ := State.freeScanned_frame s; rw [e]
@[simp] theorem State.freeScanned_eng (s : State) : s.freeScanned.eng = s.eng := by
  obtain ⟨l, i, o, e⟩ := State.freeScanned_frame s; rw [e]
@[simp] theorem State.freeScanned_ses (s : State) : s.freeScanned.ses = s.ses := by
  obtain ⟨l, i, o, e⟩ := State.freeScanned_frame s; rw [e]
@[simp] theorem State.freeScanned_mem (s : State) : s.freeScanned.mem = s.mem := by
  obtain ⟨l, i, o, e⟩ := State.freeScanned_frame s; rw [e]
@[simp] theorem State.freeScanned_wts (s : State) : s.freeScanned.wts = s.wts := by
  obtain ⟨l, i, o, e⟩ := State.freeScanned_frame s; rw [e]
@[simp] theorem State.freeScanned_fab (s : State) : s.freeScanned.fab = s.fab := by
  obtain ⟨l, i, o, e⟩ := State.freeScanned_frame s; rw [e]
@[simp] theorem State.freeScanned_mir (s : State) : s.freeScanned.mir = s.mir := by
  obtain ⟨l, i, o, e⟩ := State.freeScanned_frame s; rw [e]
@[simp] theorem State.freeScanned_pwr (s : State) : s.freeScanned.pwr = s.pwr := by
  obtain ⟨l, i, o, e⟩ := State.freeScanned_frame s; rw [e]
@[simp] theorem State.freeScanned_fcu (s : State) : s.freeScanned.fcu = s.fcu := by
  obtain ⟨l, i, o, e⟩ := State.freeScanned_frame s; rw [e]
@[simp] theorem State.freeScanned_dict (s : State) : s.freeScanned.dict = s.dict := by
  obtain ⟨l, i, o, e⟩ := State.freeScanned_frame s; rw [e]
@[simp] theorem State.freeScanned_sec (s : State) : s.freeScanned.sec = s.sec := by
  obtain ⟨l, i, o, e⟩ := State.freeScanned_frame s; rw [e]
@[simp] theorem State.freeScanned_free (s : State) : s.freeScanned.free = s.free := by
  obtain ⟨l, i, o, e⟩ := State.freeScanned_frame s; rw [e]
@[simp] theorem State.freeScanned_pending (s : State) : s.freeScanned.pending = s.pending := by
  obtain ⟨l, i, o, e⟩ := State.freeScanned_frame s; rw [e]
@[simp] theorem State.num_freeScanned (s : State) (o : Obj) : s.freeScanned.num o = s.num o := by simp [State.num]
@[simp] theorem State.afterMargin_pkg (s : State) : s.afterMargin.pkg = s.pkg := rfl
@[simp] theorem State.abortTests_pkg (s : State) : s.abortTests.pkg = s.pkg := by
  simp [State.abortTests, apply_ite State.pkg]
@[simp] theorem State.afterMargin_clk (s : State) : s.afterMargin.clk = s.clk := rfl
@[simp] theorem State.abortTests_clk (s : State) : s.abortTests.clk = s.clk := by
  simp [State.abortTests, apply_ite State.clk]
@[simp] theorem State.afterMargin_crs (s : State) : s.afterMargin.crs = s.crs := rfl
@[simp] theorem State.abortTests_crs (s : State) : s.abortTests.crs = s.crs := by
  simp [State.abortTests, apply_ite State.crs]
@[simp] theorem State.afterMargin_cred (s : State) : s.afterMargin.cred = s.cred := rfl
@[simp] theorem State.abortTests_cred (s : State) : s.abortTests.cred = s.cred := by
  simp [State.abortTests, apply_ite State.cred]
@[simp] theorem State.afterMargin_eng (s : State) : s.afterMargin.eng = s.eng := rfl
@[simp] theorem State.abortTests_eng (s : State) : s.abortTests.eng = s.eng := by
  simp [State.abortTests, apply_ite State.eng]
@[simp] theorem State.afterMargin_ses (s : State) : s.afterMargin.ses = s.ses := rfl
@[simp] theorem State.abortTests_ses (s : State) : s.abortTests.ses = s.ses := by
  simp [State.abortTests, apply_ite State.ses]
@[simp] theorem State.afterMargin_fab (s : State) : s.afterMargin.fab = s.fab := rfl
@[simp] theorem State.abortTests_fab (s : State) : s.abortTests.fab = s.fab := by
  simp [State.abortTests, apply_ite State.fab]
@[simp] theorem State.afterMargin_mir (s : State) : s.afterMargin.mir = s.mir := rfl
@[simp] theorem State.abortTests_mir (s : State) : s.abortTests.mir = s.mir := by
  simp [State.abortTests, apply_ite State.mir]
@[simp] theorem State.afterMargin_fcu (s : State) : s.afterMargin.fcu = s.fcu := rfl
@[simp] theorem State.abortTests_fcu (s : State) : s.abortTests.fcu = s.fcu := by
  simp [State.abortTests, apply_ite State.fcu]
@[simp] theorem State.afterMargin_sec (s : State) : s.afterMargin.sec = s.sec := rfl
@[simp] theorem State.abortTests_sec (s : State) : s.abortTests.sec = s.sec := by
  simp [State.abortTests, apply_ite State.sec]
@[simp] theorem State.afterMargin_free (s : State) : s.afterMargin.free = s.free := rfl
@[simp] theorem State.abortTests_free (s : State) : s.abortTests.free = s.free := by
  simp [State.abortTests, apply_ite State.free]
@[simp] theorem State.afterMargin_pending (s : State) : s.afterMargin.pending = s.pending := rfl
@[simp] theorem State.abortTests_pending (s : State) : s.abortTests.pending = s.pending := by
  simp [State.abortTests, apply_ite State.pending]
@[simp] theorem State.afterMargin_dict (s : State) : s.afterMargin.dict = s.dict := rfl
@[simp] theorem State.setNum_dict_server (s : State) (o : Obj) (v : Nat) : (s.setNum o v).dict.server = s.dict.server := rfl
@[simp] theorem State.abortTests_dict_server (s : State) : s.abortTests.dict.server = s.dict.server := by
  simp [State.abortTests, apply_ite State.dict, apply_ite DictUnit.server]
@[simp] theorem State.setNum_dict_window (s : State) (o : Obj) (v : Nat) : (s.setNum o v).dict.window = s.dict.window := rfl
@[simp] theorem State.abortTests_dict_window (s : State) : s.abortTests.dict.window = s.dict.window := by
  simp [State.abortTests, apply_ite State.dict, apply_ite DictUnit.window]
@[simp] theorem State.setNum_dict_staging (s : State) (o : Obj) (v : Nat) : (s.setNum o v).dict.staging = s.dict.staging := rfl
@[simp] theorem State.abortTests_dict_staging (s : State) : s.abortTests.dict.staging = s.dict.staging := by
  simp [State.abortTests, apply_ite State.dict, apply_ite DictUnit.staging]
@[simp] theorem State.setNum_dict_imaging (s : State) (o : Obj) (v : Nat) : (s.setNum o v).dict.imaging = s.dict.imaging := rfl
@[simp] theorem State.abortTests_dict_imaging (s : State) : s.abortTests.dict.imaging = s.dict.imaging := by
  simp [State.abortTests, apply_ite State.dict, apply_ite DictUnit.imaging]
@[simp] theorem State.setNum_dict_results (s : State) (o : Obj) (v : Nat) : (s.setNum o v).dict.results = s.dict.results := rfl
@[simp] theorem State.abortTests_dict_results (s : State) : s.abortTests.dict.results = s.dict.results := by
  simp [State.abortTests, apply_ite State.dict, apply_ite DictUnit.results]
@[simp] theorem State.setNum_dict_kept (s : State) (o : Obj) (v : Nat) : (s.setNum o v).dict.kept = s.dict.kept := rfl
@[simp] theorem State.abortTests_dict_kept (s : State) : s.abortTests.dict.kept = s.dict.kept := by
  simp [State.abortTests, apply_ite State.dict, apply_ite DictUnit.kept]
@[simp] theorem State.setNum_dict_snaps (s : State) (o : Obj) (v : Nat) : (s.setNum o v).dict.snaps = s.dict.snaps := rfl
@[simp] theorem State.abortTests_dict_snaps (s : State) : s.abortTests.dict.snaps = s.dict.snaps := by
  simp [State.abortTests, apply_ite State.dict, apply_ite DictUnit.snaps]
@[simp] theorem State.setNum_dict_discover (s : State) (o : Obj) (v : Nat) : (s.setNum o v).dict.discover = s.dict.discover := rfl
@[simp] theorem State.abortTests_dict_discover (s : State) : s.abortTests.dict.discover = s.dict.discover := by
  simp [State.abortTests, apply_ite State.dict, apply_ite DictUnit.discover]
@[simp] theorem State.abortTests_dict_blobs (s : State) : s.abortTests.dict.blobs = s.dict.blobs := by
  simp [State.abortTests, apply_ite State.dict, apply_ite DictUnit.blobs]
@[simp] theorem State.setNum_dict_notifyDue (s : State) (o : Obj) (v : Nat) : (s.setNum o v).dict.notifyDue = s.dict.notifyDue := rfl
@[simp] theorem State.abortTests_dict_notifyDue (s : State) : s.abortTests.dict.notifyDue = s.dict.notifyDue := by
  simp [State.abortTests, apply_ite State.dict, apply_ite DictUnit.notifyDue]
@[simp] theorem State.num_afterMargin (s : State) (o : Obj) : s.afterMargin.num o = s.num o := rfl
/-- Where no margin test runs, the end of the tests leaves memory, weights and power as they are. -/
theorem State.abortTests_mem (s : State) (h : s.num O.marginState ≠ 1) :
    s.abortTests.mem = s.mem ∧ s.abortTests.wts = s.wts ∧ s.abortTests.pwr = s.pwr := by
  unfold State.abortTests
  rw [if_neg h]
  simp [apply_ite State.mem, apply_ite State.wts, apply_ite State.pwr]

/-- The end of the tests writes their state objects only. -/
theorem State.abortTests_num (s : State) (o : Obj) (h1 : o.key ≠ O.marginState.key) (h2 : o.key ≠ O.escanState.key)
    (h3 : o.key ≠ O.fbistState.key) : s.abortTests.num o = s.num o := by
  have e1 : ∀ (t : State) (v : Nat), (t.setNum O.marginState v).num o = t.num o := fun t v => State.num_setNum_other _ _ _ _ h1
  have e2 : ∀ (t : State) (v : Nat), (t.setNum O.escanState v).num o = t.num o := fun t v => State.num_setNum_other _ _ _ _ h2
  have e3 : ∀ (t : State) (v : Nat), (t.setNum O.fbistState v).num o = t.num o := fun t v => State.num_setNum_other _ _ _ _ h3
  have hi : ∀ (c : Prop) [Decidable c] (a b : State), (if c then a else b).num o = if c then a.num o else b.num o :=
    fun c _ a b => by split <;> rfl
  simp [State.abortTests, hi, e1, e2, e3]

@[simp] theorem State.blob_abortTests (s : State) (o : Obj) : s.abortTests.blob o = s.blob o := by simp [State.blob]

/-- A transition that the table allows, in a tick in which nothing has been taken and no request waits, is taken. -/
theorem State.transition_calm (s : State) (t : PkgState) (h : edge s.pkg.st t = true) (h1 : s.pkg.taken = none)
    (h2 : s.pkg.request = none) :
    s.transition t = { s.enter t with pkg := { (s.enter t).pkg with tickStart := s.pkg.st, taken := some t } } := by
  unfold State.transition
  simp [h1, h2, h]

end Sys2Proof.Machine
end

