-- ==== Sys2Proof/Laws/Memory.lean ====
section
/-! SUPPORT. Memory: what was written is read, everything else stays, and the canonical form is kept by every memory operation. -/

namespace Sys2Proof.Machine

set_option linter.all false

theorem cellPut_wf (m : List Host.Cell) (a : Nat) (b : Byte) (h : Memory.wf m) : Memory.wf (cellPut m a b) := SMap.wf_set 0 m a b h

theorem cellsPut_wf (m : List Host.Cell) (a : Nat) (l : List Byte) (h : Memory.wf m) : Memory.wf (cellsPut m a l) := by
  induction l generalizing m a with
  | nil => exact h
  | cons b r ih => exact ih _ _ (cellPut_wf m a b h)

theorem cellsClear_wf (m : List Host.Cell) (p : Nat → Bool) (h : Memory.wf m) : Memory.wf (cellsClear m p) := SMap.wf_filter 0 m _ h

/-- The byte written is read. -/
theorem cellGet_put_same (m : List Host.Cell) (a : Nat) (b : Byte) : cellGet (cellPut m a b) a = b :=
  SMap.get_set_same 0 m a b

/-- Another byte stays. -/
theorem cellGet_put_other (m : List Host.Cell) (a i : Nat) (b : Byte) (hi : i ≠ a) : cellGet (cellPut m a b) i = cellGet m i :=
  SMap.get_set_other 0 m a i b hi

/-- Bytes outside the run written stay. -/
theorem cellGet_puts_other (m : List Host.Cell) (a i : Nat) (l : List Byte) (hi : i < a ∨ a + l.length ≤ i) :
    cellGet (cellsPut m a l) i = cellGet m i := by
  induction l generalizing m a with
  | nil => rfl
  | cons b r ih =>
    simp only [List.length_cons] at hi
    simp only [cellsPut]
    rw [ih _ _ (by omega), cellGet_put_other _ _ _ _ (by omega)]

/-- The bytes written are read back. -/
theorem cellsGet_puts (m : List Host.Cell) (a : Nat) (l : List Byte) : cellsGet (cellsPut m a l) a l.length = l := by
  induction l generalizing m a with
  | nil => rfl
  | cons b r ih =>
    simp only [cellsPut, List.length_cons, cellsGet]
    rw [ih, cellGet_puts_other _ _ _ _ (.inl (Nat.lt_succ_self a)), cellGet_put_same m a b]

theorem initStacks_wf (m : MemUnit) (mask : Nat) (h : Memory.wf m.mem) : Memory.wf (m.initStacks mask).mem := by
  unfold MemUnit.initStacks; dsimp only; exact cellsClear_wf _ _ h

theorem initPages_wf (m : MemUnit) (p : Nat → Bool) (h : Memory.wf m.mem) : Memory.wf (m.initPages p).mem := by
  unfold MemUnit.initPages; dsimp only; exact cellsClear_wf _ _ h

/-- Reset memory is in canonical form. -/
theorem reset_mem_wf : Memory.wf State.reset.mem.mem := by rfl

end Sys2Proof.Machine
end

