-- ==== Sys2Proof/Laws/Keeps.lean ====
section
/-! SUPPORT. What `Keeps` says, through record updates, branches and folds. -/

namespace Sys2Proof.Machine

set_option linter.all false
theorem drains.trans {s t u : State} (h : drains s t) (k : drains t u) : drains s u := by
  rcases h with h | ⟨h, e⟩
  · rcases k with k | ⟨k, f⟩
    · exact .inl (k.trans h)
    · exact .inr ⟨k, by unfold allowed at *; rw [← h]; exact f⟩
  · rcases k with k | ⟨k, -⟩
    · exact .inr ⟨k.trans h, e⟩
    · exact .inr ⟨k, e⟩
theorem Keeps.refl (s : State) : Keeps s s := ⟨⟨rfl, id, ⟨[], by simp⟩, Nat.le_refl _, Nat.le_refl _⟩, .inl rfl⟩
theorem Keeps.trans {s t u : State} (h : Keeps s t) (k : Keeps t u) : Keeps s u := by
  obtain ⟨⟨a, b, ⟨m, c⟩, d, e⟩, f⟩ := h
  obtain ⟨⟨a', b', ⟨m', c'⟩, d', e'⟩, f'⟩ := k
  exact ⟨⟨a'.trans a, b' ∘ b, ⟨m ++ m', by rw [c', c, List.append_assoc]⟩, Nat.le_trans d d', Nat.le_trans e e'⟩, f.trans f'⟩
theorem Kept₀.refl (s : State) : Kept₀ s s := (Keeps.refl s).toKept₀
theorem Kept₀.trans {s t u : State} (h : Kept₀ s t) (k : Kept₀ t u) : Kept₀ s u := by
  obtain ⟨a, b, ⟨m, c⟩, d, e⟩ := h
  obtain ⟨a', b', ⟨m', c'⟩, d', e'⟩ := k
  exact ⟨a'.trans a, b' ∘ b, ⟨m ++ m', by rw [c', c, List.append_assoc]⟩, Nat.le_trans d d', Nat.le_trans e e'⟩
theorem Keeps.moved {s t : State} (h : Keeps s t) : Moved s t :=
  ⟨h.toKept₀, by
    rcases h.st with a | ⟨a, e⟩
    · exact .inl a
    · exact .inr (.inl (a ▸ e))⟩
theorem Moved.refl (s : State) : Moved s s := (Keeps.refl s).moved
/-- Keeps by the parts it speaks of. -/
structure KeepsP (s : State) (pk : PkgUnit) (mu : MemUnit) (se : SecUnit) (o : List OutMsg) (fr : Nat) (q : List Instr) : Prop where
  queue : q = s.pending
  mem : Memory.wf s.mem.mem → Memory.wf mu.mem
  out : ∃ more, o = s.out ++ more
  fuses : s.sec.fuses ≤ se.fuses
  free : s.free ≤ fr
  st : pk.st = s.pkg.st ∨ (pk.st = .draining ∧ allowed s .draining)
theorem Keeps.mk_iff {s : State} {pkg clk crs cred eng ses mem wts lnk fab mir pwr fcu icx dict sec out free pending} :
    Keeps s (State.mk pkg clk crs cred eng ses mem wts lnk fab mir pwr fcu icx dict sec out free pending) ↔
      KeepsP s pkg mem sec out free pending :=
  ⟨fun h => ⟨h.queue, h.mem, h.out, h.fuses, h.free, h.st⟩, fun h => ⟨⟨h.queue, h.mem, h.out, h.fuses, h.free⟩, h.st⟩⟩
theorem KeepsP.same {s y : State} {pk mu se} (h : Keeps s y) (hs : pk.st = y.pkg.st) (hm : mu.mem = y.mem.mem)
    (hf : se.fuses = y.sec.fuses) : KeepsP s pk mu se y.out y.free y.pending := by
  obtain ⟨⟨a, b, c, d, e⟩, f⟩ := h
  exact ⟨a, hm ▸ b, c, hf ▸ d, e, hs ▸ f⟩
theorem KeepsP.out_ {s y : State} {pk mu se l} (h : Keeps s y) (hs : pk.st = y.pkg.st) (hm : mu.mem = y.mem.mem)
    (hf : se.fuses = y.sec.fuses) : KeepsP s pk mu se (y.out ++ l) y.free y.pending := by
  obtain ⟨⟨a, b, ⟨m, c⟩, d, e⟩, f⟩ := h
  exact ⟨a, hm ▸ b, ⟨m ++ l, by rw [c, List.append_assoc]⟩, hf ▸ d, e, hs ▸ f⟩
theorem KeepsP.draw {s y : State} {pk mu se n} (h : Keeps s y) (hs : pk.st = y.pkg.st) (hm : mu.mem = y.mem.mem)
    (hf : se.fuses = y.sec.fuses) : KeepsP s pk mu se y.out (y.free + n) y.pending := by
  obtain ⟨⟨a, b, c, d, e⟩, f⟩ := h
  exact ⟨a, hm ▸ b, c, hf ▸ d, Nat.le_trans e (Nat.le_add_right _ _), hs ▸ f⟩
/-- An update that writes memory. -/
theorem KeepsP.mem_ {s y : State} {pk mu se} (h : Keeps s y) (hs : pk.st = y.pkg.st) (hf : se.fuses = y.sec.fuses)
    (hm : Memory.wf y.mem.mem → Memory.wf mu.mem) : KeepsP s pk mu se y.out y.free y.pending := by
  obtain ⟨⟨a, b, c, d, e⟩, f⟩ := h
  exact ⟨a, hm ∘ b, c, hf ▸ d, e, hs ▸ f⟩
theorem Keeps.of2 {α : Type} {s y t : State} {e : α × State} {a : α} (h : e = (a, t)) (k : Keeps y e.2) (h0 : Keeps s y) : Keeps s t := by
  subst h; exact h0.trans k
theorem Keeps.of1 {α : Type} {s y t : State} {e : State × α} {a : α} (h : e = (t, a)) (k : Keeps y e.1) (h0 : Keeps s y) : Keeps s t := by
  subst h; exact h0.trans k
/-- A state named on the way. -/
theorem Keeps.gen {s t : State} (x : State) (h : Keeps s x) (k : Keeps s x → Keeps s t) : Keeps s t := k h
theorem Keeps.ite {s a b : State} {c : Prop} [Decidable c] (ha : Keeps s a) (hb : Keeps s b) : Keeps s (if c then a else b) := by
  split <;> assumption
/-- A branch that goes on from where the other one stops. -/
theorem Keeps.iteL {s a b : State} {c : Prop} [Decidable c] (hb : Keeps s b) (ha : Keeps b a) : Keeps s (if c then a else b) := by
  split
  · exact hb.trans ha
  · exact hb
theorem Keeps.iteR {s a b : State} {c : Prop} [Decidable c] (ha : Keeps s a) (hb : Keeps a b) : Keeps s (if c then a else b) := by
  split
  · exact ha
  · exact ha.trans hb
theorem Keeps.ite2 {α : Type} {s : State} {a b : α × State} {c : Prop} [Decidable c] (ha : Keeps s a.2) (hb : Keeps s b.2) :
    Keeps s (if c then a else b).2 := by
  split <;> assumption
theorem Keeps.ite1 {α : Type} {s : State} {a b : State × α} {c : Prop} [Decidable c] (ha : Keeps s a.1) (hb : Keeps s b.1) :
    Keeps s (if c then a else b).1 := by
  split <;> assumption
/-- An operation that answers nothing, or keeps. -/
def KeepsO (s : State) (o : Option (Nat × State)) : Prop := ∀ r, o = some r → Keeps s r.2
theorem KeepsO.none (s : State) : KeepsO s none := fun _ h => by cases h
theorem KeepsO.some {s : State} {r : Nat × State} (h : Keeps s r.2) : KeepsO s (some r) := fun _ e => by cases e; exact h
theorem KeepsO.ite {s : State} {a b : Option (Nat × State)} {c : Prop} [Decidable c] (ha : KeepsO s a) (hb : KeepsO s b) :
    KeepsO s (if c then a else b) := by
  split <;> assumption
theorem Keeps.foldl {α : Type} {s y : State} {f : State → α → State} {l : List α} (h : Keeps s y) (hf : ∀ t x, Keeps t (f t x)) :
    Keeps s (List.foldl f y l) := by
  induction l generalizing y with
  | nil => exact h
  | cons x l ih => exact ih (h.trans (hf y x))
theorem Keeps.foldl2 {α β : Type} {s : State} {y : β × State} {f : β × State → α → β × State} {l : List α} (h : Keeps s y.2)
    (hf : ∀ t x, Keeps t.2 (f t x).2) : Keeps s (List.foldl f y l).2 := by
  induction l generalizing y with
  | nil => exact h
  | cons x l ih => exact ih (h.trans (hf y x))
theorem Keeps.foldl1 {α β : Type} {s : State} {y : State × β} {f : State × β → α → State × β} {l : List α} (h : Keeps s y.1)
    (hf : ∀ t x, Keeps t.1 (f t x).1) : Keeps s (List.foldl f y l).1 := by
  induction l generalizing y with
  | nil => exact h
  | cons x l ih => exact ih (h.trans (hf y x))

end Sys2Proof.Machine
end

