-- ==== Sys2Proof/Laws/KeepsMem.lean ====
section
/-! SUPPORT. Keeps for the operations of Machine/Mem.lean. -/

namespace Sys2Proof.Machine

set_option linter.all false

theorem State.storeWord_keeps (s : State) (w : Nat) (d : List Byte) (tag : BitVec 16) : Keeps s (State.storeWord s w d tag) := by
  unfold State.storeWord
  dsimp only
  simp only [Keeps.mk_iff]
  exact KeepsP.mem_ (Keeps.refl s) rfl rfl (cellsPut_wf _ _ _)

theorem State.storePoison_keeps (s : State) (w : Nat) (d : List Byte) (tag : BitVec 16) :
    Keeps s (State.storePoison s w d tag) := by
  unfold State.storePoison
  repeat' first
    | with_reducible exact Keeps.refl _
    | with_reducible assumption
    | (extract_lets +onlyGivenNames x; first
        | (have h : State := x; clear h; with_reducible refine Keeps.gen x ?_ ?_; rotate_left; intro hx; clear_value x; rotate_left; subst x)
        | (have h : MemUnit := x; clear h; subst x)
        | clear_value x
        | subst x)
    | with_reducible apply Keeps.ite ?_ ?_
    | with_reducible apply Keeps.trans ?_ (State.storeWord_keeps ..)
    | (simp only [Keeps.mk_iff]; with_reducible refine KeepsP.same ?_ rfl rfl rfl)
    | split

theorem State.sramPut_keeps (s : State) (a : Nat) (d : List Byte) : Keeps s (State.sramPut s a d) := by
  unfold State.sramPut
  dsimp only
  simp only [Keeps.mk_iff]
  exact KeepsP.mem_ (Keeps.refl s) rfl rfl (cellsPut_wf _ _ _)

end Sys2Proof.Machine
end

