-- ==== Sys2Proof/Laws/KeepsOps.lean ====
section
/-! SUPPORT. Keeps for the operations of Machine/Ops.lean. -/

namespace Sys2Proof.Machine

set_option linter.all false

theorem State.setNum_keeps (s : State) (o : Obj) (v : Nat) : Keeps s (State.setNum s o v) := by
  unfold State.setNum
  repeat' first
    | with_reducible exact Keeps.refl _
    | with_reducible assumption
    | with_reducible apply Keeps.ite ?_ ?_
    | (simp only [Keeps.mk_iff]; with_reducible refine KeepsP.same ?_ rfl rfl rfl)
    | split

theorem State.bump_keeps (s : State) (o : Obj) (w : Nat) (n : Nat) : Keeps s (State.bump s o w n) := by
  unfold State.bump
  repeat' first
    | with_reducible exact Keeps.refl _
    | with_reducible assumption
    | with_reducible apply Keeps.ite ?_ ?_
    | with_reducible apply Keeps.trans ?_ (State.setNum_keeps ..)
    | (simp only [Keeps.mk_iff]; with_reducible refine KeepsP.same ?_ rfl rfl rfl)
    | split

theorem State.setBlob_keeps (s : State) (o : Obj) (b : List Byte) : Keeps s (State.setBlob s o b) := by
  unfold State.setBlob
  repeat' first
    | with_reducible exact Keeps.refl _
    | with_reducible assumption
    | with_reducible apply Keeps.ite ?_ ?_
    | (simp only [Keeps.mk_iff]; with_reducible refine KeepsP.same ?_ rfl rfl rfl)
    | split

theorem State.dropObjects_keeps (s : State) (p : Nat → Bool) : Keeps s (State.dropObjects s p) := by
  unfold State.dropObjects
  repeat' first
    | with_reducible exact Keeps.refl _
    | with_reducible assumption
    | with_reducible apply Keeps.ite ?_ ?_
    | (simp only [Keeps.mk_iff]; with_reducible refine KeepsP.same ?_ rfl rfl rfl)
    | split

theorem State.emit_keeps (s : State) (m : OutMsg) : Keeps s (State.emit s m) := by
  unfold State.emit
  repeat' first
    | with_reducible exact Keeps.refl _
    | with_reducible assumption
    | with_reducible apply Keeps.ite ?_ ?_
    | (simp only [Keeps.mk_iff]; with_reducible refine KeepsP.same ?_ rfl rfl rfl)
    | (simp only [Keeps.mk_iff]; with_reducible refine KeepsP.out_ ?_ rfl rfl rfl)
    | split

theorem State.send_keeps (s : State) (dest : Node) (b : Body) : Keeps s (State.send s dest b) := by
  unfold State.send
  repeat' first
    | with_reducible exact Keeps.refl _
    | with_reducible assumption
    | with_reducible apply Keeps.ite ?_ ?_
    | with_reducible apply Keeps.trans ?_ (State.emit_keeps ..)
    | (simp only [Keeps.mk_iff]; with_reducible refine KeepsP.same ?_ rfl rfl rfl)
    | split

theorem State.tally_keeps (s : State) (hbm sram fabric : Nat) : Keeps s (State.tally s hbm sram fabric) := by
  unfold State.tally
  repeat' first
    | with_reducible exact Keeps.refl _
    | with_reducible assumption
    | with_reducible apply Keeps.ite ?_ ?_
    | with_reducible apply Keeps.trans ?_ (fabric_keeps ..)
    | (simp only [Keeps.mk_iff]; with_reducible refine KeepsP.same ?_ rfl rfl rfl)
    | split

theorem State.drawNat_keeps (s : State) : Keeps s (State.drawNat s).2 := by
  unfold State.drawNat
  repeat' first
    | with_reducible exact Keeps.refl _
    | with_reducible assumption
    | with_reducible apply Keeps.ite ?_ ?_
    | with_reducible apply Keeps.ite2 ?_ ?_
    | with_reducible apply Keeps.ite1 ?_ ?_
    | (simp only [Keeps.mk_iff]; with_reducible refine KeepsP.same ?_ rfl rfl rfl)
    | (simp only [Keeps.mk_iff]; with_reducible refine KeepsP.draw ?_ rfl rfl rfl)
    | split

theorem State.drawBytes_keeps (s : State) (n : Nat) : Keeps s (State.drawBytes s n).2 := by
  unfold State.drawBytes
  repeat' first
    | with_reducible exact Keeps.refl _
    | with_reducible assumption
    | with_reducible apply Keeps.ite ?_ ?_
    | with_reducible apply Keeps.ite2 ?_ ?_
    | with_reducible apply Keeps.ite1 ?_ ?_
    | (simp only [Keeps.mk_iff]; with_reducible refine KeepsP.same ?_ rfl rfl rfl)
    | (simp only [Keeps.mk_iff]; with_reducible refine KeepsP.draw ?_ rfl rfl rfl)
    | split

theorem State.assertErr_keeps (s : State) : Keeps s (State.assertErr s) := by
  unfold State.assertErr
  repeat' first
    | with_reducible exact Keeps.refl _
    | with_reducible assumption
    | with_reducible apply Keeps.ite ?_ ?_
    | (simp only [Keeps.mk_iff]; with_reducible refine KeepsP.same ?_ rfl rfl rfl)
    | (simp only [Keeps.mk_iff]; with_reducible refine KeepsP.out_ ?_ rfl rfl rfl)
    | split

theorem State.releaseErr_keeps (s : State) : Keeps s (State.releaseErr s) := by
  unfold State.releaseErr
  repeat' first
    | with_reducible exact Keeps.refl _
    | with_reducible assumption
    | with_reducible apply Keeps.ite ?_ ?_
    | (simp only [Keeps.mk_iff]; with_reducible refine KeepsP.same ?_ rfl rfl rfl)
    | (simp only [Keeps.mk_iff]; with_reducible refine KeepsP.out_ ?_ rfl rfl rfl)
    | split

theorem State.vauxStore_keeps (s : State) (w : BitVec 128) (cls : Nat) : Keeps s (State.vauxStore s w cls) := by
  unfold State.vauxStore
  repeat' first
    | with_reducible exact Keeps.refl _
    | with_reducible assumption
    | with_reducible apply Keeps.ite ?_ ?_
    | (simp only [Keeps.mk_iff]; with_reducible refine KeepsP.same ?_ rfl rfl rfl)
    | split

theorem State.raise_keeps (s : State) (source part kind cls addr : Nat) :
    Keeps s (State.raise s source part kind cls addr) := by
  unfold State.raise
  repeat' first
    | with_reducible exact Keeps.refl _
    | with_reducible assumption
    | (extract_lets +onlyGivenNames x; first
        | (have h : State := x; clear h; with_reducible refine Keeps.gen x ?_ ?_; rotate_left; intro hx; clear_value x; rotate_left; subst x)
        | clear_value x
        | subst x)
    | with_reducible apply Keeps.ite ?_ ?_
    | with_reducible apply Keeps.trans ?_ (State.vauxStore_keeps ..)
    | with_reducible apply Keeps.trans ?_ (State.assertErr_keeps ..)
    | with_reducible apply Keeps.trans ?_ (State.bump_keeps ..)
    | (simp only [Keeps.mk_iff]; with_reducible refine KeepsP.same ?_ rfl rfl rfl)
    | split

theorem State.startHoldoff_keeps (s : State) (src : Nat) : Keeps s (State.startHoldoff s src) := by
  unfold State.startHoldoff
  repeat' first
    | with_reducible exact Keeps.refl _
    | with_reducible assumption
    | (extract_lets +onlyGivenNames x; first
        | (have h : State := x; clear h; with_reducible refine Keeps.gen x ?_ ?_; rotate_left; intro hx; clear_value x; rotate_left; subst x)
        | clear_value x
        | subst x)
    | with_reducible apply Keeps.ite ?_ ?_
    | (simp only [Keeps.mk_iff]; with_reducible refine KeepsP.same ?_ rfl rfl rfl)
    | split

theorem State.hostDeliver_keeps (s : State) (src : Nat) : Keeps s (State.hostDeliver s src) := by
  unfold State.hostDeliver
  try dsimp only
  repeat' first
    | with_reducible exact Keeps.refl _
    | with_reducible assumption
    | (extract_lets +onlyGivenNames x; first
        | (have h : State := x; clear h; with_reducible refine Keeps.gen x ?_ ?_; rotate_left; intro hx; clear_value x; rotate_left; subst x)
        | clear_value x
        | subst x)
    | with_reducible apply Keeps.ite ?_ ?_
    | with_reducible apply Keeps.trans ?_ (State.send_keeps ..)
    | with_reducible apply Keeps.trans ?_ (hostIrq_keeps ..)
    | with_reducible apply Keeps.trans ?_ (State.startHoldoff_keeps ..)
    | (simp only [Keeps.mk_iff]; with_reducible refine KeepsP.same ?_ rfl rfl rfl)
    | split

theorem State.icxFire_keeps (s : State) (src : Nat) : Keeps s (State.icxFire s src) := by
  unfold State.icxFire
  repeat' first
    | with_reducible exact Keeps.refl _
    | with_reducible assumption
    | (extract_lets +onlyGivenNames x; first
        | (have h : State := x; clear h; with_reducible refine Keeps.gen x ?_ ?_; rotate_left; intro hx; clear_value x; rotate_left; subst x)
        | (have h : _ → _ := x; clear h; subst x; try dsimp -zeta only)
        | clear_value x
        | subst x)
    | with_reducible apply Keeps.ite ?_ ?_
    | with_reducible apply Keeps.trans ?_ (State.hostDeliver_keeps ..)
    | (simp only [Keeps.mk_iff]; with_reducible refine KeepsP.same ?_ rfl rfl rfl)
    | split

theorem State.icxApply_keeps (s : State) (src : Nat) : Keeps s (State.icxApply s src) := by
  unfold State.icxApply
  repeat' first
    | with_reducible exact Keeps.refl _
    | with_reducible assumption
    | (extract_lets +onlyGivenNames x; first
        | (have h : State := x; clear h; with_reducible refine Keeps.gen x ?_ ?_; rotate_left; intro hx; clear_value x; rotate_left; subst x)
        | clear_value x
        | subst x)
    | with_reducible apply Keeps.ite ?_ ?_
    | with_reducible apply Keeps.trans ?_ (State.icxFire_keeps ..)
    | (simp only [Keeps.mk_iff]; with_reducible refine KeepsP.same ?_ rfl rfl rfl)
    | split

theorem State.icxEvent_keeps (s : State) (src : Nat) : Keeps s (State.icxEvent s src) := by
  unfold State.icxEvent
  repeat' first
    | with_reducible exact Keeps.refl _
    | with_reducible assumption
    | with_reducible apply Keeps.ite ?_ ?_
    | with_reducible apply Keeps.trans ?_ (State.icxApply_keeps ..)
    | (simp only [Keeps.mk_iff]; with_reducible refine KeepsP.same ?_ rfl rfl rfl)
    | split

theorem State.setPort_keeps (s : State) (p : Nat) (r : PortRt) : Keeps s (State.setPort s p r) := by
  unfold State.setPort
  repeat' first
    | with_reducible exact Keeps.refl _
    | with_reducible assumption
    | with_reducible apply Keeps.ite ?_ ?_
    | (simp only [Keeps.mk_iff]; with_reducible refine KeepsP.same ?_ rfl rfl rfl)
    | split

set_option linter.all false

set_option linter.all false

theorem State.putPort_keeps (s : State) (p : Nat) (r : PortRt) : Keeps s (State.putPort s p r) := by
  unfold State.putPort
  repeat' first
    | with_reducible exact Keeps.refl _
    | with_reducible assumption
    | (extract_lets +onlyGivenNames x; first
        | (have h : State := x; clear h; with_reducible refine Keeps.gen x ?_ ?_; rotate_left; intro hx; clear_value x; rotate_left; subst x)
        | clear_value x
        | subst x)
    | with_reducible apply Keeps.ite ?_ ?_
    | with_reducible apply Keeps.trans ?_ (State.setPort_keeps ..)
    | with_reducible apply Keeps.trans ?_ (State.icxEvent_keeps ..)
    | (simp only [Keeps.mk_iff]; with_reducible refine KeepsP.same ?_ rfl rfl rfl)
    | split

theorem State.freeScanned_keeps (s : State) : Keeps s (State.freeScanned s) := by
  unfold State.freeScanned
  repeat' first
    | with_reducible exact Keeps.refl _
    | with_reducible assumption
    | (extract_lets +onlyGivenNames x; first
        | (have h : State := x; clear h; with_reducible refine Keeps.gen x ?_ ?_; rotate_left; intro hx; clear_value x; rotate_left; subst x)
        | clear_value x
        | subst x)
    | with_reducible apply Keeps.foldl ?_ (fun _ _ => ?_)
    | with_reducible apply Keeps.foldl2 ?_ (fun _ _ => ?_)
    | with_reducible apply Keeps.foldl1 ?_ (fun _ _ => ?_)
    | with_reducible apply Keeps.ite ?_ ?_
    | with_reducible apply Keeps.trans ?_ (State.putPort_keeps ..)
    | (simp only [Keeps.mk_iff]; with_reducible refine KeepsP.same ?_ rfl rfl rfl)
    | split

theorem State.setMirror_keeps (s : State) (st : MirrorState) : Keeps s (State.setMirror s st) := by
  unfold State.setMirror
  repeat' first
    | with_reducible exact Keeps.refl _
    | with_reducible assumption
    | (extract_lets +onlyGivenNames x; first
        | (have h : State := x; clear h; with_reducible refine Keeps.gen x ?_ ?_; rotate_left; intro hx; clear_value x; rotate_left; subst x)
        | clear_value x
        | subst x)
    | with_reducible apply Keeps.ite ?_ ?_
    | with_reducible apply Keeps.trans ?_ (State.icxEvent_keeps ..)
    | (simp only [Keeps.mk_iff]; with_reducible refine KeepsP.same ?_ rfl rfl rfl)
    | split

theorem State.loseCopies_keeps (s : State) (pages : Nat → Bool) : Keeps s (State.loseCopies s pages) := by
  unfold State.loseCopies
  repeat' first
    | with_reducible exact Keeps.refl _
    | with_reducible assumption
    | (extract_lets +onlyGivenNames x; first
        | (have h : State := x; clear h; with_reducible refine Keeps.gen x ?_ ?_; rotate_left; intro hx; clear_value x; rotate_left; subst x)
        | (have h : _ → _ := x; clear h; subst x; try dsimp -zeta only)
        | clear_value x
        | subst x)
    | with_reducible apply Keeps.ite ?_ ?_
    | (simp only [Keeps.mk_iff]; with_reducible refine KeepsP.same ?_ rfl rfl rfl)
    | split

theorem State.afterMargin_keeps (s : State) : Keeps s (State.afterMargin s) := by
  unfold State.afterMargin
  dsimp only
  refine Keeps.trans ?_ (State.loseCopies_keeps ..)
  simp only [Keeps.mk_iff]
  exact KeepsP.mem_ (Keeps.refl s) rfl rfl (initStacks_wf _ _)

theorem State.abortTests_keeps (s : State) : Keeps s (State.abortTests s) := by
  unfold State.abortTests
  repeat' first
    | with_reducible exact Keeps.refl _
    | with_reducible assumption
    | (extract_lets +onlyGivenNames x; first
        | (have h : State := x; clear h; with_reducible refine Keeps.gen x ?_ ?_; rotate_left; intro hx; clear_value x; rotate_left; subst x)
        | clear_value x
        | subst x)
    | with_reducible apply Keeps.ite ?_ ?_
    | with_reducible apply Keeps.trans ?_ (State.setNum_keeps ..)
    | with_reducible apply Keeps.trans ?_ (State.afterMargin_keeps ..)
    | with_reducible apply Keeps.trans ?_ (State.freeScanned_keeps ..)
    | (simp only [Keeps.mk_iff]; with_reducible refine KeepsP.same ?_ rfl rfl rfl)
    | split

theorem State.fence_keeps (s : State) : Keeps s (State.fence s) := by
  unfold State.fence
  repeat' first
    | with_reducible exact Keeps.refl _
    | with_reducible assumption
    | with_reducible apply Keeps.ite ?_ ?_
    | (simp only [Keeps.mk_iff]; with_reducible refine KeepsP.same ?_ rfl rfl rfl)
    | split

theorem State.abortLoad_keeps (s : State) (status detail : Nat) : Keeps s (State.abortLoad s status detail) := by
  unfold State.abortLoad
  repeat' first
    | with_reducible exact Keeps.refl _
    | with_reducible assumption
    | (extract_lets +onlyGivenNames x; first
        | (have h : State := x; clear h; with_reducible refine Keeps.gen x ?_ ?_; rotate_left; intro hx; clear_value x; rotate_left; subst x)
        | clear_value x
        | subst x)
    | with_reducible apply Keeps.ite ?_ ?_
    | with_reducible apply Keeps.trans ?_ (State.setNum_keeps ..)
    | with_reducible apply Keeps.trans ?_ (State.icxEvent_keeps ..)
    | (simp only [Keeps.mk_iff]; with_reducible refine KeepsP.same ?_ rfl rfl rfl)
    | split

theorem State.saveFault_keeps (s : State) (m : FaultMsg) : Keeps s (State.saveFault s m) := by
  unfold State.saveFault
  repeat' first
    | with_reducible exact Keeps.refl _
    | with_reducible assumption
    | (extract_lets +onlyGivenNames x; first
        | (have h : State := x; clear h; with_reducible refine Keeps.gen x ?_ ?_; rotate_left; intro hx; clear_value x; rotate_left; subst x)
        | clear_value x
        | subst x)
    | with_reducible apply Keeps.ite ?_ ?_
    | with_reducible apply Keeps.trans ?_ (State.vauxStore_keeps ..)
    | with_reducible apply Keeps.trans ?_ (State.assertErr_keeps ..)
    | (simp only [Keeps.mk_iff]; with_reducible refine KeepsP.same ?_ rfl rfl rfl)
    | split

theorem State.saveFaults_keeps (s : State) : Keeps s (State.saveFaults s) := by
  unfold State.saveFaults
  repeat' first
    | with_reducible exact Keeps.refl _
    | with_reducible assumption
    | with_reducible apply Keeps.foldl ?_ (fun _ _ => ?_)
    | with_reducible apply Keeps.foldl2 ?_ (fun _ _ => ?_)
    | with_reducible apply Keeps.foldl1 ?_ (fun _ _ => ?_)
    | with_reducible apply Keeps.ite ?_ ?_
    | with_reducible apply Keeps.trans ?_ (State.saveFault_keeps ..)
    | (simp only [Keeps.mk_iff]; with_reducible refine KeepsP.same ?_ rfl rfl rfl)
    | split

theorem State.settleRequest_keeps (s : State) : Keeps s (State.settleRequest s) := by
  unfold State.settleRequest
  repeat' first
    | with_reducible exact Keeps.refl _
    | with_reducible assumption
    | (extract_lets +onlyGivenNames x; first
        | (have h : State := x; clear h; with_reducible refine Keeps.gen x ?_ ?_; rotate_left; intro hx; clear_value x; rotate_left; subst x)
        | (have h : State := x.2; clear h; with_reducible refine Keeps.gen x.2 ?_ ?_; rotate_left; intro hx; clear_value x; rotate_left; subst x)
        | (have h : State := x.1; clear h; with_reducible refine Keeps.gen x.1 ?_ ?_; rotate_left; intro hx; clear_value x; rotate_left; subst x)
        | (have h : PkgUnit := x; clear h; subst x)
        | clear_value x
        | subst x)
    | with_reducible apply Keeps.ite ?_ ?_
    | with_reducible apply Keeps.trans ?_ (request_keeps ..)
    | (simp only [Keeps.mk_iff]; with_reducible refine KeepsP.same ?_ rfl rfl rfl)
    | split

theorem State.newTick_keeps (s : State) : Keeps s (State.newTick s) := by
  unfold State.newTick
  repeat' first
    | with_reducible exact Keeps.refl _
    | with_reducible assumption
    | with_reducible apply Keeps.ite ?_ ?_
    | (simp only [Keeps.mk_iff]; with_reducible refine KeepsP.same ?_ rfl rfl rfl)
    | split

theorem State.hubReset_kept (s : State) : Kept₀ s (State.hubReset s) := ⟨rfl, id, ⟨[], (List.append_nil _).symm⟩, Nat.le_refl _, Nat.le_refl _⟩

theorem State.enter_kept (s : State) (t : PkgState) : Kept₀ s (State.enter s t) := by
  have h := (State.abortTests_keeps s).toKept₀
  unfold State.enter
  dsimp only
  generalize State.abortTests s = u at h ⊢
  have r := h.trans ((State.saveFaults_keeps u).toKept₀.trans (State.hubReset_kept u.saveFaults))
  have k := h.trans (State.abortLoad_keeps u 0x0C 0).toKept₀
  generalize u.abortLoad 0x0C 0 = w at k ⊢
  obtain ⟨a, b, c, d, e⟩ := h
  obtain ⟨a', b', c', d', e'⟩ := k
  cases t
  case halt => exact ⟨r.queue, r.mem, r.out, r.fuses, r.free⟩
  case off => exact ⟨a, fun _ => rfl, c, d, e⟩
  case stopped => exact ⟨a', b', c', d', e'⟩
  case grave => exact ⟨a', b', c', d', e'⟩
  all_goals exact ⟨a, b, c, d, e⟩

theorem State.enter_st (s : State) (t : PkgState) : (State.enter s t).pkg.st = t := rfl

/-- A transition does nothing, or enters its target along the table (00 R12, R16). -/
theorem State.transition_cases (s : State) (t : PkgState) :
    s.transition t = s ∨
      ∃ ts, s.transition t = { s.enter t with pkg := { (s.enter t).pkg with tickStart := ts, taken := some t } } ∧ edge s.pkg.st t = true := by
  unfold State.transition
  dsimp only
  split
  · split
    · split
      · rename_i hr
        exact .inr ⟨_, rfl, by simp at hr; exact hr.2⟩
      · exact .inl rfl
    · split
      · rename_i he
        exact .inr ⟨_, rfl, he⟩
      · exact .inl rfl
  · by_cases he : edge s.pkg.st t = true
    · split <;> split <;> first | trivial | exact .inl rfl | exact .inr ⟨_, rfl, he⟩
    · simp only [he, Bool.false_and, Bool.false_eq_true, if_false]; exact .inl trivial

theorem State.transition_kept (s : State) (t : PkgState) : Kept₀ s (State.transition s t) := by
  rcases State.transition_cases s t with h | ⟨ts, h, -⟩
  · rw [h]; exact Kept₀.refl s
  · rw [h]
    obtain ⟨a, b, c, d, e⟩ := State.enter_kept s t
    exact ⟨a, b, c, d, e⟩

theorem State.drain_keeps (s : State) : Keeps s (State.transition s .draining) := by
  refine ⟨State.transition_kept s _, ?_⟩
  rcases State.transition_cases s .draining with h | ⟨ts, h, k⟩
  · rw [h]; exact .inl rfl
  · rw [h]; exact .inr ⟨rfl, k⟩

/-- What follows DRAINING within a command: the ends that every running state has, and DRAINED. -/
theorem edge_draining {a t : PkgState} (h : edge a .draining = true) (k : t.rank < PkgState.draining.rank) : edge a t = true := by
  cases a <;> cases t <;> first | rfl | (revert h; decide) | (revert k; decide)

theorem edge_from_draining {t : PkgState} (h : edge .draining t = true) : t = .drained ∨ t.rank < PkgState.draining.rank := by
  cases t <;> first | (exact .inl rfl) | (right; decide) | cases h

/-- Operations that keep, a transition, operations that keep: the package moves along the table. -/
theorem State.transition_moved {s y v : State} {t : PkgState} (h : Keeps s y) (k : Keeps (State.transition y t) v)
    (hd : t = .drained → y.pkg.st = .draining → edge s.pkg.st .drained = true) : Moved s v := by
  refine ⟨(h.toKept₀.trans (State.transition_kept y t)).trans k.toKept₀, ?_⟩
  have hy := h.st
  have hv := k.st
  rcases State.transition_cases y t with e | ⟨ts, e, c⟩
  · rw [e] at hv
    exact (Keeps.moved ⟨h.toKept₀.trans ((State.transition_kept y t).trans k.toKept₀), hy.trans hv⟩).st
  · rw [e] at hv
    have st : ({ y.enter t with pkg := { (y.enter t).pkg with tickStart := ts, taken := some t } } : State).pkg.st = t := rfl
    generalize ({ y.enter t with pkg := { (y.enter t).pkg with tickStart := ts, taken := some t } } : State) = u at *
    clear k h e
    -- the target as seen from s
    have ht : allowed s t := by
      rcases hy with h1 | ⟨h1, h3⟩
      · unfold allowed; rw [← h1]; exact c
      · rw [h1] at c
        rcases edge_from_draining c with rfl | hr
        · exact hd rfl h1
        · exact edge_draining h3 hr
    rcases hv with v1 | ⟨v1, v3⟩
    · exact .inr (.inl (by rw [v1, st]; exact ht))
    · exact .inr (.inr ⟨v1, t, ht, by rw [← st]; exact v3⟩)

theorem State.clockEvent_keeps (s : State) (n : Nat) : Keeps s (State.clockEvent s n) := by
  unfold State.clockEvent
  repeat' first
    | with_reducible exact Keeps.refl _
    | with_reducible assumption
    | with_reducible apply Keeps.ite ?_ ?_
    | with_reducible apply Keeps.trans ?_ (State.icxEvent_keeps ..)
    | (simp only [Keeps.mk_iff]; with_reducible refine KeepsP.same ?_ rfl rfl rfl)
    | split

end Sys2Proof.Machine
end

