-- ==== Sys2Proof/Laws/KeepsMerge.lean ====
section
/-! SUPPORT. Keeps for the operations of Machine/Merge.lean. -/

namespace Sys2Proof.Machine

set_option linter.all false

theorem State.endSessions_keeps (s : State) (p : Nat → Session → Bool) (code : Nat) :
    Keeps s (State.endSessions s p code) := by
  unfold State.endSessions
  repeat' first
    | with_reducible exact Keeps.refl _
    | with_reducible assumption
    | with_reducible apply Keeps.ite ?_ ?_
    | (simp only [Keeps.mk_iff]; with_reducible refine KeepsP.same ?_ rfl rfl rfl)
    | split

theorem State.shardLost_keeps (s : State) (n : Node) (members : List Node) (covered : Bool) :
    Keeps s (State.shardLost s n members covered) := by
  unfold State.shardLost
  repeat' first
    | with_reducible exact Keeps.refl _
    | with_reducible assumption
    | (extract_lets +onlyGivenNames x; first
        | (have h : State := x; clear h; with_reducible refine Keeps.gen x ?_ ?_; rotate_left; intro hx; clear_value x; rotate_left; subst x)
        | clear_value x
        | subst x)
    | with_reducible apply Keeps.foldl ?_ (fun _ _ => ?_)
    | with_reducible apply Keeps.foldl2 ?_ (fun _ _ => ?_)
    | with_reducible apply Keeps.foldl1 ?_ (fun _ _ => ?_)
    | with_reducible apply Keeps.ite ?_ ?_
    | with_reducible apply Keeps.trans ?_ (State.drain_keeps ..)
    | with_reducible apply Keeps.trans ?_ (State.send_keeps ..)
    | with_reducible apply Keeps.trans ?_ (shardDown_keeps ..)
    | with_reducible apply Keeps.trans ?_ (State.raise_keeps ..)
    | with_reducible apply Keeps.trans ?_ (State.icxEvent_keeps ..)
    | with_reducible apply Keeps.trans ?_ (State.endSessions_keeps ..)
    | (simp only [Keeps.mk_iff]; with_reducible refine KeepsP.same ?_ rfl rfl rfl)
    | split

theorem State.hbmRecord_keeps (s : State) (w typ source syn : Nat) : Keeps s (State.hbmRecord s w typ source syn) := by
  unfold State.hbmRecord
  repeat' first
    | with_reducible exact Keeps.refl _
    | with_reducible assumption
    | (extract_lets +onlyGivenNames x; first
        | (have h : State := x; clear h; with_reducible refine Keeps.gen x ?_ ?_; rotate_left; intro hx; clear_value x; rotate_left; subst x)
        | (have h : MemUnit := x; clear h; subst x)
        | clear_value x
        | subst x)
    | with_reducible apply Keeps.ite ?_ ?_
    | with_reducible apply Keeps.trans ?_ (State.icxEvent_keeps ..)
    | (simp only [Keeps.mk_iff]; with_reducible refine KeepsP.same ?_ rfl rfl rfl)
    | split

theorem State.memFault_keeps (s : State) (w kind cls : Nat) : Keeps s (State.memFault s w kind cls) := by
  unfold State.memFault
  repeat' first
    | with_reducible exact Keeps.refl _
    | with_reducible assumption
    | with_reducible apply Keeps.ite ?_ ?_
    | with_reducible apply Keeps.trans ?_ (State.raise_keeps ..)
    | (simp only [Keeps.mk_iff]; with_reducible refine KeepsP.same ?_ rfl rfl rfl)
    | split

theorem State.correctWord_keeps (s : State) (w source : Nat) (r : Reading) (again : RawRead) :
    Keeps s (State.correctWord s w source r again) := by
  unfold State.correctWord
  repeat' first
    | with_reducible exact Keeps.refl _
    | with_reducible assumption
    | (extract_lets +onlyGivenNames x; first
        | (have h : State := x; clear h; with_reducible refine Keeps.gen x ?_ ?_; rotate_left; intro hx; clear_value x; rotate_left; subst x)
        | (have h : State := x.2; clear h; with_reducible refine Keeps.gen x.2 ?_ ?_; rotate_left; intro hx; clear_value x; rotate_left; subst x)
        | (have h : State := x.1; clear h; with_reducible refine Keeps.gen x.1 ?_ ?_; rotate_left; intro hx; clear_value x; rotate_left; subst x)
        | clear_value x
        | subst x)
    | with_reducible apply Keeps.ite ?_ ?_
    | with_reducible apply Keeps.trans ?_ (State.bump_keeps ..)
    | with_reducible apply Keeps.trans ?_ (State.storeWord_keeps ..)
    | with_reducible apply Keeps.trans ?_ (State.hbmRecord_keeps ..)
    | (simp only [Keeps.mk_iff]; with_reducible refine KeepsP.same ?_ rfl rfl rfl)
    | split

theorem State.poisonWord_keeps (s : State) (w : Nat) (d : List Byte) (source : Nat) :
    Keeps s (State.poisonWord s w d source) := by
  unfold State.poisonWord
  repeat' first
    | with_reducible exact Keeps.refl _
    | with_reducible assumption
    | with_reducible apply Keeps.ite ?_ ?_
    | with_reducible apply Keeps.trans ?_ (State.storePoison_keeps ..)
    | with_reducible apply Keeps.trans ?_ (State.bump_keeps ..)
    | with_reducible apply Keeps.trans ?_ (State.hbmRecord_keeps ..)
    | (simp only [Keeps.mk_iff]; with_reducible refine KeepsP.same ?_ rfl rfl rfl)
    | split

theorem State.unrecovered_keeps (s : State) (w : Nat) : Keeps s (State.unrecovered s w) := by
  unfold State.unrecovered
  repeat' first
    | with_reducible exact Keeps.refl _
    | with_reducible assumption
    | with_reducible apply Keeps.ite ?_ ?_
    | with_reducible apply Keeps.trans ?_ (State.memFault_keeps ..)
    | with_reducible apply Keeps.trans ?_ (State.shardLost_keeps ..)
    | (simp only [Keeps.mk_iff]; with_reducible refine KeepsP.same ?_ rfl rfl rfl)
    | split

theorem State.badWord_keeps (s : State) (w source : Nat) (who : Option Requester) (r r2 : Reading) :
    Keeps s (State.badWord s w source who r r2).2 := by
  unfold State.badWord
  repeat' first
    | with_reducible exact Keeps.refl _
    | with_reducible assumption
    | (extract_lets +onlyGivenNames x; first
        | (have h : State := x; clear h; with_reducible refine Keeps.gen x ?_ ?_; rotate_left; intro hx; clear_value x; rotate_left; subst x)
        | (have h : State := x.2; clear h; with_reducible refine Keeps.gen x.2 ?_ ?_; rotate_left; intro hx; clear_value x; rotate_left; subst x)
        | (have h : State := x.1; clear h; with_reducible refine Keeps.gen x.1 ?_ ?_; rotate_left; intro hx; clear_value x; rotate_left; subst x)
        | (have h : MemUnit := x; clear h; subst x)
        | clear_value x
        | subst x)
    | with_reducible apply Keeps.ite ?_ ?_
    | with_reducible apply Keeps.ite2 ?_ ?_
    | with_reducible apply Keeps.ite1 ?_ ?_
    | with_reducible apply Keeps.trans ?_ (State.bump_keeps ..)
    | with_reducible apply Keeps.trans ?_ (State.hbmRecord_keeps ..)
    | with_reducible apply Keeps.trans ?_ (State.memFault_keeps ..)
    | with_reducible apply Keeps.trans ?_ (State.poisonWord_keeps ..)
    | with_reducible apply Keeps.trans ?_ (State.unrecovered_keeps ..)
    | with_reducible apply Keeps.trans ?_ (State.send_keeps ..)
    | with_reducible apply Keeps.trans ?_ (twinFetch_keeps ..)
    | (simp only [Keeps.mk_iff]; with_reducible refine KeepsP.same ?_ rfl rfl rfl)
    | split

theorem State.readPath_keeps (s : State) (w source : Nat) (who : Option Requester) (first again : RawRead) :
    Keeps s (State.readPath s w source who first again).2 := by
  unfold State.readPath
  repeat' first
    | with_reducible exact Keeps.refl _
    | with_reducible assumption
    | (extract_lets +onlyGivenNames x; first
        | (have h : State := x; clear h; with_reducible refine Keeps.gen x ?_ ?_; rotate_left; intro hx; clear_value x; rotate_left; subst x)
        | (have h : State := x.2; clear h; with_reducible refine Keeps.gen x.2 ?_ ?_; rotate_left; intro hx; clear_value x; rotate_left; subst x)
        | (have h : State := x.1; clear h; with_reducible refine Keeps.gen x.1 ?_ ?_; rotate_left; intro hx; clear_value x; rotate_left; subst x)
        | clear_value x
        | subst x)
    | with_reducible apply Keeps.ite ?_ ?_
    | with_reducible apply Keeps.ite2 ?_ ?_
    | with_reducible apply Keeps.ite1 ?_ ?_
    | with_reducible apply Keeps.trans ?_ (State.tally_keeps ..)
    | with_reducible apply Keeps.trans ?_ (State.correctWord_keeps ..)
    | with_reducible apply Keeps.trans ?_ (State.hbmRecord_keeps ..)
    | with_reducible apply Keeps.trans ?_ (State.bump_keeps ..)
    | with_reducible apply Keeps.trans ?_ (State.memFault_keeps ..)
    | with_reducible apply Keeps.trans ?_ (State.badWord_keeps ..)
    | (simp only [Keeps.mk_iff]; with_reducible refine KeepsP.same ?_ rfl rfl rfl)
    | with_reducible apply Keeps.of2 (by with_reducible assumption) (State.badWord_keeps ..)
    | split

theorem State.dropEntry_keeps (s : State) (w : Nat) : Keeps s (State.dropEntry s w) := by
  unfold State.dropEntry
  repeat' first
    | with_reducible exact Keeps.refl _
    | with_reducible assumption
    | (extract_lets +onlyGivenNames x; first
        | (have h : State := x; clear h; with_reducible refine Keeps.gen x ?_ ?_; rotate_left; intro hx; clear_value x; rotate_left; subst x)
        | (have h : MemUnit := x; clear h; subst x)
        | clear_value x
        | subst x)
    | with_reducible apply Keeps.ite ?_ ?_
    | (simp only [Keeps.mk_iff]; with_reducible refine KeepsP.same ?_ rfl rfl rfl)
    | split

theorem State.storeMerged_keeps (s : State) (e : MergeEntry) : Keeps s (State.storeMerged s e) := by
  unfold State.storeMerged
  repeat' first
    | with_reducible exact Keeps.refl _
    | with_reducible assumption
    | with_reducible apply Keeps.ite ?_ ?_
    | with_reducible apply Keeps.trans ?_ (State.dropEntry_keeps ..)
    | with_reducible apply Keeps.trans ?_ (State.storePoison_keeps ..)
    | (simp only [Keeps.mk_iff]; with_reducible refine KeepsP.same ?_ rfl rfl rfl)
    | split

theorem State.flushEntry_keeps (s : State) (e : MergeEntry) (first again : RawRead) :
    Keeps s (State.flushEntry s e first again) := by
  unfold State.flushEntry
  repeat' first
    | with_reducible exact Keeps.refl _
    | with_reducible assumption
    | with_reducible apply Keeps.ite ?_ ?_
    | with_reducible apply Keeps.trans ?_ (State.readPath_keeps ..)
    | with_reducible apply Keeps.trans ?_ (State.dropEntry_keeps ..)
    | with_reducible apply Keeps.trans ?_ (State.storeWord_keeps ..)
    | with_reducible apply Keeps.trans ?_ (State.storeMerged_keeps ..)
    | with_reducible apply Keeps.trans ?_ (State.bump_keeps ..)
    | with_reducible apply Keeps.trans ?_ (State.hbmRecord_keeps ..)
    | (simp only [Keeps.mk_iff]; with_reducible refine KeepsP.same ?_ rfl rfl rfl)
    | with_reducible apply Keeps.of2 (by with_reducible assumption) (State.readPath_keeps ..)
    | with_reducible apply Keeps.trans ?_ (State.storePoison_keeps ..)
    | split

theorem State.openEntry_keeps (s : State) (e : MergeEntry) : Keeps s (State.openEntry s e) := by
  unfold State.openEntry
  repeat' first
    | with_reducible exact Keeps.refl _
    | with_reducible assumption
    | (extract_lets +onlyGivenNames x; first
        | (have h : State := x; clear h; with_reducible refine Keeps.gen x ?_ ?_; rotate_left; intro hx; clear_value x; rotate_left; subst x)
        | (have h : MemUnit := x; clear h; subst x)
        | (have h : _ → _ := x; clear h; subst x; try dsimp -zeta only)
        | clear_value x
        | subst x)
    | with_reducible apply Keeps.foldl ?_ (fun _ _ => ?_)
    | with_reducible apply Keeps.foldl2 ?_ (fun _ _ => ?_)
    | with_reducible apply Keeps.foldl1 ?_ (fun _ _ => ?_)
    | with_reducible apply Keeps.ite ?_ ?_
    | with_reducible apply Keeps.trans ?_ (State.flushEntry_keeps ..)
    | (simp only [Keeps.mk_iff]; with_reducible refine KeepsP.same ?_ rfl rfl rfl)
    | split

theorem State.writeWord_keeps (s : State) (w off : Nat) (d : List Byte) (tag : BitVec 16) :
    Keeps s (State.writeWord s w off d tag) := by
  unfold State.writeWord
  repeat' first
    | with_reducible exact Keeps.refl _
    | with_reducible assumption
    | (extract_lets +onlyGivenNames x; first
        | (have h : State := x; clear h; with_reducible refine Keeps.gen x ?_ ?_; rotate_left; intro hx; clear_value x; rotate_left; subst x)
        | (have h : MemUnit := x; clear h; subst x)
        | clear_value x
        | subst x)
    | with_reducible apply Keeps.ite ?_ ?_
    | with_reducible apply Keeps.trans ?_ (State.dropEntry_keeps ..)
    | with_reducible apply Keeps.trans ?_ (State.storeWord_keeps ..)
    | with_reducible apply Keeps.trans ?_ (State.openEntry_keeps ..)
    | (simp only [Keeps.mk_iff]; with_reducible refine KeepsP.same ?_ rfl rfl rfl)
    | split

theorem State.hbmPut_keeps (s : State) (a : Nat) (d : List Byte) (tag : BitVec 16) :
    Keeps s (State.hbmPut s a d tag) := by
  unfold State.hbmPut
  repeat' first
    | with_reducible exact Keeps.refl _
    | with_reducible assumption
    | with_reducible apply Keeps.foldl ?_ (fun _ _ => ?_)
    | with_reducible apply Keeps.foldl2 ?_ (fun _ _ => ?_)
    | with_reducible apply Keeps.foldl1 ?_ (fun _ _ => ?_)
    | with_reducible apply Keeps.ite ?_ ?_
    | with_reducible apply Keeps.trans ?_ (State.writeWord_keeps ..)
    | with_reducible apply Keeps.trans ?_ (State.tally_keeps ..)
    | (simp only [Keeps.mk_iff]; with_reducible refine KeepsP.same ?_ rfl rfl rfl)
    | split

theorem State.flushStack_keeps (s : State) (st : Nat) : Keeps s (State.flushStack s st) := by
  unfold State.flushStack
  repeat' first
    | with_reducible exact Keeps.refl _
    | with_reducible assumption
    | with_reducible apply Keeps.foldl ?_ (fun _ _ => ?_)
    | with_reducible apply Keeps.foldl2 ?_ (fun _ _ => ?_)
    | with_reducible apply Keeps.foldl1 ?_ (fun _ _ => ?_)
    | with_reducible apply Keeps.ite ?_ ?_
    | with_reducible apply Keeps.trans ?_ (State.flushEntry_keeps ..)
    | (simp only [Keeps.mk_iff]; with_reducible refine KeepsP.same ?_ rfl rfl rfl)
    | split

theorem State.flushAll_keeps (s : State) : Keeps s (State.flushAll s) := by
  unfold State.flushAll
  repeat' first
    | with_reducible exact Keeps.refl _
    | with_reducible assumption
    | with_reducible apply Keeps.foldl ?_ (fun _ _ => ?_)
    | with_reducible apply Keeps.foldl2 ?_ (fun _ _ => ?_)
    | with_reducible apply Keeps.foldl1 ?_ (fun _ _ => ?_)
    | with_reducible apply Keeps.ite ?_ ?_
    | with_reducible apply Keeps.trans ?_ (State.flushStack_keeps ..)
    | (simp only [Keeps.mk_iff]; with_reducible refine KeepsP.same ?_ rfl rfl rfl)
    | split

theorem State.badPaths_keeps (s : State) (l : List (Nat × Nat)) : Keeps s (State.badPaths s l) := by
  unfold State.badPaths
  repeat' first
    | with_reducible exact Keeps.refl _
    | with_reducible assumption
    | with_reducible apply Keeps.foldl ?_ (fun _ _ => ?_)
    | with_reducible apply Keeps.foldl2 ?_ (fun _ _ => ?_)
    | with_reducible apply Keeps.foldl1 ?_ (fun _ _ => ?_)
    | with_reducible apply Keeps.ite ?_ ?_
    | with_reducible apply Keeps.trans ?_ (State.readPath_keeps ..)
    | (simp only [Keeps.mk_iff]; with_reducible refine KeepsP.same ?_ rfl rfl rfl)
    | with_reducible apply Keeps.of2 (by with_reducible assumption) (State.readPath_keeps ..)
    | split

theorem State.tallyReads_keeps (s : State) (l : List (Nat × Nat)) : Keeps s (State.tallyReads s l) := by
  unfold State.tallyReads
  repeat' first
    | with_reducible exact Keeps.refl _
    | with_reducible assumption
    | with_reducible apply Keeps.ite ?_ ?_
    | with_reducible apply Keeps.trans ?_ (State.tally_keeps ..)
    | (simp only [Keeps.mk_iff]; with_reducible refine KeepsP.same ?_ rfl rfl rfl)
    | split

theorem State.readBad_keeps (s : State) (l : List (Nat × Nat)) : Keeps s (State.readBad s l) := by
  unfold State.readBad
  repeat' first
    | with_reducible exact Keeps.refl _
    | with_reducible assumption
    | with_reducible apply Keeps.ite ?_ ?_
    | with_reducible apply Keeps.trans ?_ (State.badPaths_keeps ..)
    | with_reducible apply Keeps.trans ?_ (State.tallyReads_keeps ..)
    | (simp only [Keeps.mk_iff]; with_reducible refine KeepsP.same ?_ rfl rfl rfl)
    | with_reducible apply Keeps.foldl ?_ (fun _ _ => ?_)
    | with_reducible apply Keeps.foldl2 ?_ (fun _ _ => ?_)
    | with_reducible apply Keeps.foldl1 ?_ (fun _ _ => ?_)
    | with_reducible apply Keeps.trans ?_ (State.readPath_keeps ..)
    | with_reducible apply Keeps.trans ?_ (State.tally_keeps ..)
    | with_reducible apply Keeps.of2 (by with_reducible assumption) (State.readPath_keeps ..)
    | split

theorem State.pokeAs_keeps (s : State) (odd : Bool) (scaleExp a : Nat) (d : List Byte) :
    Keeps s (State.pokeAs s odd scaleExp a d) := by
  unfold State.pokeAs
  repeat' first
    | with_reducible exact Keeps.refl _
    | with_reducible assumption
    | with_reducible apply Keeps.ite ?_ ?_
    | with_reducible apply Keeps.trans ?_ (State.sramPut_keeps ..)
    | with_reducible apply Keeps.trans ?_ (State.tally_keeps ..)
    | with_reducible apply Keeps.trans ?_ (State.hbmPut_keeps ..)
    | (simp only [Keeps.mk_iff]; with_reducible refine KeepsP.same ?_ rfl rfl rfl)
    | split

theorem State.poke_keeps (s : State) (a : Nat) (d : List Byte) : Keeps s (State.poke s a d) := State.pokeAs_keeps ..

end Sys2Proof.Machine
end

