-- ==== Sys2Proof/Laws/KeepsDictBase.lean ====
section
/-! SUPPORT. Keeps for the operations of Machine/DictBase.lean. -/

namespace Sys2Proof.Machine

set_option linter.all false

theorem State.storeNum_keeps (s : State) (key v : Nat) : Keeps s (State.storeNum s key v) := by
  unfold State.storeNum
  repeat' first
    | with_reducible exact Keeps.refl _
    | with_reducible assumption
    | (extract_lets +onlyGivenNames x; first
        | (have h : State := x; clear h; with_reducible refine Keeps.gen x ?_ ?_; rotate_left; intro hx; clear_value x; rotate_left; subst x)
        | clear_value x
        | subst x)
    | with_reducible apply Keeps.ite ?_ ?_
    | with_reducible apply Keeps.trans ?_ (State.setNum_keeps ..)
    | (simp only [Keeps.mk_iff]; with_reducible refine KeepsP.same ?_ rfl rfl rfl)
    | split

theorem State.keystoneFault_keeps (s : State) (key : Nat) : Keeps s (State.keystoneFault s key) := by
  unfold State.keystoneFault
  repeat' first
    | with_reducible exact Keeps.refl _
    | with_reducible assumption
    | with_reducible apply Keeps.ite ?_ ?_
    | with_reducible apply Keeps.trans ?_ (State.raise_keeps ..)
    | (simp only [Keeps.mk_iff]; with_reducible refine KeepsP.same ?_ rfl rfl rfl)
    | split

theorem State.recordResult_keeps (s : State) (key code : Nat) : Keeps s (State.recordResult s key code) := by
  unfold State.recordResult
  repeat' first
    | with_reducible exact Keeps.refl _
    | with_reducible assumption
    | (extract_lets +onlyGivenNames x; first
        | (have h : State := x; clear h; with_reducible refine Keeps.gen x ?_ ?_; rotate_left; intro hx; clear_value x; rotate_left; subst x)
        | (have h : State := x.2; clear h; with_reducible refine Keeps.gen x.2 ?_ ?_; rotate_left; intro hx; clear_value x; rotate_left; subst x)
        | (have h : State := x.1; clear h; with_reducible refine Keeps.gen x.1 ?_ ?_; rotate_left; intro hx; clear_value x; rotate_left; subst x)
        | clear_value x
        | subst x)
    | with_reducible apply Keeps.ite ?_ ?_
    | (simp only [Keeps.mk_iff]; with_reducible refine KeepsP.same ?_ rfl rfl rfl)
    | split

theorem State.storeVal_keeps (s : State) (key : Nat) (v : ObjVal) : Keeps s (State.storeVal s key v) := by
  unfold State.storeVal
  repeat' first
    | with_reducible exact Keeps.refl _
    | with_reducible assumption
    | with_reducible apply Keeps.ite ?_ ?_
    | with_reducible apply Keeps.trans ?_ (State.storeNum_keeps ..)
    | (simp only [Keeps.mk_iff]; with_reducible refine KeepsP.same ?_ rfl rfl rfl)
    | split

theorem State.relationPass_keeps (s : State) : Keeps s (State.relationPass s) := by
  unfold State.relationPass
  repeat' first
    | with_reducible exact Keeps.refl _
    | with_reducible assumption
    | with_reducible apply Keeps.foldl ?_ (fun _ _ => ?_)
    | with_reducible apply Keeps.foldl2 ?_ (fun _ _ => ?_)
    | with_reducible apply Keeps.foldl1 ?_ (fun _ _ => ?_)
    | with_reducible apply Keeps.ite ?_ ?_
    | with_reducible apply Keeps.trans ?_ (State.storeNum_keeps ..)
    | with_reducible apply Keeps.trans ?_ (State.bump_keeps ..)
    | (simp only [Keeps.mk_iff]; with_reducible refine KeepsP.same ?_ rfl rfl rfl)
    | split

theorem State.loadStored_keeps (s : State) : Keeps s (State.loadStored s) := by
  unfold State.loadStored
  repeat' first
    | with_reducible exact Keeps.refl _
    | with_reducible assumption
    | (extract_lets +onlyGivenNames x; first
        | (have h : State := x; clear h; with_reducible refine Keeps.gen x ?_ ?_; rotate_left; intro hx; clear_value x; rotate_left; subst x)
        | (have h : State := x.2; clear h; with_reducible refine Keeps.gen x.2 ?_ ?_; rotate_left; intro hx; clear_value x; rotate_left; subst x)
        | (have h : State := x.1; clear h; with_reducible refine Keeps.gen x.1 ?_ ?_; rotate_left; intro hx; clear_value x; rotate_left; subst x)
        | clear_value x
        | subst x)
    | with_reducible apply Keeps.foldl ?_ (fun _ _ => ?_)
    | with_reducible apply Keeps.foldl2 ?_ (fun _ _ => ?_)
    | with_reducible apply Keeps.foldl1 ?_ (fun _ _ => ?_)
    | with_reducible apply Keeps.ite ?_ ?_
    | with_reducible apply Keeps.trans ?_ (State.setNum_keeps ..)
    | with_reducible apply Keeps.trans ?_ (State.storeNum_keeps ..)
    | with_reducible apply Keeps.trans ?_ (State.bump_keeps ..)
    | with_reducible apply Keeps.trans ?_ (State.relationPass_keeps ..)
    | (simp only [Keeps.mk_iff]; with_reducible refine KeepsP.same ?_ rfl rfl rfl)
    | split

end Sys2Proof.Machine
end

