-- ==== Sys2Proof/Laws/KeepsKv.lean ====
section
/-! SUPPORT. Keeps for the operations of Machine/Kv.lean. -/

namespace Sys2Proof.Machine

set_option linter.all false

theorem State.putSession_keeps (s : State) (slot : Nat) (x : Session) : Keeps s (State.putSession s slot x) := by
  unfold State.putSession
  repeat' first
    | with_reducible exact Keeps.refl _
    | with_reducible assumption
    | with_reducible apply Keeps.ite ?_ ?_
    | with_reducible apply Keeps.trans ?_ (State.poke_keeps ..)
    | (simp only [Keeps.mk_iff]; with_reducible refine KeepsP.same ?_ rfl rfl rfl)
    | split

theorem State.freeDescriptor_keeps (s : State) (slot reason : Nat) : Keeps s (State.freeDescriptor s slot reason) := by
  unfold State.freeDescriptor
  repeat' first
    | with_reducible exact Keeps.refl _
    | with_reducible assumption
    | with_reducible apply Keeps.ite ?_ ?_
    | with_reducible apply Keeps.trans ?_ (State.poke_keeps ..)
    | (simp only [Keeps.mk_iff]; with_reducible refine KeepsP.same ?_ rfl rfl rfl)
    | split

theorem State.dropCovered_keeps (s : State) : Keeps s (State.dropCovered s) := by
  unfold State.dropCovered
  repeat' first
    | with_reducible exact Keeps.refl _
    | with_reducible assumption
    | with_reducible apply Keeps.foldl ?_ (fun _ _ => ?_)
    | with_reducible apply Keeps.foldl2 ?_ (fun _ _ => ?_)
    | with_reducible apply Keeps.foldl1 ?_ (fun _ _ => ?_)
    | with_reducible apply Keeps.ite ?_ ?_
    | with_reducible apply Keeps.trans ?_ (State.freeDescriptor_keeps ..)
    | (simp only [Keeps.mk_iff]; with_reducible refine KeepsP.same ?_ rfl rfl rfl)
    | split

theorem State.editSession_keeps (s : State) (slot : Nat) (f : Session → Session) :
    Keeps s (State.editSession s slot f) := by
  unfold State.editSession
  repeat' first
    | with_reducible exact Keeps.refl _
    | with_reducible assumption
    | with_reducible apply Keeps.ite ?_ ?_
    | with_reducible apply Keeps.trans ?_ (State.putSession_keeps ..)
    | (simp only [Keeps.mk_iff]; with_reducible refine KeepsP.same ?_ rfl rfl rfl)
    | split

theorem State.putPage_keeps (s : State) (slot : Nat) (draft : Bool) (layer page : Nat) (e : PageEntry) :
    Keeps s (State.putPage s slot draft layer page e) := by
  unfold State.putPage
  repeat' first
    | with_reducible exact Keeps.refl _
    | with_reducible assumption
    | (extract_lets +onlyGivenNames x; first
        | (have h : State := x; clear h; with_reducible refine Keeps.gen x ?_ ?_; rotate_left; intro hx; clear_value x; rotate_left; subst x)
        | clear_value x
        | subst x)
    | with_reducible apply Keeps.ite ?_ ?_
    | with_reducible apply Keeps.trans ?_ (State.poke_keeps ..)
    | (simp only [Keeps.mk_iff]; with_reducible refine KeepsP.same ?_ rfl rfl rfl)
    | split

theorem State.putStrip_keeps (s : State) (slot : Nat) (p : Strip) : Keeps s (State.putStrip s slot p) := by
  unfold State.putStrip
  repeat' first
    | with_reducible exact Keeps.refl _
    | with_reducible assumption
    | (extract_lets +onlyGivenNames x; first
        | (have h : State := x; clear h; with_reducible refine Keeps.gen x ?_ ?_; rotate_left; intro hx; clear_value x; rotate_left; subst x)
        | clear_value x
        | subst x)
    | with_reducible apply Keeps.ite ?_ ?_
    | with_reducible apply Keeps.trans ?_ (State.poke_keeps ..)
    | (simp only [Keeps.mk_iff]; with_reducible refine KeepsP.same ?_ rfl rfl rfl)
    | split

theorem State.dropStrip_keeps (s : State) (slot : Nat) : Keeps s (State.dropStrip s slot) := by
  unfold State.dropStrip
  repeat' first
    | with_reducible exact Keeps.refl _
    | with_reducible assumption
    | (extract_lets +onlyGivenNames x; first
        | (have h : State := x; clear h; with_reducible refine Keeps.gen x ?_ ?_; rotate_left; intro hx; clear_value x; rotate_left; subst x)
        | clear_value x
        | subst x)
    | with_reducible apply Keeps.ite ?_ ?_
    | with_reducible apply Keeps.trans ?_ (State.putStrip_keeps ..)
    | (simp only [Keeps.mk_iff]; with_reducible refine KeepsP.same ?_ rfl rfl rfl)
    | split

theorem State.kvFault_keeps (s : State) (a : Nat) : Keeps s (State.kvFault s a) := by
  unfold State.kvFault
  repeat' first
    | with_reducible exact Keeps.refl _
    | with_reducible assumption
    | with_reducible apply Keeps.ite ?_ ?_
    | with_reducible apply Keeps.trans ?_ (State.endSessions_keeps ..)
    | (simp only [Keeps.mk_iff]; with_reducible refine KeepsP.same ?_ rfl rfl rfl)
    | split

theorem State.countBusy_keeps (s : State) (n : Nat) : Keeps s (State.countBusy s n) := by
  unfold State.countBusy
  simp only [Keeps.mk_iff]
  exact KeepsP.same (Keeps.refl s) rfl rfl rfl

theorem State.newWindow_keeps (s : State) (covered : Bool) : Keeps s (State.newWindow s covered) := by
  unfold State.newWindow
  repeat' first
    | with_reducible exact Keeps.refl _
    | with_reducible apply Keeps.ite ?_ ?_
    | (simp only [Keeps.mk_iff]; with_reducible refine KeepsP.same ?_ rfl rfl rfl)

theorem State.newSlot_keeps (s : State) (covered : Bool) (tenant : Nat) (far : Bool) (n : Nat) (more : List (Nat × Nat)) :
    Keeps s (State.newSlot s covered tenant far n more).2 := by
  unfold State.newSlot
  repeat' first
    | with_reducible exact Keeps.refl _
    | with_reducible assumption
    | (extract_lets +onlyGivenNames x; first
        | (have h : State := x; clear h; with_reducible refine Keeps.gen x ?_ ?_; rotate_left; intro hx; clear_value x; rotate_left; subst x)
        | (have h : State := x.2; clear h; with_reducible refine Keeps.gen x.2 ?_ ?_; rotate_left; intro hx; clear_value x; rotate_left; subst x)
        | (have h : State := x.1; clear h; with_reducible refine Keeps.gen x.1 ?_ ?_; rotate_left; intro hx; clear_value x; rotate_left; subst x)
        | clear_value x
        | subst x)
    | with_reducible apply Keeps.ite ?_ ?_
    | with_reducible apply Keeps.ite2 ?_ ?_
    | with_reducible apply Keeps.ite1 ?_ ?_
    | (simp only [Keeps.mk_iff]; with_reducible refine KeepsP.same ?_ rfl rfl rfl)
    | split

theorem State.newPlaces_keeps (s : State) (covered : Bool) (tenant : Nat) (m d : Root) (rej : Bool) :
    Keeps s (State.newPlaces s covered tenant m d rej).2 := by
  unfold State.newPlaces
  dsimp only
  iterate 4 apply Keeps.trans ?_ (State.newSlot_keeps ..)
  exact Keeps.refl _

theorem State.givePage_keeps (s : State) (slot : Nat) (draft : Bool) (layer page : Nat) :
    Keeps s (State.givePage s slot draft layer page) := by
  unfold State.givePage
  repeat' first
    | with_reducible exact Keeps.refl _
    | with_reducible assumption
    | (extract_lets +onlyGivenNames x; first
        | (have h : State := x; clear h; with_reducible refine Keeps.gen x ?_ ?_; rotate_left; intro hx; clear_value x; rotate_left; subst x)
        | (have h : State := x.2; clear h; with_reducible refine Keeps.gen x.2 ?_ ?_; rotate_left; intro hx; clear_value x; rotate_left; subst x)
        | (have h : State := x.1; clear h; with_reducible refine Keeps.gen x.1 ?_ ?_; rotate_left; intro hx; clear_value x; rotate_left; subst x)
        | clear_value x
        | subst x)
    | with_reducible apply Keeps.ite ?_ ?_
    | with_reducible apply Keeps.trans ?_ (State.newSlot_keeps ..)
    | with_reducible apply Keeps.trans ?_ (State.putPage_keeps ..)
    | with_reducible apply Keeps.trans ?_ (State.editSession_keeps ..)
    | (simp only [Keeps.mk_iff]; with_reducible refine KeepsP.same ?_ rfl rfl rfl)
    | with_reducible apply Keeps.of2 (by with_reducible assumption) (State.newSlot_keeps ..)
    | split

end Sys2Proof.Machine
end

