-- ==== Sys2Proof/Laws/KeepsSecurity.lean ====
section
/-! SUPPORT. Keeps for the operations of Machine/Security.lean. -/

namespace Sys2Proof.Machine

set_option linter.all false

theorem State.bootFrom_keeps (s : State) (b fallback : Bool) : Keeps s (State.bootFrom s b fallback) := by
  unfold State.bootFrom
  repeat' first
    | with_reducible exact Keeps.refl _
    | with_reducible assumption
    | (extract_lets +onlyGivenNames x; first
        | (have h : State := x; clear h; with_reducible refine Keeps.gen x ?_ ?_; rotate_left; intro hx; clear_value x; rotate_left; subst x)
        | (have h : SecUnit := x; clear h; subst x)
        | (have h : _ → _ := x; clear h; subst x; try dsimp -zeta only)
        | clear_value x
        | subst x)
    | with_reducible apply Keeps.ite ?_ ?_
    | with_reducible apply Keeps.trans ?_ (State.setBlob_keeps ..)
    | (simp only [Keeps.mk_iff]; with_reducible refine KeepsP.same ?_ rfl rfl rfl)
    | split

theorem State.bootRom_keeps (s : State) : Keeps s (State.bootRom s) := by
  unfold State.bootRom
  repeat' first
    | with_reducible exact Keeps.refl _
    | with_reducible assumption
    | (extract_lets +onlyGivenNames x; first
        | (have h : State := x; clear h; with_reducible refine Keeps.gen x ?_ ?_; rotate_left; intro hx; clear_value x; rotate_left; subst x)
        | (have h : SecUnit := x; clear h; subst x)
        | clear_value x
        | subst x)
    | with_reducible apply Keeps.ite ?_ ?_
    | with_reducible apply Keeps.trans ?_ (State.bootFrom_keeps ..)
    | with_reducible apply Keeps.trans ?_ (State.raise_keeps ..)
    | (simp only [Keeps.mk_iff]; with_reducible refine KeepsP.same ?_ rfl rfl rfl)
    | split

theorem State.fwUpdate_keeps (s : State) (n : Nat) : Keeps s (State.fwUpdate s n).2 := by
  unfold State.fwUpdate
  repeat' first
    | with_reducible exact Keeps.refl _
    | with_reducible assumption
    | (extract_lets +onlyGivenNames x; first
        | (have h : State := x; clear h; with_reducible refine Keeps.gen x ?_ ?_; rotate_left; intro hx; clear_value x; rotate_left; subst x)
        | (have h : State := x.2; clear h; with_reducible refine Keeps.gen x.2 ?_ ?_; rotate_left; intro hx; clear_value x; rotate_left; subst x)
        | (have h : State := x.1; clear h; with_reducible refine Keeps.gen x.1 ?_ ?_; rotate_left; intro hx; clear_value x; rotate_left; subst x)
        | (have h : SecUnit := x; clear h; subst x)
        | clear_value x
        | subst x)
    | with_reducible apply Keeps.ite ?_ ?_
    | with_reducible apply Keeps.ite2 ?_ ?_
    | with_reducible apply Keeps.ite1 ?_ ?_
    | with_reducible apply Keeps.trans ?_ (State.setNum_keeps ..)
    | (simp only [Keeps.mk_iff]; with_reducible refine KeepsP.same ?_ rfl rfl rfl)
    | split

theorem State.applyKeystone_keeps (s : State) (es : List KsEntry) : Keeps s (State.applyKeystone s es) := by
  unfold State.applyKeystone
  repeat' first
    | with_reducible exact Keeps.refl _
    | with_reducible assumption
    | (extract_lets +onlyGivenNames x; first
        | (have h : State := x; clear h; with_reducible refine Keeps.gen x ?_ ?_; rotate_left; intro hx; clear_value x; rotate_left; subst x)
        | clear_value x
        | subst x)
    | with_reducible apply Keeps.foldl ?_ (fun _ _ => ?_)
    | with_reducible apply Keeps.foldl2 ?_ (fun _ _ => ?_)
    | with_reducible apply Keeps.foldl1 ?_ (fun _ _ => ?_)
    | with_reducible apply Keeps.ite ?_ ?_
    | with_reducible apply Keeps.trans ?_ (State.storeVal_keeps ..)
    | with_reducible apply Keeps.trans ?_ (State.recordResult_keeps ..)
    | (simp only [Keeps.mk_iff]; with_reducible refine KeepsP.same ?_ rfl rfl rfl)
    | split

theorem State.lockKeystone_keeps (s : State) : Keeps s (State.lockKeystone s) := by
  unfold State.lockKeystone
  repeat' first
    | with_reducible exact Keeps.refl _
    | with_reducible assumption
    | with_reducible apply Keeps.ite ?_ ?_
    | with_reducible apply Keeps.trans ?_ (runtimeLoad_keeps ..)
    | (simp only [Keeps.mk_iff]; with_reducible refine KeepsP.same ?_ rfl rfl rfl)
    | split

theorem State.selectKeystone_keeps (s : State) : Keeps s (State.selectKeystone s) := by
  unfold State.selectKeystone
  repeat' first
    | with_reducible exact Keeps.refl _
    | with_reducible assumption
    | (extract_lets +onlyGivenNames x; first
        | (have h : State := x; clear h; with_reducible refine Keeps.gen x ?_ ?_; rotate_left; intro hx; clear_value x; rotate_left; subst x)
        | (have h : SecUnit := x; clear h; subst x)
        | (have h : _ → _ := x; clear h; subst x; try dsimp -zeta only)
        | clear_value x
        | subst x)
    | with_reducible apply Keeps.foldl ?_ (fun _ _ => ?_)
    | with_reducible apply Keeps.foldl2 ?_ (fun _ _ => ?_)
    | with_reducible apply Keeps.foldl1 ?_ (fun _ _ => ?_)
    | with_reducible apply Keeps.ite ?_ ?_
    | with_reducible apply Keeps.trans ?_ (State.raise_keeps ..)
    | with_reducible apply Keeps.trans ?_ (State.setNum_keeps ..)
    | with_reducible apply Keeps.trans ?_ (State.applyKeystone_keeps ..)
    | (simp only [Keeps.mk_iff]; with_reducible refine KeepsP.same ?_ rfl rfl rfl)
    | split

theorem State.keystonePending_keeps (s : State) (rec : List Byte) : Keeps s (State.keystonePending s rec).2 := by
  unfold State.keystonePending
  repeat' first
    | with_reducible exact Keeps.refl _
    | with_reducible assumption
    | (extract_lets +onlyGivenNames x; first
        | (have h : State := x; clear h; with_reducible refine Keeps.gen x ?_ ?_; rotate_left; intro hx; clear_value x; rotate_left; subst x)
        | (have h : State := x.2; clear h; with_reducible refine Keeps.gen x.2 ?_ ?_; rotate_left; intro hx; clear_value x; rotate_left; subst x)
        | (have h : State := x.1; clear h; with_reducible refine Keeps.gen x.1 ?_ ?_; rotate_left; intro hx; clear_value x; rotate_left; subst x)
        | (have h : SecUnit := x; clear h; subst x)
        | clear_value x
        | subst x)
    | with_reducible apply Keeps.ite ?_ ?_
    | with_reducible apply Keeps.ite2 ?_ ?_
    | with_reducible apply Keeps.ite1 ?_ ?_
    | with_reducible apply Keeps.trans ?_ (State.setNum_keeps ..)
    | (simp only [Keeps.mk_iff]; with_reducible refine KeepsP.same ?_ rfl rfl rfl)
    | split

theorem State.attestNonce_keeps (s : State) (nonce : List Byte) : Keeps s (State.attestNonce s nonce).2 := by
  unfold State.attestNonce
  repeat' first
    | with_reducible exact Keeps.refl _
    | with_reducible assumption
    | with_reducible apply Keeps.ite ?_ ?_
    | with_reducible apply Keeps.ite2 ?_ ?_
    | with_reducible apply Keeps.ite1 ?_ ?_
    | with_reducible apply Keeps.trans ?_ (State.setNum_keeps ..)
    | (simp only [Keeps.mk_iff]; with_reducible refine KeepsP.same ?_ rfl rfl rfl)
    | split

theorem attestDone_keeps (s : State) : Keeps s (attestDone s) := by
  unfold attestDone
  repeat' first
    | with_reducible exact Keeps.refl _
    | with_reducible assumption
    | with_reducible apply Keeps.ite ?_ ?_
    | with_reducible apply Keeps.trans ?_ (State.setBlob_keeps ..)
    | with_reducible apply Keeps.trans ?_ (State.setNum_keeps ..)
    | (simp only [Keeps.mk_iff]; with_reducible refine KeepsP.same ?_ rfl rfl rfl)
    | split

theorem State.checkCal_keeps (s : State) : Keeps s (State.checkCal s) := by
  unfold State.checkCal
  repeat' first
    | with_reducible exact Keeps.refl _
    | with_reducible assumption
    | with_reducible apply Keeps.ite ?_ ?_
    | with_reducible apply Keeps.trans ?_ (State.setNum_keeps ..)
    | with_reducible apply Keeps.trans ?_ (State.raise_keeps ..)
    | (simp only [Keeps.mk_iff]; with_reducible refine KeepsP.same ?_ rfl rfl rfl)
    | split

theorem State.calWrite_keeps (s : State) (set : List Byte) : Keeps s (State.calWrite s set).2 := by
  unfold State.calWrite
  repeat' first
    | with_reducible exact Keeps.refl _
    | with_reducible assumption
    | with_reducible apply Keeps.ite ?_ ?_
    | with_reducible apply Keeps.ite2 ?_ ?_
    | with_reducible apply Keeps.ite1 ?_ ?_
    | (simp only [Keeps.mk_iff]; with_reducible refine KeepsP.same ?_ rfl rfl rfl)
    | split

theorem flashWriteDone_keeps (s : State) (good : Bool) : Keeps s (flashWriteDone s good) := by
  unfold flashWriteDone
  repeat' first
    | with_reducible exact Keeps.refl _
    | with_reducible assumption
    | (extract_lets +onlyGivenNames x; first
        | (have h : State := x; clear h; with_reducible refine Keeps.gen x ?_ ?_; rotate_left; intro hx; clear_value x; rotate_left; subst x)
        | (have h : State := x.2; clear h; with_reducible refine Keeps.gen x.2 ?_ ?_; rotate_left; intro hx; clear_value x; rotate_left; subst x)
        | (have h : State := x.1; clear h; with_reducible refine Keeps.gen x.1 ?_ ?_; rotate_left; intro hx; clear_value x; rotate_left; subst x)
        | (have h : SecUnit := x; clear h; subst x)
        | clear_value x
        | subst x)
    | with_reducible apply Keeps.ite ?_ ?_
    | with_reducible apply Keeps.trans ?_ (State.setNum_keeps ..)
    | (simp only [Keeps.mk_iff]; with_reducible refine KeepsP.same ?_ rfl rfl rfl)
    | split

theorem State.escanStart_keeps (s : State) : Keeps s (State.escanStart s).2 := by
  unfold State.escanStart
  repeat' first
    | with_reducible exact Keeps.refl _
    | with_reducible assumption
    | (extract_lets +onlyGivenNames x; first
        | (have h : State := x; clear h; with_reducible refine Keeps.gen x ?_ ?_; rotate_left; intro hx; clear_value x; rotate_left; subst x)
        | (have h : State := x.2; clear h; with_reducible refine Keeps.gen x.2 ?_ ?_; rotate_left; intro hx; clear_value x; rotate_left; subst x)
        | (have h : State := x.1; clear h; with_reducible refine Keeps.gen x.1 ?_ ?_; rotate_left; intro hx; clear_value x; rotate_left; subst x)
        | clear_value x
        | subst x)
    | with_reducible apply Keeps.foldl ?_ (fun _ _ => ?_)
    | with_reducible apply Keeps.foldl2 ?_ (fun _ _ => ?_)
    | with_reducible apply Keeps.foldl1 ?_ (fun _ _ => ?_)
    | with_reducible apply Keeps.ite ?_ ?_
    | with_reducible apply Keeps.ite2 ?_ ?_
    | with_reducible apply Keeps.ite1 ?_ ?_
    | with_reducible apply Keeps.trans ?_ (State.putPort_keeps ..)
    | with_reducible apply Keeps.trans ?_ (State.setNum_keeps ..)
    | (simp only [Keeps.mk_iff]; with_reducible refine KeepsP.same ?_ rfl rfl rfl)
    | with_reducible apply Keeps.trans ?_ (State.setPort_keeps ..)
    | split

theorem escanDone_keeps (s : State) : Keeps s (escanDone s) := by
  unfold escanDone
  repeat' first
    | with_reducible exact Keeps.refl _
    | with_reducible assumption
    | (extract_lets +onlyGivenNames x; first
        | (have h : State := x; clear h; with_reducible refine Keeps.gen x ?_ ?_; rotate_left; intro hx; clear_value x; rotate_left; subst x)
        | (have h : State := x.2; clear h; with_reducible refine Keeps.gen x.2 ?_ ?_; rotate_left; intro hx; clear_value x; rotate_left; subst x)
        | (have h : State := x.1; clear h; with_reducible refine Keeps.gen x.1 ?_ ?_; rotate_left; intro hx; clear_value x; rotate_left; subst x)
        | clear_value x
        | subst x)
    | with_reducible apply Keeps.foldl ?_ (fun _ _ => ?_)
    | with_reducible apply Keeps.foldl2 ?_ (fun _ _ => ?_)
    | with_reducible apply Keeps.foldl1 ?_ (fun _ _ => ?_)
    | with_reducible apply Keeps.ite ?_ ?_
    | with_reducible apply Keeps.trans ?_ (State.drawBytes_keeps ..)
    | with_reducible apply Keeps.trans ?_ (State.setBlob_keeps ..)
    | with_reducible apply Keeps.trans ?_ (State.freeScanned_keeps ..)
    | with_reducible apply Keeps.trans ?_ (State.setNum_keeps ..)
    | (simp only [Keeps.mk_iff]; with_reducible refine KeepsP.same ?_ rfl rfl rfl)
    | with_reducible apply Keeps.of2 (by with_reducible assumption) (State.drawBytes_keeps ..)
    | with_reducible apply Keeps.trans ?_ (State.setPort_keeps ..)
    | split

theorem State.fbistStart_keeps (s : State) : Keeps s (State.fbistStart s).2 := by
  unfold State.fbistStart
  repeat' first
    | with_reducible exact Keeps.refl _
    | with_reducible assumption
    | (extract_lets +onlyGivenNames x; first
        | (have h : State := x; clear h; with_reducible refine Keeps.gen x ?_ ?_; rotate_left; intro hx; clear_value x; rotate_left; subst x)
        | (have h : State := x.2; clear h; with_reducible refine Keeps.gen x.2 ?_ ?_; rotate_left; intro hx; clear_value x; rotate_left; subst x)
        | (have h : State := x.1; clear h; with_reducible refine Keeps.gen x.1 ?_ ?_; rotate_left; intro hx; clear_value x; rotate_left; subst x)
        | clear_value x
        | subst x)
    | with_reducible apply Keeps.ite ?_ ?_
    | with_reducible apply Keeps.ite2 ?_ ?_
    | with_reducible apply Keeps.ite1 ?_ ?_
    | with_reducible apply Keeps.trans ?_ (State.setNum_keeps ..)
    | (simp only [Keeps.mk_iff]; with_reducible refine KeepsP.same ?_ rfl rfl rfl)
    | split

theorem fbistDone_keeps (s : State) (failed : List (Fin 384)) (stores : BitVec 4) (hbm : BitVec 16) (errors : W32) :
    Keeps s (fbistDone s failed stores hbm errors) := by
  unfold fbistDone
  apply Keeps.ite (Keeps.refl s)
  refine Keeps.foldl ?_ (fun t c => State.raise_keeps ..)
  refine Keeps.trans ?_ (State.setNum_keeps ..)
  refine Keeps.trans ?_ (State.setBlob_keeps ..)
  exact Keeps.mk_iff.2 (KeepsP.mem_ (Keeps.refl s) rfl rfl (fun _ => rfl))

theorem State.setCore_keeps (s : State) (g : Nat) (c : Core) : Keeps s (State.setCore s g c) := by
  unfold State.setCore
  repeat' first
    | with_reducible exact Keeps.refl _
    | with_reducible assumption
    | with_reducible apply Keeps.ite ?_ ?_
    | (simp only [Keeps.mk_iff]; with_reducible refine KeepsP.same ?_ rfl rfl rfl)
    | split

theorem selftestDone_keeps (s : State) (g : Nat) (pass : Bool) : Keeps s (selftestDone s g pass) := by
  unfold selftestDone
  repeat' first
    | with_reducible exact Keeps.refl _
    | with_reducible assumption
    | (extract_lets +onlyGivenNames x; first
        | (have h : State := x; clear h; with_reducible refine Keeps.gen x ?_ ?_; rotate_left; intro hx; clear_value x; rotate_left; subst x)
        | clear_value x
        | subst x)
    | with_reducible apply Keeps.ite ?_ ?_
    | with_reducible apply Keeps.trans ?_ (State.setCore_keeps ..)
    | with_reducible apply Keeps.trans ?_ (rejoin_keeps ..)
    | with_reducible apply Keeps.trans ?_ (State.bump_keeps ..)
    | with_reducible apply Keeps.trans ?_ (State.setBlob_keeps ..)
    | with_reducible apply Keeps.trans ?_ (State.raise_keeps ..)
    | (simp only [Keeps.mk_iff]; with_reducible refine KeepsP.same ?_ rfl rfl rfl)
    | split

end Sys2Proof.Machine
end

