-- ==== Sys2Proof/Laws/KeepsHbm.lean ====
section
/-! SUPPORT. Keeps for the operations of Machine/Hbm.lean. -/

namespace Sys2Proof.Machine

set_option linter.all false

theorem State.deliver_keeps (s : State) (who : Requester) (w : Nat) (d : List Byte) (poisoned : Bool) :
    Keeps s (State.deliver s who w d poisoned) := by
  unfold State.deliver
  repeat' first
    | with_reducible exact Keeps.refl _
    | with_reducible assumption
    | (extract_lets +onlyGivenNames x; first
        | (have h : State := x; clear h; with_reducible refine Keeps.gen x ?_ ?_; rotate_left; intro hx; clear_value x; rotate_left; subst x)
        | (have h : State := x.2; clear h; with_reducible refine Keeps.gen x.2 ?_ ?_; rotate_left; intro hx; clear_value x; rotate_left; subst x)
        | (have h : State := x.1; clear h; with_reducible refine Keeps.gen x.1 ?_ ?_; rotate_left; intro hx; clear_value x; rotate_left; subst x)
        | (have h : MemUnit := x; clear h; subst x)
        | clear_value x
        | subst x)
    | with_reducible apply Keeps.ite ?_ ?_
    | (simp only [Keeps.mk_iff]; with_reducible refine KeepsP.same ?_ rfl rfl rfl)
    | split

theorem hbmRead_keeps (s : State) (who : Requester) (addr : BitVec 47) (first again : RawRead) :
    Keeps s (hbmRead s who addr first again) := by
  unfold hbmRead
  repeat' first
    | with_reducible exact Keeps.refl _
    | with_reducible assumption
    | (extract_lets +onlyGivenNames x; first
        | (have h : State := x; clear h; with_reducible refine Keeps.gen x ?_ ?_; rotate_left; intro hx; clear_value x; rotate_left; subst x)
        | (have h : State := x.2; clear h; with_reducible refine Keeps.gen x.2 ?_ ?_; rotate_left; intro hx; clear_value x; rotate_left; subst x)
        | (have h : State := x.1; clear h; with_reducible refine Keeps.gen x.1 ?_ ?_; rotate_left; intro hx; clear_value x; rotate_left; subst x)
        | clear_value x
        | subst x)
    | with_reducible apply Keeps.ite ?_ ?_
    | with_reducible apply Keeps.trans ?_ (State.readPath_keeps ..)
    | with_reducible apply Keeps.trans ?_ (State.deliver_keeps ..)
    | (simp only [Keeps.mk_iff]; with_reducible refine KeepsP.same ?_ rfl rfl rfl)
    | with_reducible apply Keeps.of2 (by with_reducible assumption) (State.readPath_keeps ..)
    | split

theorem hbmWrite_keeps (s : State) (who : Requester) (addr : BitVec 47) (data : List Byte) (scaleExp : Byte) :
    Keeps s (hbmWrite s who addr data scaleExp) := by
  unfold hbmWrite
  repeat' first
    | with_reducible exact Keeps.refl _
    | with_reducible assumption
    | with_reducible apply Keeps.ite ?_ ?_
    | with_reducible apply Keeps.trans ?_ (State.hbmPut_keeps ..)
    | (simp only [Keeps.mk_iff]; with_reducible refine KeepsP.same ?_ rfl rfl rfl)
    | split

theorem mergeTimeout_keeps (s : State) (stack : Fin 16) (first again : RawRead) :
    Keeps s (mergeTimeout s stack first again) := by
  unfold mergeTimeout
  repeat' first
    | with_reducible exact Keeps.refl _
    | with_reducible assumption
    | with_reducible apply Keeps.ite ?_ ?_
    | with_reducible apply Keeps.trans ?_ (State.flushEntry_keeps ..)
    | (simp only [Keeps.mk_iff]; with_reducible refine KeepsP.same ?_ rfl rfl rfl)
    | split

theorem State.deliverWaiters_keeps (s : State) (ws : List TwinWait) (poisoned : Bool) :
    Keeps s (State.deliverWaiters s ws poisoned) := by
  unfold State.deliverWaiters
  repeat' first
    | with_reducible exact Keeps.refl _
    | with_reducible assumption
    | with_reducible apply Keeps.foldl ?_ (fun _ _ => ?_)
    | with_reducible apply Keeps.foldl2 ?_ (fun _ _ => ?_)
    | with_reducible apply Keeps.foldl1 ?_ (fun _ _ => ?_)
    | with_reducible apply Keeps.ite ?_ ?_
    | with_reducible apply Keeps.trans ?_ (State.deliver_keeps ..)
    | (simp only [Keeps.mk_iff]; with_reducible refine KeepsP.same ?_ rfl rfl rfl)
    | split

theorem State.resumeMerges_keeps (s : State) (ws : List TwinWait) (ok : Bool) :
    Keeps s (State.resumeMerges s ws ok) := by
  unfold State.resumeMerges
  repeat' first
    | with_reducible exact Keeps.refl _
    | with_reducible assumption
    | with_reducible apply Keeps.foldl ?_ (fun _ _ => ?_)
    | with_reducible apply Keeps.foldl2 ?_ (fun _ _ => ?_)
    | with_reducible apply Keeps.foldl1 ?_ (fun _ _ => ?_)
    | with_reducible apply Keeps.ite ?_ ?_
    | with_reducible apply Keeps.trans ?_ (State.flushEntry_keeps ..)
    | with_reducible apply Keeps.trans ?_ (State.storeMerged_keeps ..)
    | (simp only [Keeps.mk_iff]; with_reducible refine KeepsP.same ?_ rfl rfl rfl)
    | split

theorem twinData_keeps (s : State) (addr : BitVec 47) (ok : Bool) (granule : List Byte) (again : RawRead) :
    Keeps s (twinData s addr ok granule again) := by
  unfold twinData
  repeat' first
    | with_reducible exact Keeps.refl _
    | with_reducible assumption
    | (extract_lets +onlyGivenNames x; first
        | (have h : State := x; clear h; with_reducible refine Keeps.gen x ?_ ?_; rotate_left; intro hx; clear_value x; rotate_left; subst x)
        | (have h : State := x.2; clear h; with_reducible refine Keeps.gen x.2 ?_ ?_; rotate_left; intro hx; clear_value x; rotate_left; subst x)
        | (have h : State := x.1; clear h; with_reducible refine Keeps.gen x.1 ?_ ?_; rotate_left; intro hx; clear_value x; rotate_left; subst x)
        | (have h : MemUnit := x; clear h; subst x)
        | (have h : _ → _ := x; clear h; subst x; try dsimp -zeta only)
        | clear_value x
        | subst x)
    | with_reducible apply Keeps.foldl ?_ (fun _ _ => ?_)
    | with_reducible apply Keeps.foldl2 ?_ (fun _ _ => ?_)
    | with_reducible apply Keeps.foldl1 ?_ (fun _ _ => ?_)
    | with_reducible apply Keeps.ite ?_ ?_
    | with_reducible apply Keeps.trans ?_ (State.storeWord_keeps ..)
    | with_reducible apply Keeps.trans ?_ (State.bump_keeps ..)
    | with_reducible apply Keeps.trans ?_ (State.hbmRecord_keeps ..)
    | with_reducible apply Keeps.trans ?_ (State.memFault_keeps ..)
    | with_reducible apply Keeps.trans ?_ (State.deliverWaiters_keeps ..)
    | with_reducible apply Keeps.trans ?_ (State.resumeMerges_keeps ..)
    | with_reducible apply Keeps.trans ?_ (State.poisonWord_keeps ..)
    | with_reducible apply Keeps.trans ?_ (State.unrecovered_keeps ..)
    | (simp only [Keeps.mk_iff]; with_reducible refine KeepsP.same ?_ rfl rfl rfl)
    | split

theorem farReadDeadline_keeps (s : State) (slot : Nat) (draft : Bool) (layer page : Nat) :
    Keeps s (farReadDeadline s slot draft layer page) := by
  unfold farReadDeadline
  repeat' first
    | with_reducible exact Keeps.refl _
    | with_reducible assumption
    | (extract_lets +onlyGivenNames x; first
        | (have h : State := x; clear h; with_reducible refine Keeps.gen x ?_ ?_; rotate_left; intro hx; clear_value x; rotate_left; subst x)
        | (have h : MemUnit := x; clear h; subst x)
        | clear_value x
        | subst x)
    | with_reducible apply Keeps.ite ?_ ?_
    | (simp only [Keeps.mk_iff]; with_reducible refine KeepsP.same ?_ rfl rfl rfl)
    | split

theorem State.sramCorrected_keeps (s : State) (w symbol syndrome : Nat) :
    Keeps s (State.sramCorrected s w symbol syndrome) := by
  unfold State.sramCorrected
  repeat' first
    | with_reducible exact Keeps.refl _
    | with_reducible assumption
    | (extract_lets +onlyGivenNames x; first
        | (have h : State := x; clear h; with_reducible refine Keeps.gen x ?_ ?_; rotate_left; intro hx; clear_value x; rotate_left; subst x)
        | (have h : MemUnit := x; clear h; subst x)
        | (have h : _ → _ := x; clear h; subst x; try dsimp -zeta only)
        | clear_value x
        | subst x)
    | with_reducible apply Keeps.ite ?_ ?_
    | with_reducible apply Keeps.trans ?_ (State.bump_keeps ..)
    | with_reducible apply Keeps.trans ?_ (State.icxEvent_keeps ..)
    | (simp only [Keeps.mk_iff]; with_reducible refine KeepsP.same ?_ rfl rfl rfl)
    | split

theorem State.sramUe_keeps (s : State) (w : Nat) : Keeps s (State.sramUe s w) := by
  unfold State.sramUe
  repeat' first
    | with_reducible exact Keeps.refl _
    | with_reducible assumption
    | (extract_lets +onlyGivenNames x; first
        | (have h : State := x; clear h; with_reducible refine Keeps.gen x ?_ ?_; rotate_left; intro hx; clear_value x; rotate_left; subst x)
        | clear_value x
        | subst x)
    | with_reducible apply Keeps.ite ?_ ?_
    | with_reducible apply Keeps.trans ?_ (State.raise_keeps ..)
    | (simp only [Keeps.mk_iff]; with_reducible refine KeepsP.same ?_ rfl rfl rfl)
    | split

theorem sramRead_keeps (s : State) (who : Requester) (addr : BitVec 47) (raw : RawRead) :
    Keeps s (sramRead s who addr raw) := by
  unfold sramRead
  repeat' first
    | with_reducible exact Keeps.refl _
    | with_reducible assumption
    | (extract_lets +onlyGivenNames x; first
        | (have h : State := x; clear h; with_reducible refine Keeps.gen x ?_ ?_; rotate_left; intro hx; clear_value x; rotate_left; subst x)
        | (have h : State := x.2; clear h; with_reducible refine Keeps.gen x.2 ?_ ?_; rotate_left; intro hx; clear_value x; rotate_left; subst x)
        | (have h : State := x.1; clear h; with_reducible refine Keeps.gen x.1 ?_ ?_; rotate_left; intro hx; clear_value x; rotate_left; subst x)
        | (have h : MemUnit := x; clear h; subst x)
        | (have h : _ → _ := x; clear h; subst x; try dsimp -zeta only)
        | clear_value x
        | subst x)
    | with_reducible apply Keeps.foldl ?_ (fun _ _ => ?_)
    | with_reducible apply Keeps.foldl2 ?_ (fun _ _ => ?_)
    | with_reducible apply Keeps.foldl1 ?_ (fun _ _ => ?_)
    | with_reducible apply Keeps.ite ?_ ?_
    | with_reducible apply Keeps.trans ?_ (State.place_keeps ..)
    | with_reducible exact State.tally_keeps ..
    | with_reducible apply Keeps.trans ?_ (State.tally_keeps ..)
    | with_reducible apply Keeps.trans ?_ (State.sramCorrected_keeps ..)
    | with_reducible apply Keeps.trans ?_ (State.sramUe_keeps ..)
    | (simp only [Keeps.mk_iff]; with_reducible refine KeepsP.same ?_ rfl rfl rfl)
    | split

theorem scrubWindowOpen_keeps (s : State) : Keeps s (scrubWindowOpen s) := by
  unfold scrubWindowOpen
  repeat' first
    | with_reducible exact Keeps.refl _
    | with_reducible assumption
    | (extract_lets +onlyGivenNames x; first
        | (have h : State := x; clear h; with_reducible refine Keeps.gen x ?_ ?_; rotate_left; intro hx; clear_value x; rotate_left; subst x)
        | (have h : MemUnit := x; clear h; subst x)
        | clear_value x
        | subst x)
    | with_reducible apply Keeps.foldl ?_ (fun _ _ => ?_)
    | with_reducible apply Keeps.foldl2 ?_ (fun _ _ => ?_)
    | with_reducible apply Keeps.foldl1 ?_ (fun _ _ => ?_)
    | with_reducible apply Keeps.ite ?_ ?_
    | (simp only [Keeps.mk_iff]; with_reducible refine KeepsP.same ?_ rfl rfl rfl)
    | split

theorem scrubWindowClose_keeps (s : State) : Keeps s (scrubWindowClose s) := by
  unfold scrubWindowClose
  repeat' first
    | with_reducible exact Keeps.refl _
    | with_reducible assumption
    | (extract_lets +onlyGivenNames x; first
        | (have h : State := x; clear h; with_reducible refine Keeps.gen x ?_ ?_; rotate_left; intro hx; clear_value x; rotate_left; subst x)
        | (have h : State := x.2; clear h; with_reducible refine Keeps.gen x.2 ?_ ?_; rotate_left; intro hx; clear_value x; rotate_left; subst x)
        | (have h : State := x.1; clear h; with_reducible refine Keeps.gen x.1 ?_ ?_; rotate_left; intro hx; clear_value x; rotate_left; subst x)
        | (have h : MemUnit := x; clear h; subst x)
        | clear_value x
        | subst x)
    | with_reducible apply Keeps.foldl ?_ (fun _ _ => ?_)
    | with_reducible apply Keeps.foldl2 ?_ (fun _ _ => ?_)
    | with_reducible apply Keeps.foldl1 ?_ (fun _ _ => ?_)
    | with_reducible apply Keeps.ite ?_ ?_
    | with_reducible apply Keeps.trans ?_ (State.bump_keeps ..)
    | (simp only [Keeps.mk_iff]; with_reducible refine KeepsP.same ?_ rfl rfl rfl)
    | split

theorem scrubRead_keeps (s : State) (stack : Fin 16) (pch : Fin 32) (first again : RawRead) :
    Keeps s (scrubRead s stack pch first again) := by
  unfold scrubRead
  repeat' first
    | with_reducible exact Keeps.refl _
    | with_reducible assumption
    | (extract_lets +onlyGivenNames x; first
        | (have h : State := x; clear h; with_reducible refine Keeps.gen x ?_ ?_; rotate_left; intro hx; clear_value x; rotate_left; subst x)
        | (have h : State := x.2; clear h; with_reducible refine Keeps.gen x.2 ?_ ?_; rotate_left; intro hx; clear_value x; rotate_left; subst x)
        | (have h : State := x.1; clear h; with_reducible refine Keeps.gen x.1 ?_ ?_; rotate_left; intro hx; clear_value x; rotate_left; subst x)
        | (have h : MemUnit := x; clear h; subst x)
        | clear_value x
        | subst x)
    | with_reducible apply Keeps.ite ?_ ?_
    | with_reducible apply Keeps.trans ?_ (State.setNum_keeps ..)
    | with_reducible apply Keeps.trans ?_ (State.icxEvent_keeps ..)
    | with_reducible apply Keeps.trans ?_ (State.readPath_keeps ..)
    | with_reducible apply Keeps.trans ?_ (State.kvFault_keeps ..)
    | (simp only [Keeps.mk_iff]; with_reducible refine KeepsP.same ?_ rfl rfl rfl)
    | with_reducible apply Keeps.of2 (by with_reducible assumption) (State.readPath_keeps ..)
    | split

theorem State.regionWrite_keeps (s : State) (key v : Nat) : Keeps s (State.regionWrite s key v).2 := by
  unfold State.regionWrite
  extract_lets entry i t inUse changed some
  have h : Keeps s t := State.storeNum_keeps ..
  clear_value t inUse changed some
  repeat' first
    | exact Keeps.refl _
    | with_reducible assumption
    | with_reducible apply Keeps.ite2 ?_ ?_
  refine Keeps.trans ?_ (State.loseCopies_keeps ..)
  exact Keeps.mk_iff.2 (KeepsP.mem_ h rfl rfl (initPages_wf _ _))

theorem State.hbmLogClear_keeps (s : State) : Keeps s (State.hbmLogClear s).2 := by
  unfold State.hbmLogClear
  repeat' first
    | with_reducible exact Keeps.refl _
    | with_reducible assumption
    | with_reducible apply Keeps.ite ?_ ?_
    | with_reducible apply Keeps.ite2 ?_ ?_
    | with_reducible apply Keeps.ite1 ?_ ?_
    | (simp only [Keeps.mk_iff]; with_reducible refine KeepsP.same ?_ rfl rfl rfl)
    | split

theorem State.sramLogClear_keeps (s : State) (v : Nat) : Keeps s (State.sramLogClear s v).2 := by
  unfold State.sramLogClear
  repeat' first
    | with_reducible exact Keeps.refl _
    | with_reducible assumption
    | with_reducible apply Keeps.ite ?_ ?_
    | with_reducible apply Keeps.ite2 ?_ ?_
    | with_reducible apply Keeps.ite1 ?_ ?_
    | (simp only [Keeps.mk_iff]; with_reducible refine KeepsP.same ?_ rfl rfl rfl)
    | split

theorem State.marginStart_keeps (s : State) : Keeps s (State.marginStart s).2 := by
  unfold State.marginStart
  extract_lets e a m t p
  apply Keeps.ite2 (Keeps.refl s)
  have h : Keeps s t := Keeps.mk_iff.2 (KeepsP.same (State.setNum_keeps s O.marginState 1) rfl rfl rfl)
  exact Keeps.ite (Keeps.mk_iff.2 (KeepsP.same h rfl rfl rfl)) h

theorem State.marginRecord_keeps (s : State) (stack pch : Nat) : Keeps s (State.marginRecord s stack pch).2 := by
  unfold State.marginRecord
  repeat' first
    | with_reducible exact Keeps.refl _
    | with_reducible assumption
    | (extract_lets +onlyGivenNames x; first
        | (have h : State := x; clear h; with_reducible refine Keeps.gen x ?_ ?_; rotate_left; intro hx; clear_value x; rotate_left; subst x)
        | (have h : State := x.2; clear h; with_reducible refine Keeps.gen x.2 ?_ ?_; rotate_left; intro hx; clear_value x; rotate_left; subst x)
        | (have h : State := x.1; clear h; with_reducible refine Keeps.gen x.1 ?_ ?_; rotate_left; intro hx; clear_value x; rotate_left; subst x)
        | clear_value x
        | subst x)
    | with_reducible apply Keeps.ite ?_ ?_
    | with_reducible apply Keeps.ite2 ?_ ?_
    | with_reducible apply Keeps.ite1 ?_ ?_
    | with_reducible apply Keeps.trans ?_ (State.drawBytes_keeps ..)
    | (simp only [Keeps.mk_iff]; with_reducible refine KeepsP.same ?_ rfl rfl rfl)
    | with_reducible apply Keeps.of2 (by with_reducible assumption) (State.drawBytes_keeps ..)
    | split

theorem marginDone_keeps (s : State) (aborted : Bool) : Keeps s (marginDone s aborted) := by
  unfold marginDone
  repeat' first
    | with_reducible exact Keeps.refl _
    | with_reducible assumption
    | (extract_lets +onlyGivenNames x; first
        | (have h : State := x; clear h; with_reducible refine Keeps.gen x ?_ ?_; rotate_left; intro hx; clear_value x; rotate_left; subst x)
        | (have h : State := x.2; clear h; with_reducible refine Keeps.gen x.2 ?_ ?_; rotate_left; intro hx; clear_value x; rotate_left; subst x)
        | (have h : State := x.1; clear h; with_reducible refine Keeps.gen x.1 ?_ ?_; rotate_left; intro hx; clear_value x; rotate_left; subst x)
        | clear_value x
        | subst x)
    | with_reducible apply Keeps.foldl ?_ (fun _ _ => ?_)
    | with_reducible apply Keeps.foldl2 ?_ (fun _ _ => ?_)
    | with_reducible apply Keeps.foldl1 ?_ (fun _ _ => ?_)
    | with_reducible apply Keeps.ite ?_ ?_
    | with_reducible apply Keeps.trans ?_ (State.setNum_keeps ..)
    | with_reducible apply Keeps.trans ?_ (State.afterMargin_keeps ..)
    | with_reducible apply Keeps.trans ?_ (State.icxEvent_keeps ..)
    | with_reducible apply Keeps.trans ?_ (State.marginRecord_keeps ..)
    | with_reducible apply Keeps.trans ?_ (State.setBlob_keeps ..)
    | (simp only [Keeps.mk_iff]; with_reducible refine KeepsP.same ?_ rfl rfl rfl)
    | with_reducible apply Keeps.of2 (by with_reducible assumption) (State.marginRecord_keeps ..)
    | split

end Sys2Proof.Machine
end

