-- ==== Sys2Proof/Laws/KeepsCores.lean ====
section
/-! SUPPORT. Keeps for the operations of Machine/Cores.lean. -/

namespace Sys2Proof.Machine

set_option linter.all false

theorem State.setCnum_keeps (s : State) (covered : Bool) (o : Obj) (v : Nat) :
    Keeps s (State.setCnum s covered o v) := by
  unfold State.setCnum
  repeat' first
    | with_reducible exact Keeps.refl _
    | with_reducible assumption
    | with_reducible apply Keeps.ite ?_ ?_
    | with_reducible apply Keeps.trans ?_ (State.setNum_keeps ..)
    | (simp only [Keeps.mk_iff]; with_reducible refine KeepsP.same ?_ rfl rfl rfl)
    | split

theorem State.setStream_keeps (s : State) (covered : Bool) (st : Stream) : Keeps s (State.setStream s covered st) := by
  unfold State.setStream
  repeat' first
    | with_reducible exact Keeps.refl _
    | with_reducible assumption
    | with_reducible apply Keeps.ite ?_ ?_
    | (simp only [Keeps.mk_iff]; with_reducible refine KeepsP.same ?_ rfl rfl rfl)
    | split

theorem State.setParity_keeps (s : State) (covered odd : Bool) (p : Parity) :
    Keeps s (State.setParity s covered odd p) := by
  unfold State.setParity
  repeat' first
    | with_reducible exact Keeps.refl _
    | with_reducible assumption
    | with_reducible apply Keeps.ite ?_ ?_
    | (simp only [Keeps.mk_iff]; with_reducible refine KeepsP.same ?_ rfl rfl rfl)
    | split

theorem State.setWord_keeps (s : State) (covered odd : Bool) (inst : Nat) (w : InstWord) :
    Keeps s (State.setWord s covered odd inst w) := by
  unfold State.setWord
  repeat' first
    | with_reducible exact Keeps.refl _
    | with_reducible assumption
    | (extract_lets +onlyGivenNames x; first
        | (have h : State := x; clear h; with_reducible refine Keeps.gen x ?_ ?_; rotate_left; intro hx; clear_value x; rotate_left; subst x)
        | clear_value x
        | subst x)
    | with_reducible apply Keeps.ite ?_ ?_
    | with_reducible apply Keeps.trans ?_ (State.setParity_keeps ..)
    | (simp only [Keeps.mk_iff]; with_reducible refine KeepsP.same ?_ rfl rfl rfl)
    | split

theorem State.setOverflow_keeps (s : State) (q : Nat) (l : List Entry) : Keeps s (State.setOverflow s q l) := by
  unfold State.setOverflow
  repeat' first
    | with_reducible exact Keeps.refl _
    | with_reducible assumption
    | with_reducible apply Keeps.ite ?_ ?_
    | (simp only [Keeps.mk_iff]; with_reducible refine KeepsP.same ?_ rfl rfl rfl)
    | split

theorem State.keepUnplaced_keeps (s : State) (covered odd : Bool) (inst q : Nat) :
    Keeps s (State.keepUnplaced s covered odd inst q) := by
  unfold State.keepUnplaced
  repeat' first
    | with_reducible exact Keeps.refl _
    | with_reducible assumption
    | (extract_lets +onlyGivenNames x; first
        | (have h : State := x; clear h; with_reducible refine Keeps.gen x ?_ ?_; rotate_left; intro hx; clear_value x; rotate_left; subst x)
        | clear_value x
        | subst x)
    | with_reducible apply Keeps.ite ?_ ?_
    | with_reducible apply Keeps.trans ?_ (State.setWord_keeps ..)
    | with_reducible apply Keeps.trans ?_ (State.ready_keeps ..)
    | with_reducible apply Keeps.trans ?_ (State.setParity_keeps ..)
    | (simp only [Keeps.mk_iff]; with_reducible refine KeepsP.same ?_ rfl rfl rfl)
    | with_reducible apply Keeps.of1 (by with_reducible assumption) (State.ready_keeps ..)
    | split

theorem State.pushTo_keeps (s : State) (covered odd : Bool) (inst g : Nat) (h : g < 384) :
    Keeps s (State.pushTo s covered odd inst g h) := by
  unfold State.pushTo
  repeat' first
    | with_reducible exact Keeps.refl _
    | with_reducible assumption
    | (extract_lets +onlyGivenNames x; first
        | (have h : State := x; clear h; with_reducible refine Keeps.gen x ?_ ?_; rotate_left; intro hx; clear_value x; rotate_left; subst x)
        | clear_value x
        | subst x)
    | with_reducible apply Keeps.ite ?_ ?_
    | with_reducible apply Keeps.trans ?_ (State.ready_keeps ..)
    | with_reducible apply Keeps.trans ?_ (State.setWord_keeps ..)
    | with_reducible apply Keeps.trans ?_ (State.setCore_keeps ..)
    | with_reducible apply Keeps.trans ?_ (State.setOverflow_keeps ..)
    | with_reducible apply Keeps.trans ?_ (State.keepUnplaced_keeps ..)
    | (simp only [Keeps.mk_iff]; with_reducible refine KeepsP.same ?_ rfl rfl rfl)
    | with_reducible apply Keeps.of1 (by with_reducible assumption) (State.ready_keeps ..)
    | split

theorem State.place_keeps (s : State) (covered odd : Bool) (inst : Nat) (cause : Option Nat) :
    Keeps s (State.place s covered odd inst cause) := by
  unfold State.place
  repeat' first
    | with_reducible exact Keeps.refl _
    | with_reducible assumption
    | (extract_lets +onlyGivenNames x; first
        | (have h : State := x; clear h; with_reducible refine Keeps.gen x ?_ ?_; rotate_left; intro hx; clear_value x; rotate_left; subst x)
        | (have h : State := x.2; clear h; with_reducible refine Keeps.gen x.2 ?_ ?_; rotate_left; intro hx; clear_value x; rotate_left; subst x)
        | (have h : State := x.1; clear h; with_reducible refine Keeps.gen x.1 ?_ ?_; rotate_left; intro hx; clear_value x; rotate_left; subst x)
        | clear_value x
        | subst x)
    | with_reducible apply Keeps.ite ?_ ?_
    | with_reducible apply Keeps.trans ?_ (State.keepUnplaced_keeps ..)
    | with_reducible apply Keeps.trans ?_ (State.pushTo_keeps ..)
    | (simp only [Keeps.mk_iff]; with_reducible refine KeepsP.same ?_ rfl rfl rfl)
    | split

theorem State.sendMember_keeps (s : State) (covered : Bool) (dest : Node) (course : W64) (b : Body) :
    Keeps s (State.sendMember s covered dest course b) := by
  unfold State.sendMember
  repeat' first
    | with_reducible exact Keeps.refl _
    | with_reducible assumption
    | (extract_lets +onlyGivenNames x; first
        | (have h : State := x; clear h; with_reducible refine Keeps.gen x ?_ ?_; rotate_left; intro hx; clear_value x; rotate_left; subst x)
        | clear_value x
        | subst x)
    | with_reducible apply Keeps.ite ?_ ?_
    | with_reducible apply Keeps.trans ?_ (State.send_keeps ..)
    | (simp only [Keeps.mk_iff]; with_reducible refine KeepsP.same ?_ rfl rfl rfl)
    | split

theorem State.emptyMarkers_keeps (s : State) (covered odd : Bool) (d : Descriptor) (i inst : Nat) :
    Keeps s (State.emptyMarkers s covered odd d i inst) := by
  unfold State.emptyMarkers
  repeat' first
    | with_reducible exact Keeps.refl _
    | with_reducible assumption
    | (extract_lets +onlyGivenNames x; first
        | (have h : State := x; clear h; with_reducible refine Keeps.gen x ?_ ?_; rotate_left; intro hx; clear_value x; rotate_left; subst x)
        | (have h : State := x.2; clear h; with_reducible refine Keeps.gen x.2 ?_ ?_; rotate_left; intro hx; clear_value x; rotate_left; subst x)
        | (have h : State := x.1; clear h; with_reducible refine Keeps.gen x.1 ?_ ?_; rotate_left; intro hx; clear_value x; rotate_left; subst x)
        | clear_value x
        | subst x)
    | with_reducible apply Keeps.foldl ?_ (fun _ _ => ?_)
    | with_reducible apply Keeps.foldl2 ?_ (fun _ _ => ?_)
    | with_reducible apply Keeps.foldl1 ?_ (fun _ _ => ?_)
    | with_reducible apply Keeps.ite ?_ ?_
    | with_reducible apply Keeps.trans ?_ (State.sendMember_keeps ..)
    | with_reducible apply Keeps.trans ?_ (expertReturn_keeps ..)
    | with_reducible apply Keeps.trans ?_ (State.send_keeps ..)
    | (simp only [Keeps.mk_iff]; with_reducible refine KeepsP.same ?_ rfl rfl rfl)
    | split

theorem State.applyVerify_keeps (s : State) (covered : Bool) : Keeps s (State.applyVerify s covered) := by
  unfold State.applyVerify
  repeat' first
    | with_reducible exact Keeps.refl _
    | with_reducible assumption
    | (extract_lets +onlyGivenNames x; first
        | (have h : State := x; clear h; with_reducible refine Keeps.gen x ?_ ?_; rotate_left; intro hx; clear_value x; rotate_left; subst x)
        | (have h : _ → _ := x; clear h; subst x; try dsimp -zeta only)
        | clear_value x
        | subst x)
    | with_reducible apply Keeps.foldl ?_ (fun _ _ => ?_)
    | with_reducible apply Keeps.foldl2 ?_ (fun _ _ => ?_)
    | with_reducible apply Keeps.foldl1 ?_ (fun _ _ => ?_)
    | with_reducible apply Keeps.ite ?_ ?_
    | with_reducible apply Keeps.trans ?_ (State.editSession_keeps ..)
    | (simp only [Keeps.mk_iff]; with_reducible refine KeepsP.same ?_ rfl rfl rfl)
    | split

theorem State.applyMask_keeps (s : State) (covered odd : Bool) (d : Descriptor) (i : Nat) :
    Keeps s (State.applyMask s covered odd d i) := by
  unfold State.applyMask
  repeat' first
    | with_reducible exact Keeps.refl _
    | with_reducible assumption
    | (extract_lets +onlyGivenNames x; first
        | (have h : State := x; clear h; with_reducible refine Keeps.gen x ?_ ?_; rotate_left; intro hx; clear_value x; rotate_left; subst x)
        | (have h : State := x.2; clear h; with_reducible refine Keeps.gen x.2 ?_ ?_; rotate_left; intro hx; clear_value x; rotate_left; subst x)
        | (have h : State := x.1; clear h; with_reducible refine Keeps.gen x.1 ?_ ?_; rotate_left; intro hx; clear_value x; rotate_left; subst x)
        | clear_value x
        | subst x)
    | with_reducible apply Keeps.foldl ?_ (fun _ _ => ?_)
    | with_reducible apply Keeps.foldl2 ?_ (fun _ _ => ?_)
    | with_reducible apply Keeps.foldl1 ?_ (fun _ _ => ?_)
    | with_reducible apply Keeps.ite ?_ ?_
    | with_reducible apply Keeps.trans ?_ (State.setParity_keeps ..)
    | with_reducible apply Keeps.trans ?_ (State.bump_keeps ..)
    | (simp only [Keeps.mk_iff]; with_reducible refine KeepsP.same ?_ rfl rfl rfl)
    | split

theorem State.noteRows_keeps (s : State) (covered odd : Bool) (d : Descriptor) (i n : Nat) :
    Keeps s (State.noteRows s covered odd d i n) := by
  unfold State.noteRows
  repeat' first
    | with_reducible exact Keeps.refl _
    | with_reducible assumption
    | (extract_lets +onlyGivenNames x; first
        | (have h : State := x; clear h; with_reducible refine Keeps.gen x ?_ ?_; rotate_left; intro hx; clear_value x; rotate_left; subst x)
        | clear_value x
        | subst x)
    | with_reducible apply Keeps.foldl ?_ (fun _ _ => ?_)
    | with_reducible apply Keeps.foldl2 ?_ (fun _ _ => ?_)
    | with_reducible apply Keeps.foldl1 ?_ (fun _ _ => ?_)
    | with_reducible apply Keeps.ite ?_ ?_
    | with_reducible apply Keeps.trans ?_ (State.setParity_keeps ..)
    | (simp only [Keeps.mk_iff]; with_reducible refine KeepsP.same ?_ rfl rfl rfl)
    | split

theorem State.putOut_keeps (s : State) (covered odd : Bool) (inst : Nat) (l : List Sending) :
    Keeps s (State.putOut s covered odd inst l) := by
  unfold State.putOut
  repeat' first
    | with_reducible exact Keeps.refl _
    | with_reducible assumption
    | (extract_lets +onlyGivenNames x; first
        | (have h : State := x; clear h; with_reducible refine Keeps.gen x ?_ ?_; rotate_left; intro hx; clear_value x; rotate_left; subst x)
        | clear_value x
        | subst x)
    | with_reducible apply Keeps.ite ?_ ?_
    | (simp only [Keeps.mk_iff]; with_reducible refine KeepsP.same ?_ rfl rfl rfl)
    | split

theorem State.sendOut_keeps (s : State) (course : W64) (x : Sending) : Keeps s (State.sendOut s course x) := by
  unfold State.sendOut
  repeat' first
    | with_reducible exact Keeps.refl _
    | with_reducible assumption
    | (extract_lets +onlyGivenNames x; first
        | (have h : State := x; clear h; with_reducible refine Keeps.gen x ?_ ?_; rotate_left; intro hx; clear_value x; rotate_left; subst x)
        | (have h : State := x.2; clear h; with_reducible refine Keeps.gen x.2 ?_ ?_; rotate_left; intro hx; clear_value x; rotate_left; subst x)
        | (have h : State := x.1; clear h; with_reducible refine Keeps.gen x.1 ?_ ?_; rotate_left; intro hx; clear_value x; rotate_left; subst x)
        | clear_value x
        | subst x)
    | with_reducible apply Keeps.ite ?_ ?_
    | with_reducible apply Keeps.trans ?_ (State.tally_keeps ..)
    | with_reducible apply Keeps.trans ?_ (State.sendMember_keeps ..)
    | with_reducible apply Keeps.trans ?_ (State.send_keeps ..)
    | with_reducible apply Keeps.trans ?_ (pageRecord_keeps ..)
    | with_reducible apply Keeps.trans ?_ (State.editSession_keeps ..)
    | (simp only [Keeps.mk_iff]; with_reducible refine KeepsP.same ?_ rfl rfl rfl)
    | split

theorem State.flushOut_keeps (s : State) (covered odd : Bool) (inst : Nat) :
    Keeps s (State.flushOut s covered odd inst) := by
  unfold State.flushOut
  repeat' first
    | with_reducible exact Keeps.refl _
    | with_reducible assumption
    | (extract_lets +onlyGivenNames x; first
        | (have h : State := x; clear h; with_reducible refine Keeps.gen x ?_ ?_; rotate_left; intro hx; clear_value x; rotate_left; subst x)
        | clear_value x
        | subst x)
    | with_reducible apply Keeps.foldl ?_ (fun _ _ => ?_)
    | with_reducible apply Keeps.foldl2 ?_ (fun _ _ => ?_)
    | with_reducible apply Keeps.foldl1 ?_ (fun _ _ => ?_)
    | with_reducible apply Keeps.ite ?_ ?_
    | with_reducible apply Keeps.trans ?_ (State.sendOut_keeps ..)
    | with_reducible apply Keeps.trans ?_ (State.putOut_keeps ..)
    | (simp only [Keeps.mk_iff]; with_reducible refine KeepsP.same ?_ rfl rfl rfl)
    | split

theorem State.retireEffects_keeps (s : State) (covered odd : Bool) (d : Descriptor) (i inst : Nat) (zero : Bool) :
    Keeps s (State.retireEffects s covered odd d i inst zero) := by
  unfold State.retireEffects
  repeat' first
    | with_reducible exact Keeps.refl _
    | with_reducible assumption
    | (extract_lets +onlyGivenNames x; first
        | (have h : State := x; clear h; with_reducible refine Keeps.gen x ?_ ?_; rotate_left; intro hx; clear_value x; rotate_left; subst x)
        | (have h : State := x.2; clear h; with_reducible refine Keeps.gen x.2 ?_ ?_; rotate_left; intro hx; clear_value x; rotate_left; subst x)
        | (have h : State := x.1; clear h; with_reducible refine Keeps.gen x.1 ?_ ?_; rotate_left; intro hx; clear_value x; rotate_left; subst x)
        | clear_value x
        | subst x)
    | with_reducible apply Keeps.foldl ?_ (fun _ _ => ?_)
    | with_reducible apply Keeps.foldl2 ?_ (fun _ _ => ?_)
    | with_reducible apply Keeps.foldl1 ?_ (fun _ _ => ?_)
    | with_reducible apply Keeps.ite ?_ ?_
    | with_reducible apply Keeps.trans ?_ (State.sendMember_keeps ..)
    | with_reducible apply Keeps.trans ?_ (grant_keeps ..)
    | with_reducible apply Keeps.trans ?_ (State.setStream_keeps ..)
    | with_reducible apply Keeps.trans ?_ (State.applyVerify_keeps ..)
    | with_reducible apply Keeps.trans ?_ (State.applyMask_keeps ..)
    | with_reducible apply Keeps.trans ?_ (State.emptyMarkers_keeps ..)
    | with_reducible apply Keeps.trans ?_ (State.flushOut_keeps ..)
    | (simp only [Keeps.mk_iff]; with_reducible refine KeepsP.same ?_ rfl rfl rfl)
    | split

theorem State.retire_keeps (s : State) (covered odd : Bool) (d : Descriptor) (i inst : Nat) (zero : Bool) (cause : Option Nat) :
    Keeps s (State.retire s covered odd d i inst zero cause).1 := by
  unfold State.retire
  repeat' first
    | with_reducible exact Keeps.refl _
    | with_reducible assumption
    | (extract_lets +onlyGivenNames x; first
        | (have h : State := x; clear h; with_reducible refine Keeps.gen x ?_ ?_; rotate_left; intro hx; clear_value x; rotate_left; subst x)
        | (have h : State := x.2; clear h; with_reducible refine Keeps.gen x.2 ?_ ?_; rotate_left; intro hx; clear_value x; rotate_left; subst x)
        | (have h : State := x.1; clear h; with_reducible refine Keeps.gen x.1 ?_ ?_; rotate_left; intro hx; clear_value x; rotate_left; subst x)
        | clear_value x
        | subst x)
    | with_reducible apply Keeps.ite ?_ ?_
    | with_reducible apply Keeps.ite2 ?_ ?_
    | with_reducible apply Keeps.ite1 ?_ ?_
    | with_reducible apply Keeps.trans ?_ (State.setWord_keeps ..)
    | with_reducible apply Keeps.trans ?_ (State.noteRows_keeps ..)
    | with_reducible apply Keeps.trans ?_ (State.retireEffects_keeps ..)
    | with_reducible apply Keeps.trans ?_ (State.grants_keeps ..)
    | (simp only [Keeps.mk_iff]; with_reducible refine KeepsP.same ?_ rfl rfl rfl)
    | split

theorem State.ready_keeps (s : State) (covered odd : Bool) (inst : Nat) (cause : Option Nat) :
    Keeps s (State.ready s covered odd inst cause).1 := by
  unfold State.ready
  repeat' first
    | with_reducible exact Keeps.refl _
    | with_reducible assumption
    | with_reducible apply Keeps.ite ?_ ?_
    | with_reducible apply Keeps.ite2 ?_ ?_
    | with_reducible apply Keeps.ite1 ?_ ?_
    | with_reducible apply Keeps.trans ?_ (State.keepUnplaced_keeps ..)
    | with_reducible apply Keeps.trans ?_ (State.retire_keeps ..)
    | with_reducible apply Keeps.trans ?_ (State.place_keeps ..)
    | (simp only [Keeps.mk_iff]; with_reducible refine KeepsP.same ?_ rfl rfl rfl)
    | with_reducible apply Keeps.of1 (by with_reducible assumption) (State.retire_keeps ..)
    | split

theorem State.meetWait_keeps (s : State) (covered odd : Bool) (inst : Nat) (cause : Option Nat) :
    Keeps s (State.meetWait s covered odd inst cause).1 := by
  unfold State.meetWait
  repeat' first
    | with_reducible exact Keeps.refl _
    | with_reducible assumption
    | (extract_lets +onlyGivenNames x; first
        | (have h : State := x; clear h; with_reducible refine Keeps.gen x ?_ ?_; rotate_left; intro hx; clear_value x; rotate_left; subst x)
        | (have h : State := x.2; clear h; with_reducible refine Keeps.gen x.2 ?_ ?_; rotate_left; intro hx; clear_value x; rotate_left; subst x)
        | (have h : State := x.1; clear h; with_reducible refine Keeps.gen x.1 ?_ ?_; rotate_left; intro hx; clear_value x; rotate_left; subst x)
        | clear_value x
        | subst x)
    | with_reducible apply Keeps.ite ?_ ?_
    | with_reducible apply Keeps.ite2 ?_ ?_
    | with_reducible apply Keeps.ite1 ?_ ?_
    | with_reducible apply Keeps.trans ?_ (State.setWord_keeps ..)
    | with_reducible apply Keeps.trans ?_ (State.ready_keeps ..)
    | (simp only [Keeps.mk_iff]; with_reducible refine KeepsP.same ?_ rfl rfl rfl)
    | with_reducible apply Keeps.of1 (by with_reducible assumption) (State.ready_keeps ..)
    | split

theorem State.applyGrant_keeps (s : State) (g : GrantWork) : Keeps s (State.applyGrant s g).1 := by
  unfold State.applyGrant
  repeat' first
    | with_reducible exact Keeps.refl _
    | with_reducible assumption
    | (extract_lets +onlyGivenNames x; first
        | (have h : State := x; clear h; with_reducible refine Keeps.gen x ?_ ?_; rotate_left; intro hx; clear_value x; rotate_left; subst x)
        | (have h : State := x.2; clear h; with_reducible refine Keeps.gen x.2 ?_ ?_; rotate_left; intro hx; clear_value x; rotate_left; subst x)
        | (have h : State := x.1; clear h; with_reducible refine Keeps.gen x.1 ?_ ?_; rotate_left; intro hx; clear_value x; rotate_left; subst x)
        | clear_value x
        | subst x)
    | with_reducible apply Keeps.foldl ?_ (fun _ _ => ?_)
    | with_reducible apply Keeps.foldl2 ?_ (fun _ _ => ?_)
    | with_reducible apply Keeps.foldl1 ?_ (fun _ _ => ?_)
    | with_reducible apply Keeps.ite ?_ ?_
    | with_reducible apply Keeps.ite2 ?_ ?_
    | with_reducible apply Keeps.ite1 ?_ ?_
    | with_reducible apply Keeps.trans ?_ (State.setParity_keeps ..)
    | with_reducible apply Keeps.trans ?_ (State.raise_keeps ..)
    | with_reducible apply Keeps.trans ?_ (State.meetWait_keeps ..)
    | (simp only [Keeps.mk_iff]; with_reducible refine KeepsP.same ?_ rfl rfl rfl)
    | with_reducible apply Keeps.of1 (by with_reducible assumption) (State.meetWait_keeps ..)
    | split

theorem State.pump_keeps (n : Nat) (l : List GrantWork) (s : State) : Keeps s (State.pump n l s) := by
  induction n generalizing l s with
  | zero => exact Keeps.refl _
  | succ n ih =>
    cases l with
    | nil => exact Keeps.refl _
    | cons g r => exact Keeps.trans (State.applyGrant_keeps ..) (ih ..)

theorem State.grants_keeps (s : State) (l : List GrantWork) : Keeps s (State.grants s l) := by
  unfold State.grants
  cases l with
  | nil => exact Keeps.refl _
  | cons g r => exact State.pump_keeps ..

theorem State.firstTime_keeps {s t : State} {covered : Bool} {course : W64} {sender : Node} {no : Nat}
    (h : s.firstTime covered course sender no = some t) : Keeps s t := by
  unfold State.firstTime at h
  split at h
  · cases h
  · cases h
    exact Keeps.mk_iff.2 (KeepsP.same (Keeps.refl s) rfl rfl rfl)

theorem grant_keeps (s : State) (covered : Bool) (course : W64) (counter : BitVec 18) (amount : BitVec 12) (sender : Node)
    (inst : BitVec 20) : Keeps s (grant s covered course counter amount sender inst) := by
  unfold grant
  split
  · exact State.raise_keeps ..
  split
  · exact Keeps.refl _
  · rename_i h
    exact (State.firstTime_keeps h).trans (State.grants_keeps ..)

theorem retireRequest_keeps (s : State) (r : Run) : Keeps s (retireRequest s r) := by
  unfold retireRequest
  repeat' first
    | with_reducible exact Keeps.refl _
    | with_reducible assumption
    | (extract_lets +onlyGivenNames x; first
        | (have h : State := x; clear h; with_reducible refine Keeps.gen x ?_ ?_; rotate_left; intro hx; clear_value x; rotate_left; subst x)
        | (have h : State := x.2; clear h; with_reducible refine Keeps.gen x.2 ?_ ?_; rotate_left; intro hx; clear_value x; rotate_left; subst x)
        | (have h : State := x.1; clear h; with_reducible refine Keeps.gen x.1 ?_ ?_; rotate_left; intro hx; clear_value x; rotate_left; subst x)
        | clear_value x
        | subst x)
    | with_reducible apply Keeps.ite ?_ ?_
    | with_reducible apply Keeps.trans ?_ (State.drawNat_keeps ..)
    | with_reducible apply Keeps.trans ?_ (State.setCore_keeps ..)
    | with_reducible apply Keeps.trans ?_ (State.retire_keeps ..)
    | with_reducible apply Keeps.trans ?_ (State.grants_keeps ..)
    | with_reducible apply Keeps.trans ?_ (State.countBusy_keeps ..)
    | (simp only [Keeps.mk_iff]; with_reducible refine KeepsP.same ?_ rfl rfl rfl)
    | with_reducible apply Keeps.of2 (by with_reducible assumption) (State.drawNat_keeps ..)
    | with_reducible apply Keeps.of1 (by with_reducible assumption) (State.retire_keeps ..)
    | split

theorem State.placeHeld_keeps (s : State) (q : Nat) : Keeps s (State.placeHeld s q) := by
  unfold State.placeHeld
  repeat' first
    | with_reducible exact Keeps.refl _
    | with_reducible assumption
    | (extract_lets +onlyGivenNames x; first
        | (have h : State := x; clear h; with_reducible refine Keeps.gen x ?_ ?_; rotate_left; intro hx; clear_value x; rotate_left; subst x)
        | clear_value x
        | subst x)
    | with_reducible apply Keeps.foldl ?_ (fun _ _ => ?_)
    | with_reducible apply Keeps.foldl2 ?_ (fun _ _ => ?_)
    | with_reducible apply Keeps.foldl1 ?_ (fun _ _ => ?_)
    | with_reducible apply Keeps.ite ?_ ?_
    | with_reducible apply Keeps.trans ?_ (State.place_keeps ..)
    | with_reducible apply Keeps.trans ?_ (State.setParity_keeps ..)
    | (simp only [Keeps.mk_iff]; with_reducible refine KeepsP.same ?_ rfl rfl rfl)
    | split

theorem runClaim_keeps (s : State) (r : Run) : Keeps s (runClaim s r) := by
  unfold runClaim
  repeat' first
    | with_reducible exact Keeps.refl _
    | with_reducible assumption
    | (extract_lets +onlyGivenNames x; first
        | (have h : State := x; clear h; with_reducible refine Keeps.gen x ?_ ?_; rotate_left; intro hx; clear_value x; rotate_left; subst x)
        | (have h : State := x.2; clear h; with_reducible refine Keeps.gen x.2 ?_ ?_; rotate_left; intro hx; clear_value x; rotate_left; subst x)
        | (have h : State := x.1; clear h; with_reducible refine Keeps.gen x.1 ?_ ?_; rotate_left; intro hx; clear_value x; rotate_left; subst x)
        | clear_value x
        | subst x)
    | with_reducible apply Keeps.ite ?_ ?_
    | with_reducible apply Keeps.trans ?_ (State.ready_keeps ..)
    | with_reducible apply Keeps.trans ?_ (State.setWord_keeps ..)
    | with_reducible apply Keeps.trans ?_ (State.setOverflow_keeps ..)
    | with_reducible apply Keeps.trans ?_ (State.setCore_keeps ..)
    | with_reducible apply Keeps.trans ?_ (State.placeHeld_keeps ..)
    | (simp only [Keeps.mk_iff]; with_reducible refine KeepsP.same ?_ rfl rfl rfl)
    | with_reducible apply Keeps.of1 (by with_reducible assumption) (State.ready_keeps ..)
    | split

theorem State.stealTop_keeps (s : State) (thief victim n : Nat) : Keeps s (State.stealTop s thief victim n).2 := by
  unfold State.stealTop
  repeat' first
    | with_reducible exact Keeps.refl _
    | with_reducible assumption
    | (extract_lets +onlyGivenNames x; first
        | (have h : State := x; clear h; with_reducible refine Keeps.gen x ?_ ?_; rotate_left; intro hx; clear_value x; rotate_left; subst x)
        | (have h : State := x.2; clear h; with_reducible refine Keeps.gen x.2 ?_ ?_; rotate_left; intro hx; clear_value x; rotate_left; subst x)
        | (have h : State := x.1; clear h; with_reducible refine Keeps.gen x.1 ?_ ?_; rotate_left; intro hx; clear_value x; rotate_left; subst x)
        | clear_value x
        | subst x)
    | with_reducible apply Keeps.foldl ?_ (fun _ _ => ?_)
    | with_reducible apply Keeps.foldl2 ?_ (fun _ _ => ?_)
    | with_reducible apply Keeps.foldl1 ?_ (fun _ _ => ?_)
    | with_reducible apply Keeps.ite ?_ ?_
    | with_reducible apply Keeps.ite2 ?_ ?_
    | with_reducible apply Keeps.ite1 ?_ ?_
    | with_reducible apply Keeps.trans ?_ (State.setCore_keeps ..)
    | with_reducible apply Keeps.trans ?_ (State.ready_keeps ..)
    | with_reducible apply Keeps.trans ?_ (State.setWord_keeps ..)
    | (simp only [Keeps.mk_iff]; with_reducible refine KeepsP.same ?_ rfl rfl rfl)
    | with_reducible apply Keeps.of1 (by with_reducible assumption) (State.ready_keeps ..)
    | split

theorem State.refreshHub_keeps (s : State) : Keeps s (State.refreshHub s) := by
  unfold State.refreshHub
  repeat' first
    | with_reducible exact Keeps.refl _
    | with_reducible assumption
    | (extract_lets +onlyGivenNames x; first
        | (have h : State := x; clear h; with_reducible refine Keeps.gen x ?_ ?_; rotate_left; intro hx; clear_value x; rotate_left; subst x)
        | (have h : State := x.2; clear h; with_reducible refine Keeps.gen x.2 ?_ ?_; rotate_left; intro hx; clear_value x; rotate_left; subst x)
        | (have h : State := x.1; clear h; with_reducible refine Keeps.gen x.1 ?_ ?_; rotate_left; intro hx; clear_value x; rotate_left; subst x)
        | clear_value x
        | subst x)
    | with_reducible apply Keeps.foldl ?_ (fun _ _ => ?_)
    | with_reducible apply Keeps.foldl2 ?_ (fun _ _ => ?_)
    | with_reducible apply Keeps.foldl1 ?_ (fun _ _ => ?_)
    | with_reducible apply Keeps.ite ?_ ?_
    | with_reducible apply Keeps.trans ?_ (State.drawNat_keeps ..)
    | (simp only [Keeps.mk_iff]; with_reducible refine KeepsP.same ?_ rfl rfl rfl)
    | with_reducible apply Keeps.of2 (by with_reducible assumption) (State.drawNat_keeps ..)
    | split

theorem State.search_keeps (s : State) (q nn : Nat) : Keeps s (State.search s q nn).2 := by
  unfold State.search
  repeat' first
    | with_reducible exact Keeps.refl _
    | with_reducible assumption
    | (extract_lets +onlyGivenNames x; first
        | (have h : State := x; clear h; with_reducible refine Keeps.gen x ?_ ?_; rotate_left; intro hx; clear_value x; rotate_left; subst x)
        | (have h : State := x.2; clear h; with_reducible refine Keeps.gen x.2 ?_ ?_; rotate_left; intro hx; clear_value x; rotate_left; subst x)
        | (have h : State := x.1; clear h; with_reducible refine Keeps.gen x.1 ?_ ?_; rotate_left; intro hx; clear_value x; rotate_left; subst x)
        | clear_value x
        | subst x)
    | with_reducible apply Keeps.foldl ?_ (fun _ _ => ?_)
    | with_reducible apply Keeps.foldl2 ?_ (fun _ _ => ?_)
    | with_reducible apply Keeps.foldl1 ?_ (fun _ _ => ?_)
    | with_reducible apply Keeps.ite ?_ ?_
    | with_reducible apply Keeps.ite2 ?_ ?_
    | with_reducible apply Keeps.ite1 ?_ ?_
    | with_reducible apply Keeps.trans ?_ (State.stealTop_keeps ..)
    | (simp only [Keeps.mk_iff]; with_reducible refine KeepsP.same ?_ rfl rfl rfl)
    | with_reducible apply Keeps.of2 (by with_reducible assumption) (State.stealTop_keeps ..)
    | split

theorem steal_keeps (s : State) (q : Fin 4) (nn : Fin 96) : Keeps s (steal s q nn) := by
  unfold steal
  repeat' first
    | with_reducible exact Keeps.refl _
    | with_reducible assumption
    | (extract_lets +onlyGivenNames x; first
        | (have h : State := x; clear h; with_reducible refine Keeps.gen x ?_ ?_; rotate_left; intro hx; clear_value x; rotate_left; subst x)
        | (have h : State := x.2; clear h; with_reducible refine Keeps.gen x.2 ?_ ?_; rotate_left; intro hx; clear_value x; rotate_left; subst x)
        | (have h : State := x.1; clear h; with_reducible refine Keeps.gen x.1 ?_ ?_; rotate_left; intro hx; clear_value x; rotate_left; subst x)
        | clear_value x
        | subst x)
    | with_reducible apply Keeps.ite ?_ ?_
    | with_reducible apply Keeps.trans ?_ (State.search_keeps ..)
    | with_reducible apply Keeps.trans ?_ (State.refreshHub_keeps ..)
    | with_reducible apply Keeps.trans ?_ (State.setCore_keeps ..)
    | (simp only [Keeps.mk_iff]; with_reducible refine KeepsP.same ?_ rfl rfl rfl)
    | with_reducible apply Keeps.of2 (by with_reducible assumption) (State.search_keeps ..)
    | split

theorem stealRetryWait_keeps (s : State) (q : Fin 4) (nn : Fin 96) : Keeps s (stealRetryWait s q nn) := by
  unfold stealRetryWait
  repeat' first
    | with_reducible exact Keeps.refl _
    | with_reducible assumption
    | with_reducible apply Keeps.ite ?_ ?_
    | with_reducible apply Keeps.trans ?_ (State.setCore_keeps ..)
    | (simp only [Keeps.mk_iff]; with_reducible refine KeepsP.same ?_ rfl rfl rfl)
    | split

theorem depthPublish_keeps (s : State) (q : Fin 4) (nn : Fin 96) : Keeps s (depthPublish s q nn) := by
  unfold depthPublish
  repeat' first
    | with_reducible exact Keeps.refl _
    | with_reducible assumption
    | (extract_lets +onlyGivenNames x; first
        | (have h : State := x; clear h; with_reducible refine Keeps.gen x ?_ ?_; rotate_left; intro hx; clear_value x; rotate_left; subst x)
        | clear_value x
        | subst x)
    | with_reducible apply Keeps.ite ?_ ?_
    | with_reducible apply Keeps.trans ?_ (State.setCore_keeps ..)
    | with_reducible apply Keeps.trans ?_ (State.refreshHub_keeps ..)
    | (simp only [Keeps.mk_iff]; with_reducible refine KeepsP.same ?_ rfl rfl rfl)
    | split

theorem State.refuseCore_keeps (s : State) (g : Nat) : Keeps s (State.refuseCore s g) := by
  unfold State.refuseCore
  repeat' first
    | with_reducible exact Keeps.refl _
    | with_reducible assumption
    | with_reducible apply Keeps.ite ?_ ?_
    | with_reducible apply Keeps.trans ?_ (State.refuseReg_keeps ..)
    | (simp only [Keeps.mk_iff]; with_reducible refine KeepsP.same ?_ rfl rfl rfl)
    | split

theorem coreLeave_keeps (s : State) (who : Requester) (q : Fin 4) (nn : Fin 96) : Keeps s (coreLeave s who q nn) := by
  unfold coreLeave
  repeat' first
    | with_reducible exact Keeps.refl _
    | with_reducible assumption
    | (extract_lets +onlyGivenNames x; first
        | (have h : State := x; clear h; with_reducible refine Keeps.gen x ?_ ?_; rotate_left; intro hx; clear_value x; rotate_left; subst x)
        | clear_value x
        | subst x)
    | with_reducible apply Keeps.ite ?_ ?_
    | with_reducible apply Keeps.trans ?_ (State.refuseCore_keeps ..)
    | with_reducible apply Keeps.trans ?_ (State.setCore_keeps ..)
    | (simp only [Keeps.mk_iff]; with_reducible refine KeepsP.same ?_ rfl rfl rfl)
    | split

theorem coreWithdrawn_keeps (s : State) (q : Fin 4) (nn : Fin 96) : Keeps s (coreWithdrawn s q nn) := by
  unfold coreWithdrawn
  repeat' first
    | with_reducible exact Keeps.refl _
    | with_reducible assumption
    | (extract_lets +onlyGivenNames x; first
        | (have h : State := x; clear h; with_reducible refine Keeps.gen x ?_ ?_; rotate_left; intro hx; clear_value x; rotate_left; subst x)
        | clear_value x
        | subst x)
    | with_reducible apply Keeps.ite ?_ ?_
    | with_reducible apply Keeps.trans ?_ (State.setCore_keeps ..)
    | (simp only [Keeps.mk_iff]; with_reducible refine KeepsP.same ?_ rfl rfl rfl)
    | split

theorem coreRejoin_keeps (s : State) (who : Requester) (q : Fin 4) (nn : Fin 96) :
    Keeps s (coreRejoin s who q nn) := by
  unfold coreRejoin
  repeat' first
    | with_reducible exact Keeps.refl _
    | with_reducible assumption
    | (extract_lets +onlyGivenNames x; first
        | (have h : State := x; clear h; with_reducible refine Keeps.gen x ?_ ?_; rotate_left; intro hx; clear_value x; rotate_left; subst x)
        | clear_value x
        | subst x)
    | with_reducible apply Keeps.ite ?_ ?_
    | with_reducible apply Keeps.trans ?_ (State.refuseCore_keeps ..)
    | with_reducible apply Keeps.trans ?_ (State.setCore_keeps ..)
    | with_reducible apply Keeps.trans ?_ (rejoin_keeps ..)
    | (simp only [Keeps.mk_iff]; with_reducible refine KeepsP.same ?_ rfl rfl rfl)
    | split

theorem State.withdrawCore_keeps (s : State) (g : Nat) (raised : Bool) : Keeps s (State.withdrawCore s g raised) := by
  unfold State.withdrawCore
  repeat' first
    | with_reducible exact Keeps.refl _
    | with_reducible assumption
    | (extract_lets +onlyGivenNames x; first
        | (have h : State := x; clear h; with_reducible refine Keeps.gen x ?_ ?_; rotate_left; intro hx; clear_value x; rotate_left; subst x)
        | (have h : State := x.2; clear h; with_reducible refine Keeps.gen x.2 ?_ ?_; rotate_left; intro hx; clear_value x; rotate_left; subst x)
        | (have h : State := x.1; clear h; with_reducible refine Keeps.gen x.1 ?_ ?_; rotate_left; intro hx; clear_value x; rotate_left; subst x)
        | clear_value x
        | subst x)
    | with_reducible apply Keeps.foldl ?_ (fun _ _ => ?_)
    | with_reducible apply Keeps.foldl2 ?_ (fun _ _ => ?_)
    | with_reducible apply Keeps.foldl1 ?_ (fun _ _ => ?_)
    | with_reducible apply Keeps.ite ?_ ?_
    | with_reducible apply Keeps.trans ?_ (State.setCore_keeps ..)
    | with_reducible apply Keeps.trans ?_ (rejoin_keeps ..)
    | with_reducible apply Keeps.trans ?_ (State.setWord_keeps ..)
    | with_reducible apply Keeps.trans ?_ (State.ready_keeps ..)
    | with_reducible apply Keeps.trans ?_ (State.raise_keeps ..)
    | with_reducible apply Keeps.trans ?_ (State.place_keeps ..)
    | with_reducible apply Keeps.trans ?_ (State.keepUnplaced_keeps ..)
    | (simp only [Keeps.mk_iff]; with_reducible refine KeepsP.same ?_ rfl rfl rfl)
    | with_reducible apply Keeps.of1 (by with_reducible assumption) (State.ready_keeps ..)
    | split

theorem State.withdrawQuarter_keeps (s : State) (q : Nat) : Keeps s (State.withdrawQuarter s q) := by
  unfold State.withdrawQuarter
  repeat' first
    | with_reducible exact Keeps.refl _
    | with_reducible assumption
    | (extract_lets +onlyGivenNames x; first
        | (have h : State := x; clear h; with_reducible refine Keeps.gen x ?_ ?_; rotate_left; intro hx; clear_value x; rotate_left; subst x)
        | clear_value x
        | subst x)
    | with_reducible apply Keeps.foldl ?_ (fun _ _ => ?_)
    | with_reducible apply Keeps.foldl2 ?_ (fun _ _ => ?_)
    | with_reducible apply Keeps.foldl1 ?_ (fun _ _ => ?_)
    | with_reducible apply Keeps.ite ?_ ?_
    | with_reducible apply Keeps.trans ?_ (State.withdrawCore_keeps ..)
    | (simp only [Keeps.mk_iff]; with_reducible refine KeepsP.same ?_ rfl rfl rfl)
    | split

theorem State.prepare_keeps (s : State) (covered : Bool) (course : W64) (slot : Nat) :
    Keeps s (State.prepare s covered course slot) := by
  unfold State.prepare
  repeat' first
    | with_reducible exact Keeps.refl _
    | with_reducible assumption
    | with_reducible apply Keeps.ite ?_ ?_
    | with_reducible apply Keeps.trans ?_ (State.setParity_keeps ..)
    | (simp only [Keeps.mk_iff]; with_reducible refine KeepsP.same ?_ rfl rfl rfl)
    | split

theorem State.beginCourse_keeps (s : State) (covered odd : Bool) : Keeps s (State.beginCourse s covered odd) := by
  unfold State.beginCourse
  repeat' first
    | with_reducible exact Keeps.refl _
    | with_reducible assumption
    | (extract_lets +onlyGivenNames x; first
        | (have h : State := x; clear h; with_reducible refine Keeps.gen x ?_ ?_; rotate_left; intro hx; clear_value x; rotate_left; subst x)
        | (have h : State := x.2; clear h; with_reducible refine Keeps.gen x.2 ?_ ?_; rotate_left; intro hx; clear_value x; rotate_left; subst x)
        | (have h : State := x.1; clear h; with_reducible refine Keeps.gen x.1 ?_ ?_; rotate_left; intro hx; clear_value x; rotate_left; subst x)
        | clear_value x
        | subst x)
    | with_reducible apply Keeps.foldl ?_ (fun _ _ => ?_)
    | with_reducible apply Keeps.foldl2 ?_ (fun _ _ => ?_)
    | with_reducible apply Keeps.foldl1 ?_ (fun _ _ => ?_)
    | with_reducible apply Keeps.ite ?_ ?_
    | with_reducible apply Keeps.trans ?_ (State.setParity_keeps ..)
    | with_reducible apply Keeps.trans ?_ (State.ready_keeps ..)
    | with_reducible apply Keeps.trans ?_ (State.grants_keeps ..)
    | (simp only [Keeps.mk_iff]; with_reducible refine KeepsP.same ?_ rfl rfl rfl)
    | with_reducible apply Keeps.of1 (by with_reducible assumption) (State.ready_keeps ..)
    | split

end Sys2Proof.Machine
end

