-- ==== Sys2Proof/Laws/KeepsFabric.lean ====
section
/-! SUPPORT. Keeps for the operations of Machine/Fabric.lean. -/

namespace Sys2Proof.Machine

set_option linter.all false

theorem State.newTag_keeps {s t : State} {who : Requester} {tag : W32} (h : s.newTag who = some (tag, t)) : Keeps s t := by
  unfold State.newTag at h
  extract_lets used r at h
  split at h
  · cases h
  · cases h
    exact Keeps.mk_iff.2 (KeepsP.same (Keeps.refl s) rfl rfl rfl)

theorem State.issue_keeps {s t : State} {who : Requester} {b : BatchReq} {tag : W32} (h : s.issue who b = some (tag, t)) :
    Keeps s t := by
  unfold State.issue at h
  extract_lets size a at h
  split at h
  · cases h
  split at h
  · cases h
  split at h
  · cases h
  · rename_i u k
    cases h
    refine Keeps.trans ?_ (State.send_keeps ..)
    refine Keeps.trans ?_ (State.tally_keeps ..)
    exact Keeps.mk_iff.2 (KeepsP.same (State.newTag_keeps k) rfl rfl rfl)

theorem State.flushReturns_keeps (s : State) (g : Bool) : Keeps s (State.flushReturns s g) := by
  unfold State.flushReturns
  repeat' first
    | with_reducible exact Keeps.refl _
    | with_reducible assumption
    | (extract_lets +onlyGivenNames x; first
        | (have h : State := x; clear h; with_reducible refine Keeps.gen x ?_ ?_; rotate_left; intro hx; clear_value x; rotate_left; subst x)
        | (have h : State := x.2; clear h; with_reducible refine Keeps.gen x.2 ?_ ?_; rotate_left; intro hx; clear_value x; rotate_left; subst x)
        | (have h : State := x.1; clear h; with_reducible refine Keeps.gen x.1 ?_ ?_; rotate_left; intro hx; clear_value x; rotate_left; subst x)
        | clear_value x
        | subst x)
    | with_reducible apply Keeps.ite ?_ ?_
    | with_reducible apply Keeps.trans ?_ (State.drawNat_keeps ..)
    | with_reducible apply Keeps.trans ?_ (State.setGateway_keeps ..)
    | with_reducible apply Keeps.trans ?_ (State.lintelPacket_keeps ..)
    | (simp only [Keeps.mk_iff]; with_reducible refine KeepsP.same ?_ rfl rfl rfl)
    | with_reducible apply Keeps.of2 (by with_reducible assumption) (State.drawNat_keeps ..)
    | split

theorem State.addReturn_keeps (s : State) (g : Bool) (r : LintelRec) : Keeps s (State.addReturn s g r) := by
  unfold State.addReturn
  repeat' first
    | with_reducible exact Keeps.refl _
    | with_reducible assumption
    | (extract_lets +onlyGivenNames x; first
        | (have h : State := x; clear h; with_reducible refine Keeps.gen x ?_ ?_; rotate_left; intro hx; clear_value x; rotate_left; subst x)
        | clear_value x
        | subst x)
    | with_reducible apply Keeps.ite ?_ ?_
    | with_reducible apply Keeps.trans ?_ (State.flushReturns_keeps ..)
    | with_reducible apply Keeps.trans ?_ (State.setGateway_keeps ..)
    | (simp only [Keeps.mk_iff]; with_reducible refine KeepsP.same ?_ rfl rfl rfl)
    | split

theorem State.pumpGateway_keeps (s : State) (g : Bool) : Keeps s (State.pumpGateway s g) := by
  unfold State.pumpGateway
  refine Keeps.trans ?_ (State.setGateway_keeps ..)
  refine Keeps.foldl2 (Keeps.refl s) (fun t p => ?_)
  dsimp only
  refine Keeps.ite2 (Keeps.refl _) ?_
  split
  · exact Keeps.refl _
  · rename_i h
    exact (State.issue_keeps h).trans (State.setGateway_keeps ..)

theorem lintelBatch_keeps (s : State) (g : Bool) (batch : W32) (reqs : List BatchReq) :
    Keeps s (lintelBatch s g batch reqs) := by
  unfold lintelBatch
  repeat' first
    | with_reducible exact Keeps.refl _
    | with_reducible assumption
    | (extract_lets +onlyGivenNames x; first
        | (have h : State := x; clear h; with_reducible refine Keeps.gen x ?_ ?_; rotate_left; intro hx; clear_value x; rotate_left; subst x)
        | (have h : State := x.2; clear h; with_reducible refine Keeps.gen x.2 ?_ ?_; rotate_left; intro hx; clear_value x; rotate_left; subst x)
        | (have h : State := x.1; clear h; with_reducible refine Keeps.gen x.1 ?_ ?_; rotate_left; intro hx; clear_value x; rotate_left; subst x)
        | clear_value x
        | subst x)
    | with_reducible apply Keeps.ite ?_ ?_
    | with_reducible apply Keeps.trans ?_ (State.setGateway_keeps ..)
    | with_reducible apply Keeps.trans ?_ (State.pumpGateway_keeps ..)
    | (simp only [Keeps.mk_iff]; with_reducible refine KeepsP.same ?_ rfl rfl rfl)
    | split

theorem lintelReturn_keeps (s : State) (recs : List LintelRec) : Keeps s (lintelReturn s recs) := by
  unfold lintelReturn
  repeat' first
    | with_reducible exact Keeps.refl _
    | with_reducible assumption
    | with_reducible apply Keeps.foldl ?_ (fun _ _ => ?_)
    | with_reducible apply Keeps.foldl2 ?_ (fun _ _ => ?_)
    | with_reducible apply Keeps.foldl1 ?_ (fun _ _ => ?_)
    | with_reducible apply Keeps.ite ?_ ?_
    | with_reducible apply Keeps.trans ?_ (State.send_keeps ..)
    | (simp only [Keeps.mk_iff]; with_reducible refine KeepsP.same ?_ rfl rfl rfl)
    | split

theorem lintelReturnFlush_keeps (s : State) (g : Bool) : Keeps s (lintelReturnFlush s g) := by
  unfold lintelReturnFlush
  repeat' first
    | with_reducible exact Keeps.refl _
    | with_reducible assumption
    | with_reducible apply Keeps.ite ?_ ?_
    | with_reducible apply Keeps.trans ?_ (State.flushReturns_keeps ..)
    | (simp only [Keeps.mk_iff]; with_reducible refine KeepsP.same ?_ rfl rfl rfl)
    | split

theorem State.pumpParts_keeps (s : State) (o : HostOp) : Keeps s (State.pumpParts s o).2 := by
  unfold State.pumpParts
  refine Keeps.foldl2 (Keeps.refl s) (fun t p => ?_)
  refine Keeps.ite2 (Keeps.refl _) ?_
  split
  · exact Keeps.refl _
  · rename_i h
    exact State.issue_keeps h

theorem State.pumpHost_keeps (s : State) : Keeps s (State.pumpHost s) := by
  unfold State.pumpHost
  repeat' first
    | with_reducible exact Keeps.refl _
    | with_reducible assumption
    | (extract_lets +onlyGivenNames x; first
        | (have h : State := x; clear h; with_reducible refine Keeps.gen x ?_ ?_; rotate_left; intro hx; clear_value x; rotate_left; subst x)
        | (have h : State := x.2; clear h; with_reducible refine Keeps.gen x.2 ?_ ?_; rotate_left; intro hx; clear_value x; rotate_left; subst x)
        | (have h : State := x.1; clear h; with_reducible refine Keeps.gen x.1 ?_ ?_; rotate_left; intro hx; clear_value x; rotate_left; subst x)
        | (have h : _ → _ := x; clear h; subst x; try dsimp -zeta only)
        | clear_value x
        | subst x)
    | with_reducible apply Keeps.foldl ?_ (fun _ _ => ?_)
    | with_reducible apply Keeps.foldl2 ?_ (fun _ _ => ?_)
    | with_reducible apply Keeps.foldl1 ?_ (fun _ _ => ?_)
    | with_reducible apply Keeps.ite ?_ ?_
    | with_reducible apply Keeps.trans ?_ (State.pumpParts_keeps ..)
    | (simp only [Keeps.mk_iff]; with_reducible refine KeepsP.same ?_ rfl rfl rfl)
    | with_reducible apply Keeps.of2 (by with_reducible assumption) (State.pumpParts_keeps ..)
    | split

theorem State.storeError_keeps (s : State) : Keeps s (State.storeError s) := by
  unfold State.storeError
  repeat' first
    | with_reducible exact Keeps.refl _
    | with_reducible assumption
    | with_reducible apply Keeps.ite ?_ ?_
    | with_reducible apply Keeps.trans ?_ (State.icxEvent_keeps ..)
    | (simp only [Keeps.mk_iff]; with_reducible refine KeepsP.same ?_ rfl rfl rfl)
    | split

theorem State.hostDone_keeps (s : State) (o : HostOp) : Keeps s (State.hostDone s o) := by
  unfold State.hostDone
  repeat' first
    | with_reducible exact Keeps.refl _
    | with_reducible assumption
    | (extract_lets +onlyGivenNames x; first
        | (have h : State := x; clear h; with_reducible refine Keeps.gen x ?_ ?_; rotate_left; intro hx; clear_value x; rotate_left; subst x)
        | (have h : State := x.2; clear h; with_reducible refine Keeps.gen x.2 ?_ ?_; rotate_left; intro hx; clear_value x; rotate_left; subst x)
        | (have h : State := x.1; clear h; with_reducible refine Keeps.gen x.1 ?_ ?_; rotate_left; intro hx; clear_value x; rotate_left; subst x)
        | clear_value x
        | subst x)
    | with_reducible apply Keeps.ite ?_ ?_
    | with_reducible apply Keeps.trans ?_ (State.storeError_keeps ..)
    | with_reducible apply Keeps.trans ?_ (State.emit_keeps ..)
    | (simp only [Keeps.mk_iff]; with_reducible refine KeepsP.same ?_ rfl rfl rfl)
    | split

theorem State.sweepHost_keeps (s : State) : Keeps s (State.sweepHost s) := by
  unfold State.sweepHost
  repeat' first
    | with_reducible exact Keeps.refl _
    | with_reducible assumption
    | (extract_lets +onlyGivenNames x; first
        | (have h : State := x; clear h; with_reducible refine Keeps.gen x ?_ ?_; rotate_left; intro hx; clear_value x; rotate_left; subst x)
        | clear_value x
        | subst x)
    | with_reducible apply Keeps.foldl ?_ (fun _ _ => ?_)
    | with_reducible apply Keeps.foldl2 ?_ (fun _ _ => ?_)
    | with_reducible apply Keeps.foldl1 ?_ (fun _ _ => ?_)
    | with_reducible apply Keeps.ite ?_ ?_
    | with_reducible apply Keeps.trans ?_ (State.hostDone_keeps ..)
    | (simp only [Keeps.mk_iff]; with_reducible refine KeepsP.same ?_ rfl rfl rfl)
    | split

theorem State.hostRefuse_keeps (s : State) : Keeps s (State.hostRefuse s) := by
  unfold State.hostRefuse
  repeat' first
    | with_reducible exact Keeps.refl _
    | with_reducible assumption
    | with_reducible apply Keeps.ite ?_ ?_
    | with_reducible apply Keeps.trans ?_ (State.emit_keeps ..)
    | (simp only [Keeps.mk_iff]; with_reducible refine KeepsP.same ?_ rfl rfl rfl)
    | split

theorem State.hostStart_keeps (s : State) (o : HostOp) : Keeps s (State.hostStart s o) := by
  unfold State.hostStart
  repeat' first
    | with_reducible exact Keeps.refl _
    | with_reducible assumption
    | (extract_lets +onlyGivenNames x; first
        | (have h : State := x; clear h; with_reducible refine Keeps.gen x ?_ ?_; rotate_left; intro hx; clear_value x; rotate_left; subst x)
        | clear_value x
        | subst x)
    | with_reducible apply Keeps.ite ?_ ?_
    | with_reducible apply Keeps.trans ?_ (State.sweepHost_keeps ..)
    | with_reducible apply Keeps.trans ?_ (State.pumpHost_keeps ..)
    | (simp only [Keeps.mk_iff]; with_reducible refine KeepsP.same ?_ rfl rfl rfl)
    | split

theorem State.msix_keeps (s : State) (v : Nat) : Keeps s (State.msix s v) := by
  unfold State.msix
  repeat' first
    | with_reducible exact Keeps.refl _
    | with_reducible assumption
    | with_reducible apply Keeps.ite ?_ ?_
    | with_reducible apply Keeps.trans ?_ (State.emit_keeps ..)
    | (simp only [Keeps.mk_iff]; with_reducible refine KeepsP.same ?_ rfl rfl rfl)
    | split

theorem State.setMsixWord_keeps (s : State) (i v : Nat) : Keeps s (State.setMsixWord s i v) := by
  unfold State.setMsixWord
  repeat' first
    | with_reducible exact Keeps.refl _
    | with_reducible assumption
    | (extract_lets +onlyGivenNames x; first
        | (have h : State := x; clear h; with_reducible refine Keeps.gen x ?_ ?_; rotate_left; intro hx; clear_value x; rotate_left; subst x)
        | clear_value x
        | subst x)
    | with_reducible apply Keeps.ite ?_ ?_
    | with_reducible apply Keeps.trans ?_ (State.msix_keeps ..)
    | with_reducible apply Keeps.trans ?_ (State.emit_keeps ..)
    | (simp only [Keeps.mk_iff]; with_reducible refine KeepsP.same ?_ rfl rfl rfl)
    | split

theorem State.bar0Write_keeps (s : State) (off : Nat) (data : List Byte) : Keeps s (State.bar0Write s off data) := by
  unfold State.bar0Write
  repeat' first
    | with_reducible exact Keeps.refl _
    | with_reducible assumption
    | (extract_lets +onlyGivenNames x; first
        | (have h : State := x; clear h; with_reducible refine Keeps.gen x ?_ ?_; rotate_left; intro hx; clear_value x; rotate_left; subst x)
        | clear_value x
        | subst x)
    | with_reducible apply Keeps.foldl ?_ (fun _ _ => ?_)
    | with_reducible apply Keeps.foldl2 ?_ (fun _ _ => ?_)
    | with_reducible apply Keeps.foldl1 ?_ (fun _ _ => ?_)
    | with_reducible apply Keeps.ite ?_ ?_
    | with_reducible apply Keeps.trans ?_ (State.setMsixWord_keeps ..)
    | (simp only [Keeps.mk_iff]; with_reducible refine KeepsP.same ?_ rfl rfl rfl)
    | split

theorem hostWrite_keeps (s : State) (bar : Fin 3) (offset : Nat) (data : List Byte) (relaxed poisoned : Bool) :
    Keeps s (hostWrite s bar offset data relaxed poisoned) := by
  unfold hostWrite
  repeat' first
    | with_reducible exact Keeps.refl _
    | with_reducible assumption
    | (extract_lets +onlyGivenNames x; first
        | (have h : State := x; clear h; with_reducible refine Keeps.gen x ?_ ?_; rotate_left; intro hx; clear_value x; rotate_left; subst x)
        | (have h : State := x.2; clear h; with_reducible refine Keeps.gen x.2 ?_ ?_; rotate_left; intro hx; clear_value x; rotate_left; subst x)
        | (have h : State := x.1; clear h; with_reducible refine Keeps.gen x.1 ?_ ?_; rotate_left; intro hx; clear_value x; rotate_left; subst x)
        | clear_value x
        | subst x)
    | with_reducible apply Keeps.ite ?_ ?_
    | with_reducible apply Keeps.trans ?_ (State.storeError_keeps ..)
    | with_reducible apply Keeps.trans ?_ (State.bar0Write_keeps ..)
    | with_reducible apply Keeps.trans ?_ (State.hostRefuse_keeps ..)
    | with_reducible apply Keeps.trans ?_ (State.hostStart_keeps ..)
    | (simp only [Keeps.mk_iff]; with_reducible refine KeepsP.same ?_ rfl rfl rfl)
    | split

theorem hostRead_keeps (s : State) (bar : Fin 3) (offset len : Nat) : Keeps s (hostRead s bar offset len) := by
  unfold hostRead
  repeat' first
    | with_reducible exact Keeps.refl _
    | with_reducible assumption
    | (extract_lets +onlyGivenNames x; first
        | (have h : State := x; clear h; with_reducible refine Keeps.gen x ?_ ?_; rotate_left; intro hx; clear_value x; rotate_left; subst x)
        | (have h : State := x.2; clear h; with_reducible refine Keeps.gen x.2 ?_ ?_; rotate_left; intro hx; clear_value x; rotate_left; subst x)
        | (have h : State := x.1; clear h; with_reducible refine Keeps.gen x.1 ?_ ?_; rotate_left; intro hx; clear_value x; rotate_left; subst x)
        | clear_value x
        | subst x)
    | with_reducible apply Keeps.ite ?_ ?_
    | with_reducible apply Keeps.trans ?_ (State.emit_keeps ..)
    | with_reducible apply Keeps.trans ?_ (State.hostRefuse_keeps ..)
    | with_reducible apply Keeps.trans ?_ (State.hostStart_keeps ..)
    | (simp only [Keeps.mk_iff]; with_reducible refine KeepsP.same ?_ rfl rfl rfl)
    | split

theorem hostAtomic_keeps (s : State) (bar : Fin 3) (offset : Nat) (op : Byte) (size : BitVec 16) (opA opB : W64) :
    Keeps s (hostAtomic s bar offset op size opA opB) := by
  unfold hostAtomic
  repeat' first
    | with_reducible exact Keeps.refl _
    | with_reducible assumption
    | with_reducible apply Keeps.ite ?_ ?_
    | with_reducible apply Keeps.trans ?_ (State.hostRefuse_keeps ..)
    | with_reducible apply Keeps.trans ?_ (State.hostStart_keeps ..)
    | (simp only [Keeps.mk_iff]; with_reducible refine KeepsP.same ?_ rfl rfl rfl)
    | split

theorem hostIrq_keeps (s : State) (src : Node) (line : Nat) : Keeps s (hostIrq s src line) := by
  unfold hostIrq
  repeat' first
    | with_reducible exact Keeps.refl _
    | with_reducible assumption
    | (extract_lets +onlyGivenNames x; first
        | (have h : State := x; clear h; with_reducible refine Keeps.gen x ?_ ?_; rotate_left; intro hx; clear_value x; rotate_left; subst x)
        | (have h : State := x.2; clear h; with_reducible refine Keeps.gen x.2 ?_ ?_; rotate_left; intro hx; clear_value x; rotate_left; subst x)
        | (have h : State := x.1; clear h; with_reducible refine Keeps.gen x.1 ?_ ?_; rotate_left; intro hx; clear_value x; rotate_left; subst x)
        | clear_value x
        | subst x)
    | with_reducible apply Keeps.ite ?_ ?_
    | with_reducible apply Keeps.trans ?_ (State.bump_keeps ..)
    | with_reducible apply Keeps.trans ?_ (State.msix_keeps ..)
    | (simp only [Keeps.mk_iff]; with_reducible refine KeepsP.same ?_ rfl rfl rfl)
    | split

theorem State.winEnableWrite_keeps (s : State) (w v : Nat) : Keeps s (State.winEnableWrite s w v).2 := by
  unfold State.winEnableWrite
  repeat' first
    | with_reducible exact Keeps.refl _
    | with_reducible assumption
    | with_reducible apply Keeps.ite ?_ ?_
    | with_reducible apply Keeps.ite2 ?_ ?_
    | with_reducible apply Keeps.ite1 ?_ ?_
    | with_reducible apply Keeps.trans ?_ (State.setNum_keeps ..)
    | (simp only [Keeps.mk_iff]; with_reducible refine KeepsP.same ?_ rfl rfl rfl)
    | split

theorem pcieStateChange_keeps (s : State) (state rate width : Nat) : Keeps s (pcieStateChange s state rate width) := by
  unfold pcieStateChange
  repeat' first
    | with_reducible exact Keeps.refl _
    | with_reducible assumption
    | (extract_lets +onlyGivenNames x; first
        | (have h : State := x; clear h; with_reducible refine Keeps.gen x ?_ ?_; rotate_left; intro hx; clear_value x; rotate_left; subst x)
        | clear_value x
        | subst x)
    | with_reducible apply Keeps.ite ?_ ?_
    | with_reducible apply Keeps.trans ?_ (State.setNum_keeps ..)
    | with_reducible apply Keeps.trans ?_ (State.icxEvent_keeps ..)
    | (simp only [Keeps.mk_iff]; with_reducible refine KeepsP.same ?_ rfl rfl rfl)
    | split

theorem State.ctlIssue_keeps (s : State) (c : Fin 4) (b : BatchReq) : Keeps s (State.ctlIssue s c b) := by
  unfold State.ctlIssue
  extract_lets f wait
  have h : Keeps s wait := Keeps.mk_iff.2 (KeepsP.same (Keeps.refl s) rfl rfl rfl)
  refine Keeps.ite h ?_
  split
  · rename_i e; exact State.issue_keeps e
  · exact h

theorem State.pumpCtl_keeps (s : State) : Keeps s (State.pumpCtl s) := by
  unfold State.pumpCtl
  repeat' first
    | with_reducible exact Keeps.refl _
    | with_reducible assumption
    | with_reducible apply Keeps.foldl ?_ (fun _ _ => ?_)
    | with_reducible apply Keeps.foldl2 ?_ (fun _ _ => ?_)
    | with_reducible apply Keeps.foldl1 ?_ (fun _ _ => ?_)
    | with_reducible apply Keeps.ite ?_ ?_
    | with_reducible apply Keeps.trans ?_ (State.ctlIssue_keeps ..)
    | (simp only [Keeps.mk_iff]; with_reducible refine KeepsP.same ?_ rfl rfl rfl)
    | split

theorem State.completeOut_keeps (s : State) (o : OutReq) (r : FabResp) : Keeps s (State.completeOut s o r) := by
  unfold State.completeOut
  repeat' first
    | with_reducible exact Keeps.refl _
    | with_reducible assumption
    | (extract_lets +onlyGivenNames x; first
        | (have h : State := x; clear h; with_reducible refine Keeps.gen x ?_ ?_; rotate_left; intro hx; clear_value x; rotate_left; subst x)
        | (have h : State := x.2; clear h; with_reducible refine Keeps.gen x.2 ?_ ?_; rotate_left; intro hx; clear_value x; rotate_left; subst x)
        | (have h : State := x.1; clear h; with_reducible refine Keeps.gen x.1 ?_ ?_; rotate_left; intro hx; clear_value x; rotate_left; subst x)
        | (have h : _ → _ := x; clear h; subst x; try dsimp -zeta only)
        | clear_value x
        | subst x)
    | with_reducible apply Keeps.ite ?_ ?_
    | with_reducible apply Keeps.trans ?_ (State.tally_keeps ..)
    | with_reducible apply Keeps.trans ?_ (State.pumpGateway_keeps ..)
    | with_reducible apply Keeps.trans ?_ (State.setGateway_keeps ..)
    | with_reducible apply Keeps.trans ?_ (State.addReturn_keeps ..)
    | with_reducible apply Keeps.trans ?_ (State.pumpHost_keeps ..)
    | with_reducible apply Keeps.trans ?_ (State.sweepHost_keeps ..)
    | with_reducible apply Keeps.trans ?_ (State.emit_keeps ..)
    | with_reducible apply Keeps.trans ?_ (State.answer_keeps ..)
    | with_reducible apply Keeps.trans ?_ (State.pumpCtl_keeps ..)
    | with_reducible apply Keeps.trans ?_ (State.raise_keeps ..)
    | (simp only [Keeps.mk_iff]; with_reducible refine KeepsP.same ?_ rfl rfl rfl)
    | split

theorem fabricResponse_keeps (s : State) (r : FabResp) : Keeps s (fabricResponse s r) := by
  unfold fabricResponse
  repeat' first
    | with_reducible exact Keeps.refl _
    | with_reducible assumption
    | with_reducible apply Keeps.ite ?_ ?_
    | with_reducible apply Keeps.trans ?_ (State.completeOut_keeps ..)
    | with_reducible apply Keeps.trans ?_ (State.fanOut_keeps ..)
    | with_reducible apply Keeps.trans ?_ (State.bump_keeps ..)
    | (simp only [Keeps.mk_iff]; with_reducible refine KeepsP.same ?_ rfl rfl rfl)
    | split

theorem requestTimeout_keeps (s : State) (tag : W32) : Keeps s (requestTimeout s tag) := by
  unfold requestTimeout
  repeat' first
    | with_reducible exact Keeps.refl _
    | with_reducible assumption
    | (extract_lets +onlyGivenNames x; first
        | (have h : State := x; clear h; with_reducible refine Keeps.gen x ?_ ?_; rotate_left; intro hx; clear_value x; rotate_left; subst x)
        | (have h : State := x.2; clear h; with_reducible refine Keeps.gen x.2 ?_ ?_; rotate_left; intro hx; clear_value x; rotate_left; subst x)
        | (have h : State := x.1; clear h; with_reducible refine Keeps.gen x.1 ?_ ?_; rotate_left; intro hx; clear_value x; rotate_left; subst x)
        | clear_value x
        | subst x)
    | with_reducible apply Keeps.ite ?_ ?_
    | with_reducible apply Keeps.trans ?_ (State.bump_keeps ..)
    | with_reducible apply Keeps.trans ?_ (State.raise_keeps ..)
    | with_reducible apply Keeps.trans ?_ (State.completeOut_keeps ..)
    | (simp only [Keeps.mk_iff]; with_reducible refine KeepsP.same ?_ rfl rfl rfl)
    | split

end Sys2Proof.Machine
end

