-- ==== Sys2Proof/Laws/KeepsHods.lean ====
section
/-! SUPPORT. Keeps for the operations of Machine/Hods.lean. -/

namespace Sys2Proof.Machine

set_option linter.all false

theorem State.setHodNum_keeps (s : State) (k : Nat) (o : Nat → Obj) (v : Nat) : Keeps s (State.setHodNum s k o v) := by
  unfold State.setHodNum
  repeat' first
    | with_reducible exact Keeps.refl _
    | with_reducible assumption
    | with_reducible apply Keeps.ite ?_ ?_
    | with_reducible apply Keeps.trans ?_ (State.setCnum_keeps ..)
    | (simp only [Keeps.mk_iff]; with_reducible refine KeepsP.same ?_ rfl rfl rfl)
    | split

theorem State.setHodRt_keeps (s : State) (k : Nat) (r : HodRt) : Keeps s (State.setHodRt s k r) := by
  unfold State.setHodRt
  repeat' first
    | with_reducible exact Keeps.refl _
    | with_reducible assumption
    | with_reducible apply Keeps.ite ?_ ?_
    | (simp only [Keeps.mk_iff]; with_reducible refine KeepsP.same ?_ rfl rfl rfl)
    | split

theorem State.hodEnableWrite_keeps (s : State) (h v : Nat) : Keeps s (State.hodEnableWrite s h v).2 := by
  unfold State.hodEnableWrite
  repeat' first
    | with_reducible exact Keeps.refl _
    | with_reducible assumption
    | (extract_lets +onlyGivenNames x; first
        | (have h : State := x; clear h; with_reducible refine Keeps.gen x ?_ ?_; rotate_left; intro hx; clear_value x; rotate_left; subst x)
        | (have h : State := x.2; clear h; with_reducible refine Keeps.gen x.2 ?_ ?_; rotate_left; intro hx; clear_value x; rotate_left; subst x)
        | (have h : State := x.1; clear h; with_reducible refine Keeps.gen x.1 ?_ ?_; rotate_left; intro hx; clear_value x; rotate_left; subst x)
        | clear_value x
        | subst x)
    | with_reducible apply Keeps.ite ?_ ?_
    | with_reducible apply Keeps.ite2 ?_ ?_
    | with_reducible apply Keeps.ite1 ?_ ?_
    | with_reducible apply Keeps.trans ?_ (State.setNum_keeps ..)
    | with_reducible apply Keeps.trans ?_ (State.setHodRt_keeps ..)
    | (simp only [Keeps.mk_iff]; with_reducible refine KeepsP.same ?_ rfl rfl rfl)
    | split

theorem State.rejectRecord_keeps (s : State) (k : Nat) (tag : W64) (status : Nat) (seq : Nat) :
    Keeps s (State.rejectRecord s k tag status seq) := by
  unfold State.rejectRecord
  repeat' first
    | with_reducible exact Keeps.refl _
    | with_reducible assumption
    | (extract_lets +onlyGivenNames x; first
        | (have h : State := x; clear h; with_reducible refine Keeps.gen x ?_ ?_; rotate_left; intro hx; clear_value x; rotate_left; subst x)
        | clear_value x
        | subst x)
    | with_reducible apply Keeps.ite ?_ ?_
    | with_reducible apply Keeps.trans ?_ (State.setHodRt_keeps ..)
    | with_reducible apply Keeps.trans ?_ (State.setHodNum_keeps ..)
    | with_reducible apply Keeps.trans ?_ (State.icxEvent_keeps ..)
    | (simp only [Keeps.mk_iff]; with_reducible refine KeepsP.same ?_ rfl rfl rfl)
    | split

theorem State.consume_keeps (s : State) (k : Nat) : Keeps s (State.consume s k) := by
  unfold State.consume
  repeat' first
    | with_reducible exact Keeps.refl _
    | with_reducible assumption
    | with_reducible apply Keeps.ite ?_ ?_
    | with_reducible apply Keeps.trans ?_ (State.setHodNum_keeps ..)
    | (simp only [Keeps.mk_iff]; with_reducible refine KeepsP.same ?_ rfl rfl rfl)
    | split

theorem State.takeRecord_keeps (s : State) (k seq : Nat) (body : List Byte) (poisoned tagPoisoned : Bool) :
    Keeps s (State.takeRecord s k seq body poisoned tagPoisoned) := by
  unfold State.takeRecord
  repeat' first
    | with_reducible exact Keeps.refl _
    | with_reducible assumption
    | (extract_lets +onlyGivenNames x; first
        | (have h : State := x; clear h; with_reducible refine Keeps.gen x ?_ ?_; rotate_left; intro hx; clear_value x; rotate_left; subst x)
        | clear_value x
        | subst x)
    | with_reducible apply Keeps.ite ?_ ?_
    | with_reducible apply Keeps.trans ?_ (State.consume_keeps ..)
    | with_reducible apply Keeps.trans ?_ (State.setHodRt_keeps ..)
    | with_reducible apply Keeps.trans ?_ (State.rejectRecord_keeps ..)
    | (simp only [Keeps.mk_iff]; with_reducible refine KeepsP.same ?_ rfl rfl rfl)
    | split

theorem State.torn_keeps (s : State) (k seq : Nat) : Keeps s (State.torn s k seq) := by
  unfold State.torn
  repeat' first
    | with_reducible exact Keeps.refl _
    | with_reducible assumption
    | (extract_lets +onlyGivenNames x; first
        | (have h : State := x; clear h; with_reducible refine Keeps.gen x ?_ ?_; rotate_left; intro hx; clear_value x; rotate_left; subst x)
        | (have h : State := x.2; clear h; with_reducible refine Keeps.gen x.2 ?_ ?_; rotate_left; intro hx; clear_value x; rotate_left; subst x)
        | (have h : State := x.1; clear h; with_reducible refine Keeps.gen x.1 ?_ ?_; rotate_left; intro hx; clear_value x; rotate_left; subst x)
        | clear_value x
        | subst x)
    | with_reducible apply Keeps.ite ?_ ?_
    | with_reducible apply Keeps.trans ?_ (State.setHodRt_keeps ..)
    | with_reducible apply Keeps.trans ?_ (State.consume_keeps ..)
    | with_reducible apply Keeps.trans ?_ (State.rejectRecord_keeps ..)
    | (simp only [Keeps.mk_iff]; with_reducible refine KeepsP.same ?_ rfl rfl rfl)
    | split

theorem State.sampleLoop_keeps (n k : Nat) (s : State) : Keeps s (State.sampleLoop n k s) := by
  induction n generalizing s with
  | zero => exact Keeps.refl _
  | succ n ih =>
    unfold State.sampleLoop
    extract_lets seq a lead tail lm tm b
    clear_value lm tm a
    apply Keeps.ite
    · exact Keeps.trans ((State.readBad_keeps ..).trans (State.takeRecord_keeps ..)) (ih _)
    · exact Keeps.ite ((State.readBad_keeps ..).trans (State.torn_keeps ..)) (State.setHodRt_keeps ..)

theorem State.sampleHod_keeps (s : State) (k : Nat) : Keeps s (State.sampleHod s k) := by
  unfold State.sampleHod
  repeat' first
    | with_reducible exact Keeps.refl _
    | with_reducible assumption
    | with_reducible apply Keeps.ite ?_ ?_
    | with_reducible apply Keeps.trans ?_ (State.sampleLoop_keeps ..)
    | with_reducible apply Keeps.trans ?_ (State.setHodRt_keeps ..)
    | (simp only [Keeps.mk_iff]; with_reducible refine KeepsP.same ?_ rfl rfl rfl)
    | with_reducible exact State.sampleLoop_keeps ..
    | split

theorem hodSampling_keeps (s : State) (h : Fin 64) : Keeps s (hodSampling s h) := by
  unfold hodSampling
  repeat' first
    | with_reducible exact Keeps.refl _
    | with_reducible assumption
    | (extract_lets +onlyGivenNames x; first
        | (have h : State := x; clear h; with_reducible refine Keeps.gen x ?_ ?_; rotate_left; intro hx; clear_value x; rotate_left; subst x)
        | clear_value x
        | subst x)
    | with_reducible apply Keeps.ite ?_ ?_
    | with_reducible apply Keeps.trans ?_ (State.sampleHod_keeps ..)
    | (simp only [Keeps.mk_iff]; with_reducible refine KeepsP.same ?_ rfl rfl rfl)
    | split

end Sys2Proof.Machine
end

