-- ==== Sys2Proof/Laws/KeepsExperts.lean ====
section
/-! SUPPORT. Keeps for the operations of Machine/Experts.lean. -/

namespace Sys2Proof.Machine

set_option linter.all false

theorem routerTopk_keeps (s : State) (r : Run) : Keeps s (routerTopk s r) := by
  unfold routerTopk
  repeat' first
    | with_reducible exact Keeps.refl _
    | with_reducible assumption
    | (extract_lets +onlyGivenNames x; first
        | (have h : State := x; clear h; with_reducible refine Keeps.gen x ?_ ?_; rotate_left; intro hx; clear_value x; rotate_left; subst x)
        | (have h : State := x.2; clear h; with_reducible refine Keeps.gen x.2 ?_ ?_; rotate_left; intro hx; clear_value x; rotate_left; subst x)
        | (have h : State := x.1; clear h; with_reducible refine Keeps.gen x.1 ?_ ?_; rotate_left; intro hx; clear_value x; rotate_left; subst x)
        | clear_value x
        | subst x)
    | with_reducible apply Keeps.ite ?_ ?_
    | with_reducible apply Keeps.trans ?_ (State.runKind_keeps ..)
    | (simp only [Keeps.mk_iff]; with_reducible refine KeepsP.same ?_ rfl rfl rfl)
    | split

theorem State.countRouting_keeps (s : State) (cov : Bool) (layer passed unplaced short skipped : Nat) :
    Keeps s (State.countRouting s cov layer passed unplaced short skipped) := by
  unfold State.countRouting
  repeat' first
    | with_reducible exact Keeps.refl _
    | with_reducible assumption
    | (extract_lets +onlyGivenNames x; first
        | (have h : State := x; clear h; with_reducible refine Keeps.gen x ?_ ?_; rotate_left; intro hx; clear_value x; rotate_left; subst x)
        | clear_value x
        | subst x)
    | with_reducible apply Keeps.ite ?_ ?_
    | with_reducible apply Keeps.trans ?_ (State.bump_keeps ..)
    | with_reducible apply Keeps.trans ?_ (State.setStream_keeps ..)
    | (simp only [Keeps.mk_iff]; with_reducible refine KeepsP.same ?_ rfl rfl rfl)
    | split

theorem State.pokeRow_keeps (s : State) (odd : Bool) (b : BlockEntry) (t : Nat) (l : List Byte) :
    Keeps s (State.pokeRow s odd b t l) := by
  unfold State.pokeRow
  repeat' first
    | with_reducible exact Keeps.refl _
    | with_reducible assumption
    | (extract_lets +onlyGivenNames x; first
        | (have h : State := x; clear h; with_reducible refine Keeps.gen x ?_ ?_; rotate_left; intro hx; clear_value x; rotate_left; subst x)
        | (have h : State := x.2; clear h; with_reducible refine Keeps.gen x.2 ?_ ?_; rotate_left; intro hx; clear_value x; rotate_left; subst x)
        | (have h : State := x.1; clear h; with_reducible refine Keeps.gen x.1 ?_ ?_; rotate_left; intro hx; clear_value x; rotate_left; subst x)
        | clear_value x
        | subst x)
    | with_reducible apply Keeps.ite ?_ ?_
    | with_reducible apply Keeps.trans ?_ (State.pokeAs_keeps ..)
    | (simp only [Keeps.mk_iff]; with_reducible refine KeepsP.same ?_ rfl rfl rfl)
    | split

theorem State.placeRow_keeps (s : State) (cov odd : Bool) (a : Ashlar) (x out : BlockEntry) (t : Nat) :
    Keeps s (State.placeRow s cov odd a x out t).1 := by
  unfold State.placeRow
  repeat' first
    | with_reducible exact Keeps.refl _
    | with_reducible assumption
    | (extract_lets +onlyGivenNames x; first
        | (have h : State := x; clear h; with_reducible refine Keeps.gen x ?_ ?_; rotate_left; intro hx; clear_value x; rotate_left; subst x)
        | (have h : State := x.2; clear h; with_reducible refine Keeps.gen x.2 ?_ ?_; rotate_left; intro hx; clear_value x; rotate_left; subst x)
        | (have h : State := x.1; clear h; with_reducible refine Keeps.gen x.1 ?_ ?_; rotate_left; intro hx; clear_value x; rotate_left; subst x)
        | clear_value x
        | subst x)
    | with_reducible apply Keeps.foldl ?_ (fun _ _ => ?_)
    | with_reducible apply Keeps.foldl2 ?_ (fun _ _ => ?_)
    | with_reducible apply Keeps.foldl1 ?_ (fun _ _ => ?_)
    | with_reducible apply Keeps.ite ?_ ?_
    | with_reducible apply Keeps.ite2 ?_ ?_
    | with_reducible apply Keeps.ite1 ?_ ?_
    | with_reducible apply Keeps.trans ?_ (State.pokeRow_keeps ..)
    | with_reducible apply Keeps.trans ?_ (State.countRouting_keeps ..)
    | with_reducible apply Keeps.trans ?_ (State.setStream_keeps ..)
    | (simp only [Keeps.mk_iff]; with_reducible refine KeepsP.same ?_ rfl rfl rfl)
    | with_reducible apply Keeps.trans ?_ (State.pokeAs_keeps ..)
    | split

theorem State.placeTile_keeps (s : State) (cov : Bool) (inst : Nat) : Keeps s (State.placeTile s cov inst) := by
  unfold State.placeTile
  repeat' first
    | with_reducible exact Keeps.refl _
    | with_reducible assumption
    | (extract_lets +onlyGivenNames x; first
        | (have h : State := x; clear h; with_reducible refine Keeps.gen x ?_ ?_; rotate_left; intro hx; clear_value x; rotate_left; subst x)
        | (have h : State := x.2; clear h; with_reducible refine Keeps.gen x.2 ?_ ?_; rotate_left; intro hx; clear_value x; rotate_left; subst x)
        | (have h : State := x.1; clear h; with_reducible refine Keeps.gen x.1 ?_ ?_; rotate_left; intro hx; clear_value x; rotate_left; subst x)
        | clear_value x
        | subst x)
    | with_reducible apply Keeps.foldl ?_ (fun _ _ => ?_)
    | with_reducible apply Keeps.foldl2 ?_ (fun _ _ => ?_)
    | with_reducible apply Keeps.foldl1 ?_ (fun _ _ => ?_)
    | with_reducible apply Keeps.ite ?_ ?_
    | with_reducible apply Keeps.trans ?_ (State.placeRow_keeps ..)
    | with_reducible apply Keeps.trans ?_ (State.raise_keeps ..)
    | with_reducible apply Keeps.trans ?_ (State.retire_keeps ..)
    | with_reducible apply Keeps.trans ?_ (State.grants_keeps ..)
    | (simp only [Keeps.mk_iff]; with_reducible refine KeepsP.same ?_ rfl rfl rfl)
    | with_reducible apply Keeps.of1 (by with_reducible assumption) (State.placeRow_keeps ..)
    | with_reducible apply Keeps.of1 (by with_reducible assumption) (State.retire_keeps ..)
    | split

theorem State.placeReady_keeps (n : Nat) (s : State) : Keeps s (State.placeReady n s) := by
  induction n generalizing s with
  | zero => exact Keeps.refl _
  | succ n ih =>
    unfold State.placeReady
    split
    · exact Keeps.refl _
    · refine Keeps.trans (Keeps.trans ?_ (State.placeTile_keeps ..)) (ih _)
      exact Keeps.mk_iff.2 (KeepsP.same (Keeps.refl s) rfl rfl rfl)

theorem placementRequest_keeps (s : State) (covered : Bool) (inst : BitVec 20) :
    Keeps s (placementRequest s covered inst) := by
  unfold placementRequest
  repeat' first
    | with_reducible exact Keeps.refl _
    | with_reducible assumption
    | (extract_lets +onlyGivenNames x; first
        | (have h : State := x; clear h; with_reducible refine Keeps.gen x ?_ ?_; rotate_left; intro hx; clear_value x; rotate_left; subst x)
        | (have h : State := x.2; clear h; with_reducible refine Keeps.gen x.2 ?_ ?_; rotate_left; intro hx; clear_value x; rotate_left; subst x)
        | (have h : State := x.1; clear h; with_reducible refine Keeps.gen x.1 ?_ ?_; rotate_left; intro hx; clear_value x; rotate_left; subst x)
        | clear_value x
        | subst x)
    | with_reducible apply Keeps.ite ?_ ?_
    | with_reducible apply Keeps.trans ?_ (State.setCore_keeps ..)
    | with_reducible apply Keeps.trans ?_ (State.placeReady_keeps ..)
    | with_reducible apply Keeps.trans ?_ (State.countBusy_keeps ..)
    | with_reducible apply Keeps.trans ?_ (State.drawNat_keeps ..)
    | (simp only [Keeps.mk_iff]; with_reducible refine KeepsP.same ?_ rfl rfl rfl)
    | with_reducible apply Keeps.trans ?_ (State.placeReady_keeps ..)
    | split

theorem expertScatter_keeps (s : State) (r : Run) : Keeps s (expertScatter s r) := by
  unfold expertScatter
  repeat' first
    | with_reducible exact Keeps.refl _
    | with_reducible assumption
    | (extract_lets +onlyGivenNames x; first
        | (have h : State := x; clear h; with_reducible refine Keeps.gen x ?_ ?_; rotate_left; intro hx; clear_value x; rotate_left; subst x)
        | (have h : State := x.2; clear h; with_reducible refine Keeps.gen x.2 ?_ ?_; rotate_left; intro hx; clear_value x; rotate_left; subst x)
        | (have h : State := x.1; clear h; with_reducible refine Keeps.gen x.1 ?_ ?_; rotate_left; intro hx; clear_value x; rotate_left; subst x)
        | clear_value x
        | subst x)
    | with_reducible apply Keeps.ite ?_ ?_
    | with_reducible apply Keeps.trans ?_ (State.putOut_keeps ..)
    | with_reducible apply Keeps.trans ?_ (State.finish_keeps ..)
    | (simp only [Keeps.mk_iff]; with_reducible refine KeepsP.same ?_ rfl rfl rfl)
    | with_reducible apply Keeps.foldl ?_ (fun _ _ => ?_)
    | with_reducible apply Keeps.foldl2 ?_ (fun _ _ => ?_)
    | with_reducible apply Keeps.foldl1 ?_ (fun _ _ => ?_)
    | with_reducible apply Keeps.trans ?_ (State.sendMember_keeps ..)
    | split

theorem expertGather_keeps (s : State) (r : Run) : Keeps s (expertGather s r) := by
  unfold expertGather
  repeat' first
    | with_reducible exact Keeps.refl _
    | with_reducible assumption
    | (extract_lets +onlyGivenNames x; first
        | (have h : State := x; clear h; with_reducible refine Keeps.gen x ?_ ?_; rotate_left; intro hx; clear_value x; rotate_left; subst x)
        | (have h : State := x.2; clear h; with_reducible refine Keeps.gen x.2 ?_ ?_; rotate_left; intro hx; clear_value x; rotate_left; subst x)
        | (have h : State := x.1; clear h; with_reducible refine Keeps.gen x.1 ?_ ?_; rotate_left; intro hx; clear_value x; rotate_left; subst x)
        | (have h : _ → _ := x; clear h; subst x; try dsimp -zeta only)
        | clear_value x
        | subst x)
    | with_reducible apply Keeps.ite ?_ ?_
    | with_reducible apply Keeps.trans ?_ (State.finish_keeps ..)
    | with_reducible apply Keeps.trans ?_ (State.before_keeps ..)
    | with_reducible apply Keeps.trans ?_ (State.putOut_keeps ..)
    | with_reducible apply Keeps.trans ?_ (expertReturn_keeps ..)
    | (simp only [Keeps.mk_iff]; with_reducible refine KeepsP.same ?_ rfl rfl rfl)
    | with_reducible apply Keeps.trans ?_ (State.sendMember_keeps ..)
    | split

theorem State.completeExpert_keeps (s : State) (cov odd : Bool) (m : ExpertMsg) :
    Keeps s (State.completeExpert s cov odd m) := by
  unfold State.completeExpert
  repeat' first
    | with_reducible exact Keeps.refl _
    | with_reducible assumption
    | (extract_lets +onlyGivenNames x; first
        | (have h : State := x; clear h; with_reducible refine Keeps.gen x ?_ ?_; rotate_left; intro hx; clear_value x; rotate_left; subst x)
        | (have h : State := x.2; clear h; with_reducible refine Keeps.gen x.2 ?_ ?_; rotate_left; intro hx; clear_value x; rotate_left; subst x)
        | (have h : State := x.1; clear h; with_reducible refine Keeps.gen x.1 ?_ ?_; rotate_left; intro hx; clear_value x; rotate_left; subst x)
        | clear_value x
        | subst x)
    | with_reducible apply Keeps.foldl ?_ (fun _ _ => ?_)
    | with_reducible apply Keeps.foldl2 ?_ (fun _ _ => ?_)
    | with_reducible apply Keeps.foldl1 ?_ (fun _ _ => ?_)
    | with_reducible apply Keeps.ite ?_ ?_
    | with_reducible apply Keeps.trans ?_ (State.pokeAs_keeps ..)
    | with_reducible apply Keeps.trans ?_ (State.setParity_keeps ..)
    | with_reducible apply Keeps.trans ?_ (State.grants_keeps ..)
    | (simp only [Keeps.mk_iff]; with_reducible refine KeepsP.same ?_ rfl rfl rfl)
    | split

theorem expertTransfer_keeps (s : State) (covered : Bool) (sender : Node) (m : ExpertMsg) :
    Keeps s (expertTransfer s covered sender m) := by
  unfold expertTransfer
  split
  · exact State.raise_keeps ..
  split
  · exact Keeps.refl _
  · rename_i t h
    have h := (State.tally_keeps ..).trans (State.firstTime_keeps h)
    extract_lets limit t' m'
    have h' : Keeps s t' := Keeps.ite ((h.trans (State.raise_keeps ..)).trans (State.bump_keeps ..)) h
    clear_value t'
    refine Keeps.trans ?_ (State.completeExpert_keeps ..)
    exact Keeps.mk_iff.2 (KeepsP.same h' rfl rfl rfl)

theorem expertReturn_keeps (s : State) (covered : Bool) (sender : Node) (m : ExpertMsg) :
    Keeps s (expertReturn s covered sender m) := by
  unfold expertReturn
  split
  · exact State.raise_keeps ..
  split
  · exact Keeps.refl _
  · rename_i t h
    have h := (State.tally_keeps ..).trans (State.firstTime_keeps h)
    extract_lets tm t'
    refine Keeps.gen t' ?_ (fun h' => h'.trans (State.grants_keeps ..))
    subst t'
    split
    · exact h
    · split
      · exact h.trans (Keeps.foldl (Keeps.refl _) (fun _ _ => State.pokeAs_keeps ..))
      · exact h

theorem exchangeWindowOpen_keeps (s : State) : Keeps s (exchangeWindowOpen s) := by
  unfold exchangeWindowOpen
  repeat' first
    | with_reducible exact Keeps.refl _
    | with_reducible assumption
    | with_reducible apply Keeps.ite ?_ ?_
    | (simp only [Keeps.mk_iff]; with_reducible refine KeepsP.same ?_ rfl rfl rfl)
    | split

theorem exchangeWindowClose_keeps (s : State) : Keeps s (exchangeWindowClose s) := by
  unfold exchangeWindowClose
  repeat' first
    | with_reducible exact Keeps.refl _
    | with_reducible assumption
    | with_reducible apply Keeps.ite ?_ ?_
    | (simp only [Keeps.mk_iff]; with_reducible refine KeepsP.same ?_ rfl rfl rfl)
    | split

end Sys2Proof.Machine
end

