-- ==== Sys2Proof/Laws/KeepsObjectWrite.lean ====
section
/-! SUPPORT. Keeps for the operations of Machine/ObjectWrite.lean. -/

namespace Sys2Proof.Machine

set_option linter.all false

theorem State.dictStoreWrite_keeps (s : State) : Keeps s (State.dictStoreWrite s).2 := by
  unfold State.dictStoreWrite
  repeat' first
    | with_reducible exact Keeps.refl _
    | with_reducible assumption
    | with_reducible apply Keeps.ite ?_ ?_
    | with_reducible apply Keeps.ite2 ?_ ?_
    | with_reducible apply Keeps.ite1 ?_ ?_
    | with_reducible apply Keeps.trans ?_ (State.setNum_keeps ..)
    | (simp only [Keeps.mk_iff]; with_reducible refine KeepsP.same ?_ rfl rfl rfl)
    | split

theorem storeImageDone_keeps (s : State) (good : Bool) : Keeps s (storeImageDone s good) := by
  unfold storeImageDone
  repeat' first
    | with_reducible exact Keeps.refl _
    | with_reducible assumption
    | (extract_lets +onlyGivenNames x; first
        | (have h : State := x; clear h; with_reducible refine Keeps.gen x ?_ ?_; rotate_left; intro hx; clear_value x; rotate_left; subst x)
        | (have h : State := x.2; clear h; with_reducible refine Keeps.gen x.2 ?_ ?_; rotate_left; intro hx; clear_value x; rotate_left; subst x)
        | (have h : State := x.1; clear h; with_reducible refine Keeps.gen x.1 ?_ ?_; rotate_left; intro hx; clear_value x; rotate_left; subst x)
        | (have h : SecUnit := x; clear h; subst x)
        | clear_value x
        | subst x)
    | with_reducible apply Keeps.ite ?_ ?_
    | with_reducible apply Keeps.trans ?_ (State.setNum_keeps ..)
    | (simp only [Keeps.mk_iff]; with_reducible refine KeepsP.same ?_ rfl rfl rfl)
    | split

theorem State.defaultsWrite_keeps (s : State) : Keeps s (State.defaultsWrite s).2 := by
  unfold State.defaultsWrite
  refine Keeps.ite2 (Keeps.refl _) ?_
  extract_lets t changed t' ports t1 t2
  have h : Keeps s t := State.dropObjects_keeps ..
  clear_value t changed
  refine Keeps.gen t' ?_ (fun h' => ?_)
  · refine Keeps.ite ?_ h
    refine Keeps.trans ?_ (State.loseCopies_keeps ..)
    exact Keeps.mk_iff.2 (KeepsP.mem_ h rfl rfl (initPages_wf _ _))
  · clear_value t'
    refine Keeps.gen t2 ?_ (fun h2 => ?_)
    · exact (h'.trans (Keeps.foldl (Keeps.refl _) (fun _ _ => State.portEnableWrite_keeps ..))).trans (State.askWakes_keeps ..)
    · clear_value t2
      exact Keeps.mk_iff.2 (KeepsP.same h2 rfl rfl rfl)

theorem State.requestWrite_keeps (s : State) (n : Nat) : Keeps s (State.requestWrite s n).2 := by
  unfold State.requestWrite
  repeat' first
    | with_reducible exact Keeps.refl _
    | with_reducible assumption
    | (extract_lets +onlyGivenNames x; first
        | (have h : State := x; clear h; with_reducible refine Keeps.gen x ?_ ?_; rotate_left; intro hx; clear_value x; rotate_left; subst x)
        | (have h : State := x.2; clear h; with_reducible refine Keeps.gen x.2 ?_ ?_; rotate_left; intro hx; clear_value x; rotate_left; subst x)
        | (have h : State := x.1; clear h; with_reducible refine Keeps.gen x.1 ?_ ?_; rotate_left; intro hx; clear_value x; rotate_left; subst x)
        | (have h : PkgUnit := x; clear h; subst x)
        | (have h : _ → _ := x; clear h; subst x; try dsimp -zeta only)
        | clear_value x
        | subst x)
    | with_reducible apply Keeps.ite ?_ ?_
    | with_reducible apply Keeps.ite2 ?_ ?_
    | with_reducible apply Keeps.ite1 ?_ ?_
    | with_reducible apply Keeps.trans ?_ (request_keeps ..)
    | with_reducible apply Keeps.trans ?_ (State.ready_keeps ..)
    | (simp only [Keeps.mk_iff]; with_reducible refine KeepsP.same ?_ rfl rfl rfl)
    | with_reducible apply Keeps.of1 (by with_reducible assumption) (State.ready_keeps ..)
    | split

theorem State.storeIf_keeps (s : State) (key n err : Nat) (ok : State → Bool) :
    Keeps s (State.storeIf s key n err ok).2 := by
  unfold State.storeIf
  repeat' first
    | with_reducible exact Keeps.refl _
    | with_reducible assumption
    | (extract_lets +onlyGivenNames x; first
        | (have h : State := x; clear h; with_reducible refine Keeps.gen x ?_ ?_; rotate_left; intro hx; clear_value x; rotate_left; subst x)
        | (have h : State := x.2; clear h; with_reducible refine Keeps.gen x.2 ?_ ?_; rotate_left; intro hx; clear_value x; rotate_left; subst x)
        | (have h : State := x.1; clear h; with_reducible refine Keeps.gen x.1 ?_ ?_; rotate_left; intro hx; clear_value x; rotate_left; subst x)
        | clear_value x
        | subst x)
    | with_reducible apply Keeps.ite ?_ ?_
    | with_reducible apply Keeps.ite2 ?_ ?_
    | with_reducible apply Keeps.ite1 ?_ ?_
    | with_reducible apply Keeps.trans ?_ (State.storeNum_keeps ..)
    | (simp only [Keeps.mk_iff]; with_reducible refine KeepsP.same ?_ rfl rfl rfl)
    | split

theorem State.ownIndexed_keeps (s : State) (key n : Nat) (r : Nat × State) (h : s.ownIndexed key n = some r) : Keeps s r.2 := by
  refine (?_ : KeepsO s (s.ownIndexed key n)) r h
  unfold State.ownIndexed
  repeat' first
    | with_reducible apply KeepsO.ite ?_ ?_
    | with_reducible exact KeepsO.none s
    | with_reducible refine KeepsO.some ?_
    | with_reducible exact State.hodEnableWrite_keeps ..
    | with_reducible exact State.portEnableWrite_keeps ..
    | with_reducible exact State.winEnableWrite_keeps ..
    | with_reducible exact State.tenantWrite_keeps ..
    | with_reducible exact State.regionWrite_keeps ..
    | with_reducible exact State.areaWrite_keeps ..
    | with_reducible exact State.copyFree_keeps ..
    | with_reducible exact Keeps.refl _
    | exact (State.storeNum_keeps ..).trans (State.askWakes_keeps ..)
    | extract_lets

theorem State.ownNumeric_keeps (s : State) (key n : Nat) (r : Nat × State) (h : s.ownNumeric key n = some r) : Keeps s r.2 := by
  refine (?_ : KeepsO s (s.ownNumeric key n)) r h
  unfold State.ownNumeric
  repeat' first
    | with_reducible apply KeepsO.ite ?_ ?_
    | with_reducible exact KeepsO.none s
    | with_reducible refine KeepsO.some ?_
    | with_reducible exact State.handoffWrite_keeps ..
    | with_reducible exact State.plumbRestartWrite_keeps ..
    | with_reducible exact State.hbmLogClear_keeps ..
    | with_reducible exact State.sramLogClear_keeps ..
    | with_reducible exact State.marginStart_keeps ..
    | with_reducible exact State.loadStart_keeps ..
    | with_reducible exact State.loadAbort_keeps ..
    | with_reducible exact State.loadPost_keeps ..
    | with_reducible exact State.restoreWrite_keeps ..
    | with_reducible exact State.rackBeat_keeps ..
    | with_reducible exact State.logClearWrite_keeps ..
    | with_reducible exact State.graveClearWrite_keeps ..
    | with_reducible exact State.errClearWrite_keeps ..
    | with_reducible exact State.dictStoreWrite_keeps ..
    | with_reducible exact State.defaultsWrite_keeps ..
    | with_reducible exact State.requestWrite_keeps ..
    | with_reducible exact State.fwUpdate_keeps ..
    | with_reducible exact State.escanStart_keeps ..
    | with_reducible exact State.fbistStart_keeps ..
    | with_reducible exact State.storeIf_keeps ..
    | with_reducible exact State.storeNum_keeps ..
    | with_reducible exact State.askWakes_keeps ..
    | with_reducible exact Keeps.refl _
    | exact (State.storeNum_keeps ..).trans (State.askWakes_keeps ..)
    | extract_lets

theorem State.ownBytes_keeps (s : State) (key : Nat) (b : List Byte) (r : Nat × State) (h : s.ownBytes key b = some r) : Keeps s r.2 := by
  refine (?_ : KeepsO s (s.ownBytes key b)) r h
  unfold State.ownBytes
  repeat' first
    | with_reducible apply KeepsO.ite ?_ ?_
    | with_reducible exact KeepsO.none s
    | with_reducible refine KeepsO.some ?_
    | with_reducible exact State.spliceWrite_keeps ..
    | with_reducible exact State.switchRequest_keeps ..
    | with_reducible exact State.rampWrite_keeps ..
    | with_reducible exact State.attestNonce_keeps ..
    | with_reducible exact State.keystonePending_keeps ..
    | with_reducible exact State.calWrite_keeps ..
    | with_reducible exact Keeps.refl _
    | exact (State.storeNum_keeps ..).trans (State.askWakes_keeps ..)
    | extract_lets

theorem State.ownWrite_keeps (s : State) (key : Nat) (v : ObjVal) : Keeps s (State.ownWrite s key v).2 := by
  unfold State.ownWrite
  split
  · rename_i n
    cases h : s.ownNumeric key n with
    | some r => rw [Option.some_or]; exact State.ownNumeric_keeps s key n r h
    | none =>
      rw [Option.none_or]
      cases h : s.ownIndexed key n with
      | some r => exact State.ownIndexed_keeps s key n r h
      | none => exact State.storeNum_keeps ..
  · rename_i b
    cases h : s.ownBytes key b with
    | some r => exact State.ownBytes_keeps s key b r h
    | none => exact State.storeVal_keeps s key (.bytes b)

theorem State.noteWritten_keeps (s : State) (key : Nat) : Keeps s (State.noteWritten s key) := by
  unfold State.noteWritten
  repeat' first
    | with_reducible exact Keeps.refl _
    | with_reducible assumption
    | with_reducible apply Keeps.ite ?_ ?_
    | (simp only [Keeps.mk_iff]; with_reducible refine KeepsP.same ?_ rfl rfl rfl)
    | split

theorem State.noteResult_keeps (s : State) (key code : Nat) : Keeps s (State.noteResult s key code) := by
  unfold State.noteResult
  repeat' first
    | with_reducible exact Keeps.refl _
    | with_reducible assumption
    | with_reducible apply Keeps.ite ?_ ?_
    | with_reducible apply Keeps.trans ?_ (State.recordResult_keeps ..)
    | (simp only [Keeps.mk_iff]; with_reducible refine KeepsP.same ?_ rfl rfl rfl)
    | split

theorem State.applyWrite_keeps (s : State) (p : Path) (key typ : Nat) (v : ObjVal) :
    Keeps s (State.applyWrite s p key typ v).2 := by
  unfold State.applyWrite
  repeat' first
    | with_reducible exact Keeps.refl _
    | with_reducible assumption
    | (extract_lets +onlyGivenNames x; first
        | (have h : State := x; clear h; with_reducible refine Keeps.gen x ?_ ?_; rotate_left; intro hx; clear_value x; rotate_left; subst x)
        | (have h : State := x.2; clear h; with_reducible refine Keeps.gen x.2 ?_ ?_; rotate_left; intro hx; clear_value x; rotate_left; subst x)
        | (have h : State := x.1; clear h; with_reducible refine Keeps.gen x.1 ?_ ?_; rotate_left; intro hx; clear_value x; rotate_left; subst x)
        | clear_value x
        | subst x)
    | with_reducible apply Keeps.ite ?_ ?_
    | with_reducible apply Keeps.ite2 ?_ ?_
    | with_reducible apply Keeps.ite1 ?_ ?_
    | with_reducible apply Keeps.trans ?_ (State.keystoneFault_keeps ..)
    | with_reducible apply Keeps.trans ?_ (State.noteResult_keeps ..)
    | with_reducible apply Keeps.trans ?_ (State.ownWrite_keeps ..)
    | with_reducible apply Keeps.trans ?_ (State.noteWritten_keeps ..)
    | (simp only [Keeps.mk_iff]; with_reducible refine KeepsP.same ?_ rfl rfl rfl)
    | with_reducible apply Keeps.of2 (by with_reducible assumption) (State.ownWrite_keeps ..)
    | split

theorem State.writeNum_keeps (s : State) (p : Path) (o : Obj) (n : Nat) : Keeps s (State.writeNum s p o n) := by
  unfold State.writeNum
  repeat' first
    | with_reducible exact Keeps.refl _
    | with_reducible assumption
    | with_reducible apply Keeps.ite ?_ ?_
    | with_reducible apply Keeps.trans ?_ (State.applyWrite_keeps ..)
    | (simp only [Keeps.mk_iff]; with_reducible refine KeepsP.same ?_ rfl rfl rfl)
    | with_reducible apply Keeps.of2 (by with_reducible assumption) (State.applyWrite_keeps ..)
    | split

theorem State.writeBlob_keeps (s : State) (p : Path) (o : Obj) (b : List Byte) :
    Keeps s (State.writeBlob s p o b) := by
  unfold State.writeBlob
  repeat' first
    | with_reducible exact Keeps.refl _
    | with_reducible assumption
    | with_reducible apply Keeps.ite ?_ ?_
    | with_reducible apply Keeps.trans ?_ (State.applyWrite_keeps ..)
    | (simp only [Keeps.mk_iff]; with_reducible refine KeepsP.same ?_ rfl rfl rfl)
    | with_reducible apply Keeps.of2 (by with_reducible assumption) (State.applyWrite_keeps ..)
    | split

end Sys2Proof.Machine
end

