-- ==== Sys2Proof/Laws/KeepsBridle.lean ====
section
/-! SUPPORT. Keeps for the operations of Machine/Bridle.lean. -/

namespace Sys2Proof.Machine

set_option linter.all false

theorem State.sendFrame_keeps (s : State) (dest : BitVec 48) (pdu : List Byte) :
    Keeps s (State.sendFrame s dest pdu) := by
  unfold State.sendFrame
  repeat' first
    | with_reducible exact Keeps.refl _
    | with_reducible assumption
    | with_reducible apply Keeps.ite ?_ ?_
    | with_reducible apply Keeps.trans ?_ (State.bump_keeps ..)
    | with_reducible apply Keeps.trans ?_ (State.emit_keeps ..)
    | with_reducible apply Keeps.trans ?_ (frame_keeps ..)
    | (simp only [Keeps.mk_iff]; with_reducible refine KeepsP.same ?_ rfl rfl rfl)
    | split

theorem State.countRefused_keeps (s : State) (status : Nat) : Keeps s (State.countRefused s status) := by
  unfold State.countRefused
  repeat' first
    | with_reducible exact Keeps.refl _
    | with_reducible assumption
    | with_reducible apply Keeps.ite ?_ ?_
    | with_reducible apply Keeps.trans ?_ (State.bump_keeps ..)
    | (simp only [Keeps.mk_iff]; with_reducible refine KeepsP.same ?_ rfl rfl rfl)
    | split

theorem State.expireBridle_keeps (s : State) : Keeps s (State.expireBridle s) := by
  unfold State.expireBridle
  repeat' first
    | with_reducible exact Keeps.refl _
    | with_reducible assumption
    | with_reducible apply Keeps.ite ?_ ?_
    | (simp only [Keeps.mk_iff]; with_reducible refine KeepsP.same ?_ rfl rfl rfl)
    | split

theorem State.touchSnap_keeps (s : State) (mac : BitVec 48) : Keeps s (State.touchSnap s mac) := by
  unfold State.touchSnap
  repeat' first
    | with_reducible exact Keeps.refl _
    | with_reducible assumption
    | with_reducible apply Keeps.ite ?_ ?_
    | (simp only [Keeps.mk_iff]; with_reducible refine KeepsP.same ?_ rfl rfl rfl)
    | split

theorem State.takeSnap_keeps (s : State) (mac : BitVec 48) (key : Nat) (data : List Byte) :
    Keeps s (State.takeSnap s mac key data) := by
  unfold State.takeSnap
  repeat' first
    | with_reducible exact Keeps.refl _
    | with_reducible assumption
    | (extract_lets +onlyGivenNames x; first
        | (have h : State := x; clear h; with_reducible refine Keeps.gen x ?_ ?_; rotate_left; intro hx; clear_value x; rotate_left; subst x)
        | clear_value x
        | subst x)
    | with_reducible apply Keeps.ite ?_ ?_
    | (simp only [Keeps.mk_iff]; with_reducible refine KeepsP.same ?_ rfl rfl rfl)
    | split

theorem State.readSegment_keeps (s : State) (mac : BitVec 48) (p : Pdu) :
    Keeps s (State.readSegment s mac p).2.2.2 := by
  unfold State.readSegment
  repeat' first
    | with_reducible exact Keeps.refl _
    | with_reducible assumption
    | (extract_lets +onlyGivenNames x; first
        | (have h : State := x; clear h; with_reducible refine Keeps.gen x ?_ ?_; rotate_left; intro hx; clear_value x; rotate_left; subst x)
        | (have h : State := x.2; clear h; with_reducible refine Keeps.gen x.2 ?_ ?_; rotate_left; intro hx; clear_value x; rotate_left; subst x)
        | (have h : State := x.1; clear h; with_reducible refine Keeps.gen x.1 ?_ ?_; rotate_left; intro hx; clear_value x; rotate_left; subst x)
        | clear_value x
        | subst x)
    | with_reducible apply Keeps.ite ?_ ?_
    | with_reducible apply Keeps.ite2 ?_ ?_
    | with_reducible apply Keeps.ite1 ?_ ?_
    | with_reducible apply Keeps.trans ?_ (State.takeSnap_keeps ..)
    | (simp only [Keeps.mk_iff]; with_reducible refine KeepsP.same ?_ rfl rfl rfl)
    | split

theorem State.bridleRead_keeps (s : State) (mac : BitVec 48) (p : Pdu) : Keeps s (State.bridleRead s mac p).2.2.2 := by
  unfold State.bridleRead
  repeat' first
    | with_reducible exact Keeps.refl _
    | with_reducible assumption
    | (extract_lets +onlyGivenNames x; first
        | (have h : State := x; clear h; with_reducible refine Keeps.gen x ?_ ?_; rotate_left; intro hx; clear_value x; rotate_left; subst x)
        | (have h : State := x.2; clear h; with_reducible refine Keeps.gen x.2 ?_ ?_; rotate_left; intro hx; clear_value x; rotate_left; subst x)
        | (have h : State := x.1; clear h; with_reducible refine Keeps.gen x.1 ?_ ?_; rotate_left; intro hx; clear_value x; rotate_left; subst x)
        | clear_value x
        | subst x)
    | with_reducible apply Keeps.ite ?_ ?_
    | with_reducible apply Keeps.ite2 ?_ ?_
    | with_reducible apply Keeps.ite1 ?_ ?_
    | with_reducible apply Keeps.trans ?_ (State.touchSnap_keeps ..)
    | with_reducible apply Keeps.trans ?_ (State.expireBridle_keeps ..)
    | with_reducible apply Keeps.trans ?_ (State.readSegment_keeps ..)
    | (simp only [Keeps.mk_iff]; with_reducible refine KeepsP.same ?_ rfl rfl rfl)
    | split

theorem State.bridleApply_keeps (s : State) (mac : BitVec 48) (p : Pdu) (data : List Byte) :
    Keeps s (State.bridleApply s mac p data).2 := by
  unfold State.bridleApply
  repeat' first
    | with_reducible exact Keeps.refl _
    | with_reducible assumption
    | (extract_lets +onlyGivenNames x; first
        | (have h : State := x; clear h; with_reducible refine Keeps.gen x ?_ ?_; rotate_left; intro hx; clear_value x; rotate_left; subst x)
        | (have h : State := x.2; clear h; with_reducible refine Keeps.gen x.2 ?_ ?_; rotate_left; intro hx; clear_value x; rotate_left; subst x)
        | (have h : State := x.1; clear h; with_reducible refine Keeps.gen x.1 ?_ ?_; rotate_left; intro hx; clear_value x; rotate_left; subst x)
        | clear_value x
        | subst x)
    | with_reducible apply Keeps.ite ?_ ?_
    | with_reducible apply Keeps.ite2 ?_ ?_
    | with_reducible apply Keeps.ite1 ?_ ?_
    | with_reducible apply Keeps.trans ?_ (State.applyWrite_keeps ..)
    | (simp only [Keeps.mk_iff]; with_reducible refine KeepsP.same ?_ rfl rfl rfl)
    | with_reducible apply Keeps.of2 (by with_reducible assumption) (State.applyWrite_keeps ..)
    | split

theorem State.setStaging_keeps (s : State) (g : Option Staging) : Keeps s (State.setStaging s g) := by
  unfold State.setStaging
  repeat' first
    | with_reducible exact Keeps.refl _
    | with_reducible assumption
    | with_reducible apply Keeps.ite ?_ ?_
    | (simp only [Keeps.mk_iff]; with_reducible refine KeepsP.same ?_ rfl rfl rfl)
    | split

theorem State.segmentRefused_keeps (s : State) (key : Nat) : Keeps s (State.segmentRefused s key).2 := by
  unfold State.segmentRefused
  repeat' first
    | with_reducible exact Keeps.refl _
    | with_reducible assumption
    | with_reducible apply Keeps.ite ?_ ?_
    | with_reducible apply Keeps.ite2 ?_ ?_
    | with_reducible apply Keeps.ite1 ?_ ?_
    | with_reducible apply Keeps.trans ?_ (State.noteResult_keeps ..)
    | (simp only [Keeps.mk_iff]; with_reducible refine KeepsP.same ?_ rfl rfl rfl)
    | split

theorem State.bridleSegment_keeps (s : State) (mac : BitVec 48) (p : Pdu) :
    Keeps s (State.bridleSegment s mac p).2 := by
  unfold State.bridleSegment
  repeat' first
    | with_reducible exact Keeps.refl _
    | with_reducible assumption
    | with_reducible apply Keeps.ite ?_ ?_
    | with_reducible apply Keeps.ite2 ?_ ?_
    | with_reducible apply Keeps.ite1 ?_ ?_
    | with_reducible apply Keeps.trans ?_ (State.segmentRefused_keeps ..)
    | with_reducible apply Keeps.trans ?_ (State.setStaging_keeps ..)
    | with_reducible apply Keeps.trans ?_ (State.bridleApply_keeps ..)
    | (simp only [Keeps.mk_iff]; with_reducible refine KeepsP.same ?_ rfl rfl rfl)
    | with_reducible apply Keeps.of2 (by with_reducible assumption) (State.segmentRefused_keeps ..)
    | with_reducible apply Keeps.of2 (by with_reducible assumption) (State.bridleApply_keeps ..)
    | split

theorem State.bridleWrite_keeps (s : State) (mac : BitVec 48) (p : Pdu) : Keeps s (State.bridleWrite s mac p).2 := by
  unfold State.bridleWrite
  repeat' first
    | with_reducible exact Keeps.refl _
    | with_reducible assumption
    | (extract_lets +onlyGivenNames x; first
        | (have h : State := x; clear h; with_reducible refine Keeps.gen x ?_ ?_; rotate_left; intro hx; clear_value x; rotate_left; subst x)
        | (have h : State := x.2; clear h; with_reducible refine Keeps.gen x.2 ?_ ?_; rotate_left; intro hx; clear_value x; rotate_left; subst x)
        | (have h : State := x.1; clear h; with_reducible refine Keeps.gen x.1 ?_ ?_; rotate_left; intro hx; clear_value x; rotate_left; subst x)
        | clear_value x
        | subst x)
    | with_reducible apply Keeps.ite ?_ ?_
    | with_reducible apply Keeps.ite2 ?_ ?_
    | with_reducible apply Keeps.ite1 ?_ ?_
    | with_reducible apply Keeps.trans ?_ (State.expireBridle_keeps ..)
    | with_reducible apply Keeps.trans ?_ (State.segmentRefused_keeps ..)
    | with_reducible apply Keeps.trans ?_ (State.bridleSegment_keeps ..)
    | with_reducible apply Keeps.trans ?_ (State.setStaging_keeps ..)
    | with_reducible apply Keeps.trans ?_ (State.bridleApply_keeps ..)
    | (simp only [Keeps.mk_iff]; with_reducible refine KeepsP.same ?_ rfl rfl rfl)
    | with_reducible apply Keeps.of2 (by with_reducible assumption) (State.segmentRefused_keeps ..)
    | with_reducible apply Keeps.of2 (by with_reducible assumption) (State.bridleSegment_keeps ..)
    | with_reducible apply Keeps.of2 (by with_reducible assumption) (State.bridleApply_keeps ..)
    | split

theorem State.serveRead_keeps (s : State) (mac : BitVec 48) (p : Pdu) : Keeps s (State.serveRead s mac p) := by
  unfold State.serveRead
  exact ((State.bridleRead_keeps ..).trans (State.countRefused_keeps ..)).trans (State.sendFrame_keeps ..)

theorem State.serveWrite_keeps (s : State) (mac : BitVec 48) (p : Pdu) : Keeps s (State.serveWrite s mac p) := by
  unfold State.serveWrite
  repeat' first
    | with_reducible exact Keeps.refl _
    | with_reducible assumption
    | (extract_lets +onlyGivenNames x; first
        | (have h : State := x; clear h; with_reducible refine Keeps.gen x ?_ ?_; rotate_left; intro hx; clear_value x; rotate_left; subst x)
        | (have h : State := x.2; clear h; with_reducible refine Keeps.gen x.2 ?_ ?_; rotate_left; intro hx; clear_value x; rotate_left; subst x)
        | (have h : State := x.1; clear h; with_reducible refine Keeps.gen x.1 ?_ ?_; rotate_left; intro hx; clear_value x; rotate_left; subst x)
        | clear_value x
        | subst x)
    | with_reducible apply Keeps.ite ?_ ?_
    | with_reducible apply Keeps.trans ?_ (State.bump_keeps ..)
    | with_reducible apply Keeps.trans ?_ (State.sendFrame_keeps ..)
    | with_reducible apply Keeps.trans ?_ (State.bridleWrite_keeps ..)
    | with_reducible apply Keeps.trans ?_ (State.countRefused_keeps ..)
    | (simp only [Keeps.mk_iff]; with_reducible refine KeepsP.same ?_ rfl rfl rfl)
    | with_reducible apply Keeps.of2 (by with_reducible assumption) (State.bridleWrite_keeps ..)
    | split

theorem State.serveDiscover_keeps (s : State) (mac : BitVec 48) (p : Pdu) : Keeps s (State.serveDiscover s mac p) := by
  unfold State.serveDiscover
  repeat' first
    | with_reducible exact Keeps.refl _
    | with_reducible assumption
    | with_reducible apply Keeps.ite ?_ ?_
    | with_reducible apply Keeps.trans ?_ (State.bump_keeps ..)
    | (simp only [Keeps.mk_iff]; with_reducible refine KeepsP.same ?_ rfl rfl rfl)
    | split

theorem State.queueRequest_keeps (s : State) (f : State → State) (hf : ∀ t, Keeps t (f t)) : Keeps s (State.queueRequest s f) := by
  unfold State.queueRequest
  exact Keeps.ite (State.bump_keeps ..) (Keeps.trans (Keeps.mk_iff.2 (KeepsP.same (Keeps.refl s) rfl rfl rfl)) (hf _))

theorem frame_keeps (s : State) (f : Frame) : Keeps s (frame s f) := by
  unfold frame
  repeat' first
    | with_reducible exact Keeps.refl _
    | with_reducible assumption
    | (extract_lets +onlyGivenNames x; first
        | (have h : State := x; clear h; with_reducible refine Keeps.gen x ?_ ?_; rotate_left; intro hx; clear_value x; rotate_left; subst x)
        | (have h : State := x.2; clear h; with_reducible refine Keeps.gen x.2 ?_ ?_; rotate_left; intro hx; clear_value x; rotate_left; subst x)
        | (have h : State := x.1; clear h; with_reducible refine Keeps.gen x.1 ?_ ?_; rotate_left; intro hx; clear_value x; rotate_left; subst x)
        | clear_value x
        | subst x)
    | with_reducible apply Keeps.ite ?_ ?_
    | with_reducible apply Keeps.trans ?_ (State.bump_keeps ..)
    | with_reducible apply Keeps.trans ?_ (State.queueRequest_keeps _ _ (fun _ => ?_))
    | with_reducible apply Keeps.trans ?_ (State.serveRead_keeps ..)
    | with_reducible apply Keeps.trans ?_ (State.serveWrite_keeps ..)
    | with_reducible apply Keeps.trans ?_ (State.serveDiscover_keeps ..)
    | (simp only [Keeps.mk_iff]; with_reducible refine KeepsP.same ?_ rfl rfl rfl)
    | split

theorem discoverAnswer_keeps (s : State) : Keeps s (discoverAnswer s) := by
  unfold discoverAnswer
  repeat' first
    | with_reducible exact Keeps.refl _
    | with_reducible assumption
    | (extract_lets +onlyGivenNames x; first
        | (have h : State := x; clear h; with_reducible refine Keeps.gen x ?_ ?_; rotate_left; intro hx; clear_value x; rotate_left; subst x)
        | (have h : State := x.2; clear h; with_reducible refine Keeps.gen x.2 ?_ ?_; rotate_left; intro hx; clear_value x; rotate_left; subst x)
        | (have h : State := x.1; clear h; with_reducible refine Keeps.gen x.1 ?_ ?_; rotate_left; intro hx; clear_value x; rotate_left; subst x)
        | clear_value x
        | subst x)
    | with_reducible apply Keeps.ite ?_ ?_
    | with_reducible apply Keeps.trans ?_ (State.sendFrame_keeps ..)
    | (simp only [Keeps.mk_iff]; with_reducible refine KeepsP.same ?_ rfl rfl rfl)
    | split

theorem State.sendNotify_keeps (s : State) : Keeps s (State.sendNotify s) := by
  unfold State.sendNotify
  repeat' first
    | with_reducible exact Keeps.refl _
    | with_reducible assumption
    | (extract_lets +onlyGivenNames x; first
        | (have h : State := x; clear h; with_reducible refine Keeps.gen x ?_ ?_; rotate_left; intro hx; clear_value x; rotate_left; subst x)
        | (have h : State := x.2; clear h; with_reducible refine Keeps.gen x.2 ?_ ?_; rotate_left; intro hx; clear_value x; rotate_left; subst x)
        | (have h : State := x.1; clear h; with_reducible refine Keeps.gen x.1 ?_ ?_; rotate_left; intro hx; clear_value x; rotate_left; subst x)
        | clear_value x
        | subst x)
    | with_reducible apply Keeps.ite ?_ ?_
    | with_reducible apply Keeps.trans ?_ (State.sendFrame_keeps ..)
    | (simp only [Keeps.mk_iff]; with_reducible refine KeepsP.same ?_ rfl rfl rfl)
    | split

theorem bridleStagingTimeout_keeps (s : State) : Keeps s (bridleStagingTimeout s) := by
  unfold bridleStagingTimeout
  repeat' first
    | with_reducible exact Keeps.refl _
    | with_reducible assumption
    | with_reducible apply Keeps.ite ?_ ?_
    | with_reducible apply Keeps.trans ?_ (State.expireBridle_keeps ..)
    | (simp only [Keeps.mk_iff]; with_reducible refine KeepsP.same ?_ rfl rfl rfl)
    | split

end Sys2Proof.Machine
end

