-- ==== Sys2Proof/Laws/KeepsBoot.lean ====
section
/-! SUPPORT. Keeps for the operations of Machine/Boot.lean. -/

namespace Sys2Proof.Machine

set_option linter.all false

theorem keystoneStage_keeps (s : State) : Keeps s (keystoneStage s) := by
  unfold keystoneStage
  repeat' first
    | with_reducible exact Keeps.refl _
    | with_reducible assumption
    | with_reducible apply Keeps.ite ?_ ?_
    | with_reducible apply Keeps.trans ?_ (State.selectKeystone_keeps ..)
    | with_reducible apply Keeps.trans ?_ (State.lockKeystone_keeps ..)
    | (simp only [Keeps.mk_iff]; with_reducible refine KeepsP.same ?_ rfl rfl rfl)
    | split

theorem runtimeLoad_keeps (s : State) : Keeps s (runtimeLoad s) := by
  unfold runtimeLoad
  repeat' first
    | with_reducible exact Keeps.refl _
    | with_reducible assumption
    | (extract_lets +onlyGivenNames x; first
        | (have h : State := x; clear h; with_reducible refine Keeps.gen x ?_ ?_; rotate_left; intro hx; clear_value x; rotate_left; subst x)
        | (have h : SecUnit := x; clear h; subst x)
        | clear_value x
        | subst x)
    | with_reducible apply Keeps.ite ?_ ?_
    | with_reducible apply Keeps.trans ?_ (State.dropObjects_keeps ..)
    | with_reducible apply Keeps.trans ?_ (State.checkCal_keeps ..)
    | with_reducible apply Keeps.trans ?_ (State.loadStored_keeps ..)
    | with_reducible apply Keeps.trans ?_ (State.command_keeps ..)
    | (simp only [Keeps.mk_iff]; with_reducible refine KeepsP.same ?_ rfl rfl rfl)
    | split

theorem State.firstReady_keeps (s : State) : Keeps s (State.firstReady s) := by
  unfold State.firstReady
  extract_lets blow
  refine ⟨⟨rfl, id, ⟨[], by simp⟩, ?_, Nat.le_refl _⟩, .inl rfl⟩
  show s.sec.fuses ≤ if blow then s.sec.imageSvn else s.sec.fuses
  split
  · rename_i h
    simp only [blow, Bool.and_eq_true, decide_eq_true_eq] at h
    exact Nat.le_of_lt h.2
  · exact Nat.le_refl _

theorem State.clearStreams_keeps (s : State) : Keeps s (State.clearStreams s) := by
  unfold State.clearStreams
  repeat' first
    | with_reducible exact Keeps.refl _
    | with_reducible assumption
    | (extract_lets +onlyGivenNames x; first
        | (have h : State := x; clear h; with_reducible refine Keeps.gen x ?_ ?_; rotate_left; intro hx; clear_value x; rotate_left; subst x)
        | clear_value x
        | subst x)
    | with_reducible apply Keeps.ite ?_ ?_
    | with_reducible apply Keeps.trans ?_ (State.unschedule_keeps ..)
    | with_reducible apply Keeps.trans ?_ (preRamp_keeps ..)
    | (simp only [Keeps.mk_iff]; with_reducible refine KeepsP.same ?_ rfl rfl rfl)
    | split

end Sys2Proof.Machine
end

