-- ==== Sys2Proof/Laws/KeepsBoundary.lean ====
section
/-! SUPPORT. Keeps for the operations of Machine/Boundary.lean. -/

namespace Sys2Proof.Machine

set_option linter.all false

theorem State.carryRamps_keeps (s : State) : Keeps s (State.carryRamps s) := by
  unfold State.carryRamps
  repeat' first
    | with_reducible exact Keeps.refl _
    | with_reducible assumption
    | with_reducible apply Keeps.foldl ?_ (fun _ _ => ?_)
    | with_reducible apply Keeps.foldl2 ?_ (fun _ _ => ?_)
    | with_reducible apply Keeps.foldl1 ?_ (fun _ _ => ?_)
    | with_reducible apply Keeps.ite ?_ ?_
    | with_reducible apply Keeps.trans ?_ (preRamp_keeps ..)
    | with_reducible apply Keeps.trans ?_ (rampEventApply_keeps ..)
    | (simp only [Keeps.mk_iff]; with_reducible refine KeepsP.same ?_ rfl rfl rfl)
    | split

theorem State.carrySamplings_keeps (s : State) : Keeps s (State.carrySamplings s) := by
  unfold State.carrySamplings
  repeat' first
    | with_reducible exact Keeps.refl _
    | with_reducible assumption
    | with_reducible apply Keeps.foldl ?_ (fun _ _ => ?_)
    | with_reducible apply Keeps.foldl2 ?_ (fun _ _ => ?_)
    | with_reducible apply Keeps.foldl1 ?_ (fun _ _ => ?_)
    | with_reducible apply Keeps.ite ?_ ?_
    | with_reducible apply Keeps.trans ?_ (courseCutoff_keeps ..)
    | with_reducible apply Keeps.trans ?_ (hodSampling_keeps ..)
    | (simp only [Keeps.mk_iff]; with_reducible refine KeepsP.same ?_ rfl rfl rfl)
    | split

theorem State.carry_keeps (s : State) (n : Nat) : Keeps s (State.carry s n) := by
  unfold State.carry
  repeat' first
    | with_reducible exact Keeps.refl _
    | with_reducible assumption
    | (extract_lets +onlyGivenNames x; first
        | (have h : State := x; clear h; with_reducible refine Keeps.gen x ?_ ?_; rotate_left; intro hx; clear_value x; rotate_left; subst x)
        | clear_value x
        | subst x)
    | with_reducible apply Keeps.ite ?_ ?_
    | with_reducible apply Keeps.trans ?_ (State.carryRamps_keeps ..)
    | with_reducible apply Keeps.trans ?_ (wakeGrant_keeps ..)
    | with_reducible apply Keeps.trans ?_ (weightSwitch_keeps ..)
    | with_reducible apply Keeps.trans ?_ (switchConfirm_keeps ..)
    | with_reducible apply Keeps.trans ?_ (State.carrySamplings_keeps ..)
    | with_reducible apply Keeps.trans ?_ (courseStart_keeps ..)
    | with_reducible apply Keeps.trans ?_ (exchangeWindowOpen_keeps ..)
    | with_reducible apply Keeps.trans ?_ (exchangeWindowClose_keeps ..)
    | with_reducible apply Keeps.trans ?_ (scrubWindowOpen_keeps ..)
    | with_reducible apply Keeps.trans ?_ (scrubWindowClose_keeps ..)
    | (simp only [Keeps.mk_iff]; with_reducible refine KeepsP.same ?_ rfl rfl rfl)
    | split

theorem State.before_keeps (s : State) (n : Nat) : Keeps s (State.before s n) := by
  unfold State.before
  repeat' first
    | with_reducible exact Keeps.refl _
    | with_reducible assumption
    | with_reducible apply Keeps.ite ?_ ?_
    | with_reducible apply Keeps.trans ?_ (State.carry_keeps ..)
    | (simp only [Keeps.mk_iff]; with_reducible refine KeepsP.same ?_ rfl rfl rfl)
    | split

theorem State.endOfTick_keeps (s : State) : Keeps s (State.endOfTick s) := by
  unfold State.endOfTick
  repeat' first
    | with_reducible exact Keeps.refl _
    | with_reducible assumption
    | (extract_lets +onlyGivenNames x; first
        | (have h : State := x; clear h; with_reducible refine Keeps.gen x ?_ ?_; rotate_left; intro hx; clear_value x; rotate_left; subst x)
        | clear_value x
        | subst x)
    | with_reducible apply Keeps.ite ?_ ?_
    | with_reducible apply Keeps.trans ?_ (masterHandoff_keeps ..)
    | with_reducible apply Keeps.trans ?_ (State.before_keeps ..)
    | (simp only [Keeps.mk_iff]; with_reducible refine KeepsP.same ?_ rfl rfl rfl)
    | split

end Sys2Proof.Machine
end

