-- ==== Sys2Proof/Laws/Moved.lean ====
section
/-! SUPPORT. Moved for the commands that take a transition of Table 0.5. -/

namespace Sys2Proof.Machine

set_option linter.all false

/-- Operations that keep, before a move. -/
theorem Keeps.moved_after {s y t : State} (h : Keeps s y) (hs : y.pkg.st = s.pkg.st) (k : Moved y t) : Moved s t := by
  obtain ⟨k0, k1⟩ := k
  refine ⟨h.toKept₀.trans k0, ?_⟩
  unfold moves allowed at *
  rw [hs] at k1
  exact k1

/-- A new tick, with anything that keeps around it: the package is where it was. -/
theorem State.newTick_moved {s y t : State} (h : Keeps s y) (hs : y.pkg.st = s.pkg.st) (k : Moved y.newTick t) : Moved s t :=
  (h.trans (State.newTick_keeps y)).moved_after hs k

theorem ite_moved {s a b : State} {c : Prop} [Decidable c] (ha : Moved s a) (hb : Moved s b) : Moved s (if c then a else b) := by
  split <;> assumption

/-- A transition right from a state that keeps. -/
theorem State.to_moved {s y : State} {t : PkgState} (h : Keeps s y) (hd : t ≠ .drained) : Moved s (y.transition t) :=
  State.transition_moved h (Keeps.refl _) (fun e _ => absurd e hd)

theorem vauxRise_moved (s : State) : Moved s (vauxRise s) := by
  unfold vauxRise
  refine ite_moved (Moved.refl s) (State.newTick_moved (y := { s with pkg := { s.pkg with vaux := true } }) ?_ rfl ?_)
  · exact Keeps.mk_iff.2 (KeepsP.same (Keeps.refl s) rfl rfl rfl)
  · exact State.to_moved (Keeps.refl _) (by decide)

theorem vauxLoss_moved (s : State) : Moved s (vauxLoss s) := by
  unfold vauxLoss
  exact ite_moved (Moved.refl s) (State.newTick_moved (Keeps.refl s) rfl (State.to_moved (Keeps.refl _) (by decide)))

theorem resetNFall_moved (s : State) : Moved s (resetNFall s) := by
  unfold resetNFall
  have h : Keeps s { s with pkg := { s.pkg with resetN := false } } := Keeps.mk_iff.2 (KeepsP.same (Keeps.refl s) rfl rfl rfl)
  exact ite_moved h.moved (State.to_moved h (by decide))

theorem bootStart_moved (s : State) : Moved s (bootStart s) := by
  unfold bootStart
  refine ite_moved (Moved.refl s) ?_
  refine State.newTick_moved (y := { s with pkg := { s.pkg with resetN := true, pwrGood := true, coolOk := true } }) ?_ rfl ?_
  · exact Keeps.mk_iff.2 (KeepsP.same (Keeps.refl s) rfl rfl rfl)
  · refine State.transition_moved (t := .boot) (Keeps.refl _) ?_ (fun e _ => by cases e)
    refine Keeps.trans ?_ (State.bootRom_keeps ..)
    exact Keeps.mk_iff.2 (KeepsP.same (Keeps.refl _) rfl rfl rfl)

theorem hbmTraining_moved (s : State) (a b : BitVec 16) : Moved s (hbmTraining s a b) := by
  unfold hbmTraining
  refine ite_moved (Moved.refl s) (ite_moved (State.raise_keeps ..).moved ?_)
  refine State.to_moved ?_ (by decide)
  exact Keeps.mk_iff.2 (KeepsP.mem_ (Keeps.refl s) rfl rfl (initStacks_wf _ _))

/-- A transition, the state reached having a name. -/
theorem State.transition_moved' {s y u v : State} {t : PkgState} (hu : u = State.transition y t) (h : Keeps s y) (k : Keeps u v)
    (hd : t ≠ .drained) : Moved s v := by
  subst hu; exact State.transition_moved h k (fun e _ => absurd e hd)

theorem alignComplete_moved (s : State) : Moved s (alignComplete s) := by
  unfold alignComplete
  refine ite_moved ?_ (Moved.refl s)
  dsimp only
  generalize hu : s.transition .ready = u
  exact ite_moved (State.transition_moved' hu.symm (Keeps.refl s) (State.firstReady_keeps _) (by decide))
    (State.transition_moved' hu.symm (Keeps.refl s) (Keeps.refl _) (by decide))

theorem drainComplete_moved (s : State) : Moved s (drainComplete s) := by
  unfold drainComplete
  split
  · rename_i h
    have k := State.flushAll_keeps s
    dsimp only
    generalize s.flushAll = f at k ⊢
    have d : PkgState.drained = .drained → f.pkg.st = .draining → edge s.pkg.st .drained = true := fun _ _ => by rw [h.1]; rfl
    refine ite_moved k.moved (ite_moved ?_ (State.transition_moved k (Keeps.refl _) d))
    exact State.transition_moved k ((State.clearStreams_keeps _).trans (State.deferredStep_keeps _)) d
  · exact Moved.refl s

theorem coolOkFall_moved (s : State) : Moved s (coolOkFall s) := by
  unfold coolOkFall
  have h : Keeps s { s with pkg := { s.pkg with coolOk := false } } := Keeps.mk_iff.2 (KeepsP.same (Keeps.refl s) rfl rfl rfl)
  refine ite_moved (Moved.refl s) ?_
  extract_lets p y u w
  have hu : u = y.transition .stopped := rfl
  have hw : Keeps u w := State.overtakeUrgent_keeps u
  split
  · exact State.transition_moved' hu h (Keeps.refl u) (by decide)
  · clear_value w
    exact State.transition_moved' hu h ((hw.trans (State.emit_keeps ..)).trans (State.raise_keeps ..)) (by decide)

theorem coolOkRise_moved (s : State) : Moved s (coolOkRise s) := by
  unfold coolOkRise
  have h : Keeps s { s with pkg := { s.pkg with coolOk := true } } := Keeps.mk_iff.2 (KeepsP.same (Keeps.refl s) rfl rfl rfl)
  exact ite_moved (State.newTick_moved h rfl (State.to_moved (Keeps.refl _) (by decide))) h.moved

theorem State.takeGrave_moved {s y : State} (h : Keeps s y) (last : BitVec 128) (kind : Byte) : Moved s (State.takeGrave y last kind) := by
  unfold State.takeGrave
  have k := (h.trans (State.failSteps_keeps y kind)).trans (State.plinthSend_keeps _ 2)
  generalize (y.failSteps kind).plinthSend 2 = z at k ⊢
  dsimp only
  generalize hu : z.transition .grave = u
  exact State.transition_moved' hu.symm k (Keeps.mk_iff.2 (KeepsP.same (Keeps.refl u) rfl rfl rfl)) (by decide)

theorem State.chipReset_moved {s y : State} (h : Keeps s y) (m : FaultMsg) : Moved s (State.chipReset y m) := by
  unfold State.chipReset
  extract_lets recent a q f b g c d e
  refine ite_moved (State.takeGrave_moved ?_ _ _) (State.to_moved ?_ (by decide))
  · refine Keeps.trans ?_ (State.lastTrap_keeps ..)
    refine Keeps.trans ?_ (State.recordFault_keeps ..)
    exact Keeps.mk_iff.2 (KeepsP.same ((h.trans (State.recordFault_keeps ..)).trans (State.lastTrap_keeps ..)) rfl rfl rfl)
  · have hc : Keeps s c := ((h.trans (State.recordFault_keeps ..)).trans (State.lastTrap_keeps ..)).trans (State.failSteps_keeps ..)
    clear_value c
    exact Keeps.mk_iff.2 (KeepsP.same (hc.trans (State.bump_keeps ..)) rfl rfl rfl)

theorem State.react_moved {s y : State} (h : Keeps s y) (m : FaultMsg) : Moved s (State.react y m) := by
  unfold State.react
  extract_lets r halted overtaken a b
  have r0 : Moved s (y.recordFault m 0) := (h.trans (State.recordFault_keeps ..)).moved
  refine ite_moved r0 (ite_moved r0 (ite_moved ?_ (ite_moved (State.chipReset_moved h m) ?_)))
  · exact State.takeGrave_moved ((h.trans (State.recordFault_keeps ..)).trans (State.lastTrap_keeps ..)) _ _
  · have ha : Keeps s a := h.trans (State.recordFault_keeps ..)
    have hb : Keeps s b := Keeps.ite (ha.trans (State.trap_keeps ..)) ha
    clear_value b
    exact ite_moved (hb.trans (State.blockReset_keeps ..)).moved hb.moved

theorem State.dropFault_moved {s y : State} (h : Keeps s y) (m : FaultMsg) : Moved s (State.dropFault y m) := by
  unfold State.dropFault
  have hb := h.trans (State.bump_keeps y O.faultsDropped 64 1)
  generalize y.bump O.faultsDropped 64 1 = z at hb ⊢
  exact ite_moved hb.moved (State.react_moved (Keeps.mk_iff.2 (KeepsP.same hb rfl rfl rfl)) _)

theorem faultIntake_moved (s : State) : Moved s (faultIntake s) := by
  unfold faultIntake
  have h := State.rollRate_keeps s
  dsimp only
  generalize s.rollRate = y at h ⊢
  split
  · exact State.react_moved ((Keeps.mk_iff.2 (KeepsP.same h rfl rfl rfl)).trans (State.countRate_keeps ..)) _
  · refine ite_moved h.moved ?_
    split
    · exact (h.trans (State.refill_keeps ..)).moved
    · rename_i m rest _
      have k : Keeps s ({ y with fcu := { y.fcu with intake := rest } } : State).refill :=
        Keeps.trans (Keeps.mk_iff.2 (KeepsP.same h rfl rfl rfl)) (State.refill_keeps ..)
      generalize ({ y with fcu := { y.fcu with intake := rest } } : State).refill = z at k ⊢
      exact ite_moved (State.dropFault_moved k _) (State.react_moved (k.trans (State.countRate_keeps ..)) _)

theorem State.handback_moved {s y : State} (h : Keeps s y) (n : Node) : Moved s (State.handback y n) := by
  unfold State.handback
  extract_lets st seq a b c f g k l d e
  have ha : Keeps s a := (h.trans (State.setNum_keeps ..)).trans (State.sendM_keeps ..)
  have hc : Keeps s c := (ha.trans (State.unschedule_keeps ..)).trans (State.dropCovered_keeps ..)
  clear_value c
  have hd : Keeps s d := Keeps.mk_iff.2 (KeepsP.same hc rfl rfl rfl)
  clear_value d
  have he : Keeps s e := hd.trans (State.setAlias_keeps ..)
  exact State.transition_moved' rfl (Keeps.foldl he (fun _ _ => State.send_keeps ..)) (State.icxEvent_keeps ..) (by decide)

theorem State.closeCourse_moved (s : State) (covered : Bool) : Moved s (State.closeCourse s covered) := by
  unfold State.closeCourse
  extract_lets st lengths busy s1 u2 s2 s3 s4 r ends late s5 s6 s7 ships s8 s9 s10 u11 s11 s12 s13 s14
  have h1 : Keeps s s1 := State.setStream_keeps ..
  have h2 : Keeps s s2 := Keeps.mk_iff.2 (KeepsP.same h1 rfl rfl rfl)
  have h3 : Keeps s s3 := h2.trans (State.prepare_keeps ..)
  have h4 : Keeps s s4 := h3.trans (State.sendMarkers_keeps ..)
  have hr : Keeps s r.1 := h4.trans (State.settleAll_keeps ..)
  have h5 : Keeps s s5 := hr.trans (State.writeReturns_keeps ..)
  have h6 : Keeps s s6 := h5.trans (State.logCourse_keeps ..)
  have h7 : Keeps s s7 := (h6.trans (State.closeParking_keeps ..)).trans (State.closeSatchels_keeps ..)
  have h8 : Keeps s s8 := Keeps.foldl h7 (fun _ _ => State.countMoved_keeps ..)
  have h9 : Keeps s s9 := h8.trans (State.account_keeps ..)
  have h10 : Keeps s s10 := ((h9.trans (State.freeSatchels_keeps ..)).trans (State.closePrefill_keeps ..)).trans (State.endAll_keeps ..)
  have h11 : Keeps s s11 := h10.trans (State.setStream_keeps ..)
  have h12 : Keeps s s12 := (h11.trans (State.mirrorStep_keeps ..)).trans (State.closeCommit_keeps ..)
  have h13 : Keeps s s13 := Keeps.foldl h12 (fun _ _ => Keeps.ite (State.closeShipment_keeps ..) (Keeps.refl _))
  have h14 : Keeps s s14 := ((h13.trans (State.closePower_keeps ..)).trans (State.grantTest_keeps ..)).trans (State.retireOutgoing_keeps ..)
  clear_value s14
  split
  · exact ite_moved (State.handback_moved h14 _) (h14.trans (State.planNext_keeps ..)).moved
  · exact (h14.trans (State.planNext_keeps ..)).moved

theorem courseClose_moved (s : State) (covered : Bool) : Moved s (courseClose s covered) := by
  unfold courseClose
  exact ite_moved (State.closeCourse_moved s covered) (Moved.refl s)

theorem State.takeBack_moved {s y : State} (h : Keeps s y) (course : W64) : Moved s (State.takeBack y course) := by
  unfold State.takeBack
  extract_lets m u a b c d e f g
  have ha : Keeps s a := Keeps.mk_iff.2 (KeepsP.same h rfl rfl rfl)
  have hb : Keeps s b := Keeps.foldl ha (fun _ _ => Keeps.mk_iff.2 (KeepsP.same (Keeps.refl _) rfl rfl rfl))
  have hc : Keeps s c := Keeps.foldl hb (fun _ _ => State.importHod_keeps ..)
  have hd : Keeps s d := hc.trans (State.setNum_keeps ..)
  have he : Keeps s e := by
    refine Keeps.foldl hd (fun t x => Keeps.ite (Keeps.refl _) ?_)
    refine Keeps.trans ?_ (State.pokePages_keeps ..)
    refine Keeps.trans ?_ (State.pokePages_keeps ..)
    refine Keeps.trans ?_ (State.putStrip_keeps ..)
    exact (State.houseSession_keeps ..).trans (State.putSession_keeps ..)
  clear_value e
  have hf : f = (e.transition .serving).icxEvent 0x003 := rfl
  generalize hu : e.transition .serving = w at hf
  clear_value f
  refine State.transition_moved' hu.symm he (Keeps.trans (t := f) ?_ ?_) (by decide)
  · rw [hf]; exact State.icxEvent_keeps ..
  · exact (((State.setStream_keeps ..).trans (State.newWindow_keeps ..)).trans (State.prepare_keeps ..)).trans (State.planNext_keeps ..)

theorem coveringEnter_moved (s : State) : Moved s (coveringEnter s) := by
  unfold coveringEnter
  split
  · exact Moved.refl s
  refine ite_moved (Moved.refl s) ?_
  refine ite_moved (State.abandonTakeover_keeps ..).moved ?_
  extract_lets +onlyGivenNames fromReady w
  have hw : w = s.transition .covering := rfl
  refine State.transition_moved' hw (Keeps.refl s) ?_ (by decide)
  clear_value w
  clear hw
  repeat' first
    | with_reducible exact Keeps.refl _
    | with_reducible assumption
    | (extract_lets +onlyGivenNames x; first
        | (have h : State := x; clear h; with_reducible refine Keeps.gen x ?_ ?_; rotate_left; intro hx; clear_value x; rotate_left; subst x)
        | (have h : State := x.2; clear h; with_reducible refine Keeps.gen x.2 ?_ ?_; rotate_left; intro hx; clear_value x; rotate_left; subst x)
        | (have h : State := x.1; clear h; with_reducible refine Keeps.gen x.1 ?_ ?_; rotate_left; intro hx; clear_value x; rotate_left; subst x)
        | (have h : PkgUnit := x; clear h; subst x)
        | (have h : MemUnit := x; clear h; subst x)
        | (have h : SecUnit := x; clear h; subst x)
        | (have h : _ → _ := x; clear h; subst x; try dsimp -zeta only)
        | clear_value x
        | subst x)
    | with_reducible apply Keeps.foldl ?_ (fun _ _ => ?_)
    | with_reducible apply Keeps.foldl2 ?_ (fun _ _ => ?_)
    | with_reducible apply Keeps.foldl1 ?_ (fun _ _ => ?_)
    | with_reducible apply Keeps.ite ?_ ?_
    | with_reducible apply Keeps.trans ?_ (State.icxEvent_keeps ..)
    | with_reducible apply Keeps.trans ?_ (State.openStream_keeps ..)
    | with_reducible apply Keeps.trans ?_ (State.setStream_keeps ..)
    | with_reducible apply Keeps.trans ?_ (State.newWindow_keeps ..)
    | with_reducible apply Keeps.trans ?_ (State.send_keeps ..)
    | with_reducible apply Keeps.trans ?_ (State.planCovered_keeps ..)
    | (simp only [Keeps.mk_iff]; with_reducible refine KeepsP.same ?_ rfl rfl rfl)
    | split

theorem restore_moved (s : State) (m : RestoreMsg) : Moved s (restore s m) := by
  cases m with
  | handback course =>
    unfold restore
    dsimp only
    split
    · exact Moved.refl s
    · exact State.takeBack_moved (Keeps.mk_iff.2 (KeepsP.same (Keeps.refl s) rfl rfl rfl)) _
  | _ =>
    refine Keeps.moved ?_
    dsimp -zeta only [restore]
    repeat' first
      | with_reducible exact Keeps.refl _
      | with_reducible assumption
      | (extract_lets +onlyGivenNames x; first
          | (have h : State := x; clear h; with_reducible refine Keeps.gen x ?_ ?_; rotate_left; intro hx; clear_value x; rotate_left; subst x)
          | (have h : State := x.2; clear h; with_reducible refine Keeps.gen x.2 ?_ ?_; rotate_left; intro hx; clear_value x; rotate_left; subst x)
          | (have h : State := x.1; clear h; with_reducible refine Keeps.gen x.1 ?_ ?_; rotate_left; intro hx; clear_value x; rotate_left; subst x)
          | (have h : PkgUnit := x; clear h; subst x)
          | (have h : MemUnit := x; clear h; subst x)
          | (have h : SecUnit := x; clear h; subst x)
          | (have h : _ → _ := x; clear h; subst x; try dsimp -zeta only)
          | clear_value x
          | subst x)
      | with_reducible apply Keeps.foldl ?_ (fun _ _ => ?_)
      | with_reducible apply Keeps.foldl2 ?_ (fun _ _ => ?_)
      | with_reducible apply Keeps.foldl1 ?_ (fun _ _ => ?_)
      | with_reducible apply Keeps.ite ?_ ?_
      | with_reducible apply Keeps.trans ?_ (State.restoreCopy_keeps ..)
      | with_reducible apply Keeps.trans ?_ (State.askGranule_keeps ..)
      | with_reducible apply Keeps.trans ?_ (State.hbmPut_keeps ..)
      | with_reducible apply Keeps.trans ?_ (State.applyRecord_keeps ..)
      | with_reducible apply Keeps.trans ?_ (State.send_keeps ..)
      | with_reducible apply Keeps.trans ?_ (mirrorAck_keeps ..)
      | (simp only [Keeps.mk_iff]; with_reducible refine KeepsP.same ?_ rfl rfl rfl)
      | (simp only [Keeps.mk_iff]; with_reducible refine KeepsP.draw ?_ rfl rfl rfl)
      | with_reducible apply Keeps.of1 (by with_reducible assumption) (State.applyRecord_keeps ..)
      | split

/-- A request taken, then operations that keep: what they keep first, then the move. -/
theorem State.takeRequest_moved {s v : State} (k : Keeps (State.takeRequest s) v) : ∃ u, Keeps s u ∧ Moved u v := by
  unfold State.takeRequest at k
  split at k
  · exact ⟨s, Keeps.refl s, k.moved⟩
  · rename_i r _
    have hf : Keeps s (if r = .drained then s.flushAll else s) := Keeps.ite (State.flushAll_keeps s) (Keeps.refl s)
    dsimp only at k
    generalize (if r = PkgState.drained then s.flushAll else s) = f at hf k
    refine ⟨f, hf, ?_⟩
    split at k
    · exact k.moved
    · have h : Keeps f { f with pkg := { f.pkg with request := none } } := Keeps.mk_iff.2 (KeepsP.same (Keeps.refl f) rfl rfl rfl)
      have hd : r = .drained → f.pkg.st = .draining → edge f.pkg.st .drained = true := fun _ e => by rw [e]; rfl
      split at k
      · split at k
        · exact ((h.trans (State.openStream_keeps ..)).trans k).moved
        · exact (h.trans k).moved
      · refine State.transition_moved (t := r) h (Keeps.trans ?_ k) hd
        exact Keeps.ite (State.openStream_keeps ..) (Keeps.refl _)

/-- On an empty queue: what the tick brings, with the tick boundary's request between. -/
theorem idleTick_twice (s : State) : ∃ u, Keeps s u ∧ Moved u (idleTick s) := by
  unfold idleTick
  split
  · exact ⟨s, Keeps.refl s, Moved.refl s⟩
  · obtain ⟨u, hu, k⟩ := State.takeRequest_moved
      (s := s.endOfTick.settleRequest.newTick.powerTick.advanceNow.advanceClock)
      ((((State.dueRelease_keeps ..).trans (State.rollRate_keeps ..)).trans (State.pumpAll_keeps ..)).trans (State.sendNotify_keeps ..))
    refine ⟨u, Keeps.trans ?_ hu, k⟩
    refine Keeps.trans ?_ (State.advanceClock_keeps ..)
    refine Keeps.trans ?_ (State.advanceNow_keeps ..)
    refine Keeps.trans ?_ (State.powerTick_keeps ..)
    exact ((State.endOfTick_keeps s).trans (State.settleRequest_keeps ..)).trans (State.newTick_keeps ..)

end Sys2Proof.Machine
end

