-- ==== Sys2Proof/Laws/Ran.lean ====
section
/-! SUPPORT. What running an instance leaves as it is (04 R122, R130): the state words and counters, the course clock, the
fabric requesters, the security engine and the router engine, through every write of memory and every fault it meets. -/

namespace Sys2Proof.Machine

set_option linter.all false

/-- The units an instance's own work never touches are the same. -/
structure Aside (s t : State) : Prop where
  cred : t.cred = s.cred
  clk : t.clk = s.clk
  fab : t.fab = s.fab
  sec : t.sec = s.sec
  eng : t.eng = s.eng

theorem Aside.refl (s : State) : Aside s s := ⟨rfl, rfl, rfl, rfl, rfl⟩
theorem Aside.trans {s t u : State} (h : Aside s t) (k : Aside t u) : Aside s u :=
  ⟨k.1.trans h.1, k.2.trans h.2, k.3.trans h.3, k.4.trans h.4, k.5.trans h.5⟩
theorem Aside.ite {s a b : State} {c : Prop} [Decidable c] (ha : Aside s a) (hb : Aside s b) : Aside s (if c then a else b) := by
  split <;> assumption
theorem Aside.foldl {α : Type} {s : State} {f : State → α → State} (h : ∀ t x, Aside t (f t x)) (l : List α) : ∀ {t}, Aside s t → Aside s (l.foldl f t) := by
  induction l with
  | nil => exact fun k => k
  | cons x l ih => exact fun k => ih (k.trans (h _ x))

/-- What no write of memory, session table, outputs, dictionary or fault collector touches. -/
theorem Aside.of {s t : State} (h : t.cred = s.cred ∧ t.clk = s.clk ∧ t.fab = s.fab ∧ t.sec = s.sec ∧ t.eng = s.eng) : Aside s t :=
  ⟨h.1, h.2.1, h.2.2.1, h.2.2.2.1, h.2.2.2.2⟩

theorem State.raise_aside (s : State) (source part kind cls addr : Nat) : Aside s (s.raise source part kind cls addr) := Aside.of (by simp)
theorem State.icxEvent_aside (s : State) (n : Nat) : Aside s (s.icxEvent n) := Aside.of (by simp)
theorem State.bump_aside (s : State) (o : Obj) (w n : Nat) : Aside s (s.bump o w n) := ⟨rfl, rfl, rfl, rfl, rfl⟩
theorem State.send_aside (s : State) (d : Node) (b : Body) : Aside s (s.send d b) := ⟨rfl, rfl, rfl, rfl, rfl⟩
theorem State.endSessions_aside (s : State) (p : Nat → Session → Bool) (code : Nat) : Aside s (s.endSessions p code) := ⟨rfl, rfl, rfl, rfl, rfl⟩

theorem State.enterDraining_aside (s : State) : Aside s (s.enter .draining) := Aside.of (by simp [State.enter])
theorem State.drain_aside (s : State) : Aside s (s.transition .draining) := by
  unfold State.transition
  extract_lets +onlyGivenNames p
  have h : ∀ q, Aside s { s.enter .draining with pkg := q } := fun q => (State.enterDraining_aside s).trans ⟨rfl, rfl, rfl, rfl, rfl⟩
  split
  · exact Aside.ite (Aside.ite (h _) (Aside.refl s)) (Aside.ite (h _) (Aside.refl s))
  · extract_lets o
    exact Aside.ite (h _) (Aside.refl s)

theorem State.shardLost_aside (s : State) (n : Node) (l : List Node) (c : Bool) : Aside s (s.shardLost n l c) := by
  unfold State.shardLost
  extract_lets a b d
  have hd : Aside s d := (((Aside.foldl (fun t m => State.send_aside t m _) _ (Aside.refl s)).trans (State.raise_aside ..)).trans
    (State.icxEvent_aside ..)).trans (State.endSessions_aside ..)
  exact Aside.ite (hd.trans (State.drain_aside d)) hd

theorem State.storeWord_aside (s : State) (w : Nat) (d : List Byte) (tag : BitVec 16) : Aside s (s.storeWord w d tag) := ⟨rfl, rfl, rfl, rfl, rfl⟩
theorem State.storePoison_aside (s : State) (w : Nat) (d : List Byte) (tag : BitVec 16) : Aside s (s.storePoison w d tag) := ⟨rfl, rfl, rfl, rfl, rfl⟩
theorem State.dropEntry_aside (s : State) (w : Nat) : Aside s (s.dropEntry w) := ⟨rfl, rfl, rfl, rfl, rfl⟩
theorem State.hbmRecord_aside (s : State) (w typ source syn : Nat) : Aside s (s.hbmRecord w typ source syn) := by
  unfold State.hbmRecord
  extract_lets x seq r
  clear_value r
  with_reducible refine Aside.trans ?_ (State.icxEvent_aside _ _)
  exact ⟨rfl, rfl, rfl, rfl, rfl⟩
theorem State.correctWord_aside (s : State) (w source : Nat) (r : Reading) (again : RawRead) : Aside s (s.correctWord w source r again) := by
  unfold State.correctWord
  exact ((State.bump_aside _ _ _ _).trans (State.storeWord_aside ..)).trans (State.hbmRecord_aside ..)
theorem State.poisonWord_aside (s : State) (w : Nat) (d : List Byte) (source : Nat) : Aside s (s.poisonWord w d source) := by
  unfold State.poisonWord
  with_reducible refine Aside.trans ?_ (State.hbmRecord_aside _ w 6 source 0)
  with_reducible refine Aside.trans ?_ (State.bump_aside _ O.poisoned 32 1)
  with_reducible exact State.storePoison_aside ..
theorem State.memFault_aside (s : State) (w kind cls : Nat) : Aside s (s.memFault w kind cls) := by
  unfold State.memFault
  exact State.raise_aside ..
theorem State.unrecovered_aside (s : State) (w : Nat) : Aside s (s.unrecovered w) := by
  unfold State.unrecovered
  have h := State.memFault_aside s w 0x42 2
  dsimp only
  generalize s.memFault w 0x42 2 = t at h ⊢
  split
  · exact Aside.ite (h.trans (State.shardLost_aside ..)) (h.trans (State.shardLost_aside ..))
  · exact h.trans (State.shardLost_aside ..)
  · exact h.trans (State.shardLost_aside ..)

theorem State.tally_aside (s : State) (a b c : Nat) : Aside s (s.tally a b c) := ⟨rfl, rfl, rfl, rfl, rfl⟩

theorem State.badWord_aside (s : State) (w source : Nat) (who : Option Requester) (r r2 : Reading) : Aside s (s.badWord w source who r r2).2 := by
  unfold State.badWord
  extract_lets +onlyGivenNames addrType
  split
  · exact (State.bump_aside _ _ _ _).trans (State.memFault_aside ..)
  · extract_lets +onlyGivenNames a ch second b
    have ha : Aside s a := State.bump_aside ..
    have hb : Aside s b := ha.trans (Aside.ite (State.bump_aside a _ _ _) (Aside.refl a))
    clear_value b second
    split
    · exact hb.trans (State.memFault_aside ..)
    · extract_lets +onlyGivenNames m d
      have hd : Aside s d := hb.trans (Aside.ite ⟨rfl, rfl, rfl, rfl, rfl⟩ (Aside.refl b))
      clear_value d
      split
      · split
        · with_reducible exact (hd.trans (State.poisonWord_aside d w r.data source)).trans (State.unrecovered_aside _ w)
        · extract_lets g asked x m e
          have he : Aside s e := Aside.ite hd (hd.trans ⟨rfl, rfl, rfl, rfl, rfl⟩)
          clear_value e
          exact Aside.ite he (he.trans (State.send_aside ..))
      · with_reducible exact (hd.trans (State.poisonWord_aside d w r.data source)).trans (State.memFault_aside _ w 0x41 1)

theorem State.readPath_aside (s : State) (w source : Nat) (who : Option Requester) (a b : RawRead) : Aside s (s.readPath w source who a b).2 := by
  unfold State.readPath
  have h := State.tally_aside s 32 0 0
  extract_lets +onlyGivenNames u r
  have h : Aside s u := h
  clear_value u
  split
  · exact h
  · exact h.trans (State.correctWord_aside ..)
  · extract_lets +onlyGivenNames v r2
    have k : Aside s v := h.trans (State.hbmRecord_aside ..)
    clear_value v
    split
    · exact (k.trans (State.bump_aside _ _ _ _)).trans (State.memFault_aside ..)
    · exact ((k.trans (State.bump_aside _ _ _ _)).trans (State.memFault_aside ..)).trans (State.correctWord_aside ..)
    · exact (k.trans (State.hbmRecord_aside ..)).trans (State.badWord_aside ..)

theorem State.storeMerged_aside (s : State) (e : MergeEntry) : Aside s (s.storeMerged e) :=
  (State.dropEntry_aside ..).trans (State.storePoison_aside ..)

theorem State.flushEntry_aside (s : State) (e : MergeEntry) (a b : RawRead) : Aside s (s.flushEntry e a b) := by
  unfold State.flushEntry
  have h := State.readPath_aside s e.word 1 none a b
  split <;> rename_i x <;> rw [x] at h
  · exact (h.trans (State.dropEntry_aside ..)).trans (State.storeWord_aside ..)
  · exact h
  · exact h.trans (State.storeMerged_aside ..)
  · exact ((h.trans (State.storeMerged_aside ..)).trans (State.bump_aside _ _ _ _)).trans (State.hbmRecord_aside ..)

theorem State.openEntry_aside (s : State) (e : MergeEntry) : Aside s (s.openEntry e) := by
  unfold State.openEntry
  extract_lets st add t
  have ha : ∀ t, Aside t (add t) := fun t => ⟨rfl, rfl, rfl, rfl, rfl⟩
  have ht : Aside s t := Aside.foldl (fun u x => Aside.ite (Aside.refl u) (State.flushEntry_aside ..)) _ (Aside.refl s)
  exact Aside.ite (ha s) (Aside.ite (ht.trans (ha t)) (ht.trans (State.flushEntry_aside ..)))

theorem State.writeWord_aside (s : State) (w off : Nat) (d : List Byte) (tag : BitVec 16) : Aside s (s.writeWord w off d tag) := by
  unfold State.writeWord
  extract_lets old e st
  exact Aside.ite ((State.dropEntry_aside ..).trans (State.storeWord_aside ..)) (Aside.ite ((State.dropEntry_aside ..).trans (State.storeWord_aside ..))
    (Aside.ite ⟨rfl, rfl, rfl, rfl, rfl⟩ (State.openEntry_aside ..)))

theorem State.hbmPut_aside (s : State) (a : Nat) (d : List Byte) (tag : BitVec 16) : Aside s (s.hbmPut a d tag) := by
  unfold State.hbmPut
  exact Aside.foldl (fun t (x : Nat × Nat × List Byte) => State.writeWord_aside t x.1 x.2.1 x.2.2 tag) _ (State.tally_aside ..)

/-- A write of memory touches none of these units, whatever it flushes. -/
theorem State.pokeAs_aside (s : State) (odd : Bool) (x a : Nat) (d : List Byte) : Aside s (s.pokeAs odd x a d) :=
  Aside.ite ⟨rfl, rfl, rfl, rfl, rfl⟩ (State.hbmPut_aside ..)
theorem State.poke_aside (s : State) (a : Nat) (d : List Byte) : Aside s (s.poke a d) := State.pokeAs_aside ..

theorem State.setStream_aside (s : State) (c : Bool) (st : Stream) : Aside s (s.setStream c st) := Aside.ite ⟨rfl, rfl, rfl, rfl, rfl⟩ ⟨rfl, rfl, rfl, rfl, rfl⟩
@[simp] theorem State.setStream_mem (s : State) (c : Bool) (st : Stream) : (s.setStream c st).mem = s.mem := by simp [State.setStream, apply_ite State.mem]

theorem State.metPoison_aside (s : State) (r : Run) (odd : Bool) (ws : List Nat) : Aside s (s.metPoison r odd ws) := by
  unfold State.metPoison
  split
  · exact Aside.refl s
  · exact ((State.raise_aside ..).trans (State.setStream_aside ..)).trans (State.endSessions_aside ..)
@[simp] theorem State.metPoison_mem (s : State) (r : Run) (odd : Bool) (ws : List Nat) : (s.metPoison r odd ws).mem = s.mem := by
  unfold State.metPoison
  split
  · rfl
  · simp [State.endSessions]

/-- Where no stored word differs from its check bytes, none reads as uncorrectable. -/
theorem State.badIn_sound (s : State) (h : sound s) (l : List (Nat × Nat)) : s.badIn l = [] := by
  have hr : ∀ w, (s.readWord w).2 = false := fun w => by
    have hd : s.decodeWord w = some (s.mem.word w) := by
      unfold State.decodeWord; rw [show s.mem.chk = [] from h]; rfl
    unfold State.readWord
    simp only [hd]
  unfold State.badIn
  have hf : ∀ k : List Nat, k.filter (fun _ => false) = [] := fun k => by induction k <;> simp_all
  simp only [hr, hf, ite_self]
  induction l <;> simp_all
/-- Then a read takes no path of R296. -/
theorem State.badPaths_none {s : State} {l : List (Nat × Nat)} (h : s.badIn l = []) : s.badPaths l = s := by
  unfold State.badPaths
  rw [h]; rfl

/-- The credit unit is the same but for its cores and the ROWS of blocks. -/
theorem State.noteRows_bare (s : State) (c o : Bool) (d : Descriptor) (i n : Nat) :
    (s.noteRows c o d i n).cred.bare = s.cred.bare ∧ (s.noteRows c o d i n).cred.cores = s.cred.cores ∧ (s.noteRows c o d i n).mem = s.mem ∧
      (s.noteRows c o d i n).clk = s.clk ∧ (s.noteRows c o d i n).fab = s.fab ∧ (s.noteRows c o d i n).sec = s.sec ∧ (s.noteRows c o d i n).eng = s.eng := by
  unfold State.noteRows
  generalize d.outputs i = l
  induction l generalizing s with
  | nil => exact ⟨rfl, rfl, rfl, rfl, rfl, rfl, rfl⟩
  | cons h l ih =>
    rw [List.foldl_cons]
    obtain ⟨k1, k2, k3, k4, k5, k6, k7⟩ := ih (if ((s.templ c o).blocks[h]?).any (·.producerRows) then
      s.setParity c o { s.parity c o with rows := SMap.put (s.parity c o).rows h n } else s)
    rw [k1, k2, k3, k4, k5, k6, k7]
    split
    · cases c <;> cases o <;> exact ⟨rfl, rfl, rfl, rfl, rfl, rfl, rfl⟩
    · exact ⟨rfl, rfl, rfl, rfl, rfl, rfl, rfl⟩

/-- What the end of an instance that read no uncorrectable word does: its bytes are in memory, its core has them acknowledged, and nothing
aside has changed. -/
theorem State.finish_ran (s : State) (r : Run) (odd : Bool) (e : Effect) (hr : s.badIn e.reads = []) :
    Ran s (s.finish r odd e) r (e.writes.foldl (fun t w => t.pokeAs odd (e.expAt w.1) w.1 w.2) s).mem := by
  unfold State.finish
  extract_lets +onlyGivenNames ws wait ps stale s0
  have hs : s = s0 := (State.badPaths_none hr).symm
  have hw : wait = false := by simp only [wait, ws, hr]; rfl
  clear_value s0 wait ps stale ws
  rw [← hs]
  clear hs s0
  rw [hw, if_neg (by decide)]
  extract_lets src at_ a b c d g f v
  have ha : Aside s a := Aside.foldl (fun t (w : Nat × List Byte) => State.pokeAs_aside t odd (e.expAt w.1) w.1 w.2) _ (Aside.refl s)
  have hb : Aside s b ∧ b.mem = a.mem := by
    unfold b
    split
    · exact ⟨ha.trans (State.raise_aside ..), by simp⟩
    · exact ⟨ha, rfl⟩
  have hc : Aside s c ∧ c.mem = a.mem := ⟨hb.1.trans (Aside.ite (State.raise_aside ..) (Aside.refl b)), by simp [c, apply_ite State.mem, hb.2]⟩
  have hd : Aside s d ∧ d.mem = a.mem := ⟨hc.1.trans (Aside.ite (State.raise_aside ..) (Aside.refl c)), by simp [d, apply_ite State.mem, hc.2]⟩
  have hg : Aside s g ∧ g.mem = a.mem := ⟨hd.1.trans (Aside.ite (State.raise_aside ..) (Aside.refl d)), by simp [g, apply_ite State.mem, hd.2]⟩
  have hf : Aside s f := hg.1.trans (State.metPoison_aside ..)
  have hm : f.mem = a.mem := by rw [← hg.2]; exact State.metPoison_mem ..
  clear_value f
  have hv : v.cred.bare = s.cred.bare ∧ v.cred.cores = s.cred.cores ∧ v.mem = a.mem ∧ v.clk = s.clk ∧ v.fab = s.fab ∧ v.sec = s.sec ∧ v.eng = s.eng := by
    unfold v
    split
    · rename_i d i _
      obtain ⟨k1, k2, k3, k4, k5, k6, k7⟩ := State.noteRows_bare f r.covered odd d i (e.rows.getD (f.extent r.covered odd d i))
      exact ⟨by rw [k1, hf.cred], by rw [k2, hf.cred], k3.trans hm, k4.trans hf.clk, k5.trans hf.fab, k6.trans hf.sec, k7.trans hf.eng⟩
    · exact ⟨by rw [hf.cred], by rw [hf.cred], hm, hf.clk, hf.fab, hf.sec, hf.eng⟩
  clear_value v
  obtain ⟨v1, v2, v3, v4, v5, v6, v7⟩ := hv
  have hg : ∀ k, v.coreAt k = s.coreAt k := fun k => by simp only [State.coreAt, v2]
  refine ⟨v3, ?_, fun k hk => ?_, ?_⟩
  · rw [← hg]; exact SMap.get_set_same ..
  · rw [← hg]; exact SMap.get_set_other _ _ _ _ _ hk
  · exact ⟨v1, v4, v5, v6, v7⟩

/-- Work before the end that touches none of these units. -/
theorem Ran.after {s u t : State} {r : Run} {m : MemUnit} (h : Aside s u) (k : Ran u t r m) : Ran s t r m := by
  have hg : ∀ j, u.coreAt j = s.coreAt j := fun j => by simp only [State.coreAt, h.cred]
  obtain ⟨k1, k2, k3, k4, k5, k6, k7, k8⟩ := k
  exact ⟨k1, by rw [k2, hg], fun j hj => by rw [k3 j hj, hg], by rw [k4, h.cred], k5.trans h.clk, k6.trans h.fab, k7.trans h.sec, k8.trans h.eng⟩
/-- Work after it that touches none of them, and no memory. -/
theorem Ran.before {s u t : State} {r : Run} {m : MemUnit} (k : Ran s u r m) (h : Aside u t) (hm : t.mem = u.mem) : Ran s t r m := by
  have hg : ∀ j, t.coreAt j = u.coreAt j := fun j => by simp only [State.coreAt, h.cred]
  obtain ⟨k1, k2, k3, k4, k5, k6, k7, k8⟩ := k
  exact ⟨hm.trans k1, by rw [hg, k2], fun j hj => by rw [hg, k3 j hj], by rw [h.cred, k4], h.clk.trans k5, h.fab.trans k6, h.sec.trans k7, h.eng.trans k8⟩

/-- The same, with the memory named. -/
theorem State.finish_ran' {s : State} {r : Run} {m : MemUnit} {odd : Bool} {e : Effect} (hr : s.badIn e.reads = []) (h : m = (e.writes.foldl (fun t w => t.pokeAs odd (e.expAt w.1) w.1 w.2) s).mem) :
    Ran s (s.finish r odd e) r m := by rw [h]; exact State.finish_ran _ _ _ _ hr
@[simp] theorem outRow_at (b : BlockEntry) (t : Nat) (l : List Fx) : (outRow b t l).1.1 = b.row t := by
  unfold outRow outSums
  split
  · rfl
  · split <;> rfl
theorem State.sendMember_aside (s : State) (c : Bool) (n : Node) (k : W64) (b : Body) : Aside s (s.sendMember c n k b) := by
  unfold State.sendMember
  extract_lets t
  exact Aside.ite ⟨rfl, rfl, rfl, rfl, rfl⟩ ⟨rfl, rfl, rfl, rfl, rfl⟩
@[simp] theorem State.sendMember_mem (s : State) (c : Bool) (n : Node) (k : W64) (b : Body) : (s.sendMember c n k b).mem = s.mem := by
  unfold State.sendMember
  extract_lets t
  split <;> rfl
@[simp] theorem State.noteLate_mem (s : State) (c : Bool) (l : List (Nat × Nat)) : (s.noteLate c l).mem = s.mem := by
  simp [State.noteLate, State.bump]
theorem State.noteLate_aside (s : State) (c : Bool) (l : List (Nat × Nat)) : Aside s (s.noteLate c l) := by
  unfold State.noteLate
  exact (State.setStream_aside ..).trans (State.bump_aside _ _ _ _)
@[simp] theorem State.kvPoison_mem (s : State) (r : Run) (o : Bool) (l : List Nat) : (s.kvPoison r o l).mem = s.mem := by
  unfold State.kvPoison
  split
  · rfl
  · simp [State.endSessions]
theorem State.kvPoison_aside (s : State) (r : Run) (o : Bool) (l : List Nat) : Aside s (s.kvPoison r o l) := by
  unfold State.kvPoison
  exact Aside.ite (Aside.refl s) (((State.raise_aside ..).trans (State.setStream_aside ..)).trans (State.endSessions_aside ..))
/-- A kind that runs as its effect says. -/
theorem State.runKind_ran {s : State} {r : Run} {kind : Nat} {a : Ashlar} (f : Ashlar → Effect) (h : s.ashlar r kind = some a)
    (hr : s.badIn (f a).reads = []) :
    Ran s (s.runKind r kind f) r ((f a).writes.foldl (fun t w => t.pokeAs a.odd ((f a).expAt w.1) w.1 w.2) s).mem := by
  unfold State.runKind
  rw [h]
  exact State.finish_ran _ _ _ _ hr
/-- A core that runs no instance of a kind does nothing. -/
theorem State.runKind_none {s : State} {r : Run} {kind : Nat} (f : Ashlar → Effect) (h : s.ashlar r kind = none) : s.runKind r kind f = s := by
  unfold State.runKind
  rw [h]

end Sys2Proof.Machine
end

