-- ==== Sys2Proof/WellFormed.lean ====
section
/-! DEFINITION. The form of each command's operands: the lengths and ranges that the manual gives them. `exec` answers for every
command all the same: a dictionary write whose bytes have another length than its object, say, meets the check of Table 16.4. -/

namespace Sys2Proof

/-- Stored symbols of an HBM word (09 R282) or an SRAM word (09 R301), each changed by something. -/
def RawRead.wf (r : RawRead) (symbols : Nat) : Bool := (r.flips ++ r.after).all (fun f => decide (f.1 < symbols) && f.2 != 0)

/-- A request's data is its SIZE at most (12 Table 12.3); its address is local to DEST, of 47 bits (01 R24). -/
def FabReq.wf (r : FabReq) : Bool := decide (r.data.length ≤ 4096) && decide (r.addr.toNat < 2 ^ 47)

/-- A header has 16 transport bytes, and LEN is at most 130 slots of 32 bytes (11 Table 11.7). -/
def Packet.wf (p : Packet) : Bool := p.transport.length == 16 && decide (p.payload.length ≤ 130 * 32)

/-- The PDU of a frame that the MAC accepts: 64 to 1,522 bytes less the Ethernet header, tag and FCS (16 R540). -/
def Frame.wf (f : Frame) : Bool := !f.good || (decide (46 ≤ f.pdu.length) && decide (f.pdu.length ≤ 1504))

/-- An index of 16 bits and a subindex of 8 (16 R524); an access of 4 or 8 bytes, or of 1 or 2, in the 2^40 bytes of registers. -/
def WriteTarget.wf (w : WriteTarget) : Bool :=
  match w with
  | .object _ key _ _ => decide (key < 2 ^ 24)
  | .register _ _ size _ => size == 1 || size == 2 || size == 4 || size == 8

/-- A command is well formed. -/
def Instr.wf (i : Instr) : Bool :=
  match i with
  | .vauxRise | .vauxLoss | .resetNFall | .bootStart | .keystoneStage | .runtimeLoad | .hbmTraining .. | .alignComplete
    | .stateRequestReady .. | .stateRequestServing .. | .stateRequestDraining .. | .stateRequestDrained ..
    | .drainComplete | .timeWordSend | .timeWord .. | .parentTimeout | .clockLock => true
  | .cclkEdge gapNs _ => decide (0 < gapNs)
  | .cclkInvalid | .handoffTick .. | .masterHandoff | .masterTimeout | .holdoverEnter | .holdoverLimit | .hodEnable ..
    | .hodDisable .. | .hodSampling .. | .courseCutoff .. | .closeMarker .. | .markerTimeout .. | .courseStart ..
    | .courseClose .. | .grant .. | .retireRequest .. | .runClaim .. | .steal .. | .stealRetryWait ..
    | .depthPublish .. | .coreLeave .. | .coreWithdrawn .. | .coreRejoin .. | .matmul .. | .accCombine .. | .attend ..
    | .attnMerge .. | .routerTopk .. | .expertScatter .. | .expertGather .. | .normRms .. | .normCentred ..
    | .activate .. | .rotaryScore .. | .softmax .. | .residualAdd .. | .requant .. | .embed .. | .probs .. | .sample ..
    | .scaffoldVerify .. | .kvSet .. | .kvShip .. | .kvRepack .. | .satchelStore .. | .gateMask .. | .lsumCombine ..
    | .copy .. => true
  | .collect _ got => got.all (fun x => decide (x.2.length ≤ 4096))
  | .fence .. | .gatherRows .. | .placementRequest .. => true
  | .expertTransfer _ _ m => decide (m.layer < 256) && decide (m.expert < 1024)
  | .expertReturn _ _ m => decide (m.layer < 256) && decide (m.expert < 1024)
  | .exchangeWindowOpen | .exchangeWindowClose => true
  | .pageRecord _ rec payload => rec.length == 64 && decide (payload.length ≤ 16777216)
  | .closingRecord _ rec => rec.length == 64
  | .shipmentTimeout .. => true
  | .handoverRequest _ rec => rec.length == 64
  | .handoverGrant _ rec => rec.length == 64
  | .handoverDecline _ rec => rec.length == 64
  | .handoverRecord _ rec => rec.length == 64
  | .handoverAccept _ rec => rec.length == 64
  | .handoverRefuse _ rec => rec.length == 64
  | .handoverWaitExpiry .. | .grantHoldExpiry .. | .verdictTimeout .. | .ttlExpiry .. | .quotaWaitExpiry .. => true
  | .splice _ req => req.length == 32
  | .tenantActivate _ t => decide (t.toNat < 64)
  | .tenantDeactivate _ t => decide (t.toNat < 64)
  | .hbmRead _ _ first again => first.wf 36 && again.wf 36
  | .hbmWrite _ _ data _ => decide (0 < data.length) && decide (data.length ≤ 4096)
  | .mergeTimeout _ first again => first.wf 36 && again.wf 36
  | .twinData _ addr _ granule again => addr.toNat % 256 == 0 && granule.length == 256 && again.wf 36
  | .farReadDeadline _ layer page => decide (layer.layer < 256) && decide (page < 4096)
  | .sramRead _ _ raw => raw.wf 18
  | .scrubWindowOpen | .scrubWindowClose => true
  | .scrubRead _ _ first again => first.wf 36 && again.wf 36
  | .regionWrite _ sub _ => decide (sub.toNat ≤ 0x40)
  | .hbmLogClear .. | .sramLogClear .. | .marginStart .. | .marginDone .. | .loadStart .. | .loadPost ..
    | .chunkConvert | .loadAbort .. | .copyFree .. => true
  | .areaWrite _ sub _ => decide (sub.toNat ≤ 4)
  | .switchRequest _ req => req.length == 16
  | .switchNotice _ _ _ digest => digest.length == 32
  | .switchConfirm | .switchCancel .. | .weightSwitch => true
  | .twinFetch _ _ _ _ _ _ off => off % 256 == 0
  | .flitReceive _ lanes => (lanes.flatMap (·.2)).length == 1024
  | .replay .. | .replayTimer .. | .linkDown .. | .echo .. | .creditInit .. | .laneMap .. | .laneFail .. | .rewiden ..
    | .portTrainStart .. | .laneDetect .. | .trainStateLimit .. | .deskewAligned .. | .portEnable .. | .routeRecompute => true
  | .packetRoute pkt => pkt.wf
  | .hello .. | .beacon .. | .gatherQuietExpiry | .assign .. | .assignQuietExpiry | .report .. | .reportTimeout
    | .fabric .. | .join .. | .joinWaitExpiry | .call .. | .plumbRestart .. => true
  | .load r => r.wf
  | .store r => r.wf
  | .fetchAdd r => r.wf
  | .swap r => r.wf
  | .fetchAnd r => r.wf
  | .fetchOr r => r.wf
  | .fetchXor r => r.wf
  | .fetchMaxU r => r.wf
  | .cas r => r.wf
  | .fabricResponse .. | .requestTimeout .. | .combineTimeout .. | .lintelFlush .. => true
  | .lintelBatch _ _ _ reqs => decide (reqs.length ≤ 32) && reqs.all (fun b => b.req.wf)
  | .lintelReturn _ recs => decide (recs.length ≤ 32)
  | .hostWrite .. | .hostRead .. | .hostAtomic .. | .hostIrq .. | .winEnable .. => true
  | .mirror r => decide (r.slot ≤ 262144)
  | .mirrorClose .. | .mirrorAck .. | .beatSend | .beatLoss | .failNotice .. | .aliasSet .. | .aliasAck ..
    | .takeoverQuietEnd | .coveringEnter | .rejoin .. | .shardDown .. | .stallLimit .. | .restoreStart .. | .restore ..
    | .plinthCommand | .telemetryFrame .. | .plinthSilent | .plinthLost | .reinUpdate | .holdEnd | .excessInterval => true
  | .thermalHoldStep readings => readings.length == 52
  | .thermTrip .. | .opStep | .opClockChange | .wearCharge | .rampEvent .. | .rampEventApply | .preRamp | .wakeGrant
    | .wakeComplete .. | .pwrGoodFall | .supplyPullEnd | .rackBeat .. | .rackTimeout | .coolOkFall | .faultIntake
    | .fcuTrapDone .. | .fcuKick .. | .watchdog .. | .fcuInject .. | .errClear .. | .faultLogClear .. | .graveClear ..
    | .icxClaim .. | .icxEoi .. | .icxPendSet .. | .icxPendClr .. | .icxEnSet .. | .icxEnClr .. | .icxSwSet ..
    | .holdoffExpiry .. | .coalesceTimeout .. | .dozeEnter | .dozeWake => true
  | .read f => f.wf
  | .write f => f.wf
  | .discover f => f.wf
  | .discoverAnswer | .bridleStagingTimeout => true
  | .windowStagingTimeout key => decide (key < 2 ^ 24)
  | .objectWrite w => w.wf
  | .dictStore .. | .storeImageDone .. | .dictDefaults .. | .plcaEnable .. | .fwUpdate .. => true
  | .keystonePending _ rec => decide (rec.length ≤ 65536)
  | .attestNonce _ nonce => nonce.length == 32
  | .beat _ body => decide (body.ranges.length ≤ 8)
  | .attestDone | .calWrite .. | .selftestDone .. | .escanStart .. | .escanDone | .fbistStart .. | .fbistDone ..
    | .flitBoundary .. | .coolOkRise | .pcieStateChange .. | .flashWriteDone .. | .handbackQuietEnd
    | .lintelReturnFlush .. => true

end Sys2Proof
end

