-- ==== Sys2Proof/Tests/Slice0.lean ====
section
/-! SUPPORT. Tests: ill-formed commands that WellFormed refuses, the manual's worked examples, and for every obligation with hypotheses
a theorem that shows states and operands meeting the hypotheses of each of its clauses. -/

namespace Sys2Proof.Tests

open Sys2Proof Sys2Proof.Machine

set_option Elab.async false
set_option linter.all false

/-! ## States to look at -/

/-- The package in a state, as reset leaves it otherwise, its dictionary server running. -/
def inState (p : PkgState) : State := { State.reset with pkg.st := p, dict.server := .running }

/-- A write of the control cores. -/
def ctl : Path := .control 0

/-- The ashlar 0 that core 0 runs. -/
def run0 : Run := ⟨0, 0, false, 0⟩

/-- A descriptor of one instance of a kind, its operands block 0 and block 1. -/
def desc (k : Byte) (h3 p0 p1 p2 p3 : W32) : Descriptor := { kind := k, final := false, skippable := false, count := 1, waits := [], grants := [], h0 := 0, h1 := 1, h2 := 0, h3 := h3, p0 := p0, p1 := p1, p2 := p2, p3 := p3 }

/-- A block of one row in HBM. -/
def blockAt (a : W64) (format : Byte) : BlockEntry := { addr := a, rows := 1, rowBytes := 64, stride := 64, format := format, courseRows := false, producerRows := false, external := false, skipGroup := 0, skipAlias := 0, tile := 0 }

/-- A template of one descriptor. -/
def templateOf (d : Descriptor) : Template := { noTemplate with descs := [d], blocks := [blockAt 0 2, blockAt 64 4], main := { group := 1 } }

/-- Course 0 runs, and core 0 its ashlar 0; the first four bytes of block 1 are 1.0. -/
def running (d : Descriptor) : State := { inState .serving with
  crs.own.running := true, wts.k0.templ := some (templateOf d), cred.cores := [(0, { running := some (entryOf false false 0) })], cred.own0.words := [(0, { st := .running, holder := some 0 })], mem.mem := [(66, 0x80), (67, 0x3F)] }

/-- Session 0 as given. -/
def withSession (s : State) (x : Session) : State := { s with ses.table := [(0, x)] }

/-- A bond of two: this node and node 5. -/
def bonded (s : State) : State := (s.setNum O.bondCount 2).setNum (O.bondMember 1) 5

/-- A request PDU: operation, flags, index and subindex, data. -/
def pduOf (op flags key : Nat) (d : List Byte) : List Byte :=
  [1, BitVec.ofNat 8 op, 0, 0, 0, 0, BitVec.ofNat 8 (key / 65536), BitVec.ofNat 8 (key / 256), BitVec.ofNat 8 key, BitVec.ofNat 8 flags, 0, 0, 0, 0, 0, 0, 0, BitVec.ofNat 8 d.length, 0, 0] ++ d

/-- An expert message of ashlar 0, layer 0, expert slot 0, from bond index 0. -/
def expertMsg (course : W64) (rows : List (List Byte)) : ExpertMsg := { course := course, inst := 0, layer := 0, expert := 0, source := 0, counter := 0, rows := rows }

/-- One link port in a state. -/
def withPort (s : State) (p : Nat) (r : PortRt) : State := { s with lnk.ports := [(p, r)] }

/-- A fabric request of eight bytes to a node and address. -/
def fabReq (own : Option (Fin 4)) (dest : Node) (a : W64) : FabReq := { dest := dest, src := 0, own := own, tag := 0, addr := a, tenant := 0, size := 8, opA := 0, opB := 0, data := [] }

/-- Tenant 0 may reach SRAM, and the first 128 KiB of HBM. -/
def reachable (s : State) : State := (s.setNum (O.accessMask 0) 3).setBlob (O.tenantWindow 0 0) (leBytes 8 0 ++ leBytes 8 0x1FFFF)

/-- Session 0 is being shipped to node 5. -/
def shipping (s : State) (x : Ship) : State := withSession s { st := .shipping, ship := { x with target := some 5 } }

set_option maxRecDepth 20000 in
/-- In DRAINED a CAL_WRITE of a set of the right length passes the checks of the dictionary. -/
theorem cal_write_passes (b : List Byte) (h : b.length = 43776) : passes (inState .drained) ctl O.calWrite (.bytes b) := by
  have e1 : (inState .drained).reachError ctl O.calWrite.key true = Err.ok := by decide +kernel
  have e2 : ∃ r, objRow O.calWrite.key = some r ∧ r.acc = .wo ∧ r.isBytes = true ∧ r.size = 43776 :=
    ⟨(objRow O.calWrite.key).get (by decide +kernel), by decide +kernel, by decide +kernel, by decide +kernel, by decide +kernel⟩
  obtain ⟨r, e3, e4, e5, e6⟩ := e2
  have e7 : isTenantWindow O.calWrite.key = false := by decide
  simp [passes, State.writeError, State.valueError, e1, e3, e4, e5, e6, e7, h]

/-- A packet to a node. -/
def packetTo (d : Node) (ptype : Byte) : Packet := { dest := d, src := 0, ptype := ptype, escape := false, crossed := false, hops := 0, transport := [], payload := [] }

/-- A tick count far from reset. -/
def late (s : State) : State := { s with clk.tick := 0x100000000000 }

/-- A management timer far from reset. -/
def aged (s : State) : State := { s with pkg.now := 1000000000000 }

/-- All of HBM is one ACTIVATION region. -/
def allActivation (s : State) : State := s.setNum ⟨O.regionCount.key + 1, 0⟩ (196608 * 2 ^ 18 + 2 * 2 ^ 36)

/-- The host bridge runs. -/
def bridging (s : State) : State := s.setNum O.bridgeEnable 1

/-- Host window 0 is open. -/
def windowed (s : State) : State := ((bridging s).setNum (O.winSize 0) 1).setNum (O.winEnable 0) 1

/-- A native tensor chunk of one element: its head, and four bytes. -/
def chunk : List Byte := [0x10, 2, 0, 0, 1, 0, 0, 0, 1, 0, 0, 0, 0, 0, 0, 0, 1] ++ zeros 51

/-- A load of two chunks, the first of them `chunk` with its digest, stored where LOAD_STAGING begins and posted. -/
def loading : State := { inState .ready with
  mem.mem := [(0, 0x10), (1, 2), (4, 1), (8, 1), (16, 1)], wts.load := .active, wts.posts := [0], wts.manifest := zeros 20 ++ [2] ++ zeros 235 ++
    [253, 249, 55, 87, 177, 223, 169, 139, 154, 32, 186, 172, 96, 48, 101, 105, 178, 162, 67, 1, 131, 253, 42, 131, 248, 105, 129, 131, 207, 183, 110, 142] ++ leBytes 8 68 ++ leBytes 8 4 ++ zeros 2 ++ [1] ++ zeros 77 }

theorem ok_of {α : Type} [DecidableEq α] (e : Except Nat α) (v : α) (h : e.toOption = some v) : e = .ok v := by
  cases e
  · cases h
  · injection h with h; rw [h]

theorem chunk_converts (d : List Byte) (n : Nat) (h : d = chunk) (hn : n = 4) : convertTensor d = .ok ([(0, zeros 4)], n, 0, false) := by
  subst h hn; exact ok_of _ _ (by decide +kernel)

theorem chunk_steps (d : List Byte) (i : Nat) (l : List TensorSeen) (h : d = chunk) (hi : i = 0) (hl : l = []) :
    tensorStep l i 0 d 0 false = some [{ tensor := 0, head := headKey chunk }] := by
  subst h hi hl; rfl

/-- A data flit of sequence 0 with no slots: header, data, FCRC, FEC. -/
def dataFlit : List Byte := [64] ++ zeros 231 ++ [7, 35, 3, 161] ++ [39, 217, 184, 255, 88, 140, 98, 11, 71, 13, 119, 188, 19, 177, 227, 187, 168, 182, 137, 46]

theorem get_pair {α β : Type} (o : Option (α × β)) (h : o.isSome = true) : o = some ((o.get h).1, (o.get h).2) := by
  cases o
  · cases h
  · rfl

set_option maxRecDepth 20000 in
theorem data_flit_decodes : decodeFec dataFlit = some (dataFlit, 0) := by decide +kernel

set_option maxRecDepth 20000 in
theorem data_flit_crc : fieldLe dataFlit 232 4 = BitVec.toNat (crc32c (List.take 232 dataFlit)) := by decide +kernel

set_option maxRecDepth 20000 in
theorem lanes_flit : fromLanes 255 (toLanes 255 dataFlit) = dataFlit := by decide +kernel

theorem data_lanes_decode (g : Byte) (h : g = 255) : decodeFec (fromLanes g (toLanes 255 dataFlit)) = some (dataFlit, 0) := by
  rw [h, lanes_flit]; exact data_flit_decodes

/-! ## Well-formedness: an ill-formed command for each check, refused; its well-formed fellow, accepted -/

/-- A fabric request, and a packet, of the least form. -/
def req0 : FabReq := { dest := 0, src := 0, own := none, tag := 0, addr := 0, tenant := 0, size := 8, opA := 0, opB := 0, data := [] }
/-- A packet with sixteen transport bytes. -/
def pkt0 : Packet := { dest := 0, src := 0, ptype := 1, escape := false, crossed := false, hops := 0, transport := zeros 16, payload := [] }
/-- An expert transfer of layer 255 and expert 1,023. -/
def expert0 : ExpertMsg := { course := 0, inst := 0, layer := 255, expert := 1023, source := 0, counter := 0, rows := [] }

theorem test_ill_formed_clock_and_cores :
    [Instr.cclkEdge 0 0, .collect run0 [(0, zeros 4097)], .expertTransfer false 0 { expert0 with layer := 256 },
      .expertTransfer false 0 { expert0 with expert := 1024 }, .expertReturn false 0 { expert0 with layer := 256 },
      .expertReturn false 0 { expert0 with expert := 1024 }].all (fun i => !i.wf) = true ∧
    [Instr.cclkEdge 1 0, .collect run0 [(0, zeros 64)], .expertTransfer false 0 expert0, .expertReturn false 0 expert0].all Instr.wf = true := by
  decide +kernel

theorem test_ill_formed_records :
    [Instr.pageRecord 0 (zeros 63) [], .closingRecord 0 (zeros 65), .handoverRequest 0 [], .handoverGrant 0 [], .handoverDecline 0 [],
      .handoverRecord 0 [], .handoverAccept 0 [], .handoverRefuse 0 [], .splice ctl (zeros 31), .tenantActivate ctl 64,
      .tenantDeactivate ctl 64].all (fun i => !i.wf) = true ∧
    [Instr.pageRecord 0 (zeros 64) [], .closingRecord 0 (zeros 64), .handoverRequest 0 (zeros 64), .handoverGrant 0 (zeros 64),
      .handoverDecline 0 (zeros 64), .handoverRecord 0 (zeros 64), .handoverAccept 0 (zeros 64), .handoverRefuse 0 (zeros 64),
      .splice ctl (zeros 32), .tenantActivate ctl 63, .tenantDeactivate ctl 63].all Instr.wf = true := by
  decide +kernel

theorem test_ill_formed_memory :
    [Instr.hbmRead .engine 0 { flips := [(36, 1)] } {}, .hbmRead .engine 0 {} { flips := [(0, 0)] }, .hbmWrite .engine 0 [] 0,
      .mergeTimeout 0 { flips := [(36, 1)] } {}, .mergeTimeout 0 {} { flips := [(36, 1)] }, .twinData 0 1 true (zeros 256) {},
      .twinData 0 0 true (zeros 255) {}, .twinData 0 0 true (zeros 256) { flips := [(36, 1)] }, .farReadDeadline 0 ⟨false, 256⟩ 0, .farReadDeadline 0 ⟨true, 0⟩ 4096,
      .sramRead .engine 0 { flips := [(18, 1)] }, .scrubRead 0 0 { flips := [(36, 1)] } {}, .scrubRead 0 0 {} { flips := [(36, 1)] },
      .regionWrite ctl 65 0, .areaWrite ctl 5 0].all (fun i => !i.wf) = true ∧
    [Instr.hbmRead .engine 0 { flips := [(35, 1)] } {}, .hbmWrite .engine 0 [0] 0, .mergeTimeout 0 {} {}, .twinData 0 256 true (zeros 256) {},
      .farReadDeadline 0 ⟨true, 255⟩ 4095, .sramRead .engine 0 { flips := [(17, 1)] }, .scrubRead 0 0 {} {}, .regionWrite ctl 64 0,
      .areaWrite ctl 4 0].all Instr.wf = true := by
  decide +kernel

theorem test_ill_formed_links :
    [Instr.switchRequest ctl [], .switchNotice 0 0 0 [], .twinFetch 0 0 0 false 0 0 1, .flitReceive 0 [], .packetRoute { pkt0 with transport := [] },
      .packetRoute { pkt0 with payload := zeros 4161 }, .load { req0 with data := zeros 4097 }, .store { req0 with addr := 0x800000000000 },
      .fetchAdd { req0 with addr := 0x800000000000 }, .swap { req0 with addr := 0x800000000000 }, .fetchAnd { req0 with addr := 0x800000000000 },
      .fetchOr { req0 with addr := 0x800000000000 }, .fetchXor { req0 with addr := 0x800000000000 }, .fetchMaxU { req0 with addr := 0x800000000000 },
      .cas { req0 with addr := 0x800000000000 }, .lintelBatch false 0 0 (List.replicate 33 ⟨1, req0⟩),
      .lintelBatch false 0 0 [⟨1, { req0 with addr := 0x800000000000 }⟩],
      .lintelReturn false (List.replicate 33 ⟨0, 0, 0, 0, 0, 0, 0, 0, []⟩)].all (fun i => !i.wf) = true ∧
    [Instr.switchRequest ctl (zeros 16), .switchNotice 0 0 0 (zeros 32), .twinFetch 0 0 0 false 0 0 256, .flitReceive 0 (toLanes 0xFF (zeros 256)), .packetRoute pkt0,
      .load req0, .store req0, .fetchAdd req0, .swap req0, .fetchAnd req0, .fetchOr req0, .fetchXor req0, .fetchMaxU req0, .cas req0,
      .lintelBatch false 0 0 [⟨1, req0⟩], .lintelReturn false []].all Instr.wf = true := by
  decide +kernel

theorem test_ill_formed_system :
    [Instr.mirror ⟨0, 262145, []⟩, .thermalHoldStep [], .read ⟨true, false, 0, zeros 45⟩, .write ⟨true, false, 0, zeros 1505⟩, .discover ⟨true, false, 0, []⟩,
      .windowStagingTimeout 0x1000000, .objectWrite (.object ctl 0x1000000 0 (.num 0)), .objectWrite (.register .engine 0 3 0),
      .attestNonce ctl []].all (fun i => !i.wf) = true ∧
    [Instr.mirror ⟨0, 262144, []⟩, .thermalHoldStep (List.replicate 52 0), .read ⟨true, false, 0, zeros 46⟩, .write ⟨true, false, 0, zeros 1504⟩,
      .discover ⟨false, false, 0, []⟩, .windowStagingTimeout 0xFFFFFF, .objectWrite (.object ctl 0xFFFFFF 0 (.num 0)), .objectWrite (.register .engine 0 8 0),
      .keystonePending ctl [], .attestNonce ctl (zeros 32)].all Instr.wf = true := by
  decide +kernel

theorem test_ill_formed_keystone (b : List Byte) (h : 65536 < b.length) : (Instr.keystonePending ctl b).wf = false := by
  simp [Instr.wf, h]

/-! ## Worked examples of the manual: every expected value is the manual's -/

/-- 01: the core store of Q2.C47 and the quarter store of Q3. -/
theorem test_store_bases : coreStore 2 47 = 0x400025E00000 ∧ quarterStore 3 = 0x40003C000000 := by decide

/-- 09 "decoding one address": 0x0012_3456_7A40. -/
theorem test_locate : locate 0x001234567A40 = { stack := 8, pch := 18, bank := 11, row := 2330, col := 2 } := by decide

/-- 03 "two W2 blocks": the terms of both blocks. -/
theorem test_block_terms :
    blockTerm .w2 0x6B [0x27, 0xDA] [52, -17, 100, 9, -64, 33, 7, -2] = some 18202624 ∧
    blockTerm .w2 0x62 [0x9C] [-90, 45, 120, -11] = some 11223040 := by decide +kernel

/-- 03: c = 0x3A19_999A, and y = 0x3D86_B334. -/
theorem test_finish_acc :
    (fmul (fx 0x3C4CCCCD) (fx 0x3D400000)).v = 0x3A19999A ∧ (finishAcc 29425664 0x3C4CCCCD 0x3D400000).v = 0x3D86B334 := by decide +kernel

/-- 03 "a ternary byte": 0x8E holds 0, +1, −1, +1, 0. -/
theorem test_trits : (List.range 5).map (WFmt.weight .wt [0x8E]) = [some 0, some 1, some (-1), some 1, some 0] := by decide +kernel

/-- 03 "a requantised row": −3.5, 1.25, 0.6875, −2.0. -/
theorem test_requant :
    (requantCodes 127 [fx 0xC0600000, fx 0x3FA00000, fx 0x3F300000, fx 0xC0000000]).1 = [-127, 45, 25, -73] ∧
    (requantCodes 127 [fx 0xC0600000, fx 0x3FA00000, fx 0x3F300000, fx 0xC0000000]).2.v = 0x3CE1C387 := by decide +kernel

/-- 05 "sealing a key block", in units of 2^−24: K8V8, then the repack to K4V4. -/
theorem test_seal :
    (kvQuant 127 1 [-31981568, 28835840]).1 = [-127, 114] ∧ (kvQuant 127 1 [-31981568, 28835840]).2.1 = 0x23B0 ∧
    (kvQuant 7 1 [-31991808, 28717056]).1 = [-7, 6] ∧ (kvQuant 7 1 [-31991808, 28717056]).2.1 = 0x345C := by decide +kernel

/-- 05 "rotary rates": ω_0 = 0x3EA2_F983. -/
theorem test_rate : (divW 0x3F800000 0x40490FDB).v = 0x3EA2F983 := by decide +kernel

/-- 10 "one W2 block": the tensor scale, the scale code, the data bytes, and where they lie. -/
theorem test_tannery_block :
    tensorScale 0x3F400000 3 = 0x36800000 ∧
    ((columnWrites .w2 ⟨2, 4, 4096, 64, 300, 1, 0x3F400000, 0⟩ 0x36800000 300
        ([0x3DA00000, 0xBD000000, 0x3D800000, 0x3C800000, 0xBD600000, 0] ++ List.replicate 58 0)).take 2).map (·.2) =
      [[0xB7, 0xA9] ++ List.replicate 14 0xAA, [0xDE]] ∧
    WFmt.w2.dataAt 14336 300 77 = 1143040 ∧ WFmt.w2.scaleAt 14336 300 77 = 1144556 := by decide +kernel

/-- 08 "apportioning one window": engine time and energy. -/
theorem test_apportion :
    apportion 7372800000 [196608, 196608, 196608] = [2457600000, 2457600000, 2457600000] ∧
    apportion 13107200 [196608, 196608, 196608] = [4369067, 4369067, 4369066] := by decide +kernel

/-- 11 "a load across the racks": the three hops, and the detour of the second. -/
theorem test_hops :
    let at_ (n : Node) (l : List (Port × Nat)) : State := { inState .serving with lnk.plumb.ident := some n, lnk.k := 6, lnk.twist := true, lnk.routes := l }
    let p : Packet := { pkt0 with dest := 0x10036, src := 5 }
    (at_ 0x5 [(16, 8), (17, 8)]).nextHop p = .send 17 false ∧
    (at_ 0x1003A [(2, 8), (8, 8), (14, 8), (3, 8)]).nextHop p = .send 14 false ∧
    (at_ 0x1003E [(3, 2), (9, 8), (15, 8)]).nextHop p = .send 15 false ∧
    (at_ 0x1003A [(3, 8), (9, 8), (15, 8)]).nextHop p = .send 15 true := by decide +kernel

/-- 12 "three additions to one counter": the fabric address; requests 1 and 2 form one group with A = 6, request 4 joins no group. -/
def adds : State :=
  let s : State := { inState .serving with lnk.plumb.ident := some 0x21, lnk.k := 6, lnk.routes := [(3, 8)] }
  let add (src : Node) (tag : W32) (a : W64) : Packet := requestPacket ⟨0x10, { req0 with dest := 0x29, src := src, tag := tag, addr := 0x40001C000040, opA := a }⟩
  let st : Packet := requestPacket ⟨2, { req0 with dest := 0x29, src := 0x27, tag := 3, addr := 0x40001C000048, data := zeros 8 }⟩
  packetRoute (packetRoute (packetRoute (packetRoute s (add 0x20 1 5)) (add 0x23 2 1)) st) (add 0x21 4 16)

theorem test_group :
    fabAddr 41 0x40001C000040 = 0x0014C0001C000040 ∧ ((adds.port 3).vc 0).queue.map (fun q => (readRequest q.pkt).req.opA) = [6, 0, 16] ∧
    adds.lnk.combine.map (·.parts) = [[(0x20, 1, 5), (0x23, 2, 1)]] := by decide +kernel

/-- 12: the answer OLD = 100 of the group gives n:00020 100, and n:00023 105. -/
theorem test_fan_out :
    (adds.lnk.combine.map (fun c => (adds.fanOut c { src := 0x29, tag := c.tag, op := 0x10, status := 0, size := 8, old := 100, data := [] }).out)) =
      [[.send 0x20 (.response ⟨0x21, 1, 0x10, 0, 8, 100, []⟩), .send 0x23 (.response ⟨0x21, 2, 0x10, 0, 8, 105, []⟩)]] := by decide +kernel

/-- 15 "an uncorrectable word in a core's staging": the message's bits. -/
theorem test_fault_bits :
    ({ tick := 12345678, source := 0x81, part := 0, kind := 0x47, cls := 2, addr := 0x400014212340, seq := 5 } : FaultMsg).bits 3 =
      0x000000BC614E0081474E0000A1091A05 := by decide

/-- 16 Table 16.12: the WRITE frame of GOAL.01, from a listed manager. -/
def goalFrame (seq : Byte) (v : List Byte) : Frame :=
  ⟨true, false, 0x0A4C58FF0001, [1, 2, 1, seq, 0, 0, 0x60, 0x10, 1, 1, 3, 0, 0, 0, 0, 0, 0, 4, 0, 0] ++ v ++ zeros 22⟩

/-- The package with that manager. -/
def managed : State := (inState .ready).setNum (O.bridleManager 0) 0x0A4C58FF0001

/-- 16 "one setting through both paths": GOAL is 20,000, and the answer is the manual's. -/
theorem test_bridle_write :
    (frame managed (goalFrame 0x37 [0, 0, 0x4E, 0x20])).num (O.goal 0) = 20000 ∧
    (frame managed (goalFrame 0x37 [0, 0, 0x4E, 0x20])).out =
      [.frame 0x0A4C58FF0001 ([1, 0x82, 1, 0x37, 0, 0, 0x60, 0x10, 1, 0, 3] ++ zeros 35)] := by decide +kernel

/-- 16: the same frame again is answered from what was kept and counted; 500 with the next SEQ is refused with RANGE. -/
theorem test_bridle_again :
    let s := frame managed (goalFrame 0x37 [0, 0, 0x4E, 0x20])
    (frame s (goalFrame 0x37 [0, 0, 0x4E, 0x20])).num O.replayed = 1 ∧
    (frame s (goalFrame 0x38 [0, 0, 1, 0xF4])).num (O.goal 0) = 20000 ∧
    (frame s (goalFrame 0x38 [0, 0, 1, 0xF4])).out.getLast? =
      some (.frame 0x0A4C58FF0001 ([1, 0x82, 1, 0x38, 0, 9, 0x60, 0x10, 1, 0, 3] ++ zeros 35)) := by decide +kernel

/-- 02 "from close to the next start": the last marker, of tick 5,000,131, makes the next course's nominal start 5,000,160. -/
theorem test_next_start :
    let s : State := ({ (inState .serving).setNum O.bondCount 2 with clk.tick := 5000133 }.setNum (O.bondMember 1) 5).setNum O.courseGrid 8
    let s : State := { s.setNum O.closeLead 24 with crs.own.course := 7, crs.own.next := 8, crs.own.closeT := 5000118, crs.own.members := 3 }
    (closeMarker s 5 7 5000131).crs.own.nextNominal = some 5000160 := by decide +kernel

/-- 14: a package leaves HALT only for BOOT, and GRAVE only for OFF. -/
theorem test_edges : edge .halt .boot = true ∧ edge .halt .ready = false ∧ edge .grave .halt = false ∧ edge .grave .off = true := by decide

/-! ## The step and the queue -/

theorem test_step_takes_front : step { State.reset with pending := [.vauxLoss] } = exec .vauxLoss State.reset := rfl

theorem test_no_word_spells (nbits w : Nat) : decodeTableWord nbits w = none ∧ State.reset.withFetchWord nbits w = State.reset := ⟨rfl, rfl⟩


/-! ## Standards the manual names, and the moments of a tick -/

/-- FIPS 202: SHA3-256 of no bytes. -/
theorem test_sha3 : sha3 [] =
    [0xA7, 0xFF, 0xC6, 0xF8, 0xBF, 0x1E, 0xD7, 0x66, 0x51, 0xC1, 0x47, 0x56, 0xA0, 0x61, 0xD6, 0x62, 0xF5, 0x80, 0xFF, 0x4D, 0xE4, 0x3B,
      0x49, 0xFA, 0x82, 0xD8, 0x0A, 0x4B, 0x80, 0xF8, 0x43, 0x4A] := by decide +kernel

/-- RFC 8878: a frame that libzstd makes, with a match and a content checksum; the same frame with another checksum is refused. -/
theorem test_zstd :
    Zstd.decompress [40, 181, 47, 253, 36, 64, 85, 0, 0, 32, 97, 98, 99, 10, 1, 0, 81, 114, 67, 203, 134, 180, 6] =
      some ((List.replicate 21 [97, 98, 99]).flatten ++ [10]) ∧
    Zstd.decompress [40, 181, 47, 253, 36, 64, 85, 0, 0, 32, 97, 98, 99, 10, 1, 0, 81, 114, 67, 203, 134, 180, 7] = none := by decide +kernel

/-- 00 R16: of two transitions of one tick the one first in the order stands, whichever came first. -/
theorem test_same_tick :
    (((inState .serving).transition .draining).transition .stopped).pkg.st = .stopped ∧
    (((inState .serving).transition .covering).transition .draining).pkg.st = .draining ∧
    ({ inState .ready with pkg.request := some .drained }.transition .covering).pkg.st = .covering := by decide +kernel

/-! ## Witnesses -/

/-- Every hypothesis of AlignAndDrainEnd is met. -/
theorem witness_align_and_drain_end :
    (∃ (s : State), calm s ∧ s.num O.marginState ≠ 1 ∧ s.pkg.st = PkgState.align ∧ s.lnk.plumb.st = PlumbState.settled ∧ s.lnk.plumb.restoreHeld = false ∧ s.clk.mode = ClockState.locked) ∧
    (∃ (s : State), s.pkg.st = PkgState.align ∧ (¬(s.lnk.plumb.st = PlumbState.settled ∧ s.lnk.plumb.restoreHeld = false ∧ s.clk.mode = ClockState.locked))) ∧
    (∃ (s : State), calm s ∧ s.pkg.st = PkgState.draining ∧ s.sessionsOpen = [] ∧ s.crs.own.running = false ∧ s.crs.covered.running = false ∧ s.num O.marginState ≠ 1 ∧ s.num O.escanState ≠ 1 ∧ (∀ (n : Nat) (e : MergeEntry), e ∈ s.mem.entries n → (locate e.word).stack = n ∧ s.pageClass (pageOf e.word) ≠ RClass.weights)) := by
  refine ⟨?_, ?_, ?_⟩
  · refine ⟨{ inState .align with lnk.plumb.st := .settled, clk.mode := .locked }, ?_, ?_, ?_, ?_, ?_, ?_⟩
    · exact ⟨rfl, rfl⟩
    · decide +kernel
    · decide +kernel
    · decide +kernel
    · decide +kernel
    · decide +kernel
  · refine ⟨inState .align, ?_, ?_⟩
    · decide +kernel
    · decide +kernel
  · refine ⟨inState .draining, ?_, ?_, ?_, ?_, ?_, ?_, ?_, ?_⟩
    · exact ⟨rfl, rfl⟩
    · decide +kernel
    · decide +kernel
    · decide +kernel
    · decide +kernel
    · decide +kernel
    · decide +kernel
    · intro n e h; cases h

/-- Every hypothesis of AshlarsRun is met. -/
theorem witness_ashlars_run :
    (∃ (s : State) (r : Run) (c : Instr × Nat) (a : Ashlar), sound s ∧ c ∈ [(Instr.matmul r, 1), (Instr.accCombine r, 2), (Instr.attend r, 3), (Instr.attnMerge r, 4), (Instr.routerTopk r, 5), (Instr.expertScatter r, 6), (Instr.expertGather r, 7), (Instr.normRms r, 8), (Instr.normCentred r, 9), (Instr.activate r, 10), (Instr.rotaryScore r, 11), (Instr.softmax r, 12), (Instr.residualAdd r, 13), (Instr.requant r, 14), (Instr.embed r, 15), (Instr.probs r, 16), (Instr.sample r, 17), (Instr.scaffoldVerify r, 18), (Instr.kvSet r, 19), (Instr.kvShip r, 20), (Instr.kvRepack r, 21), (Instr.satchelStore r, 22), (Instr.gateMask r, 23), (Instr.lsumCombine r, 24), (Instr.copy r, 25), (Instr.fence r, 27), (Instr.gatherRows r, 28)] ∧ s.ashlar r c.snd = some a) ∧
    (∃ (s : State) (r : Run) (c : Instr × Nat), sound s ∧ c ∈ [(Instr.matmul r, 1), (Instr.accCombine r, 2), (Instr.attend r, 3), (Instr.attnMerge r, 4), (Instr.routerTopk r, 5), (Instr.expertScatter r, 6), (Instr.expertGather r, 7), (Instr.normRms r, 8), (Instr.normCentred r, 9), (Instr.activate r, 10), (Instr.rotaryScore r, 11), (Instr.softmax r, 12), (Instr.residualAdd r, 13), (Instr.requant r, 14), (Instr.embed r, 15), (Instr.probs r, 16), (Instr.sample r, 17), (Instr.scaffoldVerify r, 18), (Instr.kvSet r, 19), (Instr.kvShip r, 20), (Instr.kvRepack r, 21), (Instr.satchelStore r, 22), (Instr.gateMask r, 23), (Instr.lsumCombine r, 24), (Instr.copy r, 25), (Instr.fence r, 27), (Instr.gatherRows r, 28)] ∧ s.ashlar r c.snd = none) ∧
    (∃ (s : State) (r : Run), sound s ∧ s.ashlar r 26 = none) ∧
    (∃ (s : State) (r : Run) (got : List (BitVec 6 × List Byte)) (a : Ashlar), sound s ∧ s.ashlar r 26 = some a ∧ (∀ (k : Nat), k < 64 → ∃ g, g ∈ got ∧ g.fst.toNat = k) ∧ (s.bondOf r.covered).length ≤ 64) := by
  refine ⟨?_, ?_, ?_, ?_⟩
  · refine ⟨running (desc 0x1B 0 0 0 0 0), run0, (.fence run0, 0x1B), ⟨desc 0x1B 0 0 0 0 0, 0, false⟩, ?_, ?_, ?_⟩
    · rfl
    · decide +kernel
    · decide +kernel
  · refine ⟨inState .serving, run0, (.fence run0, 0x1B), ?_, ?_, ?_⟩
    · rfl
    · decide +kernel
    · decide +kernel
  · refine ⟨inState .serving, run0, ?_, ?_⟩
    · rfl
    · decide +kernel
  · refine ⟨running (desc 0x1A 0 0 0 0 0), run0, (List.range 64).map (fun k => (BitVec.ofNat 6 k, [])), ⟨desc 0x1A 0 0 0 0 0, 0, false⟩, ?_, ?_, ?_, ?_⟩
    · rfl
    · decide +kernel
    · decide +kernel
    · decide +kernel

/-- Every hypothesis of AttentionKinds is met. -/
theorem witness_attention_kinds :
    (∃ (s : State) (r : Run) (a : Ashlar) (x : BlockEntry) (rb : BlockEntry) (out : BlockEntry), sound s ∧ s.ashlar r 3 = some a ∧ s.inBlock r.covered a a.d.h0 = some x ∧ x.rows = 1 ∧ s.inBlock r.covered a a.d.h3 = some rb ∧ s.outBlock r.covered a a.d.h2 = some out) ∧
    (∃ (s : State) (r : Run) (a : Ashlar) (x : BlockEntry) (rb : BlockEntry) (out : BlockEntry), sound s ∧ s.ashlar r 11 = some a ∧ s.inBlock r.covered a a.d.h0 = some x ∧ x.rows = 1 ∧ s.inBlock r.covered a a.d.h3 = some rb ∧ s.outBlock r.covered a a.d.h2 = some out) ∧
    (∃ (s : State) (r : Run) (a : Ashlar) (x : BlockEntry) (out : BlockEntry), sound s ∧ s.ashlar r 4 = some a ∧ s.inBlock r.covered a a.d.h0 = some x ∧ x.rows = 1 ∧ s.outBlock r.covered a a.d.h2 = some out ∧ BitVec.toNat a.d.p0 = 1 ∧ (s.templ r.covered a.odd).isDraft r.inst.toNat = false ∧ (s.templ r.covered a.odd).main.group = 1 ∧ u32 (s.peek (x.row 0) (16 + 16 * (s.templ r.covered a.odd).main.dim)).fst 8 = 0) ∧
    (∃ (s : State) (r : Run) (a : Ashlar) (x : BlockEntry), sound s ∧ s.ashlar r 19 = some a ∧ s.inBlock r.covered a a.d.h0 = some x ∧ x.rows = 1 ∧ ((s.session (s.tokenRow r.covered x 0).slot).root ((s.templ r.covered a.odd).isDraft r.inst.toNat)).heads = BitVec.toNat a.d.p1 ∧ (s.streamOf r.covered).firstIn x.tile = [] ∧ (s.tokenRow r.covered x 0).kvPos < 262144 ∧ (s.tokenRow r.covered x 0).kvPos < ((s.session (s.tokenRow r.covered x 0).slot).root ((s.templ r.covered a.odd).isDraft r.inst.toNat)).setEnd + ((s.session (s.tokenRow r.covered x 0).slot).root ((s.templ r.covered a.odd).isDraft r.inst.toNat)).scaffold) ∧
    (∃ (s : State) (r : Run) (a : Ashlar) (x : BlockEntry) (out : BlockEntry), sound s ∧ s.ashlar r 17 = some a ∧ s.inBlock r.covered a a.d.h0 = some x ∧ x.rows = 1 ∧ s.outBlock r.covered a a.d.h2 = some out ∧ BitVec.toNat a.d.p0 = 0) ∧
    (∃ (s : State) (r : Run) (a : Ashlar), sound s ∧ s.ashlar r 18 = some a ∧ (s.streamOf r.covered).drafting = []) ∧
    (∃ (s : State) (r : Run) (a : Ashlar) (p : Nat × Bool × Nat × Nat × W64), sound s ∧ s.ashlar r 21 = some a ∧ List.filter (fun p ↦ p.snd.snd.fst == BitVec.toNat a.d.p0) (s.streamOf r.covered).parking = [p] ∧ (((s.session p.fst).root p.snd.fst).page p.snd.snd.fst p.snd.snd.snd.fst).st = 2) ∧
    (∃ (s : State) (r : Run) (a : Ashlar) (x : BlockEntry) (slot : Nat), sound s ∧ s.ashlar r 22 = some a ∧ s.inBlock r.covered a a.d.h0 = some x ∧ (s.satchelling r.covered)[a.i]? = some slot) ∧
    (∃ (s : State) (r : Run) (a : Ashlar) (slot : Nat), sound s ∧ s.ashlar r 20 = some a ∧ s.shippingTo r.covered (BitVec.ofNat 17 (BitVec.toNat a.d.p0)) = [slot] ∧ (s.templ r.covered a.odd).isDraft r.inst.toNat = false ∧ pagesFor (s.session slot).main.length = 1) := by
  refine ⟨?_, ?_, ?_, ?_, ?_, ?_, ?_, ?_, ?_⟩
  · refine ⟨running (desc 0x03 0 0 0 0 0), run0, ⟨desc 0x03 0 0 0 0 0, 0, false⟩, blockAt 0 2, blockAt 0 2, blockAt 0 2, ?_, ?_, ?_, ?_, ?_, ?_⟩
    · rfl
    · decide +kernel
    · decide +kernel
    · decide +kernel
    · decide +kernel
    · decide +kernel
  · refine ⟨running (desc 0x0B 0 0 0 0 0), run0, ⟨desc 0x0B 0 0 0 0 0, 0, false⟩, blockAt 0 2, blockAt 0 2, blockAt 0 2, ?_, ?_, ?_, ?_, ?_, ?_⟩
    · rfl
    · decide +kernel
    · decide +kernel
    · decide +kernel
    · decide +kernel
    · decide +kernel
  · refine ⟨running (desc 0x04 0 1 0 0 0), run0, ⟨desc 0x04 0 1 0 0 0, 0, false⟩, blockAt 0 2, blockAt 0 2, ?_, ?_, ?_, ?_, ?_, ?_, ?_, ?_, ?_⟩
    · rfl
    · decide +kernel
    · decide +kernel
    · decide +kernel
    · decide +kernel
    · decide +kernel
    · decide +kernel
    · decide +kernel
    · decide +kernel
  · refine ⟨withSession (running (desc 0x13 0 0 0 0 0)) { main.setEnd := 1 }, run0, ⟨desc 0x13 0 0 0 0 0, 0, false⟩, blockAt 0 2, ?_, ?_, ?_, ?_, ?_, ?_, ?_, ?_⟩
    · rfl
    · decide +kernel
    · decide +kernel
    · decide +kernel
    · decide +kernel
    · decide +kernel
    · decide +kernel
    · decide +kernel
  · refine ⟨running (desc 0x11 0 0 0 0 0), run0, ⟨desc 0x11 0 0 0 0 0, 0, false⟩, blockAt 0 2, blockAt 0 2, ?_, ?_, ?_, ?_, ?_, ?_⟩
    · rfl
    · decide +kernel
    · decide +kernel
    · decide +kernel
    · decide +kernel
    · decide +kernel
  · refine ⟨running (desc 0x12 0 0 0 0 0), run0, ⟨desc 0x12 0 0 0 0 0, 0, false⟩, ?_, ?_, ?_⟩
    · rfl
    · decide +kernel
    · decide +kernel
  · refine ⟨withSession { running (desc 0x15 0 0 0 0 0) with crs.own.parking := [(0, false, 0, 0, 0)] } { main.pages := [(0, { st := 2 })] }, run0, ⟨desc 0x15 0 0 0 0 0, 0, false⟩, (0, false, 0, 0, 0), ?_, ?_, ?_, ?_⟩
    · rfl
    · decide +kernel
    · decide +kernel
    · decide +kernel
  · refine ⟨withSession (running (desc 0x16 0 0 0 0 0)) { st := .satchelling }, run0, ⟨desc 0x16 0 0 0 0 0, 0, false⟩, blockAt 0 2, 0, ?_, ?_, ?_, ?_⟩
    · rfl
    · decide +kernel
    · decide +kernel
    · decide +kernel
  · refine ⟨withSession (running (desc 0x14 0 0 0 0 0)) { st := .shipping, main.length := 1, ship.granted := true, ship.target := some 0 }, run0, ⟨desc 0x14 0 0 0 0 0, 0, false⟩, 0, ?_, ?_, ?_, ?_, ?_⟩
    · rfl
    · decide +kernel
    · decide +kernel
    · decide +kernel
    · decide +kernel

/-- Every hypothesis of BootStages is met. -/
theorem witness_boot_stages :
    (∃ (s : State), s.pkg.st = PkgState.halt ∧ s.pkg.request = none ∧ s.num O.marginState ≠ 1 ∧ s.num O.escanState ≠ 1 ∧ s.num O.fbistState ≠ 1) ∧
    (∃ (s : State), s.pkg.st = PkgState.boot ∧ s.sec.stage = BootStage.keystone) ∧
    (∃ (s : State), s.pkg.st = PkgState.boot ∧ s.sec.stage = BootStage.runtimeLoad ∧ s.sec.lock = true) ∧
    (∃ (s : State), calm s ∧ s.pkg.st = PkgState.boot ∧ s.sec.stage = BootStage.hbmTraining) := by
  refine ⟨?_, ?_, ?_, ?_⟩
  · refine ⟨inState .halt, ?_, ?_, ?_, ?_, ?_⟩
    · decide +kernel
    · decide +kernel
    · decide +kernel
    · decide +kernel
    · decide +kernel
  · refine ⟨{ inState .boot with sec.stage := .keystone }, ?_, ?_⟩
    · decide +kernel
    · decide +kernel
  · refine ⟨{ inState .boot with sec.stage := .runtimeLoad, sec.lock := true }, ?_, ?_, ?_⟩
    · decide +kernel
    · decide +kernel
    · decide +kernel
  · refine ⟨{ inState .boot with sec.stage := .hbmTraining }, ?_, ?_, ?_⟩
    · exact ⟨rfl, rfl⟩
    · decide +kernel
    · decide +kernel

/-- Every hypothesis of BridleFrames is met. -/
theorem witness_bridle_frames :
    (∃ (s : State) (f : Frame) (c : Instr), s.pkg.st ≠ PkgState.off ∧ s.dict.staging = none ∧ s.dict.snaps = [] ∧ s.dict.queued < 16 ∧ (f.good = false ∨ parsePdu f.pdu = none) ∧ c ∈ [Instr.read f, Instr.write f, Instr.discover f]) ∧
    (∃ (s : State) (f : Frame) (p : Pdu) (r : ObjRow), s.pkg.st ≠ PkgState.off ∧ s.dict.staging = none ∧ s.dict.snaps = [] ∧ s.dict.queued < 16 ∧ f.good = true ∧ f.broadcast = false ∧ parsePdu f.pdu = some p ∧ p.op = 1 ∧ objRow p.key = some r ∧ r.acc ≠ Acc.wo ∧ r.isBytes = false ∧ ({ s.setNum O.rxFrames ((s.num O.rxFrames + 1) % 2 ^ 32) with dict.queued := s.dict.queued + 1 } : State).reachError (Path.bridle f.mac) p.key false = Err.ok) ∧
    (∃ (s : State) (f : Frame) (p : Pdu) (k : Kept), s.pkg.st ≠ PkgState.off ∧ s.dict.staging = none ∧ s.dict.snaps = [] ∧ s.dict.queued < 16 ∧ f.good = true ∧ f.broadcast = false ∧ parsePdu f.pdu = some p ∧ p.op = 2 ∧ List.find? (fun k ↦ k.mac == f.mac && k.seq == p.seq) s.dict.kept = some k) ∧
    (∃ (s : State) (f : Frame) (p : Pdu) (r : ObjRow), s.pkg.st ≠ PkgState.off ∧ s.dict.staging = none ∧ s.dict.snaps = [] ∧ s.dict.queued < 16 ∧ f.good = true ∧ f.broadcast = false ∧ parsePdu f.pdu = some p ∧ p.op = 2 ∧ s.dict.kept = [] ∧ p.offset = 0 ∧ p.last = true ∧ objRow p.key = some r ∧ r.isBytes = false ∧ p.data.length = typeBytes r.ty) ∧
    (∃ (s : State) (f : Frame) (p : Pdu), s.pkg.st ≠ PkgState.off ∧ s.dict.staging = none ∧ s.dict.snaps = [] ∧ s.dict.queued < 16 ∧ f.good = true ∧ parsePdu f.pdu = some p ∧ p.op = 3 ∧ s.dict.discover = none) ∧
    (∃ (s : State) (f : Frame) (p : Pdu) (c : Instr), s.pkg.st ≠ PkgState.off ∧ 16 ≤ s.dict.queued ∧ f.good = true ∧ f.broadcast = false ∧ parsePdu f.pdu = some p ∧ (p.op = 1 ∨ p.op = 2) ∧ c ∈ [Instr.read f, Instr.write f]) ∧
    (∃ (s : State) (due : Nat) (m : BitVec 48) (k : Nat), s.dict.discover = some (due, m, k) ∧ s.us < due) ∧
    (∃ (s : State) (due : Nat) (m : BitVec 48) (k : Nat), s.dict.discover = some (due, m, k) ∧ due ≤ s.us) ∧
    (∃ (s : State) (g : Staging), s.dict.staging = some g) := by
  refine ⟨?_, ?_, ?_, ?_, ?_, ?_, ?_, ?_, ?_⟩
  · refine ⟨inState .ready, ⟨false, false, 1, []⟩, .read ⟨false, false, 1, []⟩, ?_, ?_, ?_, ?_, ?_, ?_⟩
    · decide +kernel
    · decide +kernel
    · decide +kernel
    · decide +kernel
    · decide +kernel
    · decide +kernel
  · refine ⟨inState .ready, ⟨true, false, 1, pduOf 1 0 O.rxFrames.key []⟩, { op := 1, key := O.rxFrames.key }, (objRow O.rxFrames.key).get (by decide +kernel), ?_, ?_, ?_, ?_, ?_, ?_, ?_, ?_, ?_, ?_, ?_, ?_⟩
    · decide +kernel
    · decide +kernel
    · decide +kernel
    · decide +kernel
    · decide +kernel
    · decide +kernel
    · decide +kernel
    · decide +kernel
    · decide +kernel
    · decide +kernel
    · decide +kernel
    · decide +kernel
  · refine ⟨{ inState .ready with dict.kept := [{ mac := 1 }] }, ⟨true, false, 1, pduOf 2 0 0 []⟩, { op := 2 }, { mac := 1 }, ?_, ?_, ?_, ?_, ?_, ?_, ?_, ?_, ?_⟩
    · decide +kernel
    · decide +kernel
    · decide +kernel
    · decide +kernel
    · decide +kernel
    · decide +kernel
    · decide +kernel
    · decide +kernel
    · decide +kernel
  · refine ⟨inState .ready, ⟨true, false, 1, pduOf 2 1 O.hbmLogClear.key [1]⟩, { op := 2, key := O.hbmLogClear.key, last := true, length := 1, data := [1] }, (objRow O.hbmLogClear.key).get (by decide +kernel), ?_, ?_, ?_, ?_, ?_, ?_, ?_, ?_, ?_, ?_, ?_, ?_, ?_, ?_⟩
    · decide +kernel
    · decide +kernel
    · decide +kernel
    · decide +kernel
    · decide +kernel
    · decide +kernel
    · decide +kernel
    · decide +kernel
    · decide +kernel
    · decide +kernel
    · decide +kernel
    · decide +kernel
    · decide +kernel
    · decide +kernel
  · refine ⟨inState .ready, ⟨true, true, 1, pduOf 3 0 0 []⟩, { op := 3 }, ?_, ?_, ?_, ?_, ?_, ?_, ?_, ?_⟩
    · decide +kernel
    · decide +kernel
    · decide +kernel
    · decide +kernel
    · decide +kernel
    · decide +kernel
    · decide +kernel
    · decide +kernel
  · refine ⟨{ inState .ready with dict.queued := 16 }, ⟨true, false, 1, pduOf 1 0 O.rxFrames.key []⟩, { op := 1, key := O.rxFrames.key }, .read ⟨true, false, 1, pduOf 1 0 O.rxFrames.key []⟩, ?_, ?_, ?_, ?_, ?_, ?_, ?_⟩
    · decide +kernel
    · decide +kernel
    · decide +kernel
    · decide +kernel
    · decide +kernel
    · decide +kernel
    · decide +kernel
  · refine ⟨{ inState .ready with dict.discover := some (1, 0, 0) }, 1, 0, 0, ?_, ?_⟩
    · decide +kernel
    · decide +kernel
  · refine ⟨{ inState .ready with dict.discover := some (0, 0, 0) }, 0, 0, 0, ?_, ?_⟩
    · decide +kernel
    · decide +kernel
  · refine ⟨{ inState .ready with dict.staging := some { key := 0 } }, { key := 0 }, ?_⟩
    decide +kernel

/-- Every hypothesis of ClearsAndBeats is met. -/
theorem witness_clears_and_beats :
    (∃ (s : State) (p : Path) (v : Byte), passes s p O.hbmLogClear (ObjVal.num (BitVec.toNat v))) ∧
    (∃ (s : State) (p : Path) (v : Byte), passes s p O.sramLogClear (ObjVal.num (BitVec.toNat v))) ∧
    (∃ (s : State) (p : Path) (v : Byte), passes s p O.faultLogClear (ObjVal.num (BitVec.toNat v))) ∧
    (∃ (s : State) (p : Path) (v : Byte), passes s p O.graveClear (ObjVal.num (BitVec.toNat v))) ∧
    (∃ (s : State) (p : Path) (v : Byte), passes s p O.errClear (ObjVal.num (BitVec.toNat v)) ∧ s.pkg.st ≠ PkgState.grave) ∧
    (∃ (s : State) (p : Path) (v : Byte), passes s p O.errClear (ObjVal.num (BitVec.toNat v)) ∧ s.pkg.err = true ∧ s.pkg.errAt + 10 ≤ s.pkg.now) ∧
    (∃ (s : State) (p : Path) (v : W32), passes s p O.rackBeat (ObjVal.num (BitVec.toNat v))) ∧
    (∃ (s : State) (p : Path) (v : W64), passes s p O.handoffTick (ObjVal.num (BitVec.toNat v)) ∧ s.clk.originating = true ∧ s.eventRefusal (BitVec.ofNat 48 (BitVec.toNat v)) = Err.ok ∧ BitVec.toNat v % 16 = 0 ∧ 1000 ≤ Tick.since (BitVec.ofNat 48 (BitVec.toNat v)) s.clk.tick) ∧
    (∃ (s : State) (p : Path), passes s p O.plcaEnable (ObjVal.num 1) ∧ s.num O.plcaId ≠ 255) := by
  refine ⟨?_, ?_, ?_, ?_, ?_, ?_, ?_, ?_, ?_⟩
  · refine ⟨inState .ready, ctl, 1, ?_⟩
    unfold passes; decide +kernel
  · refine ⟨inState .ready, ctl, 1, ?_⟩
    unfold passes; decide +kernel
  · refine ⟨inState .ready, ctl, 1, ?_⟩
    unfold passes; decide +kernel
  · refine ⟨inState .ready, ctl, 1, ?_⟩
    unfold passes; decide +kernel
  · refine ⟨inState .ready, ctl, 1, ?_, ?_⟩
    · unfold passes; decide +kernel
    · decide +kernel
  · refine ⟨{ inState .ready with pkg.err := true, pkg.now := 10 }, ctl, 1, ?_, ?_, ?_⟩
    · unfold passes; decide +kernel
    · decide +kernel
    · decide +kernel
  · refine ⟨inState .ready, ctl, 1, ?_⟩
    unfold passes; decide +kernel
  · refine ⟨{ inState .ready with clk.originating := true, clk.held := true }, ctl, 1600, ?_, ?_, ?_, ?_, ?_⟩
    · unfold passes; decide +kernel
    · decide +kernel
    · decide +kernel
    · decide +kernel
    · decide +kernel
  · refine ⟨(inState .drained).setNum O.plcaId 0, ctl, ?_, ?_⟩
    · unfold passes; decide +kernel
    · decide +kernel

/-- Every hypothesis of CountStep is met. -/
theorem witness_count_step :
    ∃ (s : State) (q : Port) (w : BitVec 96) (ph : BitVec 10), s.pkg.st.hubRuns = true ∧ ↑q < 19 ∧ (s.port ↑q).st = PortState.active ∧ (readTime w).reserved = 0 ∧ (readTime w).hops ≠ 31 ∧ BitVec.toNat (readTime w).tick % 16 = 0 ∧ (readTime w).epoch = s.clk.epoch ∧ s.clk.originating = false ∧ s.clk.words = [] ∧ s.clk.counting = true ∧ s.clk.selfHold = false ∧ 0 < s.num O.parentTimeout ∧ (toSigned 58 (BitVec.toNat s.clk.tick * 1024 + ph.toNat + (2 ^ 58 - (BitVec.toNat (readTime w).tick * 1024 + (readTime w).phase + s.num (O.portDelay ↑q)) % 2 ^ 58))).natAbs ≥ 16 * 1024 := by
  refine ⟨withPort { inState .ready with clk.counting := true, clk.tick := 1000 } 0 { st := .active }, 0, 0, 0, ?_, ?_, ?_, ?_, ?_, ?_, ?_, ?_, ?_, ?_, ?_, ?_, ?_⟩
  · decide +kernel
  · decide +kernel
  · decide +kernel
  · decide +kernel
  · decide +kernel
  · decide +kernel
  · decide +kernel
  · decide +kernel
  · decide +kernel
  · decide +kernel
  · decide +kernel
  · decide +kernel
  · decide +kernel

/-- Every hypothesis of Courses is met. -/
theorem witness_courses :
    (∃ (s : State) (n : Node) (i : Nat), s.pkg.st.runs = true ∧ s.pkg.st ≠ PkgState.covering ∧ s.indexIn false n = some i ∧ s.crs.own.running = true) ∧
    (∃ (s : State) (c : Bool), (s.needed c).all (s.streamOf c).heard = true) ∧
    (∃ (s : State) (n : Node) (i : Nat), s.crs.own.running = false ∧ s.crs.own.nextNominal = none ∧ s.pkg.st = PkgState.serving ∧ s.needed false = [n] ∧ s.crs.own.heard n = false ∧ s.num O.markerTimeout ≤ Tick.since s.clk.tick s.crs.own.closeT ∧ s.indexIn false n = some i) ∧
    (∃ (s : State) (c : Bool), s.dueBefore 5 = false ∧ (s.dueEvent fun e ↦ e == Ev.cutoff c) = none) ∧
    (∃ (s : State) (c : Bool), s.dueBefore 5 = false ∧ (s.dueEvent fun e ↦ e == Ev.cutoff c).isSome = true ∧ s.pkg.st.runs = true ∧ (s.streamOf c).nextNominal.isSome = true ∧ (s.streamOf c).running = false ∧ (s.streamOf c).formed = false) ∧
    (∃ (s : State), s.dueBefore 6 = false ∧ (s.dueEvent fun e ↦ e == Ev.start false).isSome = true ∧ s.pkg.st = PkgState.serving ∧ s.crs.own.running = false ∧ s.crs.own.formed = true ∧ s.crs.covered.running = false ∧ s.crs.own.uncommitted = false ∧ s.joinGang.crs.gang ≠ 0) ∧
    (∃ (s : State) (c : Bool), s.dueBefore 6 = false ∧ (s.dueEvent fun e ↦ e == Ev.start c).isSome = true ∧ s.pkg.st.runs = true ∧ (s.streamOf c).running = false ∧ (s.streamOf c).formed = true ∧ (s.streamOf !c).running = true) ∧
    (∃ (s : State) (c : Bool), (s.streamOf c).fenceDone = false) ∧
    (∃ (s : State), s.pkg.st = PkgState.serving ∧ s.crs.own.running = true ∧ s.crs.own.fenceDone = true) := by
  refine ⟨?_, ?_, ?_, ?_, ?_, ?_, ?_, ?_, ?_⟩
  · refine ⟨{ inState .serving with crs.own.running := true }, 0, 0, ?_, ?_, ?_, ?_⟩
    · decide +kernel
    · decide +kernel
    · decide +kernel
    · decide +kernel
  · refine ⟨inState .serving, false, ?_⟩
    decide +kernel
  · refine ⟨bonded { inState .serving with crs.own.members := 2, clk.tick := 1000000000 }, 5, 1, ?_, ?_, ?_, ?_, ?_, ?_, ?_⟩
    · decide +kernel
    · decide +kernel
    · decide +kernel
    · decide +kernel
    · decide +kernel
    · decide +kernel
    · decide +kernel
  · refine ⟨inState .serving, false, ?_, ?_⟩
    · decide +kernel
    · decide +kernel
  · refine ⟨{ inState .serving with clk.events := [{ ev := .cutoff false }], crs.own.nextNominal := some 0 }, false, ?_, ?_, ?_, ?_, ?_, ?_⟩
    · decide +kernel
    · decide +kernel
    · decide +kernel
    · decide +kernel
    · decide +kernel
    · decide +kernel
  · refine ⟨{ inState .serving with clk.events := [{ ev := .start false }], crs.own.formed := true, crs.gang := 1 }, ?_, ?_, ?_, ?_, ?_, ?_, ?_, ?_⟩
    · decide +kernel
    · decide +kernel
    · decide +kernel
    · decide +kernel
    · decide +kernel
    · decide +kernel
    · decide +kernel
    · decide +kernel
  · refine ⟨{ inState .serving with clk.events := [{ ev := .start false }], crs.own.formed := true, crs.covered.running := true }, false, ?_, ?_, ?_, ?_, ?_, ?_⟩
    · decide +kernel
    · decide +kernel
    · decide +kernel
    · decide +kernel
    · decide +kernel
    · decide +kernel
  · refine ⟨inState .serving, false, ?_⟩
    decide +kernel
  · refine ⟨{ inState .serving with crs.own.running := true, crs.own.fenceDone := true }, ?_, ?_, ?_⟩
    · decide +kernel
    · decide +kernel
    · decide +kernel

/-- Every hypothesis of CreditsAndClaims is met. -/
theorem witness_credits_and_claims :
    (∃ (s : State) (c : Bool) (course : W64), s.courseParity c course = none) ∧
    (∃ (s : State) (c : Bool) (course : W64) (k : BitVec 18) (n : BitVec 12) (src : Node) (i : BitVec 20) (odd : Bool), s.courseParity c course = some odd ∧ s.eng.seen.contains (c, course, src, arrivalNo i 0 255) = false ∧ (s.templ c odd).waiters k.toNat = [] ∧ SMap.get 0 (s.parity c odd).counters k.toNat + n.toNat ≤ 65535) ∧
    (∃ (s : State) (c : Bool) (course : W64) (src : Node) (i : BitVec 20) (odd : Bool), s.courseParity c course = some odd ∧ s.eng.seen.contains (c, course, src, arrivalNo i 0 255) = true) ∧
    (∃ (s : State) (r : Run) (d : Descriptor) (i : Nat), s.runs r = true ∧ (s.coreAt (runCore r)).done = true ∧ (s.templ r.covered (oddOf (s.streamOf r.covered).course)).find r.inst.toNat = some (d, i) ∧ ¬BitVec.toNat d.kind ∈ [5, 18, 23, 26, 27] ∧ d.grants = [] ∧ s.mir.outbox = []) ∧
    (∃ (s : State) (r : Run) (rest : List Entry) (w : InstWord), (s.coreAt (runCore r)).st = StealState.active ∧ (s.coreAt (runCore r)).running = none ∧ (s.coreAt (runCore r)).waits = false ∧ (s.coreAt (runCore r)).deque = rest ++ [entryOf r.covered (oddOf (s.streamOf r.covered).course) r.inst.toNat] ∧ s.started r.covered (oddOf (s.streamOf r.covered).course) = true ∧ SMap.find (s.parity r.covered (oddOf (s.streamOf r.covered).course)).words r.inst.toNat = some w ∧ w.st = RunState.ready ∧ Option.map (fun x ↦ ↑x) w.holder = some (runCore r) ∧ (∀ (a b : Bool), (s.parity a b).unplaced = [])) := by
  refine ⟨?_, ?_, ?_, ?_, ?_⟩
  · refine ⟨inState .serving, false, 7, ?_⟩
    decide +kernel
  · refine ⟨inState .serving, false, 0, 0, 1, 0, 0, false, ?_, ?_, ?_, ?_⟩
    · decide +kernel
    · decide +kernel
    · decide +kernel
    · decide +kernel
  · refine ⟨{ inState .serving with eng.seen := [(false, 0, 0, arrivalNo 0 0 255)] }, false, 0, 0, 0, false, ?_, ?_⟩
    · decide +kernel
    · decide +kernel
  · refine ⟨{ running (desc 1 0 0 0 0 0) with cred.cores := [(0, { running := some (entryOf false false 0), done := true })] }, run0, desc 1 0 0 0 0 0, 0, ?_, ?_, ?_, ?_, ?_, ?_⟩
    · decide +kernel
    · decide +kernel
    · decide +kernel
    · decide +kernel
    · decide +kernel
    · decide +kernel
  · refine ⟨{ running (desc 1 0 0 0 0 0) with cred.cores := [(0, { deque := [entryOf false false 0] })], cred.own0.words := [(0, { st := .ready, holder := some 0 })] }, run0, [], { st := .ready, holder := some 0 }, ?_, ?_, ?_, ?_, ?_, ?_, ?_, ?_, ?_⟩
    · decide +kernel
    · decide +kernel
    · decide +kernel
    · decide +kernel
    · decide +kernel
    · decide +kernel
    · decide +kernel
    · decide +kernel
    · decide +kernel

/-- Every hypothesis of DictDefaults is met. -/
theorem witness_dict_defaults :
    (∃ (s : State) (p : Path) (v : Byte), passes s p O.dictDefaults (ObjVal.num (BitVec.toNat v)) ∧ s.pkg.st = PkgState.drained) ∧
    (∃ (s : State) (p : Path) (v : Byte), passes s p O.dictDefaults (ObjVal.num (BitVec.toNat v)) ∧ s.pkg.st ≠ PkgState.drained) := by
  refine ⟨?_, ?_⟩
  · refine ⟨inState .drained, ctl, 1, ?_, ?_⟩
    · unfold passes; decide +kernel
    · decide +kernel
  · refine ⟨inState .ready, ctl, 1, ?_, ?_⟩
    · unfold passes; decide +kernel
    · decide +kernel

/-- Every hypothesis of Experts is met. -/
theorem witness_experts :
    (∃ (s : State) (c : Bool) (i : BitVec 20), List.find? (fun x ↦ x.snd.running == some (entryOf c (oddOf (s.streamOf c).course) i.toNat) && x.snd.done) s.cred.cores = none) ∧
    (∃ (s : State) (c : Bool) (i : BitVec 20) (g : Nat) (x : Core) (key : Nat) (tile : Nat), List.find? (fun x ↦ x.snd.running == some (entryOf c (oddOf (s.streamOf c).course) i.toNat) && x.snd.done) s.cred.cores = some (g, x) ∧ s.tileOf c i.toNat = some (key, tile) ∧ s.eng.accepted.contains (c, i.toNat) = false ∧ s.eng.waiting = [] ∧ tile ≠ SMap.get 0 s.eng.nextTile key) ∧
    (∃ (s : State) (c : Bool) (m : ExpertMsg), s.courseParity c m.course = none) ∧
    (∃ (s : State) (c : Bool) (n : Node) (m : ExpertMsg) (odd : Bool), s.courseParity c m.course = some odd ∧ s.eng.seen.contains (c, m.course, n, arrivalNo m.inst m.layer (m.expert % 64)) = true) ∧
    (∃ (s : State) (c : Bool) (n : Node) (m : ExpertMsg) (odd : Bool), s.courseParity c m.course = some odd ∧ s.eng.seen.contains (c, m.course, n, arrivalNo m.inst m.layer (64 + m.expert % 64)) = true) ∧
    (∃ (s : State) (c : Bool) (n : Node) (m : ExpertMsg) (odd : Bool) (k : Nat), s.courseParity c m.course = some odd ∧ s.eng.seen.contains (c, m.course, n, arrivalNo m.inst m.layer (m.expert % 64)) = false ∧ m.rows.length ≤ (s.templ c odd).stagingFor m.expert m.source.toNat ∧ k < (s.bondOf c).length ∧ bit (BitVec.toNat (s.streamOf c).members) k = true ∧ m.source.toNat ≠ k ∧ (∀ (x : Bool × ExpertMsg), x ∈ s.eng.staged → x.snd.source.toNat ≠ k)) ∧
    (∃ (s : State) (c : Bool) (n : Node) (m : ExpertMsg) (odd : Bool) (u : State) (d : Descriptor) (i : Nat) (e : Nat) (b : BlockEntry) (row : List Byte), s.courseParity c m.course = some odd ∧ (s.tally 0 0 (Body.expert m).payload).firstTime c m.course n (arrivalNo m.inst m.layer (64 + m.expert % 64)) = some u ∧ (u.templ c odd).routerAt m.layer = some (d, i) ∧ u.expertOf c odd d i ((u.indexIn c n).getD 0) m.expert = some e ∧ ((u.templ c odd).returnTable m.layer).bind (u.blockOf c odd) = some b ∧ m.rows = [row]) ∧
    (∃ (s : State), s.dueBefore 7 = false ∧ s.startedAgo 0 = true ∧ s.num O.exchangeSpan ≠ 0) ∧
    (∃ (s : State), s.dueBefore 7 = false ∧ (s.startedAgo 0 = false ∨ s.num O.exchangeSpan = 0)) ∧
    (∃ (s : State), s.dueBefore 7 = false ∧ s.startedAgo (s.num O.exchangeSpan) = true) ∧
    (∃ (s : State), s.dueBefore 7 = false ∧ s.startedAgo (s.num O.exchangeSpan) = false) := by
  refine ⟨?_, ?_, ?_, ?_, ?_, ?_, ?_, ?_, ?_, ?_, ?_⟩
  · refine ⟨inState .serving, false, 0, ?_⟩
    decide +kernel
  · refine ⟨{ running (desc 5 0 0 0 0 0) with cred.cores := [(0, { running := some (entryOf false false 0), done := true })], eng.nextTile := [(0, 1)] }, false, 0, 0, { running := some (entryOf false false 0), done := true }, 0, 0, ?_, ?_, ?_, ?_, ?_⟩
    · decide +kernel
    · decide +kernel
    · decide +kernel
    · decide +kernel
    · decide +kernel
  · refine ⟨inState .serving, false, expertMsg 7 [], ?_⟩
    decide +kernel
  · refine ⟨{ inState .serving with eng.seen := [(false, 0, 0, arrivalNo 0 0 0)] }, false, 0, expertMsg 0 [], false, ?_, ?_⟩
    · decide +kernel
    · decide +kernel
  · refine ⟨{ inState .serving with eng.seen := [(false, 0, 0, arrivalNo 0 0 64)] }, false, 0, expertMsg 0 [], false, ?_, ?_⟩
    · decide +kernel
    · decide +kernel
  · refine ⟨bonded { inState .serving with crs.own.members := 2 }, false, 0, expertMsg 0 [], false, 1, ?_, ?_, ?_, ?_, ?_, ?_, ?_⟩
    · decide +kernel
    · decide +kernel
    · decide +kernel
    · decide +kernel
    · decide +kernel
    · decide +kernel
    · decide +kernel
  · refine ⟨{ inState .serving with crs.own.avail := 1, wts.k0.templ := some { templateOf (desc 5 0 0 0 0 0) with descs := [desc 5 0 0 1 0 0, desc 0x0D 0 0 0 0 0] } }, false, 0, expertMsg 0 [[0]], false, { ({ inState .serving with crs.own.avail := 1, wts.k0.templ := some { templateOf (desc 5 0 0 0 0 0) with descs := [desc 5 0 0 1 0 0, desc 0x0D 0 0 0 0 0] } } : State).tally 0 0 (Body.expert (expertMsg 0 [[0]])).payload with eng.seen := [(false, 0, 0, arrivalNo 0 0 64)] }, desc 5 0 0 1 0 0, 0, 0, blockAt 64 4, [0], ?_, ?_, ?_, ?_, ?_, ?_⟩
    · decide +kernel
    · rfl
    · decide +kernel
    · decide +kernel
    · decide +kernel
    · decide +kernel
  · refine ⟨{ (inState .serving).setNum O.exchangeSpan 1 with crs.own.running := true }, ?_, ?_, ?_⟩
    · decide +kernel
    · decide +kernel
    · decide +kernel
  · refine ⟨(inState .serving).setNum O.exchangeSpan 0, ?_, ?_⟩
    · decide +kernel
    · decide +kernel
  · refine ⟨{ (inState .serving).setNum O.exchangeSpan 1 with crs.own.running := true, clk.tick := 1 }, ?_, ?_⟩
    · decide +kernel
    · decide +kernel
  · refine ⟨inState .serving, ?_, ?_⟩
    · decide +kernel
    · decide +kernel

/-- Every hypothesis of FabricRequests is met. -/
theorem witness_fabric_requests :
    (∃ (s : State) (r : FabReq), s.pkg.st.hubRuns = true ∧ r.own = none ∧ r.dest = s.node ∧ s.mir.restore = none ∧ s.checkReq { op := 1, req := r } = 0 ∧ space (BitVec.toNat r.addr) = Space.sram) ∧
    (∃ (s : State) (r : FabReq), s.pkg.st.hubRuns = true ∧ r.own = none ∧ r.dest = s.node ∧ s.mir.restore = none ∧ s.checkReq { op := 2, req := r } = 0 ∧ space (BitVec.toNat r.addr) = Space.sram) ∧
    (∃ (s : State) (r : FabReq), s.pkg.st.hubRuns = true ∧ r.own = none ∧ r.dest = s.node ∧ s.mir.restore = none ∧ s.checkReq { op := 1, req := r } = 0 ∧ space (BitVec.toNat r.addr) = Space.hbm ∧ s.badIn [(BitVec.toNat r.addr, r.size.toNat)] = []) ∧
    (∃ (s : State) (r : FabReq), s.pkg.st.hubRuns = true ∧ r.own = none ∧ r.dest = s.node ∧ s.mir.restore = none ∧ s.checkReq { op := 2, req := r } = 0 ∧ space (BitVec.toNat r.addr) = Space.hbm) ∧
    (∃ (s : State) (r : FabReq) (c : Instr × Nat), s.pkg.st.hubRuns = true ∧ r.own = none ∧ r.dest = s.node ∧ s.mir.restore = none ∧ c ∈ [(Instr.fetchAdd r, 16), (Instr.swap r, 17), (Instr.fetchAnd r, 18), (Instr.fetchOr r, 19), (Instr.fetchXor r, 20), (Instr.fetchMaxU r, 21), (Instr.cas r, 22)] ∧ s.checkReq { op := BitVec.ofNat 8 c.snd, req := r } = 0) ∧
    (∃ (s : State) (r : FabReq), s.pkg.st.hubRuns = true ∧ r.own = none ∧ r.dest = s.node ∧ s.mir.restore = none ∧ s.checkReq { op := 1, req := r } = 5) ∧
    (∃ (s : State) (r : FabReq) (c : Instr), s.pkg.st.hubRuns = false ∧ c ∈ [Instr.load r, Instr.store r, Instr.fetchAdd r, Instr.swap r, Instr.fetchAnd r, Instr.fetchOr r, Instr.fetchXor r, Instr.fetchMaxU r, Instr.cas r]) ∧
    (∃ (n : Nat) (old : Nat) (a : Nat), a < 2 ^ (8 * n) ∧ old < 2 ^ (8 * n)) ∧
    (∃ (s : State) (r : FabReq) (c : Fin 4) (tag : W32) (u : State), s.pkg.st.hubRuns = true ∧ r.own = some c ∧ r.dest ≠ s.node ∧ s.fab.readyAt ≤ s.us ∧ (s.fab.ctlWait.any fun w ↦ w.fst == c) = false ∧ (s.fab.outs.any fun o ↦ o.who == Requester.control c) = false ∧ s.newTag (Requester.control c) = some (tag, u)) ∧
    (∃ (s : State) (r : FabResp) (o : OutReq) (c : Fin 4), s.pkg.st.hubRuns = true ∧ s.fab.ctlWait = [] ∧ List.find? (fun o ↦ o.tag == r.tag) s.fab.outs = some o ∧ o.who = Requester.control c) ∧
    (∃ (s : State) (r : FabResp), s.pkg.st.hubRuns = true ∧ s.fab.ctlWait = [] ∧ List.find? (fun o ↦ o.tag == r.tag) s.fab.outs = none ∧ List.find? (fun c ↦ c.tag == r.tag) s.lnk.combine = none) ∧
    (∃ (s : State) (tag : W32) (o : OutReq), List.find? (fun o ↦ o.tag == tag) s.fab.outs = some o ∧ Tick.atLeast s.clk.tick o.issued = true ∧ Tick.since s.clk.tick o.issued < s.num O.loadBound) ∧
    (∃ (s : State) (tag : W32) (o : OutReq) (c : Fin 4), List.find? (fun o ↦ o.tag == tag) s.fab.outs = some o ∧ Tick.atLeast s.clk.tick o.issued = true ∧ s.num O.loadBound ≤ Tick.since s.clk.tick o.issued ∧ o.who = Requester.control c ∧ s.fab.ctlWait = []) := by
  refine ⟨?_, ?_, ?_, ?_, ?_, ?_, ?_, ?_, ?_, ?_, ?_, ?_, ?_⟩
  · refine ⟨reachable (inState .ready), fabReq none 0 0x400000010000, ?_, ?_, ?_, ?_, ?_, ?_⟩
    · decide +kernel
    · decide +kernel
    · decide +kernel
    · decide +kernel
    · decide +kernel
    · decide +kernel
  · refine ⟨reachable (inState .ready), fabReq none 0 0x400000010000, ?_, ?_, ?_, ?_, ?_, ?_⟩
    · decide +kernel
    · decide +kernel
    · decide +kernel
    · decide +kernel
    · decide +kernel
    · decide +kernel
  · refine ⟨reachable (inState .ready), fabReq none 0 0, ?_, ?_, ?_, ?_, ?_, ?_, ?_⟩
    · decide +kernel
    · decide +kernel
    · decide +kernel
    · decide +kernel
    · decide +kernel
    · decide +kernel
    · decide +kernel
  · refine ⟨reachable (inState .ready), fabReq none 0 0, ?_, ?_, ?_, ?_, ?_, ?_⟩
    · decide +kernel
    · decide +kernel
    · decide +kernel
    · decide +kernel
    · decide +kernel
    · decide +kernel
  · refine ⟨reachable (inState .ready), fabReq none 0 0x400000010000, (.fetchAdd (fabReq none 0 0x400000010000), 0x10), ?_, ?_, ?_, ?_, ?_, ?_⟩
    · decide +kernel
    · decide +kernel
    · decide +kernel
    · decide +kernel
    · decide +kernel
    · decide +kernel
  · refine ⟨inState .ready, fabReq none 0 0x400000010001, ?_, ?_, ?_, ?_, ?_⟩
    · decide +kernel
    · decide +kernel
    · decide +kernel
    · decide +kernel
    · decide +kernel
  · refine ⟨inState .stopped, fabReq none 0 0, .load (fabReq none 0 0), ?_, ?_⟩
    · decide +kernel
    · decide +kernel
  · refine ⟨1, 1, 1, ?_, ?_⟩
    · decide +kernel
    · decide +kernel
  · refine ⟨inState .ready, fabReq (some 0) 5 0, 0, 0, { inState .ready with fab.gens := [(0, 0)] }, ?_, ?_, ?_, ?_, ?_, ?_, ?_⟩
    · decide +kernel
    · decide +kernel
    · decide +kernel
    · decide +kernel
    · decide +kernel
    · decide +kernel
    · rfl
  · refine ⟨{ inState .ready with fab.outs := [{ who := .control 0 }] }, ⟨0, 0, 0, 0, 0, 0, []⟩, { who := .control 0 }, 0, ?_, ?_, ?_, ?_⟩
    · decide +kernel
    · decide +kernel
    · decide +kernel
    · decide +kernel
  · refine ⟨inState .ready, ⟨0, 0, 0, 0, 0, 0, []⟩, ?_, ?_, ?_, ?_⟩
    · decide +kernel
    · decide +kernel
    · decide +kernel
    · decide +kernel
  · refine ⟨{ inState .ready with fab.outs := [{ who := .control 0 }] }, 0, { who := .control 0 }, ?_, ?_, ?_⟩
    · decide +kernel
    · decide +kernel
    · decide +kernel
  · refine ⟨{ inState .ready with fab.outs := [{ who := .control 0 }], clk.tick := 50 }, 0, { who := .control 0 }, 0, ?_, ?_, ?_, ?_, ?_⟩
    · decide +kernel
    · decide +kernel
    · decide +kernel
    · decide +kernel
    · decide +kernel

/-- Every hypothesis of FaultCollector is met. -/
theorem witness_fault_collector :
    (∃ (s : State) (m : FaultMsg) (rest : List FaultMsg), s.fcu.urgent = [] ∧ s.fcu.intake = m :: rest ∧ s.fcu.heldBack = [] ∧ s.fcu.rateAt = BitVec.toNat s.clk.tick / 1000 ∧ s.pkg.st ≠ PkgState.off ∧ s.pkg.st.mgmtOnly = false ∧ m.cls ≤ 1 ∧ m.kind ≠ 139 ∧ SMap.get 0 s.fcu.rate m.source < s.num O.faultRate ∧ s.reactionOf m.source m.cls ≤ 1 ∧ s.stillResetting m.source = false) ∧
    (∃ (s : State) (m : FaultMsg) (rest : List FaultMsg), s.fcu.urgent = m :: rest ∧ m.cls = 3 ∧ s.fcu.rateAt = BitVec.toNat s.clk.tick / 1000 ∧ s.pkg.st.hubRuns = true ∧ calm s ∧ (∀ (x : FaultMsg), x ∈ rest ++ s.fcu.intake ++ s.fcu.heldBack → x.cls ≤ 1) ∧ s.reactionOf m.source 3 = 4 ∧ (∀ (x : Nat), x ∈ s.fcu.resets → x + stormWindow ≤ s.us) ∧ 2 ≤ s.num O.stormLimit) ∧
    (∃ (who : Requester) (v : W32), isCtl who = true ∧ BitVec.toNat v % 2 = 1) ∧
    (∃ (who : Requester) (v : W32), isCtl who = true ∧ BitVec.toNat v % 2 = 0) ∧
    (∃ (who : Requester), isCtl who = false) ∧
    (∃ (s : State) (c : Fin 4) (k : Nat), SMap.find s.fcu.kicks ↑c = some k ∧ k + 1000 * s.num O.watchdogPeriod ≤ s.us) ∧
    (∃ (s : State) (c : Fin 4) (k : Nat), SMap.find s.fcu.kicks ↑c = some k ∧ s.us < k + 1000 * s.num O.watchdogPeriod) ∧
    (∃ (s : State) (who : Requester) (w : W32) (a : W32) (b : W32) (c : W32), s.fcu.inject = [a, b, c] ∧ isCtl who = true ∧ s.pkg.st = PkgState.drained ∧ bits (BitVec.toNat a + BitVec.toNat b * 2 ^ 32 + BitVec.toNat c * 2 ^ 64 + BitVec.toNat w * 2 ^ 96) 55 53 ≤ 2 ∧ knownKind (bits (BitVec.toNat a + BitVec.toNat b * 2 ^ 32 + BitVec.toNat c * 2 ^ 64 + BitVec.toNat w * 2 ^ 96) 63 56) = true) ∧
    (∃ (s : State) (who : Requester) (w : W32) (a : W32) (b : W32) (c : W32), s.fcu.inject = [a, b, c] ∧ isCtl who = true ∧ (s.pkg.st ≠ PkgState.drained ∨ 3 ≤ bits (BitVec.toNat a + BitVec.toNat b * 2 ^ 32 + BitVec.toNat c * 2 ^ 64 + BitVec.toNat w * 2 ^ 96) 55 53 ∨ knownKind (bits (BitVec.toNat a + BitVec.toNat b * 2 ^ 32 + BitVec.toNat c * 2 ^ 64 + BitVec.toNat w * 2 ^ 96) 63 56) = false)) ∧
    (∃ (s : State) (who : Requester) (a : W32) (b : W32) (c : W32), s.fcu.inject = [a, b, c] ∧ isCtl who = false) := by
  refine ⟨?_, ?_, ?_, ?_, ?_, ?_, ?_, ?_, ?_, ?_⟩
  · refine ⟨{ inState .ready with fcu.intake := [{}] }, {}, [], ?_, ?_, ?_, ?_, ?_, ?_, ?_, ?_, ?_, ?_, ?_⟩
    · decide +kernel
    · decide +kernel
    · decide +kernel
    · decide +kernel
    · decide +kernel
    · decide +kernel
    · decide +kernel
    · decide +kernel
    · decide +kernel
    · decide +kernel
    · decide +kernel
  · refine ⟨{ inState .ready with fcu.urgent := [{ cls := 3 }] }, { cls := 3 }, [], ?_, ?_, ?_, ?_, ?_, ?_, ?_, ?_, ?_⟩
    · decide +kernel
    · decide +kernel
    · decide +kernel
    · decide +kernel
    · exact ⟨rfl, rfl⟩
    · decide +kernel
    · decide +kernel
    · decide +kernel
    · decide +kernel
  · refine ⟨.control 0, 1, ?_, ?_⟩
    · decide +kernel
    · decide +kernel
  · refine ⟨.control 0, 0, ?_, ?_⟩
    · decide +kernel
    · decide +kernel
  · refine ⟨.host, ?_⟩
    decide +kernel
  · refine ⟨{ inState .ready with fcu.kicks := [(0, 0)], pkg.now := 1000000000000 }, 0, 0, ?_, ?_⟩
    · decide +kernel
    · decide +kernel
  · refine ⟨{ inState .ready with fcu.kicks := [(0, 0)] }, 0, 0, ?_, ?_⟩
    · decide +kernel
    · decide +kernel
  · refine ⟨{ inState .drained with fcu.inject := [0, 0x01000000, 0] }, .control 0, 0, 0, 0x01000000, 0, ?_, ?_, ?_, ?_, ?_⟩
    · decide +kernel
    · decide +kernel
    · decide +kernel
    · decide +kernel
    · decide +kernel
  · refine ⟨{ inState .ready with fcu.inject := [0, 0x01000000, 0] }, .control 0, 0, 0, 0x01000000, 0, ?_, ?_, ?_⟩
    · decide +kernel
    · decide +kernel
    · decide +kernel
  · refine ⟨{ inState .drained with fcu.inject := [0, 0x01000000, 0] }, .host, 0, 0x01000000, 0, ?_, ?_⟩
    · decide +kernel
    · decide +kernel

/-- Every hypothesis of FaultMessagesRaised is met. -/
theorem witness_fault_messages_raised :
    (∃ (s : State), s.pkg.st = PkgState.off) ∧
    (∃ (s : State) (src : Nat), s.pkg.st.mgmtOnly = true ∧ src < 928) ∧
    (∃ (s : State) (src : Nat), s.pkg.st.mgmtOnly = true ∧ 928 ≤ src) ∧
    (∃ (s : State) (src : Nat) (cls : Nat), s.pkg.st.mgmtOnly = true ∧ 928 ≤ src ∧ s.errFor src cls = true) ∧
    (∃ (s : State) (src : Nat), s.pkg.st ≠ PkgState.off ∧ s.pkg.st.mgmtOnly = false ∧ src ≠ srcFcu) ∧
    (∃ (s : State) (cls : Nat), s.pkg.st ≠ PkgState.off ∧ s.pkg.st.mgmtOnly = false ∧ 3 ≤ cls) ∧
    (∃ (s : State) (cls : Nat), s.pkg.st ≠ PkgState.off ∧ s.pkg.st.mgmtOnly = false ∧ cls ≤ 2 ∧ s.fcu.intake.length < 64) ∧
    (∃ (s : State), s.pkg.st ≠ PkgState.off ∧ s.pkg.st.mgmtOnly = false ∧ 64 ≤ s.fcu.intake.length) ∧
    (∃ (s : State) (cls : Nat), s.pkg.st ≠ PkgState.off ∧ s.pkg.st.mgmtOnly = false ∧ cls ≤ 1 ∧ 64 ≤ s.fcu.intake.length) := by
  refine ⟨?_, ?_, ?_, ?_, ?_, ?_, ?_, ?_, ?_⟩
  · refine ⟨inState .off, ?_⟩
    decide +kernel
  · refine ⟨inState .halt, 0, ?_, ?_⟩
    · decide +kernel
    · decide +kernel
  · refine ⟨inState .halt, 928, ?_, ?_⟩
    · decide +kernel
    · decide +kernel
  · refine ⟨inState .halt, 928, 4, ?_, ?_, ?_⟩
    · decide +kernel
    · decide +kernel
    · decide +kernel
  · refine ⟨inState .ready, 0, ?_, ?_, ?_⟩
    · decide +kernel
    · decide +kernel
    · decide +kernel
  · refine ⟨inState .ready, 3, ?_, ?_, ?_⟩
    · decide +kernel
    · decide +kernel
    · decide +kernel
  · refine ⟨inState .ready, 2, ?_, ?_, ?_, ?_⟩
    · decide +kernel
    · decide +kernel
    · decide +kernel
    · decide +kernel
  · refine ⟨{ inState .ready with fcu.intake := List.replicate 64 {} }, ?_, ?_, ?_⟩
    · decide +kernel
    · decide +kernel
    · decide +kernel
  · refine ⟨{ inState .ready with fcu.intake := List.replicate 64 {} }, 1, ?_, ?_, ?_, ?_⟩
    · decide +kernel
    · decide +kernel
    · decide +kernel
    · decide +kernel

/-- Every hypothesis of FlashWrites is met. -/
theorem witness_flash_writes :
    (∃ (s : State) (p : Path) (v : W32), passes s p O.fwUpdate (ObjVal.num (BitVec.toNat v)) ∧ s.pkg.st.noFlash = false ∧ s.flashBusy = false) ∧
    (∃ (s : State) (p : Path) (rec : List Byte), passes s p O.keystonePending (ObjVal.bytes rec) ∧ s.sec.ksMode ≠ 2 ∧ s.flashBusy = false) ∧
    (∃ (s : State) (p : Path) (set : List Byte), passes s p O.calWrite (ObjVal.bytes set) ∧ s.pkg.st = PkgState.drained ∧ s.flashBusy = false) ∧
    (∃ (s : State) (p : Path) (v : Byte), passes s p O.dictStore (ObjVal.num (BitVec.toNat v)) ∧ s.pkg.st.noFlash = false ∧ s.num O.storeState ≠ 1 ∧ s.flashBusy = false) ∧
    (∃ (s : State) (img : List Byte), s.sec.job = some (FlashJob.firmware img)) ∧
    (∃ (s : State) (set : List Byte), s.sec.job = some (FlashJob.calibration set)) ∧
    (∃ (s : State) (v : Sys2Proof.SMap Nat × Sys2Proof.SMap (List Byte)), s.dict.imaging = some v) := by
  refine ⟨?_, ?_, ?_, ?_, ?_, ?_, ?_⟩
  · refine ⟨inState .drained, ctl, 4096, ?_, ?_, ?_⟩
    · unfold passes; decide +kernel
    · decide +kernel
    · decide +kernel
  · refine ⟨inState .drained, ctl, [], ?_, ?_, ?_⟩
    · unfold passes; decide +kernel
    · decide +kernel
    · decide +kernel
  · refine ⟨inState .drained, ctl, List.replicate 43776 0, ?_, ?_, ?_⟩
    · unfold passes; decide +kernel
    · decide +kernel
    · decide +kernel
  · refine ⟨inState .drained, ctl, 1, ?_, ?_, ?_, ?_⟩
    · unfold passes; decide +kernel
    · decide +kernel
    · decide +kernel
    · decide +kernel
  · refine ⟨{ inState .drained with sec.job := some (.firmware []) }, [], ?_⟩
    decide +kernel
  · refine ⟨{ inState .drained with sec.job := some (.calibration []) }, [], ?_⟩
    decide +kernel
  · refine ⟨{ inState .drained with dict.imaging := some ([], []) }, ([], []), ?_⟩
    decide +kernel

/-- Every hypothesis of GraveOnlyToOff is met. -/
theorem witness_grave_only_to_off :
    ∃ (c : Instr) (s : State) (t : State), s.pkg.st = PkgState.grave ∧ exec c s = Host.Outcome.next t := by
  refine ⟨.fence run0, inState .grave, inState .grave, ?_, ?_⟩
  · decide +kernel
  · rfl

/-- Every hypothesis of HaltEntryResetsTheHub is met. -/
theorem witness_halt_entry_resets_the_hub :
    ∃ (s : State), calm s ∧ s.pkg.st ≠ PkgState.off ∧ s.pkg.st ≠ PkgState.grave ∧ s.pkg.st ≠ PkgState.halt ∧ s.pkg.st ≠ PkgState.stopped ∧ s.num O.marginState ≠ 1 := by
  refine ⟨inState .ready, ?_, ?_, ?_, ?_, ?_, ?_⟩
  · exact ⟨rfl, rfl⟩
  · decide +kernel
  · decide +kernel
  · decide +kernel
  · decide +kernel
  · decide +kernel

/-- Every hypothesis of HandoverSender is met. -/
theorem witness_handover_sender :
    (∃ (s : State) (k : Nat), s.num O.sessionTableBase % 32 = 0 ∧ space (s.num O.sessionTableBase + 256 * k) = Space.hbm) ∧
    (∃ (s : State) (k : Nat) (j : Nat), s.num O.sessionTableBase % 32 = 0 ∧ space (s.num O.sessionTableBase + 256 * k) = Space.hbm ∧ j ≠ k) ∧
    (∃ (s : State) (src : Node) (b : List Byte), s.shipOf src b = none) ∧
    (∃ (s : State) (src : Node) (b : List Byte) (k : Nat), s.shipOf src b = some k ∧ replyIs b 0 = true ∧ (s.session k).ship.granted = false) ∧
    (∃ (s : State) (src : Node) (b : List Byte) (k : Nat), s.shipOf src b = some k ∧ replyIs b 1 = true ∧ (s.session k).ship.granted = false ∧ s.cnum (s.session k).covered O.targetCount ≤ (s.session k).ship.declined + 1 ∧ s.num O.sessionTableBase % 32 = 0 ∧ space (s.num O.sessionTableBase + 256 * k) = Space.hbm) ∧
    (∃ (s : State) (src : Node) (b : List Byte) (k : Nat), s.shipOf src b = some k ∧ replyIs b 3 = true ∧ (s.session k).ship.recordAt.isSome = true ∧ u64 b 16 = BitVec.toNat (s.session k).ship.id ∧ (s.session k).ship.tries = 0) ∧
    (∃ (s : State) (src : Node) (b : List Byte) (k : Nat), s.shipOf src b = some k ∧ replyIs b 3 = true ∧ (s.session k).ship.recordAt.isSome = true ∧ u64 b 16 = BitVec.toNat (s.session k).ship.id ∧ (s.session k).ship.tries = 2) ∧
    (∃ (s : State) (src : Node) (b : List Byte) (k : Nat), s.shipOf src b = some k ∧ replyIs b 2 = true ∧ (s.session k).ship.recordAt.isSome = true ∧ u64 b 16 = BitVec.toNat (s.session k).ship.id) ∧
    (∃ (s : State) (k : BitVec 18) (f : Tick), (s.session k.toNat).ship.recordAt = some f ∧ (s.session k.toNat).st = SessState.shipping ∧ Tick.since s.clk.tick f < s.num O.handoverWait) ∧
    (∃ (s : State) (k : BitVec 18) (f : Tick), (s.session k.toNat).ship.recordAt = some f ∧ (s.session k.toNat).st = SessState.shipping ∧ s.num O.handoverWait ≤ Tick.since s.clk.tick f ∧ (s.session k.toNat).ship.tries = 0) ∧
    (∃ (s : State) (k : BitVec 18), (s.session k.toNat).st = SessState.shipping ∧ (s.session k.toNat).ship.granted = false ∧ Tick.since s.clk.tick (s.session k.toNat).ship.since < s.num O.handoverWait) ∧
    (∃ (s : State) (k : BitVec 18), (s.session k.toNat).st = SessState.shipping ∧ (s.session k.toNat).ship.granted = false ∧ s.num O.handoverWait ≤ Tick.since s.clk.tick (s.session k.toNat).ship.since) ∧
    (∃ (s : State) (k : BitVec 18), (s.session k.toNat).st = SessState.parked ∧ Tick.atLeast s.clk.tick (s.session k.toNat).expiry = false) ∧
    (∃ (s : State) (k : BitVec 18), (s.session k.toNat).st = SessState.parked ∧ Tick.atLeast s.clk.tick (s.session k.toNat).expiry = true) ∧
    (∃ (s : State) (k : BitVec 18) (f : Tick), (s.session k.toNat).quotaSince = some f ∧ (s.session k.toNat).st ≠ SessState.free ∧ Tick.since s.clk.tick f < s.num O.quotaWait) ∧
    (∃ (s : State) (k : BitVec 18) (f : Tick), (s.session k.toNat).quotaSince = some f ∧ (s.session k.toNat).st ≠ SessState.free ∧ s.num O.quotaWait ≤ Tick.since s.clk.tick f) := by
  refine ⟨?_, ?_, ?_, ?_, ?_, ?_, ?_, ?_, ?_, ?_, ?_, ?_, ?_, ?_, ?_, ?_⟩
  · refine ⟨inState .serving, 0, ?_, ?_⟩
    · decide +kernel
    · decide +kernel
  · refine ⟨inState .serving, 0, 1, ?_, ?_, ?_⟩
    · decide +kernel
    · decide +kernel
    · decide +kernel
  · refine ⟨inState .serving, 5, [], ?_⟩
    decide +kernel
  · refine ⟨shipping (inState .serving) {}, 5, replyBytes 0 0 0 0 0, 0, ?_, ?_, ?_⟩
    · decide +kernel
    · decide +kernel
    · decide +kernel
  · refine ⟨shipping (inState .serving) {}, 5, replyBytes 1 0 0 0 0, 0, ?_, ?_, ?_, ?_, ?_, ?_⟩
    · decide +kernel
    · decide +kernel
    · decide +kernel
    · decide +kernel
    · decide +kernel
    · decide +kernel
  · refine ⟨shipping (inState .serving) { recordAt := some 0 }, 5, replyBytes 3 0 0 0 0, 0, ?_, ?_, ?_, ?_, ?_⟩
    · decide +kernel
    · decide +kernel
    · decide +kernel
    · decide +kernel
    · decide +kernel
  · refine ⟨shipping (inState .serving) { recordAt := some 0, tries := 2 }, 5, replyBytes 3 0 0 0 0, 0, ?_, ?_, ?_, ?_, ?_⟩
    · decide +kernel
    · decide +kernel
    · decide +kernel
    · decide +kernel
    · decide +kernel
  · refine ⟨shipping (inState .serving) { recordAt := some 0 }, 5, replyBytes 2 0 0 0 0, 0, ?_, ?_, ?_, ?_⟩
    · decide +kernel
    · decide +kernel
    · decide +kernel
    · decide +kernel
  · refine ⟨shipping (inState .serving) { recordAt := some 0 }, 0, 0, ?_, ?_, ?_⟩
    · decide +kernel
    · decide +kernel
    · decide +kernel
  · refine ⟨shipping { inState .serving with clk.tick := 0x100000000000 } { recordAt := some 0 }, 0, 0, ?_, ?_, ?_, ?_⟩
    · decide +kernel
    · decide +kernel
    · decide +kernel
    · decide +kernel
  · refine ⟨shipping (inState .serving) {}, 0, ?_, ?_, ?_⟩
    · decide +kernel
    · decide +kernel
    · decide +kernel
  · refine ⟨shipping { inState .serving with clk.tick := 0x100000000000 } {}, 0, ?_, ?_, ?_⟩
    · decide +kernel
    · decide +kernel
    · decide +kernel
  · refine ⟨withSession (inState .serving) { st := .parked, expiry := 1 }, 0, ?_, ?_⟩
    · decide +kernel
    · decide +kernel
  · refine ⟨withSession (inState .serving) { st := .parked }, 0, ?_, ?_⟩
    · decide +kernel
    · decide +kernel
  · refine ⟨withSession (inState .serving) { st := .active, quotaSince := some 0 }, 0, 0, ?_, ?_, ?_⟩
    · decide +kernel
    · decide +kernel
    · decide +kernel
  · refine ⟨withSession { inState .serving with clk.tick := 0x100000000000 } { st := .active, quotaSince := some 0 }, 0, 0, ?_, ?_, ?_⟩
    · decide +kernel
    · decide +kernel
    · decide +kernel

/-- Every hypothesis of HandoverTarget is met. -/
theorem witness_handover_target :
    (∃ (s : State) (b : List Byte), rcrcOk b = false ∨ u8 b 0 ≠ 29 ∨ s.pkg.st.hubRuns = false) ∧
    (∃ (s : State) (b : List Byte), rcrcOk b = true ∧ u8 b 0 = 29 ∧ s.pkg.st.hubRuns = true ∧ (s.handoverStatus b ≠ 0 ∨ s.freeSlot = none)) ∧
    (∃ (s : State) (b : List Byte) (k : Nat), rcrcOk b = true ∧ u8 b 0 = 29 ∧ s.pkg.st.hubRuns = true ∧ s.handoverStatus b = 0 ∧ s.freeSlot = some k) ∧
    (∃ (s : State) (b : List Byte), s.shipment (BitVec.ofNat 64 (u64 b 16)) = none) ∧
    (∃ (s : State) (b : List Byte) (h : Shipment), s.shipment (BitVec.ofNat 64 (u64 b 16)) = some h ∧ h.accepted = none ∧ h.failed = 0) ∧
    (∃ (s : State) (src : Node) (b : List Byte) (h : Shipment), s.shipment (BitVec.ofNat 64 (u64 b 16)) = some h ∧ h.src = src ∧ h.accepted = none ∧ h.failed = 0 ∧ h.check b (if (BitVec.ofNat 64 (u64 b 16)).toNat % 2 = 0 then s.serving.main else s.serving.draft) ≠ 0) ∧
    (∃ (s : State) (src : Node) (b : List Byte) (h : Shipment), s.shipment (BitVec.ofNat 64 (u64 b 16)) = some h ∧ h.src = src ∧ h.accepted = none ∧ h.failed = 0 ∧ h.check b (if (BitVec.ofNat 64 (u64 b 16)).toNat % 2 = 0 then s.serving.main else s.serving.draft) = 0) ∧
    (∃ (s : State) (id : W64) (h : Shipment), s.shipment id = some h ∧ h.accepted = none ∧ h.failed = 0 ∧ Tick.since s.clk.tick h.firstAt < 1000000) ∧
    (∃ (s : State) (id : W64) (h : Shipment), s.shipment id = some h ∧ h.accepted = none ∧ h.failed = 0 ∧ 1000000 ≤ Tick.since s.clk.tick h.firstAt) ∧
    (∃ (s : State) (src : Node) (b : List Byte), List.find? (fun g ↦ g.src == src && g.tag == BitVec.ofNat 64 (u64 b 8)) s.ses.grants = none ∧ s.shipment (BitVec.ofNat 64 (u64 b 16)) = none ∧ u8 b 3 = 0) ∧
    (∃ (s : State) (src : Node) (b : List Byte) (g : GrantHold), List.find? (fun g ↦ g.src == src && g.tag == BitVec.ofNat 64 (u64 b 8)) s.ses.grants = some g ∧ s.shipment (BitVec.ofNat 64 (u64 b 16)) = none ∧ u8 b 3 = 0) ∧
    (∃ (s : State) (src : Node) (b : List Byte) (g : GrantHold) (m : Shipment), List.find? (fun g ↦ g.src == src && g.tag == BitVec.ofNat 64 (u64 b 8)) s.ses.grants = some g ∧ s.shipment (BitVec.ofNat 64 (u64 b 16)) = some m ∧ m.accepted = some (u32 b 44) ∧ m.tag = BitVec.ofNat 64 (u64 b 8) ∧ rcrcOk b = true ∧ u8 b 0 = 30 ∧ u8 b 3 = 0 ∧ u8 b 48 = g.tenant) := by
  refine ⟨?_, ?_, ?_, ?_, ?_, ?_, ?_, ?_, ?_, ?_, ?_, ?_⟩
  · refine ⟨inState .ready, [], ?_⟩
    decide +kernel
  · refine ⟨inState .serving, withRcrc [0x1D], ?_, ?_, ?_, ?_⟩
    · decide +kernel
    · decide +kernel
    · decide +kernel
    · decide +kernel
  · refine ⟨{ ((inState .serving).setNum (O.tenActive 0) 1).setNum (O.hodEnable 0) 1 with wts.k0.st := .live }, withRcrc [0x1D], 0, ?_, ?_, ?_, ?_, ?_⟩
    · decide +kernel
    · decide +kernel
    · decide +kernel
    · decide +kernel
    · decide +kernel
  · refine ⟨inState .serving, [], ?_⟩
    decide +kernel
  · refine ⟨{ inState .serving with ses.shipments := [{}] }, [], {}, ?_, ?_, ?_⟩
    · decide +kernel
    · decide +kernel
    · decide +kernel
  · refine ⟨{ inState .serving with ses.shipments := [{}] }, 0, [], {}, ?_, ?_, ?_, ?_, ?_⟩
    · decide +kernel
    · decide +kernel
    · decide +kernel
    · decide +kernel
    · decide +kernel
  · refine ⟨{ inState .serving with ses.shipments := [{}] }, 0, withRcrc [], {}, ?_, ?_, ?_, ?_, ?_⟩
    · decide +kernel
    · decide +kernel
    · decide +kernel
    · decide +kernel
    · decide +kernel
  · refine ⟨{ inState .serving with ses.shipments := [{}] }, 0, {}, ?_, ?_, ?_, ?_⟩
    · decide +kernel
    · decide +kernel
    · decide +kernel
    · decide +kernel
  · refine ⟨{ inState .serving with ses.shipments := [{}], clk.tick := 1000000 }, 0, {}, ?_, ?_, ?_, ?_⟩
    · decide +kernel
    · decide +kernel
    · decide +kernel
    · decide +kernel
  · refine ⟨inState .serving, 0, [], ?_, ?_, ?_⟩
    · decide +kernel
    · decide +kernel
    · decide +kernel
  · refine ⟨{ inState .serving with ses.grants := [{}] }, 0, [], {}, ?_, ?_, ?_⟩
    · decide +kernel
    · decide +kernel
    · decide +kernel
  · refine ⟨{ inState .serving with ses.grants := [{}], ses.shipments := [{ accepted := some 0 }] }, 0, withRcrc [30], {}, { accepted := some 0 }, ?_, ?_, ?_, ?_, ?_, ?_, ?_, ?_⟩
    · decide +kernel
    · decide +kernel
    · decide +kernel
    · decide +kernel
    · decide +kernel
    · decide +kernel
    · decide +kernel
    · decide +kernel

/-- Every hypothesis of HodSampling is met. -/
theorem witness_hod_sampling :
    (∃ (s : State) (h : Fin 64), s.dueBefore 5 = false ∧ s.badIn [(s.hodSlot (↑h) (s.hodNum (↑h) O.hodConsumerIndex), 64)] = [] ∧ s.pkg.st.hubRuns = true ∧ s.pkg.st ≠ PkgState.covering ∧ s.clk.counting = true ∧ s.samplesAt ↑h = true ∧ (s.hodRt ↑h).waiting = [] ∧ (s.hodRt ↑h).sampled ≠ some s.clk.tick ∧ s.hodNum (↑h) O.hodTakeLimit = 1 ∧ s.peek (s.hodSlot (↑h) (s.hodNum (↑h) O.hodConsumerIndex)) 4 = (leBytes 4 (s.hodNum (↑h) O.hodConsumerIndex), false) ∧ s.peek (s.hodSlot (↑h) (s.hodNum (↑h) O.hodConsumerIndex) + 60) 4 = (leBytes 4 (s.hodNum (↑h) O.hodConsumerIndex), false) ∧ s.hodNum (↑h) O.hodConsumerIndex < 2 ^ 32 ∧ s.intakeStatus false (have __src := readHodRecord (↑h) (BitVec.ofNat 32 (s.hodNum (↑h) O.hodConsumerIndex)) (s.peek (s.hodSlot (↑h) (s.hodNum (↑h) O.hodConsumerIndex)) 64).fst; { hod := __src.hod, seq := __src.seq, op := __src.op, cls := __src.cls, draftMax := __src.draftMax, profile := __src.profile, tag := __src.tag, tokenAddr := __src.tokenAddr, count := __src.count, maxNew := __src.maxNew, seed := __src.seed, deadline := __src.deadline, tenant := s.hodNum (↑h) O.hodTenant }) (s.peek (s.hodSlot (↑h) (s.hodNum (↑h) O.hodConsumerIndex)) 64).fst (s.peek (s.hodSlot (↑h) (s.hodNum (↑h) O.hodConsumerIndex)) 64).snd = 0) ∧
    (∃ (s : State) (h : Fin 64), s.dueBefore 5 = false ∧ s.badIn [(s.hodSlot (↑h) (s.hodNum (↑h) O.hodConsumerIndex), 64)] = [] ∧ s.pkg.st.hubRuns = true ∧ s.pkg.st ≠ PkgState.covering ∧ s.clk.counting = true ∧ s.samplesAt ↑h = true ∧ (s.hodRt ↑h).waiting = [] ∧ (s.hodRt ↑h).sampled ≠ some s.clk.tick ∧ s.hodNum (↑h) O.hodTakeLimit = 1 ∧ s.peek (s.hodSlot (↑h) (s.hodNum (↑h) O.hodConsumerIndex)) 4 = (leBytes 4 (s.hodNum (↑h) O.hodConsumerIndex), false) ∧ s.peek (s.hodSlot (↑h) (s.hodNum (↑h) O.hodConsumerIndex) + 60) 4 = (leBytes 4 (s.hodNum (↑h) O.hodConsumerIndex), false) ∧ s.hodNum (↑h) O.hodConsumerIndex < 2 ^ 32 ∧ s.intakeStatus false (have __src := readHodRecord (↑h) (BitVec.ofNat 32 (s.hodNum (↑h) O.hodConsumerIndex)) (s.peek (s.hodSlot (↑h) (s.hodNum (↑h) O.hodConsumerIndex)) 64).fst; { hod := __src.hod, seq := __src.seq, op := __src.op, cls := __src.cls, draftMax := __src.draftMax, profile := __src.profile, tag := __src.tag, tokenAddr := __src.tokenAddr, count := __src.count, maxNew := __src.maxNew, seed := __src.seed, deadline := __src.deadline, tenant := s.hodNum (↑h) O.hodTenant }) (s.peek (s.hodSlot (↑h) (s.hodNum (↑h) O.hodConsumerIndex)) 64).fst (s.peek (s.hodSlot (↑h) (s.hodNum (↑h) O.hodConsumerIndex)) 64).snd ≠ 0) ∧
    (∃ (s : State) (h : Fin 64), s.dueBefore 5 = false ∧ s.badIn [(s.hodSlot (↑h) (s.hodNum (↑h) O.hodConsumerIndex), 4), (s.hodSlot (↑h) (s.hodNum (↑h) O.hodConsumerIndex) + 60, 4)] = [] ∧ s.pkg.st.hubRuns = true ∧ s.pkg.st ≠ PkgState.covering ∧ s.clk.counting = true ∧ s.samplesAt ↑h = true ∧ (s.hodRt ↑h).waiting = [] ∧ (s.hodRt ↑h).sampled ≠ some s.clk.tick ∧ s.hodNum (↑h) O.hodTakeLimit = 1 ∧ (s.peek (s.hodSlot (↑h) (s.hodNum (↑h) O.hodConsumerIndex)) 4).snd = false ∧ ofLe (s.peek (s.hodSlot (↑h) (s.hodNum (↑h) O.hodConsumerIndex)) 4).fst = s.hodNum (↑h) O.hodConsumerIndex ∧ (s.peek (s.hodSlot (↑h) (s.hodNum (↑h) O.hodConsumerIndex) + 60) 4).snd = false ∧ ofLe (s.peek (s.hodSlot (↑h) (s.hodNum (↑h) O.hodConsumerIndex) + 60) 4).fst ≠ s.hodNum (↑h) O.hodConsumerIndex ∧ (s.hodRt ↑h).tornSince = none) ∧
    (∃ (s : State) (h : Fin 64), s.dueBefore 5 = false ∧ s.pkg.st ≠ PkgState.covering ∧ s.samplesAt ↑h = false) := by
  refine ⟨?_, ?_, ?_, ?_⟩
  · refine ⟨{ ((reachable (inState .serving)).setNum (O.hodEnable 0) 1).setNum (O.hodTakeLimit 0) 1 with clk.counting := true, mem.mem := [(4, 1), (24, 1), (28, 1)] }, 0, ?_, ?_, ?_, ?_, ?_, ?_, ?_, ?_, ?_, ?_, ?_, ?_, ?_⟩
    · decide +kernel
    · decide +kernel
    · decide +kernel
    · decide +kernel
    · decide +kernel
    · decide +kernel
    · decide +kernel
    · decide +kernel
    · decide +kernel
    · decide +kernel
    · decide +kernel
    · decide +kernel
    · decide +kernel
  · refine ⟨{ ((reachable (inState .serving)).setNum (O.hodEnable 0) 1).setNum (O.hodTakeLimit 0) 1 with clk.counting := true }, 0, ?_, ?_, ?_, ?_, ?_, ?_, ?_, ?_, ?_, ?_, ?_, ?_, ?_⟩
    · decide +kernel
    · decide +kernel
    · decide +kernel
    · decide +kernel
    · decide +kernel
    · decide +kernel
    · decide +kernel
    · decide +kernel
    · decide +kernel
    · decide +kernel
    · decide +kernel
    · decide +kernel
    · decide +kernel
  · refine ⟨{ ((reachable (inState .serving)).setNum (O.hodEnable 0) 1).setNum (O.hodTakeLimit 0) 1 with clk.counting := true, mem.mem := [(60, 1)] }, 0, ?_, ?_, ?_, ?_, ?_, ?_, ?_, ?_, ?_, ?_, ?_, ?_, ?_, ?_⟩
    · decide +kernel
    · decide +kernel
    · decide +kernel
    · decide +kernel
    · decide +kernel
    · decide +kernel
    · decide +kernel
    · decide +kernel
    · decide +kernel
    · decide +kernel
    · decide +kernel
    · decide +kernel
    · decide +kernel
    · decide +kernel
  · refine ⟨inState .serving, 0, ?_, ?_, ?_⟩
    · decide +kernel
    · decide +kernel
    · decide +kernel

/-- Every hypothesis of HodsTenantsAndEvents is met. -/
theorem witness_hods_tenants_and_events :
    (∃ (s : State) (p : Path) (h : Fin 64), passes s p (O.hodEnable ↑h) (ObjVal.num 0)) ∧
    (∃ (s : State) (p : Path) (h : Fin 64), passes s p (O.hodEnable ↑h) (ObjVal.num 1) ∧ s.num (O.hodEnable ↑h) ≠ 1 ∧ s.ringsOk ↑h = true) ∧
    (∃ (s : State) (p : Path) (h : Fin 64), passes s p (O.hodEnable ↑h) (ObjVal.num 1) ∧ s.num (O.hodEnable ↑h) ≠ 1 ∧ s.ringsOk ↑h = false) ∧
    (∃ (s : State) (p : Path) (x : Byte), BitVec.toNat x < 64 ∧ passes s p (O.tenActive (BitVec.toNat x)) (ObjVal.num 1) ∧ (s.clk.mode ≠ ClockState.holdover ∧ s.num O.rackState ≠ 1 ∨ (s.sessionsOpen.any fun e ↦ e.snd.tenant == BitVec.toNat x && !e.snd.covered) = true)) ∧
    (∃ (s : State) (p : Path) (x : Byte), BitVec.toNat x < 64 ∧ passes s p (O.tenActive (BitVec.toNat x)) (ObjVal.num 1) ∧ (s.sessionsOpen.any fun e ↦ e.snd.tenant == BitVec.toNat x && !e.snd.covered) = false ∧ s.clk.mode = ClockState.holdover) ∧
    (∃ (s : State) (p : Path) (x : Byte), BitVec.toNat x < 64 ∧ passes s p (O.tenActive (BitVec.toNat x)) (ObjVal.num 1) ∧ (s.sessionsOpen.any fun e ↦ e.snd.tenant == BitVec.toNat x && !e.snd.covered) = false ∧ s.clk.mode ≠ ClockState.holdover ∧ s.num O.rackState = 1) ∧
    (∃ (s : State) (p : Path) (x : Byte), BitVec.toNat x < 64 ∧ passes s p (O.tenActive (BitVec.toNat x)) (ObjVal.num 0)) ∧
    (∃ (s : State) (p : Path) (req : List Byte), passes s p O.splice (ObjVal.bytes req) ∧ allZero (slice req 1 7) = true ∧ u64 req 24 = 0 ∧ s.spliceError req = Err.ok) ∧
    (∃ (s : State) (p : Path) (req : List Byte), passes s p O.splice (ObjVal.bytes req) ∧ allZero (slice req 1 7) = true ∧ u64 req 24 = 0 ∧ s.spliceError req ≠ Err.ok) ∧
    (∃ (s : State) (p : Path) (req : List Byte), passes s p O.rampEvent (ObjVal.bytes req) ∧ u64 req 0 < 2 ^ 48 ∧ u16 req 14 = 0 ∧ (u32 req 8 = 0 ∨ 10 ≤ u32 req 8 ∧ u32 req 8 ≤ 100000) ∧ (u16 req 12 = 0 ∨ 600 ≤ u16 req 12 ∧ u16 req 12 ≤ 2200)) := by
  refine ⟨?_, ?_, ?_, ?_, ?_, ?_, ?_, ?_, ?_, ?_⟩
  · refine ⟨(inState .ready).setNum (O.hodEnable 0) 1, ctl, 0, ?_⟩
    unfold passes; decide +kernel
  · refine ⟨(reachable (inState .ready)).setNum (O.hodReturnBase 0) 0x10000, ctl, 0, ?_, ?_, ?_⟩
    · unfold passes; decide +kernel
    · decide +kernel
    · decide +kernel
  · refine ⟨inState .ready, ctl, 0, ?_, ?_, ?_⟩
    · unfold passes; decide +kernel
    · decide +kernel
    · decide +kernel
  · refine ⟨inState .ready, ctl, 0, ?_, ?_, ?_⟩
    · decide +kernel
    · unfold passes; decide +kernel
    · decide +kernel
  · refine ⟨{ inState .ready with clk.mode := .holdover }, ctl, 0, ?_, ?_, ?_, ?_⟩
    · decide +kernel
    · unfold passes; decide +kernel
    · decide +kernel
    · decide +kernel
  · refine ⟨(inState .ready).setNum O.rackState 1, ctl, 0, ?_, ?_, ?_, ?_, ?_⟩
    · decide +kernel
    · unfold passes; decide +kernel
    · decide +kernel
    · decide +kernel
    · decide +kernel
  · refine ⟨inState .ready, ctl, 0, ?_, ?_⟩
    · decide +kernel
    · unfold passes; decide +kernel
  · refine ⟨{ inState .serving with ses.table := [(0, { st := .held, tag := 1, main.length := 64, main.ptPages := 2 }), (1, { st := .held, tag := 2, main.length := 64 })] }, ctl, zeros 8 ++ leBytes 8 1 ++ leBytes 8 2 ++ zeros 8, ?_, ?_, ?_, ?_⟩
    · unfold passes; decide +kernel
    · decide +kernel
    · decide +kernel
    · decide +kernel
  · refine ⟨inState .ready, ctl, zeros 32, ?_, ?_, ?_, ?_⟩
    · unfold passes; decide +kernel
    · decide +kernel
    · decide +kernel
    · decide +kernel
  · refine ⟨{ inState .ready with clk.held := true }, ctl, leBytes 8 1000 ++ zeros 8, ?_, ?_, ?_, ?_, ?_⟩
    · unfold passes; decide +kernel
    · decide +kernel
    · decide +kernel
    · decide +kernel
    · decide +kernel

/-- Every hypothesis of HoldsAndLimits is met. -/
theorem witness_holds_and_limits :
    (∃ (s : State), BitVec.toNat s.clk.tick % 1000 = 0 ∧ s.pwr.ivTicks ≠ 0) ∧
    (∃ (s : State), BitVec.toNat s.clk.tick % 100 ≠ 0) ∧
    (∃ (s : State), s.pkg.st.hubRuns = true ∧ BitVec.toNat s.clk.tick % 100 = 0 ∧ s.sec.calDefaults = true ∧ s.num O.tjHold = O.tjHold.dflt ∧ s.num O.hbmHold = O.hbmHold.dflt ∧ (∀ (q : Nat), q < 4 → (s.rein q).thermal < 64)) ∧
    (∃ (s : State) (k : Fin 52) (r : Int), s.pkg.st.hubRuns = true ∧ ↑k < 36 ∧ r + s.sensorOffset ↑k > s.tempLimit O.tjTrip) ∧
    (∃ (s : State) (e : Sched) (r : Nat) (c : Nat), s.dueEvent Ev.isRamp = some e ∧ e.ev = Ev.ramp r c) ∧
    (∃ (s : State) (e : Sched), (s.dueEvent fun e ↦ e == Ev.preRamp) = some e ∧ s.num O.fillEnable = 1 ∧ s.crs.own.nextNominal.isSome = true) ∧
    (∃ (s : State) (c : Tick), s.pwr.clearSince = some c ∧ s.pwr.supplyPull = true ∧ s.pwr.silent = false ∧ (∀ (x : Tele), s.pwr.tele = some x → x.inputLow = false) ∧ s.num O.pgRelease ≤ Tick.since s.clk.tick c) ∧
    (∃ (s : State) (k : Nat), s.pwr.rackFrom = some k ∧ s.pkg.st.hubRuns = true ∧ k + 1000 * s.num O.rackTimeout ≤ s.us) := by
  refine ⟨?_, ?_, ?_, ?_, ?_, ?_, ?_, ?_⟩
  · refine ⟨{ inState .ready with pwr.ivTicks := 1 }, ?_, ?_⟩
    · decide +kernel
    · decide +kernel
  · refine ⟨{ inState .ready with clk.tick := 1 }, ?_⟩
    decide +kernel
  · refine ⟨{ inState .ready with sec.calDefaults := true, pwr.reins := [(0, { thermal := 0 }), (1, { thermal := 0 }), (2, { thermal := 0 }), (3, { thermal := 0 })] }, ?_, ?_, ?_, ?_, ?_, ?_⟩
    · decide +kernel
    · decide +kernel
    · decide +kernel
    · decide +kernel
    · decide +kernel
    · decide +kernel
  · refine ⟨{ inState .ready with sec.calDefaults := true }, 0, 100000, ?_, ?_, ?_⟩
    · decide +kernel
    · decide +kernel
    · decide +kernel
  · refine ⟨{ inState .ready with clk.events := [{ ev := .ramp 0 0 }] }, { ev := .ramp 0 0 }, 0, 0, ?_, ?_⟩
    · decide +kernel
    · decide +kernel
  · refine ⟨{ (inState .ready).setNum O.fillEnable 1 with clk.events := [{ ev := .preRamp }], crs.own.nextNominal := some 0 }, { ev := .preRamp }, ?_, ?_, ?_⟩
    · decide +kernel
    · decide +kernel
    · decide +kernel
  · refine ⟨{ late (inState .ready) with pwr.clearSince := some 0, pwr.supplyPull := true }, 0, ?_, ?_, ?_, ?_, ?_⟩
    · decide +kernel
    · decide +kernel
    · decide +kernel
    · decide +kernel
    · decide +kernel
  · refine ⟨{ aged (inState .ready) with pwr.rackFrom := some 0 }, 0, ?_, ?_, ?_⟩
    · decide +kernel
    · decide +kernel
    · decide +kernel

/-- Every hypothesis of IcxEvents is met. -/
theorem witness_icx_events :
    (∃ (s : State), s.pkg.st ≠ PkgState.off ∧ s.pkg.st.mgmtOnly = false ∧ s.icx.doze = true) ∧
    (∃ (s : State) (src : Nat), s.pkg.st ≠ PkgState.off ∧ s.pkg.st.mgmtOnly = false ∧ s.icx.doze = false ∧ 5 ≤ src ∧ s.coreRoute src ≠ 255 ∧ s.icx.en.getLsbD src = true ∧ s.hostLine src = 255) ∧
    (∃ (s : State) (src : Nat), s.pkg.st ≠ PkgState.off ∧ s.pkg.st.mgmtOnly = false ∧ s.icx.doze = false ∧ 5 ≤ src ∧ src < 512 ∧ s.hostLine src ≠ 255 ∧ s.heldOff (src / 16) = false ∧ s.num (O.icxGroupHoldoff (src / 16)) = 0 ∧ s.num O.groupCount ≠ 0) ∧
    (∃ (s : State) (g : Fin 32) (due : Tick), SMap.find s.icx.holdEnds ↑g = some due ∧ (Tick.atLeast s.clk.tick due = false ∨ s.icx.doze = true)) ∧
    (∃ (s : State) (g : Fin 32) (due : Tick), SMap.find s.icx.holdEnds ↑g = some due ∧ s.icx.doze = false ∧ Tick.atLeast s.clk.tick due = true ∧ List.filter s.icx.hpend.getLsbD (List.map (fun i ↦ 16 * ↑g + i) (List.range 16)) = []) ∧
    (∃ (s : State) (g : Fin 32) (due : Tick) (x : Nat), SMap.find s.icx.holdEnds ↑g = some due ∧ s.icx.doze = false ∧ Tick.atLeast s.clk.tick due = true ∧ List.filter s.icx.hpend.getLsbD (List.map (fun i ↦ 16 * ↑g + i) (List.range 16)) = [x] ∧ s.num O.groupCount ≠ 0) ∧
    (∃ (s : State) (src : Fin 5) (f : Tick), s.icx.doze = false ∧ SMap.find s.icx.coalFirst ↑src = some f ∧ Tick.atLeast s.clk.tick f = true ∧ s.num (O.icxCoalesce ↑src) % 65536 ≤ Tick.since s.clk.tick f) ∧
    (∃ (s : State), s.num O.dozeEnable = 1 ∧ (s.pkg.st = PkgState.ready ∨ s.pkg.st = PkgState.drained) ∧ s.anyClaimable = [] ∧ s.eventWithin 100 = false ∧ s.windowWithin 100 = false ∧ s.icx.doze = false) ∧
    (∃ (s : State), s.icx.doze = false) ∧
    (∃ (s : State), s.icx.doze = true) := by
  refine ⟨?_, ?_, ?_, ?_, ?_, ?_, ?_, ?_, ?_, ?_⟩
  · refine ⟨{ inState .ready with icx.doze := true }, ?_, ?_, ?_⟩
    · decide +kernel
    · decide +kernel
    · decide +kernel
  · refine ⟨{ inState .ready with icx.en := 0x10000 }, 16, ?_, ?_, ?_, ?_, ?_, ?_, ?_⟩
    · decide +kernel
    · decide +kernel
    · decide +kernel
    · decide +kernel
    · decide +kernel
    · decide +kernel
    · decide +kernel
  · refine ⟨((inState .ready).setNum (O.icxHostLine 5) 1).setNum O.groupCount 1, 5, ?_, ?_, ?_, ?_, ?_, ?_, ?_, ?_, ?_⟩
    · decide +kernel
    · decide +kernel
    · decide +kernel
    · decide +kernel
    · decide +kernel
    · decide +kernel
    · decide +kernel
    · decide +kernel
    · decide +kernel
  · refine ⟨{ inState .ready with icx.holdEnds := [(0, 1)] }, 0, 1, ?_, ?_⟩
    · decide +kernel
    · decide +kernel
  · refine ⟨{ inState .ready with icx.holdEnds := [(0, 0)] }, 0, 0, ?_, ?_, ?_, ?_⟩
    · decide +kernel
    · decide +kernel
    · decide +kernel
    · decide +kernel
  · refine ⟨{ (inState .ready).setNum O.groupCount 1 with icx.holdEnds := [(0, 0)], icx.hpend := 8 }, 0, 0, 3, ?_, ?_, ?_, ?_, ?_⟩
    · decide +kernel
    · decide +kernel
    · decide +kernel
    · decide +kernel
    · decide +kernel
  · refine ⟨{ late (inState .ready) with icx.coalFirst := [(0, 0)] }, 0, 0, ?_, ?_, ?_, ?_⟩
    · decide +kernel
    · decide +kernel
    · decide +kernel
    · decide +kernel
  · refine ⟨(inState .ready).setNum O.dozeEnable 1, ?_, ?_, ?_, ?_, ?_, ?_⟩
    · decide +kernel
    · decide +kernel
    · decide +kernel
    · decide +kernel
    · decide +kernel
    · decide +kernel
  · refine ⟨inState .ready, ?_⟩
    decide +kernel
  · refine ⟨{ inState .ready with icx.doze := true }, ?_⟩
    decide +kernel

/-- Every hypothesis of IcxRegisters is met. -/
theorem witness_icx_registers :
    (∃ (s : State) (c : Fin 4) (who : Requester), s.icx.doze = false ∧ (who ≠ Requester.control c ∨ s.pick ↑c = none)) ∧
    (∃ (s : State) (c : Fin 4) (src : Nat), s.icx.doze = false ∧ s.pick ↑c = some src ∧ (s.icxStack ↑c).length < 16) ∧
    (∃ (s : State) (who : Requester) (c : Fin 4) (v : W32) (rest : List Nat), s.icx.doze = false ∧ isCtl who = true ∧ s.icxStack ↑c = BitVec.toNat v % 512 :: rest) ∧
    (∃ (s : State) (who : Requester) (c : Fin 4) (v : W32) (x : Nat) (rest : List Nat), s.icx.doze = false ∧ isCtl who = true ∧ s.icxStack ↑c = x :: rest ∧ x ≠ BitVec.toNat v % 512) ∧
    (∃ (s : State) (who : Requester), s.icx.doze = false ∧ isCtl who = true) ∧
    (∃ (s : State) (who : Requester), s.icx.doze = false ∧ isCtl who = false) ∧
    (∃ (s : State) (v : W32), s.icx.doze = false ∧ 256 ≤ BitVec.toNat v % 512) ∧
    (∃ (s : State) (v : W32), s.icx.doze = false ∧ BitVec.toNat v % 512 < 256) := by
  refine ⟨?_, ?_, ?_, ?_, ?_, ?_, ?_, ?_⟩
  · refine ⟨inState .ready, 0, .host, ?_, ?_⟩
    · decide +kernel
    · decide +kernel
  · refine ⟨{ inState .ready with icx.pend := 0x10000, icx.en := 0x10000 }, 0, 16, ?_, ?_, ?_⟩
    · decide +kernel
    · decide +kernel
    · decide +kernel
  · refine ⟨{ inState .ready with icx.running := [(0, [16])] }, .control 0, 0, 16, [], ?_, ?_, ?_⟩
    · decide +kernel
    · decide +kernel
    · decide +kernel
  · refine ⟨{ inState .ready with icx.running := [(0, [16])] }, .control 0, 0, 17, 16, [], ?_, ?_, ?_, ?_⟩
    · decide +kernel
    · decide +kernel
    · decide +kernel
    · decide +kernel
  · refine ⟨inState .ready, .control 0, ?_, ?_⟩
    · decide +kernel
    · decide +kernel
  · refine ⟨inState .ready, .host, ?_, ?_⟩
    · decide +kernel
    · decide +kernel
  · refine ⟨inState .ready, 256, ?_, ?_⟩
    · decide +kernel
    · decide +kernel
  · refine ⟨inState .ready, 0, ?_, ?_⟩
    · decide +kernel
    · decide +kernel

/-- Every hypothesis of IdleTick is met. -/
theorem witness_idle_tick :
    (∃ (s : State), s.pending = []) ∧
    (∃ (s : State), s.pkg.st = PkgState.off) ∧
    (∃ (s : State), s.pkg.st.hubRuns = true) ∧
    (∃ (s : State), s.pkg.st.hubRuns = false) := by
  refine ⟨?_, ?_, ?_, ?_⟩
  · refine ⟨inState .ready, ?_⟩
    decide +kernel
  · refine ⟨inState .off, ?_⟩
    decide +kernel
  · refine ⟨inState .ready, ?_⟩
    decide +kernel
  · refine ⟨inState .halt, ?_⟩
    decide +kernel

/-- Every hypothesis of LinkReception is met. -/
theorem witness_link_reception :
    (∃ (s : State) (p : Port) (lanes : List (Nat × List Symbol)), (s.port ↑p).st = PortState.active ∧ decodeFec (fromLanes ((s.port ↑p).readGroup (List.map (fun x ↦ x.fst) lanes)) lanes) = none ∧ (s.port ↑p).waiting = false) ∧
    (∃ (s : State) (p : Port) (lanes : List (Nat × List Symbol)) (b : List Byte) (n : Nat), (s.port ↑p).st = PortState.active ∧ decodeFec (fromLanes ((s.port ↑p).readGroup (List.map (fun x ↦ x.fst) lanes)) lanes) = some (b, n) ∧ fieldLe b 232 4 = BitVec.toNat (crc32c (List.take 232 b)) ∧ (flitHead b).typ = 1 ∧ (flitHead b).fseq = (s.port ↑p).rxNext) ∧
    (∃ (s : State) (p : Port) (fseq : BitVec 10), (s.port ↑p).st = PortState.active ∧ List.findIdx? (fun e ↦ e.fst == fseq) (s.port ↑p).buffer = none) ∧
    (∃ (s : State) (p : Port) (fseq : BitVec 10) (i : Nat), (s.port ↑p).st = PortState.active ∧ List.findIdx? (fun e ↦ e.fst == fseq) (s.port ↑p).buffer = some i) ∧
    (∃ (s : State) (p : Port), (s.port ↑p).st = PortState.active ∧ (s.port ↑p).waiting = false) ∧
    (∃ (s : State) (p : Port), (s.port ↑p).st = PortState.active ∧ (s.port ↑p).waiting = true) ∧
    (∃ (s : State) (p : Port), (s.port ↑p).st = PortState.active) ∧
    (∃ (s : State) (p : Port), (s.port ↑p).st = PortState.active ∧ (s.port ↑p).failRun < 64) ∧
    (∃ (s : State) (p : Port) (b : Nat), (s.port ↑p).st = PortState.active ∧ (s.port ↑p).echoCount = 63 ∧ (s.port ↑p).echoBest = some b) := by
  refine ⟨?_, ?_, ?_, ?_, ?_, ?_, ?_, ?_, ?_⟩
  · refine ⟨withPort (inState .ready) 0 { st := .active, rxLanes := 255 }, 0, toLanes 255 (List.replicate 256 1), ?_, ?_, ?_⟩
    · decide +kernel
    · decide +kernel
    · decide +kernel
  · refine ⟨withPort (inState .ready) 0 { st := .active, rxLanes := 255 }, 0, toLanes 255 dataFlit, dataFlit, 0, ?_, ?_, ?_, ?_, ?_⟩
    · decide +kernel
    · decide +kernel
    · decide +kernel
    · decide +kernel
    · decide +kernel
  · refine ⟨withPort (inState .ready) 0 { st := .active }, 0, 0, ?_, ?_⟩
    · decide +kernel
    · decide +kernel
  · refine ⟨withPort (inState .ready) 0 { st := .active, buffer := [(0, [])] }, 0, 0, 0, ?_, ?_⟩
    · decide +kernel
    · decide +kernel
  · refine ⟨withPort (inState .ready) 0 { st := .active }, 0, ?_, ?_⟩
    · decide +kernel
    · decide +kernel
  · refine ⟨withPort (inState .ready) 0 { st := .active, waiting := true }, 0, ?_, ?_⟩
    · decide +kernel
    · decide +kernel
  · refine ⟨withPort (inState .ready) 0 { st := .active }, 0, ?_⟩
    decide +kernel
  · refine ⟨withPort (inState .ready) 0 { st := .active }, 0, ?_, ?_⟩
    · decide +kernel
    · decide +kernel
  · refine ⟨withPort (inState .ready) 0 { st := .active, echoCount := 63, echoBest := some 9 }, 0, 9, ?_, ?_, ?_⟩
    · decide +kernel
    · decide +kernel
    · decide +kernel

/-- Every hypothesis of LinkTraining is met. -/
theorem witness_link_training :
    (∃ (s : State) (p : Port), ↑p < 19 ∧ (s.port ↑p).st = PortState.down ∧ (s.port ↑p).tried = none ∧ s.num (O.portPortEnable ↑p) = 1 ∧ s.linksTrain = true) ∧
    (∃ (s : State), s.linksTrain = false) ∧
    (∃ (s : State) (p : Port), (s.port ↑p).st = PortState.training ∧ (s.port ↑p).train = TrainState.detect) ∧
    (∃ (s : State) (p : Port) (l : Fin 8), (s.port ↑p).st = PortState.training ∧ (s.port ↑p).train = TrainState.equalise ∧ ((s.port ↑p).locked ||| BitVec.ofNat 8 (2 ^ l.val)) ≠ 255) ∧
    (∃ (s : State) (p : Port) (l : Fin 8), (s.port ↑p).st = PortState.training ∧ (s.port ↑p).train = TrainState.equalise ∧ ((s.port ↑p).locked ||| BitVec.ofNat 8 (2 ^ l.val)) = 255) ∧
    (∃ (s : State) (p : Port), (s.port ↑p).st = PortState.training ∧ s.us < (s.port ↑p).since + (s.port ↑p).train.limit) ∧
    (∃ (s : State) (p : Port), (s.port ↑p).st = PortState.training ∧ (s.port ↑p).since + 250000 ≤ s.us ∧ (s.port ↑p).train = TrainState.equalise ∧ (s.port ↑p).locked ≠ 0) ∧
    (∃ (s : State) (p : Port), (s.port ↑p).st = PortState.training ∧ (s.port ↑p).since + 100000 ≤ s.us ∧ (s.port ↑p).train = TrainState.detect) ∧
    (∃ (s : State) (p : Port), (s.port ↑p).st = PortState.training ∧ (s.port ↑p).train = TrainState.deskew ∧ (s.port ↑p).locked = 255) ∧
    (∃ (s : State) (p : Port) (w : BitVec 96), (s.port ↑p).st = PortState.active ∧ bits w.toNat 83 0 ≠ 0) ∧
    (∃ (s : State) (p : Port) (w : BitVec 96), (s.port ↑p).st = PortState.active ∧ bits w.toNat 83 0 = 0 ∧ (s.port ↑p).rxWant = [BitVec.ofNat 8 (bits w.toNat 95 88)]) ∧
    (∃ (s : State) (p : Port) (w : BitVec 96), (s.port ↑p).st = PortState.active ∧ bits w.toNat 83 0 = 0 ∧ (s.port ↑p).rxWant = [] ∧ (s.port ↑p).txMap = none) ∧
    (∃ (s : State) (p : Port) (l : Fin 8), (s.port ↑p).st = PortState.active ∧ s.laneNoisy (s.port ↑p) ↑l = false) ∧
    (∃ (s : State) (p : Port) (l : Fin 8) (lock : Bool), (s.port ↑p).st = PortState.active ∧ (lock = true ∨ s.laneNoisy (s.port ↑p) ↑l = true) ∧ (s.port ↑p).rxLanes = 255 ∧ (s.port ↑p).rxWant = [] ∧ (s.port ↑p).failed = 0) ∧
    (∃ (s : State) (p : Port) (ok : Byte), (s.port ↑p).st = PortState.active ∧ (s.port ↑p).rxLanes = 15 ∧ (s.port ↑p).rxWant = [] ∧ (s.port ↑p).failed &&& ~~~ok = 0 ∧ (s.port ↑p).rewidened + 1000 * s.num O.rewidenInterval ≤ s.us) := by
  refine ⟨?_, ?_, ?_, ?_, ?_, ?_, ?_, ?_, ?_, ?_, ?_, ?_, ?_, ?_, ?_⟩
  · refine ⟨inState .ready, 0, ?_, ?_, ?_, ?_, ?_⟩
    · decide +kernel
    · decide +kernel
    · decide +kernel
    · decide +kernel
    · decide +kernel
  · refine ⟨inState .halt, ?_⟩
    decide +kernel
  · refine ⟨withPort (inState .ready) 0 { st := .training, train := .detect }, 0, ?_, ?_⟩
    · decide +kernel
    · decide +kernel
  · refine ⟨withPort (inState .ready) 0 { st := .training, train := .equalise }, 0, 0, ?_, ?_, ?_⟩
    · decide +kernel
    · decide +kernel
    · decide +kernel
  · refine ⟨withPort (inState .ready) 0 { st := .training, train := .equalise, locked := 0xFE }, 0, 0, ?_, ?_, ?_⟩
    · decide +kernel
    · decide +kernel
    · decide +kernel
  · refine ⟨withPort (inState .ready) 0 { st := .training, train := .detect }, 0, ?_, ?_⟩
    · decide +kernel
    · decide +kernel
  · refine ⟨withPort (aged (inState .ready)) 0 { st := .training, train := .equalise, locked := 1 }, 0, ?_, ?_, ?_, ?_⟩
    · decide +kernel
    · decide +kernel
    · decide +kernel
    · decide +kernel
  · refine ⟨withPort (aged (inState .ready)) 0 { st := .training, train := .detect }, 0, ?_, ?_, ?_⟩
    · decide +kernel
    · decide +kernel
    · decide +kernel
  · refine ⟨withPort (inState .ready) 0 { st := .training, train := .deskew, locked := 255 }, 0, ?_, ?_, ?_⟩
    · decide +kernel
    · decide +kernel
    · decide +kernel
  · refine ⟨withPort (inState .ready) 0 { st := .active }, 0, 1, ?_, ?_⟩
    · decide +kernel
    · decide +kernel
  · refine ⟨withPort (inState .ready) 0 { st := .active, rxWant := [0] }, 0, 0, ?_, ?_, ?_⟩
    · decide +kernel
    · decide +kernel
    · decide +kernel
  · refine ⟨withPort (inState .ready) 0 { st := .active }, 0, 0, ?_, ?_, ?_, ?_⟩
    · decide +kernel
    · decide +kernel
    · decide +kernel
    · decide +kernel
  · refine ⟨withPort (inState .ready) 0 { st := .active, rxLanes := 255 }, 0, 0, ?_, ?_⟩
    · decide +kernel
    · decide +kernel
  · refine ⟨withPort (inState .ready) 0 { st := .active, rxLanes := 255 }, 0, 0, true, ?_, ?_, ?_, ?_, ?_⟩
    · decide +kernel
    · decide +kernel
    · decide +kernel
    · decide +kernel
    · decide +kernel
  · refine ⟨withPort (aged (inState .ready)) 0 { st := .active, rxLanes := 15 }, 0, 255, ?_, ?_, ?_, ?_, ?_⟩
    · decide +kernel
    · decide +kernel
    · decide +kernel
    · decide +kernel
    · decide +kernel

/-- Every hypothesis of LintelAndHost is met. -/
theorem witness_lintel_and_host :
    (∃ (s : State) (g : Bool) (tag : W32) (u : State), s.pkg.st.hubRuns = true ∧ (s.gateway g).waiting = [] ∧ s.fab.readyAt ≤ s.us ∧ (s.fab.outs.any fun o ↦ o.who == Requester.gateway g) = false ∧ s.newTag (Requester.gateway g) = some (tag, u)) ∧
    (∃ (s : State), s.pkg.st.hubRuns = true) ∧
    (∃ (s : State) (g : Bool), (s.gateway g).returns = []) ∧
    (∃ (s : State) (g : Bool), (s.gateway g).returns ≠ []) ∧
    (∃ (s : State), s.bridges = true) ∧
    (∃ (s : State) (bar : Fin 3) (off : Nat) (d : List Byte), s.bridges = true ∧ bar ≠ 0 ∧ s.hostWindow (↑bar) off d.length = none) ∧
    (∃ (s : State) (off : Nat) (w : Nat) (a : W64) (tag : W32) (u : State) (d : List Byte), s.bridges = true ∧ s.hostWindow 1 off 4 = some (w, a) ∧ BitVec.toNat a % 4 = 0 ∧ s.fab.hostOps = [] ∧ s.fab.readyAt ≤ s.us ∧ (s.fab.outs.any fun o ↦ o.who == Requester.host) = false ∧ s.newTag Requester.host = some (tag, u) ∧ d.length = 4) ∧
    (∃ (s : State) (off : Nat) (w : Nat) (a : W64) (tag : W32) (u : State), s.bridges = true ∧ s.hostWindow 1 off 4 = some (w, a) ∧ BitVec.toNat a % 4 = 0 ∧ s.fab.hostOps = [] ∧ s.fab.readyAt ≤ s.us ∧ (s.fab.outs.any fun o ↦ o.who == Requester.host) = false ∧ s.newTag Requester.host = some (tag, u)) ∧
    (∃ (s : State) (off : Nat) (w : Nat) (a : W64) (tag : W32) (u : State) (op : Byte), s.bridges = true ∧ s.hostWindow 1 off 4 = some (w, a) ∧ BitVec.toNat a % 4 = 0 ∧ s.fab.hostOps = [] ∧ s.fab.readyAt ≤ s.us ∧ (s.fab.outs.any fun o ↦ o.who == Requester.host) = false ∧ s.newTag Requester.host = some (tag, u) ∧ (op = 16 ∨ op = 17 ∨ op = 22)) ∧
    (∃ (s : State) (src : Node), s.bridges = true ∧ List.find? (fun i ↦ s.num (O.groupMember i) == BitVec.toNat src) (List.range (s.num O.groupCount)) = none) ∧
    (∃ (s : State) (src : Node) (line : Fin 32) (m : Nat), s.bridges = true ∧ List.find? (fun i ↦ s.num (O.groupMember i) == BitVec.toNat src) (List.range (s.num O.groupCount)) = some m ∧ s.num (O.msiRoute m ↑line) = 255) ∧
    (∃ (s : State) (src : Node) (line : Fin 32) (m : Nat), s.bridges = true ∧ List.find? (fun i ↦ s.num (O.groupMember i) == BitVec.toNat src) (List.range (s.num O.groupCount)) = some m ∧ s.num (O.msiRoute m ↑line) ≠ 255) ∧
    (∃ (s : State), s.bridges = false) := by
  refine ⟨?_, ?_, ?_, ?_, ?_, ?_, ?_, ?_, ?_, ?_, ?_, ?_, ?_⟩
  · refine ⟨inState .ready, false, (((inState .ready).newTag (.gateway false)).get (by decide +kernel)).1, (((inState .ready).newTag (.gateway false)).get (by decide +kernel)).2, ?_, ?_, ?_, ?_, ?_⟩
    · decide +kernel
    · decide +kernel
    · decide +kernel
    · decide +kernel
    · exact get_pair _ _
  · refine ⟨inState .ready, ?_⟩
    decide +kernel
  · refine ⟨inState .ready, false, ?_⟩
    decide +kernel
  · refine ⟨{ inState .ready with fab.g0.returns := [⟨0, 0, 0, 0, 0, 0, 0, 0, []⟩] }, false, ?_⟩
    decide +kernel
  · refine ⟨bridging (inState .ready), ?_⟩
    decide +kernel
  · refine ⟨bridging (inState .ready), 1, 0, [0], ?_, ?_, ?_⟩
    · decide +kernel
    · decide +kernel
    · decide +kernel
  · refine ⟨windowed (inState .ready), 0, 0, 0, (((windowed (inState .ready)).newTag .host).get (by decide +kernel)).1, (((windowed (inState .ready)).newTag .host).get (by decide +kernel)).2, [0, 0, 0, 0], ?_, ?_, ?_, ?_, ?_, ?_, ?_, ?_⟩
    · decide +kernel
    · decide +kernel
    · decide +kernel
    · decide +kernel
    · decide +kernel
    · decide +kernel
    · exact get_pair _ _
    · decide +kernel
  · refine ⟨windowed (inState .ready), 0, 0, 0, (((windowed (inState .ready)).newTag .host).get (by decide +kernel)).1, (((windowed (inState .ready)).newTag .host).get (by decide +kernel)).2, ?_, ?_, ?_, ?_, ?_, ?_, ?_⟩
    · decide +kernel
    · decide +kernel
    · decide +kernel
    · decide +kernel
    · decide +kernel
    · decide +kernel
    · exact get_pair _ _
  · refine ⟨windowed (inState .ready), 0, 0, 0, (((windowed (inState .ready)).newTag .host).get (by decide +kernel)).1, (((windowed (inState .ready)).newTag .host).get (by decide +kernel)).2, 16, ?_, ?_, ?_, ?_, ?_, ?_, ?_, ?_⟩
    · decide +kernel
    · decide +kernel
    · decide +kernel
    · decide +kernel
    · decide +kernel
    · decide +kernel
    · exact get_pair _ _
    · decide +kernel
  · refine ⟨bridging (inState .ready), 5, ?_, ?_⟩
    · decide +kernel
    · decide +kernel
  · refine ⟨(bridging (inState .ready)).setNum O.groupCount 1, 0, 0, 0, ?_, ?_, ?_⟩
    · decide +kernel
    · decide +kernel
    · decide +kernel
  · refine ⟨((bridging (inState .ready)).setNum O.groupCount 1).setNum (O.msiRoute 0 0) 1, 0, 0, 0, ?_, ?_, ?_⟩
    · decide +kernel
    · decide +kernel
    · decide +kernel
  · refine ⟨inState .ready, ?_⟩
    decide +kernel

/-- Every hypothesis of LockAndHoldover is met. -/
theorem witness_lock_and_holdover :
    (∃ (s : State), s.clk.mode = ClockState.unlocked ∧ s.clk.counting = true ∧ s.clk.parent.isSome = true ∧ 1024 ≤ s.clk.lockRun) ∧
    (∃ (s : State), s.clk.mode = ClockState.unlocked ∧ s.clk.counting = true ∧ s.clk.parent.isSome = true ∧ s.clk.lockRun < 1024) ∧
    (∃ (s : State) (h : Tick), s.clk.mode = ClockState.locked ∧ s.clk.originating = false ∧ s.clk.lastWord = some h ∧ s.num O.timeWordTimeout ≤ Tick.since s.clk.tick h) ∧
    (∃ (s : State), calm s ∧ s.clk.mode = ClockState.holdover ∧ 10000000 ≤ s.clk.holdElapsed ∧ (s.pkg.st = PkgState.serving ∨ s.pkg.st = PkgState.covering)) ∧
    (∃ (s : State), calm s ∧ s.clk.mode = ClockState.holdover ∧ 10000000 ≤ s.clk.holdElapsed ∧ s.pkg.st = PkgState.ready) ∧
    (∃ (s : State), s.clk.role = ClockRole.standby ∧ s.clk.held = true) ∧
    (∃ (s : State), s.clk.role = ClockRole.master ∧ s.clk.originating = true ∧ (s.dueEvent fun e ↦ e == Ev.handoff).isSome = true) ∧
    (∃ (s : State) (h : Tick), s.clk.role = ClockRole.standby ∧ s.clk.lastWord = some h ∧ s.num O.masterTimeout ≤ Tick.since s.clk.tick h) ∧
    (∃ (s : State) (gap : Nat), s.pkg.st.hubRuns = true ∧ 1500 < gap) ∧
    (∃ (s : State) (gap : Nat) (off : Int), s.pkg.st.hubRuns = true ∧ gap ≤ 1500 ∧ off.natAbs ≤ 250 ∧ s.clk.cclkEdges < 1000 ∧ s.clk.cclkValid = false ∧ s.clk.cclkGood < 1000) ∧
    (∃ (s : State), s.clk.cclkValid = true) := by
  refine ⟨?_, ?_, ?_, ?_, ?_, ?_, ?_, ?_, ?_, ?_, ?_⟩
  · refine ⟨{ inState .align with clk.counting := true, clk.parent := some 0, clk.lockRun := 1024 }, ?_, ?_, ?_, ?_⟩
    · decide +kernel
    · decide +kernel
    · decide +kernel
    · decide +kernel
  · refine ⟨{ inState .align with clk.counting := true, clk.parent := some 0 }, ?_, ?_, ?_, ?_⟩
    · decide +kernel
    · decide +kernel
    · decide +kernel
    · decide +kernel
  · refine ⟨{ late (inState .ready) with clk.mode := .locked, clk.lastWord := some 0 }, 0, ?_, ?_, ?_, ?_⟩
    · decide +kernel
    · decide +kernel
    · decide +kernel
    · decide +kernel
  · refine ⟨{ inState .serving with clk.mode := .holdover, clk.holdElapsed := 10000000 }, ?_, ?_, ?_, ?_⟩
    · exact ⟨rfl, rfl⟩
    · decide +kernel
    · decide +kernel
    · decide +kernel
  · refine ⟨{ inState .ready with clk.mode := .holdover, clk.holdElapsed := 10000000 }, ?_, ?_, ?_, ?_⟩
    · exact ⟨rfl, rfl⟩
    · decide +kernel
    · decide +kernel
    · decide +kernel
  · refine ⟨{ inState .ready with clk.role := .standby, clk.held := true }, ?_, ?_⟩
    · decide +kernel
    · decide +kernel
  · refine ⟨{ inState .ready with clk.role := .master, clk.originating := true, clk.events := [{ ev := .handoff }] }, ?_, ?_, ?_⟩
    · decide +kernel
    · decide +kernel
    · decide +kernel
  · refine ⟨{ late (inState .ready) with clk.role := .standby, clk.lastWord := some 0 }, 0, ?_, ?_, ?_⟩
    · decide +kernel
    · decide +kernel
    · decide +kernel
  · refine ⟨inState .ready, 1501, ?_, ?_⟩
    · decide +kernel
    · decide +kernel
  · refine ⟨inState .ready, 1000, 0, ?_, ?_, ?_, ?_, ?_, ?_⟩
    · decide +kernel
    · decide +kernel
    · decide +kernel
    · decide +kernel
    · decide +kernel
    · decide +kernel
  · refine ⟨{ inState .ready with clk.cclkValid := true }, ?_⟩
    decide +kernel

/-- Every hypothesis of MatrixAndDataKinds is met. -/
theorem witness_matrix_and_data_kinds :
    (∃ (s : State) (r : Run) (a : Ashlar) (x : BlockEntry) (out : BlockEntry) (w : BlockEntry) (f : WFmt), sound s ∧ s.inBlock r.covered a a.d.h0 = some x ∧ s.outBlock r.covered a a.d.h2 = some out ∧ s.ashlar r 1 = some a ∧ x.rows = 1 ∧ s.inBlock r.covered a a.d.h1 = some w ∧ blockFmt (BitVec.toNat w.format) = some f ∧ BitVec.toNat a.d.p3 = 1 ∧ bits (BitVec.toNat a.d.p2) 15 0 = 1) ∧
    (∃ (s : State) (r : Run) (a : Ashlar) (x : BlockEntry) (out : BlockEntry) (b : BlockEntry), sound s ∧ s.inBlock r.covered a a.d.h0 = some x ∧ s.outBlock r.covered a a.d.h2 = some out ∧ s.ashlar r 2 = some a ∧ x.rows = 1 ∧ BitVec.toNat a.d.p0 = 1 ∧ BitVec.toNat a.d.p1 = 0 ∧ s.inBlock r.covered a a.d.h1 = some b ∧ s.inBlock r.covered a a.d.h3 = none ∧ goodScale (BitVec.ofNat 32 (s.peekLe (b.row 0) 4)) = true) ∧
    (∃ (s : State) (r : Run) (a : Ashlar) (x : BlockEntry) (out : BlockEntry), sound s ∧ s.inBlock r.covered a a.d.h0 = some x ∧ s.outBlock r.covered a a.d.h2 = some out ∧ s.ashlar r 24 = some a ∧ x.rows = 1 ∧ BitVec.toNat a.d.p0 = 1) ∧
    (∃ (s : State) (r : Run) (a : Ashlar) (x : BlockEntry) (out : BlockEntry), sound s ∧ s.inBlock r.covered a a.d.h0 = some x ∧ s.outBlock r.covered a a.d.h2 = some out ∧ s.ashlar r 26 = some a ∧ ¬r.inst.toNat ∈ (s.streamOf r.covered).sentWords ∧ x.rows = 1 ∧ BitVec.toNat a.d.p2 = 0 ∧ s.bondOf r.covered = [s.streamNode r.covered]) ∧
    (∃ (s : State) (r : Run) (a : Ashlar) (x : BlockEntry) (out : BlockEntry) (tb : BlockEntry), sound s ∧ s.inBlock r.covered a a.d.h0 = some x ∧ s.outBlock r.covered a a.d.h2 = some out ∧ s.ashlar r 15 = some a ∧ x.rows = 1 ∧ s.inBlock r.covered a a.d.h1 = some tb) ∧
    (∃ (s : State) (r : Run) (a : Ashlar) (x : BlockEntry) (out : BlockEntry), sound s ∧ s.inBlock r.covered a a.d.h0 = some x ∧ s.outBlock r.covered a a.d.h2 = some out ∧ s.ashlar r 25 = some a ∧ x.rows = 1 ∧ out.rows = 1) ∧
    (∃ (s : State) (r : Run) (a : Ashlar) (x : BlockEntry) (out : BlockEntry) (ix : BlockEntry), sound s ∧ s.inBlock r.covered a a.d.h0 = some x ∧ s.outBlock r.covered a a.d.h2 = some out ∧ s.ashlar r 28 = some a ∧ s.inBlock r.covered a a.d.h1 = some ix ∧ ix.rows = 1) ∧
    (∃ (s : State) (r : Run) (a : Ashlar) (x : BlockEntry) (out : BlockEntry), sound s ∧ s.inBlock r.covered a a.d.h0 = some x ∧ s.outBlock r.covered a a.d.h2 = some out ∧ s.ashlar r 23 = some a ∧ (s.streamOf r.covered).rows.length = 1) ∧
    (∃ (s : State) (r : Run) (a : Ashlar) (x : BlockEntry) (out : BlockEntry), sound s ∧ s.inBlock r.covered a a.d.h0 = some x ∧ s.outBlock r.covered a a.d.h2 = some out ∧ s.ashlar r 27 = some a) := by
  refine ⟨?_, ?_, ?_, ?_, ?_, ?_, ?_, ?_, ?_⟩
  · refine ⟨running (desc 0x01 0 0 0 1 1), run0, ⟨desc 0x01 0 0 0 1 1, 0, false⟩, blockAt 0 2, blockAt 0 2, blockAt 64 4, .w2, ?_, ?_, ?_, ?_, ?_, ?_, ?_, ?_, ?_⟩
    · rfl
    · decide +kernel
    · decide +kernel
    · decide +kernel
    · decide +kernel
    · decide +kernel
    · decide +kernel
    · decide +kernel
    · decide +kernel
  · refine ⟨running (desc 0x02 0xFFFFFFFF 1 0 0 0), run0, ⟨desc 0x02 0xFFFFFFFF 1 0 0 0, 0, false⟩, blockAt 0 2, blockAt 0 2, blockAt 64 4, ?_, ?_, ?_, ?_, ?_, ?_, ?_, ?_, ?_, ?_⟩
    · rfl
    · decide +kernel
    · decide +kernel
    · decide +kernel
    · decide +kernel
    · decide +kernel
    · decide +kernel
    · decide +kernel
    · decide +kernel
    · decide +kernel
  · refine ⟨running (desc 0x18 0 1 0 0 0), run0, ⟨desc 0x18 0 1 0 0 0, 0, false⟩, blockAt 0 2, blockAt 0 2, ?_, ?_, ?_, ?_, ?_, ?_⟩
    · rfl
    · decide +kernel
    · decide +kernel
    · decide +kernel
    · decide +kernel
    · decide +kernel
  · refine ⟨running (desc 0x1A 0 0 0 0 0), run0, ⟨desc 0x1A 0 0 0 0 0, 0, false⟩, blockAt 0 2, blockAt 0 2, ?_, ?_, ?_, ?_, ?_, ?_, ?_, ?_⟩
    · rfl
    · decide +kernel
    · decide +kernel
    · decide +kernel
    · decide +kernel
    · decide +kernel
    · decide +kernel
    · decide +kernel
  · refine ⟨running (desc 0x0F 0 0 0 0 0), run0, ⟨desc 0x0F 0 0 0 0 0, 0, false⟩, blockAt 0 2, blockAt 0 2, blockAt 64 4, ?_, ?_, ?_, ?_, ?_, ?_⟩
    · rfl
    · decide +kernel
    · decide +kernel
    · decide +kernel
    · decide +kernel
    · decide +kernel
  · refine ⟨running (desc 0x19 0 0 0 0 0), run0, ⟨desc 0x19 0 0 0 0 0, 0, false⟩, blockAt 0 2, blockAt 0 2, ?_, ?_, ?_, ?_, ?_, ?_⟩
    · rfl
    · decide +kernel
    · decide +kernel
    · decide +kernel
    · decide +kernel
    · decide +kernel
  · refine ⟨running (desc 0x1C 0 0 0 0 0), run0, ⟨desc 0x1C 0 0 0 0 0, 0, false⟩, blockAt 0 2, blockAt 0 2, blockAt 64 4, ?_, ?_, ?_, ?_, ?_, ?_⟩
    · rfl
    · decide +kernel
    · decide +kernel
    · decide +kernel
    · decide +kernel
    · decide +kernel
  · refine ⟨{ running (desc 0x17 0 0 0 0 0) with crs.own.rows := [{}] }, run0, ⟨desc 0x17 0 0 0 0 0, 0, false⟩, blockAt 0 2, blockAt 0 2, ?_, ?_, ?_, ?_, ?_⟩
    · rfl
    · decide +kernel
    · decide +kernel
    · decide +kernel
    · decide +kernel
  · refine ⟨running (desc 0x1B 0 0 0 0 0), run0, ⟨desc 0x1B 0 0 0 0 0, 0, false⟩, blockAt 0 2, blockAt 0 2, ?_, ?_, ?_, ?_⟩
    · rfl
    · decide +kernel
    · decide +kernel
    · decide +kernel

/-- Every hypothesis of MemoryCanonicalKept is met. -/
theorem witness_memory_canonical_kept :
    ∃ (s : State) (t : State), Memory.wf s.mem.mem ∧ step s = Host.Outcome.next t := by
  refine ⟨{ State.reset with pending := [.vauxLoss] }, (match exec .vauxLoss State.reset with | .next t => t | _ => State.reset), ?_, ?_⟩
  · decide +kernel
  · rfl

/-- Every hypothesis of MemoryCommands is met. -/
theorem witness_memory_commands :
    (∃ (s : State) (a : BitVec 47) (f : RawRead), space (a.toNat / 32 * 32) = Space.hbm ∧ (s.reading (a.toNat / 32 * 32) f).cls = ReadClass.clean) ∧
    (∃ (s : State) (a : BitVec 47) (f : RawRead) (j : Nat) (e : Nat), space (a.toNat / 32 * 32) = Space.hbm ∧ (s.reading (a.toNat / 32 * 32) f).cls = ReadClass.correctable j e) ∧
    (∃ (s : State) (a : BitVec 47) (f : RawRead) (g : RawRead) (x : Nat) (y : Nat), space (a.toNat / 32 * 32) = Space.hbm ∧ s.pageClass (pageOf (a.toNat / 32 * 32)) = RClass.activation ∧ (s.reading (a.toNat / 32 * 32) f).cls = ReadClass.crcBad x ∧ (s.reading (a.toNat / 32 * 32) g).cls = ReadClass.crcBad y) ∧
    (∃ (a : BitVec 47) (d : List Byte), space a.toNat = Space.hbm ∧ a.toNat + d.length ≤ hbmTop) ∧
    (∃ (s : State) (st : Fin 16), s.mem.entries ↑st = []) ∧
    (∃ (s : State) (st : Fin 16) (f : RawRead) (e : MergeEntry) (rest : List MergeEntry), s.mem.entries ↑st = e :: rest ∧ (s.reading e.word f).cls = ReadClass.clean) ∧
    (∃ (s : State) (a : BitVec 47), s.fab.held = [] ∧ List.filter (fun x ↦ x.word / 256 * 256 == a.toNat / 256 * 256) s.mem.waits = []) ∧
    (∃ (s : State) (a : BitVec 47) (gr : List Byte) (again : RawRead) (w0 : TwinWait) (more : List TwinWait), s.fab.held = [] ∧ List.filter (fun x ↦ x.word / 256 * 256 == a.toNat / 256 * 256) s.mem.waits = w0 :: more ∧ gr.length = 256 ∧ (∀ (x : TwinWait), x ∈ w0 :: more → x.source ≠ 1) ∧ (∀ (i : Nat), i < 8 → ((List.foldl (fun (t : State) w ↦ t.storeWord w (List.take 32 (List.drop (w - a.toNat / 256 * 256) gr)) 0) { s with mem.waits := List.filter (fun x ↦ x.word / 256 * 256 != a.toNat / 256 * 256) s.mem.waits } (List.map (fun i ↦ a.toNat / 256 * 256 + 32 * i) (List.range 8))).reading (a.toNat / 256 * 256 + 32 * i) (if a.toNat / 256 * 256 + 32 * i = w0.word then again else { })).cls = ReadClass.clean)) ∧
    (∃ (s : State) (slot : BitVec 18) (draft : Bool) (l : Nat) (p : Nat), (s.session slot.toNat).st ≠ SessState.free ∧ (s.streamOf (s.session slot.toNat).covered).running = true ∧ (s.streamOf (s.session slot.toNat).covered).sessions.contains slot.toNat = true ∧ s.num (O.farDeadline (s.session slot.toNat).cls) ≠ 0 ∧ (((s.session slot.toNat).root draft).page l p).far = true ∧ (((s.session slot.toNat).root draft).page l p).st ≠ 0 ∧ s.num (O.farDeadline (s.session slot.toNat).cls) ≤ Tick.since s.clk.tick (s.streamOf (s.session slot.toNat).covered).startT ∧ s.mem.latePages.contains (slot.toNat, draft, l, p) = false) ∧
    (∃ (s : State) (a : BitVec 47), space (a.toNat / 16 * 16) = Space.sram ∧ sramClass (a.toNat / 16 * 16) (xorBytes (sramChecks (a.toNat / 16 * 16) (s.sramGet (a.toNat / 16 * 16) 16)) (leBytes 2 (SMap.get 0 s.mem.sramChk (a.toNat / 16 * 16)).toNat) ++ s.sramGet (a.toNat / 16 * 16) 16) = none) ∧
    (∃ (s : State), s.dueBefore 8 = false ∧ s.pkg.st.hubRuns = true ∧ s.clk.counting = true ∧ s.mem.scrubOpen = false ∧ BitVec.toNat s.clk.tick % s.num O.scrubGrid = 0) ∧
    (∃ (s : State), s.dueBefore 8 = false ∧ s.mem.scrubOpen = true ∧ s.clk.tick = s.mem.scrubAt + BitVec.ofNat 48 (s.num O.scrubLen)) ∧
    (∃ (s : State), s.mem.scrubOpen = false) ∧
    (∃ (s : State) (st : Fin 16) (pc : Fin 32) (f : RawRead) (n : Nat), s.mem.scrubOpen = true ∧ SMap.get 0 s.mem.scrubLeft (↑st * 32 + ↑pc) ≠ 0 ∧ s.scrubNext ↑st ↑pc = some (n, false) ∧ (s.reading (scrubAddr (↑st) (↑pc) n) f).cls = ReadClass.clean) := by
  refine ⟨?_, ?_, ?_, ?_, ?_, ?_, ?_, ?_, ?_, ?_, ?_, ?_, ?_, ?_⟩
  · refine ⟨inState .ready, 0, {}, ?_, ?_⟩
    · decide +kernel
    · decide +kernel
  · refine ⟨inState .ready, 0, { flips := [(4, 1)] }, 4, 1, ?_, ?_⟩
    · decide +kernel
    · decide +kernel
  · refine ⟨allActivation (inState .ready), 0, { flips := [(4, 1)] }, { flips := [(4, 1)] }, 23491, 23491, ?_, ?_, ?_, ?_⟩
    · decide +kernel
    · decide +kernel
    · decide +kernel
    · decide +kernel
  · refine ⟨0, [], ?_, ?_⟩
    · decide +kernel
    · decide +kernel
  · refine ⟨inState .ready, 0, ?_⟩
    decide +kernel
  · refine ⟨{ inState .ready with mem.merge := [(0, [{}])] }, 0, {}, {}, [], ?_, ?_⟩
    · decide +kernel
    · decide +kernel
  · refine ⟨inState .ready, 0, ?_, ?_⟩
    · decide +kernel
    · decide +kernel
  · refine ⟨{ inState .ready with mem.waits := [{}] }, 0, List.replicate 256 0, {}, {}, [], ?_, ?_, ?_, ?_, ?_⟩
    · decide +kernel
    · decide +kernel
    · decide +kernel
    · decide +kernel
    · decide +kernel
  · refine ⟨(withSession { (late (inState .serving)) with crs.own.running := true, crs.own.sessions := [0] } { st := .active, main.pages := [(0, { st := 1, far := true })] }).setNum (O.farDeadline 0) 1, 0, false, 0, 0, ?_, ?_, ?_, ?_, ?_, ?_, ?_, ?_⟩
    · decide +kernel
    · decide +kernel
    · decide +kernel
    · decide +kernel
    · decide +kernel
    · decide +kernel
    · decide +kernel
    · decide +kernel
  · refine ⟨inState .ready, 0x400000000000, ?_, ?_⟩
    · decide +kernel
    · decide +kernel
  · refine ⟨{ inState .ready with clk.counting := true }, ?_, ?_, ?_, ?_, ?_⟩
    · decide +kernel
    · decide +kernel
    · decide +kernel
    · decide +kernel
    · decide +kernel
  · refine ⟨{ inState .ready with mem.scrubOpen := true, mem.scrubAt := 0, clk.tick := BitVec.ofNat 48 ((inState .ready).num O.scrubLen) }, ?_, ?_, ?_⟩
    · decide +kernel
    · decide +kernel
    · decide +kernel
  · refine ⟨inState .ready, ?_⟩
    decide +kernel
  · refine ⟨{ inState .ready with mem.scrubOpen := true, mem.scrubLeft := [(0, 1)] }, 0, 0, {}, 0, ?_, ?_, ?_, ?_⟩
    · decide +kernel
    · decide +kernel
    · decide +kernel
    · decide +kernel

/-- Every hypothesis of MemoryHoldsWhatIsWritten is met. -/
theorem witness_memory_holds_what_is_written :
    (∃ (a : Nat) (d : List Byte) (i : Nat), i < a ∨ a + d.length ≤ i) ∧
    (∃ (d : List Byte), d.length = 32) ∧
    (∃ (w : Nat) (d : List Byte) (i : Nat), d.length = 32 ∧ (i < w ∨ w + 32 ≤ i)) ∧
    (∃ (w : Nat), w < hbmTop ∧ w % 32 = 0) := by
  refine ⟨?_, ?_, ?_, ?_⟩
  · refine ⟨1, [], 0, ?_⟩
    decide +kernel
  · refine ⟨zeros 32, ?_⟩
    decide +kernel
  · refine ⟨32, zeros 32, 0, ?_, ?_⟩
    · decide +kernel
    · decide +kernel
  · refine ⟨0, ?_, ?_⟩
    · decide +kernel
    · decide +kernel

/-- Every hypothesis of MirrorAndBeats is met. -/
theorem witness_mirror_and_beats :
    (∃ (s : State) (c : MirrorCloseRec), c.count ≠ s.mir.incoming.length ∨ c.fold ≠ foldOf s.mir.incoming) ∧
    (∃ (s : State) (c : MirrorCloseRec), c.count = s.mir.incoming.length ∧ c.fold = foldOf s.mir.incoming) ∧
    (∃ (s : State) (x : W64), List.find? (fun y ↦ y.course == x) s.mir.awaiting = none) ∧
    (∃ (s : State) (x : W64) (y : AwaitAck), List.find? (fun y ↦ y.course == x) s.mir.awaiting = some y ∧ y.image = true ∧ s.mir.st = MirrorState.syncing) ∧
    (∃ (s : State), s.pkg.st.hubRuns = true ∧ s.clk.counting = true ∧ s.lnk.plumb.ident.isSome = true ∧ BitVec.toNat s.clk.tick % s.num O.beatPeriod = 0) ∧
    (∃ (s : State), BitVec.toNat s.clk.tick % s.num O.beatPeriod ≠ 0) ∧
    (∃ (s : State), s.mir.st = MirrorState.mirroring ∧ s.mir.restore = none ∧ s.mir.covered = none ∧ s.mir.lastBeat = none) ∧
    (∃ (s : State) (l : Tick), s.mir.lastBeat = some l ∧ s.mir.twinFailed = false ∧ s.pkg.st.hubRuns = true ∧ Tick.since s.clk.tick l < s.num O.beatLoss) ∧
    (∃ (s : State) (l : Tick), s.mir.lastBeat = some l ∧ s.mir.twinFailed = false ∧ s.pkg.st.hubRuns = true ∧ s.num O.beatLoss ≤ Tick.since s.clk.tick l ∧ s.clk.mode = ClockState.holdover ∧ s.mir.silent = false) ∧
    (∃ (s : State) (l : Tick), s.mir.lastBeat = some l ∧ s.mir.twinFailed = false ∧ s.pkg.st.hubRuns = true ∧ s.num O.beatLoss ≤ Tick.since s.clk.tick l ∧ s.clk.mode = ClockState.locked ∧ s.pkg.st = PkgState.serving ∧ s.pkg.request ≠ some PkgState.draining ∧ s.mir.st = MirrorState.mirroring ∧ s.mir.covered = none ∧ s.liveCopy.twin.isSome = true ∧ s.mir.committed.isSome = true ∧ s.crs.own.commits = []) ∧
    (∃ (s : State) (n : Node), n ≠ s.twinNode) ∧
    (∃ (s : State), s.pkg.st.hubRuns = true ∧ s.mir.twinFailed = false ∧ s.mir.covered.isSome = true) ∧
    (∃ (s : State) (f : Node), f ≠ s.node) ∧
    (∃ (c : Option Node), c.isSome = true) ∧
    (∃ (s : State) (q : W32) (x : Takeover), s.mir.takeover = some x ∧ q ≠ x.seq) ∧
    (∃ (s : State) (src : Node) (x : Takeover), s.mir.takeover = some x ∧ src ≠ x.failed ∧ x.acks.contains src = false) := by
  refine ⟨?_, ?_, ?_, ?_, ?_, ?_, ?_, ?_, ?_, ?_, ?_, ?_, ?_, ?_, ?_, ?_⟩
  · refine ⟨inState .ready, ⟨0, 1, 0, 0, 0⟩, ?_⟩
    decide +kernel
  · refine ⟨inState .ready, ⟨0, 0, foldOf [], 0, 0⟩, ?_, ?_⟩
    · decide +kernel
    · decide +kernel
  · refine ⟨inState .ready, 7, ?_⟩
    decide +kernel
  · refine ⟨{ inState .ready with mir.st := .syncing, mir.awaiting := [{ image := true }] }, 0, { image := true }, ?_, ?_, ?_⟩
    · decide +kernel
    · decide +kernel
    · decide +kernel
  · refine ⟨{ inState .ready with clk.counting := true, lnk.plumb.ident := some 0 }, ?_, ?_, ?_, ?_⟩
    · decide +kernel
    · decide +kernel
    · decide +kernel
    · decide +kernel
  · refine ⟨{ inState .ready with clk.tick := 1 }, ?_⟩
    decide +kernel
  · refine ⟨{ inState .ready with mir.st := .mirroring }, ?_, ?_, ?_, ?_⟩
    · decide +kernel
    · decide +kernel
    · decide +kernel
    · decide +kernel
  · refine ⟨{ inState .ready with mir.lastBeat := some 0 }, 0, ?_, ?_, ?_, ?_⟩
    · decide +kernel
    · decide +kernel
    · decide +kernel
    · decide +kernel
  · refine ⟨{ late (inState .ready) with mir.lastBeat := some 0, clk.mode := .holdover }, 0, ?_, ?_, ?_, ?_, ?_, ?_⟩
    · decide +kernel
    · decide +kernel
    · decide +kernel
    · decide +kernel
    · decide +kernel
    · decide +kernel
  · refine ⟨{ late (inState .serving) with mir.lastBeat := some 0, clk.mode := .locked, mir.st := .mirroring, wts.k0.st := .live, wts.k0.twin := some 0, mir.committed := some 0 }, 0, ?_, ?_, ?_, ?_, ?_, ?_, ?_, ?_, ?_, ?_, ?_, ?_⟩
    · decide +kernel
    · decide +kernel
    · decide +kernel
    · decide +kernel
    · decide +kernel
    · decide +kernel
    · decide +kernel
    · decide +kernel
    · decide +kernel
    · decide +kernel
    · decide +kernel
    · decide +kernel
  · refine ⟨inState .ready, 5, ?_⟩
    decide +kernel
  · refine ⟨{ inState .covering with mir.covered := some 8 }, ?_, ?_, ?_⟩
    · decide +kernel
    · decide +kernel
    · decide +kernel
  · refine ⟨inState .ready, 5, ?_⟩
    decide +kernel
  · refine ⟨some 0, ?_⟩
    decide +kernel
  · refine ⟨{ inState .ready with mir.takeover := some {} }, 1, {}, ?_, ?_⟩
    · decide +kernel
    · decide +kernel
  · refine ⟨{ inState .ready with mir.takeover := some {} }, 5, {}, ?_, ?_, ?_⟩
    · decide +kernel
    · decide +kernel
    · decide +kernel

/-- Every hypothesis of NextHop is met. -/
theorem witness_next_hop :
    (∃ (s : State) (p : Packet), s.alias_ p.dest = s.node) ∧
    (∃ (s : State) (p : Packet), s.alias_ p.dest ≠ s.node ∧ BitVec.toNat p.hops = s.num O.hopLimit) ∧
    (∃ (s : State) (p : Packet) (j : Nat) (rest : List Nat), s.alias_ p.dest ≠ s.node ∧ BitVec.toNat p.hops ≠ s.num O.hopLimit ∧ isTwinPacket (BitVec.toNat p.ptype) = false ∧ BitVec.getLsbD (s.alias_ p.dest) 16 = BitVec.getLsbD s.node 16 ∧ s.lnk.twist = false ∧ onBits s.lnk.k (BitVec.toNat (s.node ^^^ s.alias_ p.dest) % 2 ^ s.lnk.k) = j :: rest ∧ s.links j ≠ []) ∧
    (∃ (s : State) (p : Packet), s.alias_ p.dest ≠ s.node ∧ BitVec.toNat p.hops ≠ s.num O.hopLimit ∧ isTwinPacket (BitVec.toNat p.ptype) = false ∧ BitVec.getLsbD (s.alias_ p.dest) 16 ≠ BitVec.getLsbD s.node 16 ∧ s.lnk.k < 2 * popcount s.lnk.k (BitVec.toNat (s.node ^^^ s.alias_ p.dest) % 2 ^ s.lnk.k) ∧ s.routeUp 17 = true) ∧
    (∃ (s : State) (p : Packet), s.alias_ p.dest ≠ s.node ∧ BitVec.toNat p.hops ≠ s.num O.hopLimit ∧ isTwinPacket (BitVec.toNat p.ptype) = false ∧ BitVec.getLsbD (s.alias_ p.dest) 16 ≠ BitVec.getLsbD s.node 16 ∧ 2 * popcount s.lnk.k (BitVec.toNat (s.node ^^^ s.alias_ p.dest) % 2 ^ s.lnk.k) ≤ s.lnk.k ∧ s.routeUp 16 = true) := by
  refine ⟨?_, ?_, ?_, ?_, ?_⟩
  · refine ⟨inState .ready, packetTo 0 1, ?_⟩
    decide +kernel
  · refine ⟨inState .ready, { packetTo 5 1 with hops := 32 }, ?_, ?_⟩
    · decide +kernel
    · decide +kernel
  · refine ⟨{ inState .ready with lnk.k := 3, lnk.routes := [(0, 8)] }, packetTo 5 1, 0, [2], ?_, ?_, ?_, ?_, ?_, ?_, ?_⟩
    · decide +kernel
    · decide +kernel
    · decide +kernel
    · decide +kernel
    · decide +kernel
    · decide +kernel
    · decide +kernel
  · refine ⟨{ inState .ready with lnk.k := 3, lnk.routes := [(17, 8)] }, packetTo 0x10007 1, ?_, ?_, ?_, ?_, ?_, ?_⟩
    · decide +kernel
    · decide +kernel
    · decide +kernel
    · decide +kernel
    · decide +kernel
    · decide +kernel
  · refine ⟨{ inState .ready with lnk.k := 3, lnk.routes := [(16, 8)] }, packetTo 0x10000 1, ?_, ?_, ?_, ?_, ?_, ?_⟩
    · decide +kernel
    · decide +kernel
    · decide +kernel
    · decide +kernel
    · decide +kernel
    · decide +kernel

/-- Every hypothesis of NothingTakenBack is met. -/
theorem witness_nothing_taken_back :
    ∃ (c : Instr) (s : State) (t : State), exec c s = Host.Outcome.next t := by
  refine ⟨.fence run0, inState .ready, inState .ready, ?_⟩
  rfl

/-- Every hypothesis of ObjectWriteResult is met. -/
theorem witness_object_write_result :
    ∃ (s : State) (key : Nat) (r : ObjRow), objRow key = some r ∧ r.acc ≠ Acc.ro ∧ r.acc ≠ Acc.const ∧ (s.dict.server ≠ ServerState.stopped ∨ mgmtObject key = true) := by
  refine ⟨inState .ready, O.hbmLogClear.key, (objRow O.hbmLogClear.key).get (by decide +kernel), ?_, ?_, ?_, ?_⟩
  · decide +kernel
  · decide +kernel
  · decide +kernel
  · decide +kernel

/-- Every hypothesis of OneTransitionATick is met. -/
theorem witness_one_transition_a_tick :
    (∃ (s : State) (t : PkgState) (a : PkgState), s.pkg.taken = some a ∧ edge s.pkg.tickStart t = true ∧ t.rank < a.rank ∧ edge s.pkg.st t = true) ∧
    (∃ (s : State) (t : PkgState) (a : PkgState), s.pkg.taken = some a ∧ edge s.pkg.tickStart t = true ∧ a.rank ≤ t.rank) ∧
    (∃ (s : State) (t : PkgState), s.pkg.taken = none ∧ s.pkg.request = none ∧ edge s.pkg.st t = true) ∧
    (∃ (s : State) (t : PkgState) (a : PkgState), s.pkg.taken = some a ∧ s.pkg.request = some t ∧ a.rank ≤ t.rank) := by
  refine ⟨?_, ?_, ?_, ?_⟩
  · refine ⟨{ inState .ready with pkg.tickStart := .serving, pkg.taken := some .draining }, .off, .draining, ?_, ?_, ?_, ?_⟩
    · decide +kernel
    · decide +kernel
    · decide +kernel
    · decide +kernel
  · refine ⟨{ inState .ready with pkg.tickStart := .serving, pkg.taken := some .draining }, .draining, .draining, ?_, ?_, ?_⟩
    · decide +kernel
    · decide +kernel
    · decide +kernel
  · refine ⟨inState .serving, .draining, ?_, ?_, ?_⟩
    · decide +kernel
    · decide +kernel
    · decide +kernel
  · refine ⟨{ inState .ready with pkg.taken := some .draining, pkg.request := some .serving }, .serving, .draining, ?_, ?_, ?_⟩
    · decide +kernel
    · decide +kernel
    · decide +kernel

/-- Every hypothesis of PackageMovesAlongTable is met. -/
theorem witness_package_moves_along_table :
    (∃ (c : Instr) (s : State) (t : State), exec c s = Host.Outcome.next t) ∧
    (∃ (s : State) (t : State), s.pending = [] ∧ step s = Host.Outcome.next t) := by
  refine ⟨?_, ?_⟩
  · refine ⟨.fence run0, inState .ready, inState .ready, ?_⟩
    rfl
  · refine ⟨{ State.reset with pkg.st := .off }, { State.reset with pkg.st := .off }, ?_, ?_⟩
    · decide +kernel
    · rfl

/-- Every hypothesis of PinsFall is met. -/
theorem witness_pins_fall :
    (∃ (s : State), calm s ∧ s.pkg.st.hubRuns = true ∧ s.pkg.coolOk = true) ∧
    (∃ (s : State), s.pkg.pwrGood = true) := by
  refine ⟨?_, ?_⟩
  · refine ⟨{ inState .ready with pkg.coolOk := true }, ?_, ?_, ?_⟩
    · exact ⟨rfl, rfl⟩
    · decide +kernel
    · decide +kernel
  · refine ⟨{ inState .ready with pkg.pwrGood := true }, ?_⟩
    decide +kernel

/-- Every hypothesis of PlinthLink is met. -/
theorem witness_plinth_link :
    (∃ (s : State), s.pkg.st.hubRuns = true) ∧
    (∃ (s : State) (w : BitVec 128), s.pkg.st.hubRuns = true ∧ readTelemetry w (BitVec.toNat (s.clk.tick - 1) % 16) = none) ∧
    (∃ (s : State) (w : BitVec 128) (x : Tele), s.pkg.st.hubRuns = true ∧ readTelemetry w (BitVec.toNat (s.clk.tick - 1) % 16) = some x ∧ x.vcoreOk = true ∧ x.vmemOk = true ∧ x.vauxOk = true ∧ x.inputLow = false ∧ x.vcore ≤ 950 ∧ x.vmem ≤ 1250 ∧ s.pwr.supplyPull = false) ∧
    (∃ (s : State), s.pkg.st.hubRuns = true ∧ 16 ≤ s.pwr.missed ∧ s.pwr.silent = false) ∧
    (∃ (s : State), s.pkg.st.hubRuns = true ∧ 1000 ≤ s.pwr.missed ∧ s.pwr.lost = false) ∧
    (∃ (s : State), s.pkg.st.hubRuns = true ∧ s.pwr.missed < 16) ∧
    (∃ (s : State), s.pkg.st.hubRuns = true ∧ s.pwr.missed < 1000) := by
  refine ⟨?_, ?_, ?_, ?_, ?_, ?_, ?_⟩
  · refine ⟨inState .serving, ?_⟩
    decide +kernel
  · refine ⟨inState .serving, 0, ?_, ?_⟩
    · decide +kernel
    · decide +kernel
  · refine ⟨{ inState .serving with clk.tick := 1 }, 219336816991566129798818951046140788854, { vcore := 700, vmem := 1100, vcoreOk := true, vmemOk := true, vauxOk := true }, ?_, ?_, ?_, ?_, ?_, ?_, ?_, ?_, ?_⟩
    · decide +kernel
    · decide +kernel
    · decide +kernel
    · decide +kernel
    · decide +kernel
    · decide +kernel
    · decide +kernel
    · decide +kernel
    · decide +kernel
  · refine ⟨{ inState .serving with pwr.missed := 16 }, ?_, ?_, ?_⟩
    · decide +kernel
    · decide +kernel
    · decide +kernel
  · refine ⟨{ inState .serving with pwr.missed := 1000 }, ?_, ?_, ?_⟩
    · decide +kernel
    · decide +kernel
    · decide +kernel
  · refine ⟨inState .serving, ?_, ?_⟩
    · decide +kernel
    · decide +kernel
  · refine ⟨inState .serving, ?_, ?_⟩
    · decide +kernel
    · decide +kernel

/-- Every hypothesis of PlumblineDiscovery is met. -/
theorem witness_plumbline_discovery :
    (∃ (s : State) (p : Port) (w : BitVec 96), (s.port ↑p).st = PortState.training ∧ (s.port ↑p).train = TrainState.exchange ∧ s.lnk.plumb.st = PlumbState.settled ∧ bits w.toNat 34 34 = 0 ∧ bits w.toNat 16 0 = 0 ∧ bits w.toNat 47 43 = ↑p ∧ bits w.toNat 42 38 = s.lnk.k ∧ bits w.toNat 37 37 = b2n s.lnk.twist ∧ ↑p ≠ 18) ∧
    (∃ (s : State) (p : Port) (w : BitVec 96), (s.port ↑p).st = PortState.training ∧ (s.port ↑p).train = TrainState.exchange ∧ s.lnk.plumb.st = PlumbState.settled ∧ bits w.toNat 34 34 = 0 ∧ bits w.toNat 16 0 = 0 ∧ bits w.toNat 47 43 ≠ ↑p) ∧
    (∃ (s : State) (p : Port) (w : BitVec 96), s.portUp ↑p = true ∧ bits w.toNat 39 0 = 0 ∧ s.lnk.plumb.st = PlumbState.gather ∧ bits w.toNat 95 48 < s.lnk.plumb.best.toNat) ∧
    (∃ (s : State) (p : Port) (w : BitVec 96), s.portUp ↑p = true ∧ bits w.toNat 39 0 = 0 ∧ s.lnk.plumb.st = PlumbState.gather ∧ s.lnk.plumb.best.toNat ≤ bits w.toNat 95 48) ∧
    (∃ (s : State), s.lnk.plumb.st = PlumbState.gather ∧ s.lnk.plumb.bestAt + 1000 * s.num O.gatherQuiet ≤ s.us ∧ s.lnk.plumb.best = Config.serial) ∧
    (∃ (s : State), s.lnk.plumb.st = PlumbState.gather ∧ s.lnk.plumb.bestAt + 1000 * s.num O.gatherQuiet ≤ s.us ∧ s.lnk.plumb.best ≠ Config.serial ∧ s.lnk.plumb.waitFrom = none) ∧
    (∃ (s : State) (p : Port) (w : BitVec 96), s.portUp ↑p = true ∧ bits w.toNat 30 0 = 0 ∧ s.lnk.plumb.st = PlumbState.gather) ∧
    (∃ (s : State), s.lnk.plumb.round = false ∨ s.lnk.plumb.reported = true ∨ s.us < s.lnk.plumb.assignAt + 1000 * s.num O.assignQuiet) ∧
    (∃ (s : State), s.lnk.plumb.round = true ∧ s.lnk.plumb.reported = false ∧ s.lnk.plumb.assignAt + 1000 * s.num O.assignQuiet ≤ s.us ∧ s.lnk.plumb.st = PlumbState.assigning ∧ s.children = [] ∧ s.lnk.plumb.reports = [] ∧ highRank s.lnk.k s.node s.lnk.plumb.m = none) ∧
    (∃ (s : State) (p : Port), s.portUp ↑p = true ∧ s.lnk.plumb.round = true ∧ s.lnk.plumb.reported = false ∧ s.children.contains (s.peerOf ↑p) = true ∧ s.us < s.lnk.plumb.assignAt + 1000 * s.num O.assignQuiet) ∧
    (∃ (s : State) (f : Nat), s.lnk.plumb.waitFrom = some f ∧ s.lnk.plumb.st = PlumbState.gather ∧ s.us < f + 1000 * s.num O.reportTimeout) ∧
    (∃ (s : State) (f : Nat), s.lnk.plumb.waitFrom = some f ∧ s.lnk.plumb.st = PlumbState.gather ∧ f + 1000 * s.num O.reportTimeout ≤ s.us) := by
  refine ⟨?_, ?_, ?_, ?_, ?_, ?_, ?_, ?_, ?_, ?_, ?_, ?_⟩
  · refine ⟨withPort { inState .align with lnk.plumb.st := .settled } 0 { st := .training, train := .exchange }, 0, 0, ?_, ?_, ?_, ?_, ?_, ?_, ?_, ?_, ?_⟩
    · decide +kernel
    · decide +kernel
    · decide +kernel
    · decide +kernel
    · decide +kernel
    · decide +kernel
    · decide +kernel
    · decide +kernel
    · decide +kernel
  · refine ⟨withPort { inState .align with lnk.plumb.st := .settled } 0 { st := .training, train := .exchange }, 0, 0x80000000000, ?_, ?_, ?_, ?_, ?_, ?_⟩
    · decide +kernel
    · decide +kernel
    · decide +kernel
    · decide +kernel
    · decide +kernel
    · decide +kernel
  · refine ⟨withPort { inState .align with lnk.plumb.st := .gather, lnk.plumb.best := 5 } 0 { st := .active }, 0, 0, ?_, ?_, ?_, ?_⟩
    · decide +kernel
    · decide +kernel
    · decide +kernel
    · decide +kernel
  · refine ⟨withPort { inState .align with lnk.plumb.st := .gather } 0 { st := .active }, 0, 0, ?_, ?_, ?_, ?_⟩
    · decide +kernel
    · decide +kernel
    · decide +kernel
    · decide +kernel
  · refine ⟨{ aged (inState .align) with lnk.plumb.st := .gather, lnk.plumb.best := Config.serial }, ?_, ?_, ?_⟩
    · decide +kernel
    · decide +kernel
    · rfl
  · refine ⟨{ aged (inState .align) with lnk.plumb.st := .gather, lnk.plumb.best := Config.serial + 1 }, ?_, ?_, ?_, ?_⟩
    · decide +kernel
    · decide +kernel
    · show Config.serial + 1#48 ≠ Config.serial; bv_omega
    · decide +kernel
  · refine ⟨withPort { inState .align with lnk.plumb.st := .gather } 0 { st := .active }, 0, 0, ?_, ?_, ?_⟩
    · decide +kernel
    · decide +kernel
    · decide +kernel
  · refine ⟨inState .align, ?_⟩
    decide +kernel
  · refine ⟨{ aged (inState .align) with lnk.plumb.st := .assigning, lnk.plumb.round := true }, ?_, ?_, ?_, ?_, ?_, ?_, ?_⟩
    · decide +kernel
    · decide +kernel
    · decide +kernel
    · decide +kernel
    · decide +kernel
    · decide +kernel
    · decide +kernel
  · refine ⟨withPort { inState .align with lnk.plumb.round := true } 16 { st := .active }, 16, ?_, ?_, ?_, ?_, ?_⟩
    · decide +kernel
    · decide +kernel
    · decide +kernel
    · decide +kernel
    · decide +kernel
  · refine ⟨{ inState .align with lnk.plumb.st := .gather, lnk.plumb.waitFrom := some 0 }, 0, ?_, ?_, ?_⟩
    · decide +kernel
    · decide +kernel
    · decide +kernel
  · refine ⟨{ aged (inState .align) with lnk.plumb.st := .gather, lnk.plumb.waitFrom := some 0 }, 0, ?_, ?_, ?_⟩
    · decide +kernel
    · decide +kernel
    · decide +kernel

/-- Every hypothesis of PlumblineFabric is met. -/
theorem witness_plumbline_fabric :
    (∃ (s : State) (p : Port) (w : BitVec 96), s.portUp ↑p = true ∧ bits w.toNat 3 0 = 0 ∧ s.lnk.plumb.st = PlumbState.joining) ∧
    (∃ (s : State) (p : Port) (w : BitVec 96), s.portUp ↑p = true ∧ bits w.toNat 3 0 = 0 ∧ s.lnk.plumb.st = PlumbState.settled ∧ BitVec.ofNat 48 (bits w.toNat 95 48) ≠ s.lnk.plumb.tag) ∧
    (∃ (s : State) (p : Port) (w : BitVec 96), s.portUp ↑p = true ∧ bits w.toNat 3 0 = 0 ∧ s.lnk.plumb.st = PlumbState.settled ∧ BitVec.ofNat 48 (bits w.toNat 95 48) = s.lnk.plumb.tag ∧ s.lnk.plumb.restoreHeld = false ∧ s.lnk.plumb.fabricSeen = some (plainFabric w)) ∧
    (∃ (s : State) (p : Port) (w : BitVec 96), s.portUp ↑p = true ∧ bits w.toNat 3 0 = 0 ∧ s.lnk.plumb.st = PlumbState.reporting ∧ s.lnk.plumb.ident.isSome = true ∧ s.lnk.plumb.fabricSeen = none ∧ s.clk.originating = false) ∧
    (∃ (s : State) (p : Port) (w : BitVec 96), s.portUp ↑p = true ∧ bits w.toNat 47 0 = 0 ∧ s.lnk.plumb.st ≠ PlumbState.settled) ∧
    (∃ (s : State) (p : Port) (w : BitVec 96), s.portUp ↑p = true ∧ bits w.toNat 47 0 = 0 ∧ s.lnk.plumb.st = PlumbState.settled) ∧
    (∃ (s : State), s.lnk.plumb.st ≠ PlumbState.joining ∨ s.us < s.lnk.plumb.joinAt + 10000) ∧
    (∃ (s : State) (p : Nat) (w : BitVec 96), s.lnk.plumb.st = PlumbState.joining ∧ s.lnk.plumb.joinAt + 10000 ≤ s.us ∧ List.filterMap (fun p ↦ Option.map (fun a ↦ (p, a)) (s.port p).answer) s.upPorts = [(p, w)]) ∧
    (∃ (s : State) (p : Port) (w : BitVec 96), s.portUp ↑p = true ∧ bits w.toNat 22 0 = 0 ∧ s.lnk.plumb.st = PlumbState.settled ∧ BitVec.ofNat 48 (bits w.toNat 95 48) = s.lnk.plumb.tag ∧ s.lnk.plumb.callSeen = some w) ∧
    (∃ (s : State) (p : Port) (w : BitVec 96), s.portUp ↑p = true ∧ bits w.toNat 22 0 = 0 ∧ s.lnk.plumb.st = PlumbState.settled ∧ BitVec.ofNat 48 (bits w.toNat 95 48) = s.lnk.plumb.tag ∧ s.lnk.plumb.callSeen ≠ some w ∧ s.us < s.lnk.plumb.assignAt + 1000 * s.num O.assignQuiet) := by
  refine ⟨?_, ?_, ?_, ?_, ?_, ?_, ?_, ?_, ?_, ?_⟩
  · refine ⟨withPort { inState .align with lnk.plumb.st := .joining } 0 { st := .active }, 0, 0, ?_, ?_, ?_⟩
    · decide +kernel
    · decide +kernel
    · decide +kernel
  · refine ⟨withPort { inState .align with lnk.plumb.st := .settled } 0 { st := .active }, 0, 0x1000000000000, ?_, ?_, ?_, ?_⟩
    · decide +kernel
    · decide +kernel
    · decide +kernel
    · decide +kernel
  · refine ⟨withPort { inState .align with lnk.plumb.st := .settled, lnk.plumb.fabricSeen := some (plainFabric 0) } 0 { st := .active }, 0, 0, ?_, ?_, ?_, ?_, ?_, ?_⟩
    · decide +kernel
    · decide +kernel
    · decide +kernel
    · decide +kernel
    · decide +kernel
    · decide +kernel
  · refine ⟨withPort { inState .align with lnk.plumb.st := .reporting, lnk.plumb.ident := some 0 } 0 { st := .active }, 0, 0, ?_, ?_, ?_, ?_, ?_, ?_⟩
    · decide +kernel
    · decide +kernel
    · decide +kernel
    · decide +kernel
    · decide +kernel
    · decide +kernel
  · refine ⟨withPort { inState .align with lnk.plumb.st := .joining } 0 { st := .active }, 0, 0, ?_, ?_, ?_⟩
    · decide +kernel
    · decide +kernel
    · decide +kernel
  · refine ⟨withPort { inState .align with lnk.plumb.st := .settled } 0 { st := .active }, 0, 0, ?_, ?_, ?_⟩
    · decide +kernel
    · decide +kernel
    · decide +kernel
  · refine ⟨inState .align, ?_⟩
    decide +kernel
  · refine ⟨withPort { aged (inState .align) with lnk.plumb.st := .joining } 0 { st := .active, answer := some 0 }, 0, 0, ?_, ?_, ?_⟩
    · decide +kernel
    · decide +kernel
    · decide +kernel
  · refine ⟨withPort { inState .align with lnk.plumb.st := .settled, lnk.plumb.callSeen := some 0 } 0 { st := .active }, 0, 0, ?_, ?_, ?_, ?_, ?_⟩
    · decide +kernel
    · decide +kernel
    · decide +kernel
    · decide +kernel
    · decide +kernel
  · refine ⟨withPort { inState .align with lnk.plumb.st := .settled } 0 { st := .active }, 0, 0, ?_, ?_, ?_, ?_, ?_, ?_⟩
    · decide +kernel
    · decide +kernel
    · decide +kernel
    · decide +kernel
    · decide +kernel
    · decide +kernel

/-- Every hypothesis of PointsAndWakes is met. -/
theorem witness_points_and_wakes :
    (∃ (s : State), s.pkg.st.hubRuns = true ∧ s.targetOp < s.pwr.op) ∧
    (∃ (s : State), s.pkg.st.hubRuns = true ∧ s.pwr.op < s.targetOp ∧ s.pwr.stepping = none) ∧
    (∃ (s : State), s.pkg.st.hubRuns = true ∧ s.pwr.op = s.targetOp ∧ s.pwr.stepping = none) ∧
    (∃ (s : State) (n : Nat) (x : Tele), s.pwr.stepping = some n ∧ s.pwr.tele = some x ∧ x.settled = true ∧ (n ≠ 7 ∨ s.pwr.charged = true ∧ s.pwr.op7Ticks < 3600000)) ∧
    (∃ (s : State) (x : Tele), s.pwr.stepping = some 7 ∧ s.pwr.tele = some x ∧ x.settled = true ∧ (s.pwr.charged = false ∨ 3600000 ≤ s.pwr.op7Ticks)) ∧
    (∃ (s : State), s.pwr.stepping = some 7 ∧ s.pwr.charged = false ∧ s.sec.wear + 1 < 17520) ∧
    (∃ (s : State), s.pwr.stepping = some 7 ∧ s.pwr.charged = false ∧ 17520 ≤ s.sec.wear) ∧
    (∃ (s : State) (q : Fin 4) (rest : List (Fin 4)), s.dueBefore 3 = false ∧ s.pkg.st.hubRuns = true ∧ s.pwr.wakeAsked = q :: rest ∧ s.pwr.waking = [] ∧ BitVec.toNat s.clk.tick % 50 = 0 ∧ BitVec.toNat s.clk.tick / 50 % s.num O.wakeStride = s.num O.wakePhase) ∧
    (∃ (s : State) (q : Fin 4) (due : Tick), s.pwr.waking = [(q, due)] ∧ Tick.atLeast s.clk.tick due = true) := by
  refine ⟨?_, ?_, ?_, ?_, ?_, ?_, ?_, ?_, ?_⟩
  · refine ⟨{ inState .serving with pwr.op := 6 }, ?_, ?_⟩
    · decide +kernel
    · decide +kernel
  · refine ⟨{ inState .serving with pwr.op := 4 }, ?_, ?_, ?_⟩
    · decide +kernel
    · decide +kernel
    · decide +kernel
  · refine ⟨inState .serving, ?_, ?_, ?_⟩
    · decide +kernel
    · decide +kernel
    · decide +kernel
  · refine ⟨{ inState .serving with pwr.stepping := some 6, pwr.tele := some { settled := true } }, 6, { settled := true }, ?_, ?_, ?_, ?_⟩
    · decide +kernel
    · decide +kernel
    · decide +kernel
    · decide +kernel
  · refine ⟨{ inState .serving with pwr.stepping := some 7, pwr.tele := some { settled := true } }, { settled := true }, ?_, ?_, ?_, ?_⟩
    · decide +kernel
    · decide +kernel
    · decide +kernel
    · decide +kernel
  · refine ⟨{ inState .serving with pwr.stepping := some 7 }, ?_, ?_, ?_⟩
    · decide +kernel
    · decide +kernel
    · decide +kernel
  · refine ⟨{ inState .serving with pwr.stepping := some 7, sec.wear := 17520 }, ?_, ?_, ?_⟩
    · decide +kernel
    · decide +kernel
    · decide +kernel
  · refine ⟨{ inState .serving with pwr.wakeAsked := [0] }, 0, [], ?_, ?_, ?_, ?_, ?_, ?_⟩
    · decide +kernel
    · decide +kernel
    · decide +kernel
    · decide +kernel
    · decide +kernel
    · decide +kernel
  · refine ⟨{ inState .serving with pwr.waking := [(0, 0)] }, 0, 0, ?_, ?_⟩
    · decide +kernel
    · decide +kernel

/-- Every hypothesis of PowerRail is met. -/
theorem witness_power_rail :
    (∃ (s : State), s.pkg.st = PkgState.off ∧ s.pkg.request = none) ∧
    (∃ (s : State), s.pkg.st ≠ PkgState.off ∧ s.pkg.request = none) := by
  refine ⟨?_, ?_⟩
  · refine ⟨inState .off, ?_, ?_⟩
    · decide +kernel
    · decide +kernel
  · refine ⟨inState .ready, ?_, ?_⟩
    · decide +kernel
    · decide +kernel

/-- Every hypothesis of ReinIsLeast is met. -/
theorem witness_rein_is_least :
    (∃ (s : State), s.pkg.st.hubRuns = true ∧ s.pullCases = []) ∧
    (∃ (s : State), s.pwr.tele = none ∧ s.pwr.supplyPull = false) ∧
    (∃ (s : State), s.pkg.st.hubRuns = true ∧ s.pullCases ≠ []) := by
  refine ⟨?_, ?_, ?_⟩
  · refine ⟨inState .serving, ?_, ?_⟩
    · decide +kernel
    · decide +kernel
  · refine ⟨inState .serving, ?_, ?_⟩
    · decide +kernel
    · decide +kernel
  · refine ⟨{ inState .serving with pwr.tele := some { icore := 12001 } }, ?_, ?_⟩
    · decide +kernel
    · decide +kernel

/-- Every hypothesis of ResetPin is met. -/
theorem witness_reset_pin :
    (∃ (s : State), calm s) ∧
    (∃ (s : State), s.pkg.request = none) := by
  refine ⟨?_, ?_⟩
  · refine ⟨inState .serving, ?_⟩
    exact ⟨rfl, rfl⟩
  · refine ⟨inState .serving, ?_⟩
    decide +kernel

/-- Every hypothesis of Routing is met. -/
theorem witness_routing :
    (∃ (s : State) (k : Packet), s.pkg.st.hubRuns = true ∧ List.find? (fun a ↦ a.snd == k) s.lnk.arrived = none ∧ s.nextHop k = Hop.deliver) ∧
    (∃ (s : State) (k : Packet) (q : Nat), s.pkg.st.hubRuns = true ∧ List.find? (fun a ↦ a.snd == k) s.lnk.arrived = none ∧ s.nextHop k = Hop.send q false ∧ s.num O.combineEnable ≠ 1) ∧
    (∃ (s : State) (k : Packet), s.pkg.st.hubRuns = true ∧ List.find? (fun a ↦ a.snd == k) s.lnk.arrived = none ∧ s.nextHop k = Hop.discard 6 ∧ k.ptype ≠ 1) ∧
    (∃ (s : State) (k : Packet), s.pkg.st.hubRuns = true ∧ List.find? (fun a ↦ a.snd == k) s.lnk.arrived = none ∧ s.nextHop k = Hop.discard 7 ∧ k.ptype ≠ 1) ∧
    (∃ (s : State), ∀ (p v : Nat), ((s.port p).vc v).queue = []) ∧
    (∃ (s : State) (p : Port), ↑p < 16 ∧ (s.port ↑p).st = PortState.active ∧ (s.port ↑p).txMap = none ∧ (s.port ↑p).words ≠ [] ∧ (s.port ↑p).controlRest = 0 ∧ (∀ (w : BitVec 128), w ∈ (s.port ↑p).words → (s.port ↑p).carries w = true)) ∧
    (∃ (s : State) (p : Port), ↑p < 16 ∧ (s.port ↑p).st = PortState.active ∧ (s.port ↑p).txMap = none ∧ (s.port ↑p).words = [] ∧ (s.port ↑p).resend = [] ∧ (s.port ↑p).nextVc s.crs.exchangeOpen = none) ∧
    (∃ (s : State) (i : Nat) (c : CombineRec) (f : Tick), s.lnk.combine[i]? = some c ∧ c.forwarded = some f ∧ Tick.atLeast s.clk.tick f = true ∧ s.num O.loadBound ≤ Tick.since s.clk.tick f) ∧
    (∃ (s : State) (i : Nat) (c : CombineRec) (f : Tick), s.lnk.combine[i]? = some c ∧ c.forwarded = some f ∧ Tick.atLeast s.clk.tick f = true ∧ Tick.since s.clk.tick f < s.num O.loadBound) ∧
    (∃ (s : State) (g : Bool), (s.gateway g).near = []) ∧
    (∃ (s : State) (g : Bool), (s.gateway g).near ≠ []) := by
  refine ⟨?_, ?_, ?_, ?_, ?_, ?_, ?_, ?_, ?_, ?_, ?_⟩
  · refine ⟨inState .serving, packetTo 0 2, ?_, ?_, ?_⟩
    · decide +kernel
    · decide +kernel
    · decide +kernel
  · refine ⟨({ inState .serving with lnk.k := 3, lnk.routes := [(0, 8)] }).setNum O.combineEnable 0, packetTo 1 2, 0, ?_, ?_, ?_, ?_⟩
    · decide +kernel
    · decide +kernel
    · decide +kernel
    · decide +kernel
  · refine ⟨inState .serving, packetTo 1 2, ?_, ?_, ?_, ?_⟩
    · decide +kernel
    · decide +kernel
    · decide +kernel
    · decide +kernel
  · refine ⟨inState .serving, { packetTo 5 2 with hops := 32 }, ?_, ?_, ?_, ?_⟩
    · decide +kernel
    · decide +kernel
    · decide +kernel
    · decide +kernel
  · refine ⟨inState .serving, ?_⟩
    intro p v; rfl
  · refine ⟨withPort (inState .serving) 0 { st := .active, words := [0] }, 0, ?_, ?_, ?_, ?_, ?_, ?_⟩
    · decide +kernel
    · decide +kernel
    · decide +kernel
    · decide +kernel
    · decide +kernel
    · intro w _; rfl
  · refine ⟨withPort (inState .serving) 0 { st := .active }, 0, ?_, ?_, ?_, ?_, ?_, ?_⟩
    · decide +kernel
    · decide +kernel
    · decide +kernel
    · decide +kernel
    · decide +kernel
    · decide +kernel
  · refine ⟨{ late (inState .serving) with lnk.combine := [{ forwarded := some 0 }] }, 0, { forwarded := some 0 }, 0, ?_, ?_, ?_, ?_⟩
    · decide +kernel
    · decide +kernel
    · decide +kernel
    · decide +kernel
  · refine ⟨{ inState .serving with lnk.combine := [{ forwarded := some 0 }] }, 0, { forwarded := some 0 }, 0, ?_, ?_, ?_, ?_⟩
    · decide +kernel
    · decide +kernel
    · decide +kernel
    · decide +kernel
  · refine ⟨inState .serving, false, ?_⟩
    decide +kernel
  · refine ⟨{ inState .serving with fab.g0.near := [packetTo 0 2] }, false, ?_⟩
    decide +kernel

/-- Every hypothesis of StateRequests is met. -/
theorem witness_state_requests :
    (∃ (s : State) (p : Path), passes s p O.stateRequest (ObjVal.num 4) ∧ s.pkg.request = none ∧ s.pkg.st = PkgState.drained) ∧
    (∃ (s : State) (p : Path), passes s p O.stateRequest (ObjVal.num 4) ∧ s.pkg.request = none ∧ s.pkg.st ≠ PkgState.drained) ∧
    (∃ (s : State) (p : Path), passes s p O.stateRequest (ObjVal.num 5) ∧ s.pkg.request = none ∧ s.pkg.st = PkgState.ready ∧ s.hasLive = true) ∧
    (∃ (s : State) (p : Path), passes s p O.stateRequest (ObjVal.num 5) ∧ s.pkg.request = none ∧ s.pkg.st = PkgState.ready ∧ s.hasLive = false) ∧
    (∃ (s : State) (p : Path), passes s p O.stateRequest (ObjVal.num 5) ∧ s.pkg.request = none ∧ s.pkg.st ≠ PkgState.ready) ∧
    (∃ (s : State) (p : Path), passes s p O.stateRequest (ObjVal.num 6) ∧ s.pkg.request = none ∧ (s.pkg.st = PkgState.serving ∨ s.pkg.st = PkgState.covering)) ∧
    (∃ (s : State) (p : Path), passes s p O.stateRequest (ObjVal.num 6) ∧ s.pkg.request = none ∧ (¬(s.pkg.st = PkgState.serving ∨ s.pkg.st = PkgState.covering))) ∧
    (∃ (s : State) (p : Path), passes s p O.stateRequest (ObjVal.num 7) ∧ s.pkg.request = none ∧ s.pkg.st = PkgState.ready) ∧
    (∃ (s : State) (p : Path), passes s p O.stateRequest (ObjVal.num 7) ∧ s.pkg.request = none ∧ s.pkg.st ≠ PkgState.ready) ∧
    (∃ (s : State) (r : PkgState), s.pkg.request = some r ∧ s.pkg.taken = none ∧ edge s.pkg.st r = true ∧ (r = PkgState.serving → s.hasLive = true) ∧ (r = PkgState.drained → s.mem.merge = [])) := by
  refine ⟨?_, ?_, ?_, ?_, ?_, ?_, ?_, ?_, ?_, ?_⟩
  · refine ⟨inState .drained, ctl, ?_, ?_, ?_⟩
    · unfold passes; decide +kernel
    · decide +kernel
    · decide +kernel
  · refine ⟨inState .ready, ctl, ?_, ?_, ?_⟩
    · unfold passes; decide +kernel
    · decide +kernel
    · decide +kernel
  · refine ⟨{ inState .ready with wts.k0.st := .live }, ctl, ?_, ?_, ?_, ?_⟩
    · unfold passes; decide +kernel
    · decide +kernel
    · decide +kernel
    · decide +kernel
  · refine ⟨inState .ready, ctl, ?_, ?_, ?_, ?_⟩
    · unfold passes; decide +kernel
    · decide +kernel
    · decide +kernel
    · decide +kernel
  · refine ⟨inState .drained, ctl, ?_, ?_, ?_⟩
    · unfold passes; decide +kernel
    · decide +kernel
    · decide +kernel
  · refine ⟨inState .serving, ctl, ?_, ?_, ?_⟩
    · unfold passes; decide +kernel
    · decide +kernel
    · decide +kernel
  · refine ⟨inState .ready, ctl, ?_, ?_, ?_⟩
    · unfold passes; decide +kernel
    · decide +kernel
    · decide +kernel
  · refine ⟨inState .ready, ctl, ?_, ?_, ?_⟩
    · unfold passes; decide +kernel
    · decide +kernel
    · decide +kernel
  · refine ⟨inState .drained, ctl, ?_, ?_, ?_⟩
    · unfold passes; decide +kernel
    · decide +kernel
    · decide +kernel
  · refine ⟨{ inState .drained with pkg.request := some .ready }, .ready, ?_, ?_, ?_, ?_, ?_⟩
    · decide +kernel
    · decide +kernel
    · decide +kernel
    · decide +kernel
    · decide +kernel

/-- Every hypothesis of StealingAndWithdrawal is met. -/
theorem witness_stealing_and_withdrawal :
    (∃ (s : State) (q : Fin 4) (nn : Fin 96) (x : Entry) (rest : List Entry), (s.coreAt (coreNo q nn)).st = StealState.active ∧ (s.coreAt (coreNo q nn)).running = none ∧ (s.coreAt (coreNo q nn)).waits = false ∧ (s.coreAt (coreNo q nn)).deque = [] ∧ s.overflow ↑q = [] ∧ (s.coreAt (↑q * 96 + 8 * (↑nn / 8) + (↑nn % 8 + 1) % 8)).deque = x :: rest) ∧
    (∃ (s : State) (q : Fin 4) (nn : Fin 96), (s.coreAt (coreNo q nn)).st = StealState.active ∧ (s.coreAt (coreNo q nn)).running = none ∧ (s.coreAt (coreNo q nn)).waits = false ∧ s.overflow ↑q = [] ∧ (∀ (k : Nat), (s.coreAt k).deque = [] ∧ (s.coreAt k).shown = 0) ∧ (∀ (k : Nat), s.hubDepth k = 0)) ∧
    (∃ (s : State) (q : Fin 4) (nn : Fin 96), (s.coreAt (coreNo q nn)).st = StealState.active) ∧
    (∃ (s : State) (q : Fin 4) (nn : Fin 96), (s.coreAt (coreNo q nn)).st = StealState.leaving ∧ (s.coreAt (coreNo q nn)).running = none ∧ (s.coreAt (coreNo q nn)).deque = []) ∧
    (∃ (s : State) (q : Fin 4) (nn : Fin 96), (s.coreAt (coreNo q nn)).st = StealState.withdrawn ∧ (s.coreAt (coreNo q nn)).failed = false ∧ (s.coreAt (coreNo q nn)).awaitTest = false) := by
  refine ⟨?_, ?_, ?_, ?_, ?_⟩
  · refine ⟨{ inState .serving with cred.cores := [(1, { deque := [entryOf false false 0] })] }, 0, 0, entryOf false false 0, [], ?_, ?_, ?_, ?_, ?_, ?_⟩
    · decide +kernel
    · decide +kernel
    · decide +kernel
    · decide +kernel
    · decide +kernel
    · decide +kernel
  · refine ⟨inState .serving, 0, 0, ?_, ?_, ?_, ?_, ?_, ?_⟩
    · decide +kernel
    · decide +kernel
    · decide +kernel
    · decide +kernel
    · (intro k; exact ⟨rfl, rfl⟩)
    · (intro k; rfl)
  · refine ⟨inState .serving, 0, 0, ?_⟩
    decide +kernel
  · refine ⟨{ inState .serving with cred.cores := [(0, { st := .leaving })] }, 0, 0, ?_, ?_, ?_⟩
    · decide +kernel
    · decide +kernel
    · decide +kernel
  · refine ⟨{ inState .serving with cred.cores := [(0, { st := .withdrawn })] }, 0, 0, ?_, ?_, ?_⟩
    · decide +kernel
    · decide +kernel
    · decide +kernel

/-- Every hypothesis of TablesAndPorts is met. -/
theorem witness_tables_and_ports :
    (∃ (s : State) (p : Path) (sub : Byte) (v : W64), 1 ≤ BitVec.toNat sub ∧ BitVec.toNat sub ≤ 64 ∧ s.num O.regionCount < BitVec.toNat sub ∧ passes s p { key := O.regionCount.key + BitVec.toNat sub, dflt := 0 } (ObjVal.num (BitVec.toNat v)) ∧ regionOk (BitVec.toNat v) = true ∧ s.enabledHods = []) ∧
    (∃ (s : State) (p : Path) (sub : Byte) (v : W64), 1 ≤ BitVec.toNat sub ∧ BitVec.toNat sub ≤ 4 ∧ s.num O.areaCount < BitVec.toNat sub ∧ BitVec.toNat v < 2 ^ 36 ∧ passes s p { key := O.areaCount.key + BitVec.toNat sub, dflt := 0 } (ObjVal.num (BitVec.toNat v))) ∧
    (∃ (s : State) (p : Path) (k : Fin 2) (v : Byte), passes s p (O.copyFree ↑k) (ObjVal.num (BitVec.toNat v)) ∧ s.wts.k0.st ≠ CopyState.outgoing ∧ s.wts.k1.st ≠ CopyState.outgoing ∧ (s.wts.copy ↑k).st = CopyState.ready) ∧
    (∃ (s : State) (p : Path) (k : Fin 2) (v : Byte), passes s p (O.copyFree ↑k) (ObjVal.num (BitVec.toNat v)) ∧ s.wts.k0.st ≠ CopyState.outgoing ∧ s.wts.k1.st ≠ CopyState.outgoing ∧ (s.wts.copy ↑k).st = CopyState.live) ∧
    (∃ (s : State) (p : Path) (w : Fin 128), passes s p (O.winEnable ↑w) (ObjVal.num 1) ∧ s.windowOk ↑w = true) ∧
    (∃ (s : State) (p : Path) (w : Fin 128), passes s p (O.winEnable ↑w) (ObjVal.num 1) ∧ s.windowOk ↑w = false) ∧
    (∃ (s : State) (p : Path) (q : Port), ↑q < 19 ∧ passes s p (O.portPortEnable ↑q) (ObjVal.num 0)) ∧
    (∃ (s : State) (p : Path) (q : Port), ↑q < 19 ∧ passes s p (O.portPortEnable ↑q) (ObjVal.num 1) ∧ (s.port ↑q).st = PortState.disabled) ∧
    (∃ (s : State) (p : Path) (v : Byte), passes s p O.plumbRestart (ObjVal.num (BitVec.toNat v)) ∧ s.pkg.st = PkgState.align) ∧
    (∃ (s : State) (p : Path) (v : Byte), passes s p O.plumbRestart (ObjVal.num (BitVec.toNat v)) ∧ s.pkg.st ≠ PkgState.align) ∧
    (∃ (s : State) (p : Path) (v : Byte), passes s p O.restoreStart (ObjVal.num (BitVec.toNat v)) ∧ s.mir.covered = none) ∧
    (∃ (s : State) (p : Path) (v : Byte) (n : Node), passes s p O.restoreStart (ObjVal.num (BitVec.toNat v)) ∧ s.mir.covered = some n ∧ s.pkg.st = PkgState.covering ∧ (s.port 18).st = PortState.active ∧ (s.port 18).peerPhase = 2 ∧ (s.lnk.aliases.any fun a ↦ a.fst == n) = true) := by
  refine ⟨?_, ?_, ?_, ?_, ?_, ?_, ?_, ?_, ?_, ?_, ?_, ?_⟩
  · refine ⟨inState .drained, ctl, 64, 0x40000, ?_, ?_, ?_, ?_, ?_, ?_⟩
    · decide +kernel
    · decide +kernel
    · decide +kernel
    · unfold passes; decide +kernel
    · decide +kernel
    · decide +kernel
  · refine ⟨inState .drained, ctl, 4, 0, ?_, ?_, ?_, ?_, ?_⟩
    · decide +kernel
    · decide +kernel
    · decide +kernel
    · decide +kernel
    · unfold passes; decide +kernel
  · refine ⟨{ inState .ready with wts.k0.st := .ready }, ctl, 0, 1, ?_, ?_, ?_, ?_⟩
    · unfold passes; decide +kernel
    · decide +kernel
    · decide +kernel
    · decide +kernel
  · refine ⟨{ inState .ready with wts.k0.st := .live }, ctl, 0, 1, ?_, ?_, ?_, ?_⟩
    · unfold passes; decide +kernel
    · decide +kernel
    · decide +kernel
    · decide +kernel
  · refine ⟨((inState .ready).setNum O.hostLimitCount 1).setBlob (O.hostLimit 0) (leBytes 8 0 ++ leBytes 8 0xFFFFFF), ctl, 0, ?_, ?_⟩
    · unfold passes; decide +kernel
    · decide +kernel
  · refine ⟨inState .ready, ctl, 0, ?_, ?_⟩
    · unfold passes; decide +kernel
    · decide +kernel
  · refine ⟨inState .drained, ctl, 0, ?_, ?_⟩
    · decide +kernel
    · unfold passes; decide +kernel
  · refine ⟨withPort (inState .drained) 0 { st := .disabled }, ctl, 0, ?_, ?_, ?_⟩
    · decide +kernel
    · unfold passes; decide +kernel
    · decide +kernel
  · refine ⟨inState .align, ctl, 1, ?_, ?_⟩
    · unfold passes; decide +kernel
    · decide +kernel
  · refine ⟨inState .ready, ctl, 1, ?_, ?_⟩
    · unfold passes; decide +kernel
    · decide +kernel
  · refine ⟨inState .ready, ctl, 1, ?_, ?_⟩
    · unfold passes; decide +kernel
    · decide +kernel
  · refine ⟨withPort { inState .covering with mir.covered := some 8, lnk.aliases := [(8, 0)] } 18 { st := .active, peerPhase := 2 }, ctl, 1, 8, ?_, ?_, ?_, ?_, ?_, ?_⟩
    · unfold passes; decide +kernel
    · decide +kernel
    · decide +kernel
    · decide +kernel
    · decide +kernel
    · decide +kernel

/-- Every hypothesis of TakeoverAndRestore is met. -/
theorem witness_takeover_and_restore :
    (∃ (s : State) (x : Takeover), s.mir.takeover = some x ∧ x.imported = false ∧ s.quietOver x = false) ∧
    (∃ (s : State) (x : Takeover), s.mir.takeover = some x ∧ x.imported = false ∧ s.quietOver x = true ∧ s.mayCover = false) ∧
    (∃ (s : State) (x : Takeover), s.mir.takeover = some x ∧ x.imported = false ∧ s.quietOver x = true ∧ s.mayCover = true) ∧
    (∃ (s : State) (x : Takeover), s.mir.takeover = some x ∧ x.imported = false) ∧
    (∃ (s : State) (x : Takeover), s.mir.takeover = some x ∧ x.imported = true ∧ s.pkg.st = PkgState.serving ∧ s.hasLive = true ∧ calm s) ∧
    (∃ (s : State) (n : Node), s.mir.takeover = none ∧ s.indexIn false n = none) ∧
    (∃ (s : State) (n : Node), s.mir.takeover = none ∧ (s.indexIn false n).isSome = true) ∧
    (∃ (s : State) (n : Node), s.pkg.st ≠ PkgState.covering ∧ s.indexIn false n = none) ∧
    (∃ (s : State) (n : Node) (i : Nat), s.pkg.st ≠ PkgState.covering ∧ s.indexIn false n = some i ∧ s.crs.own.running = false) ∧
    (∃ (s : State), s.pkg.st ≠ PkgState.covering ∧ s.crs.own.running = false) ∧
    (∃ (s : State) (n : Node), s.pkg.st ≠ PkgState.covering ∧ s.crs.own.running = true ∧ s.num O.stallLimit ≤ Tick.since s.clk.tick s.crs.own.startT ∧ (s.needed false).contains n = true ∧ (s.crs.own.markers.any fun m ↦ m.node == n && m.course + 1 == s.crs.own.course) = false ∧ s.crs.own.rejoins.contains n = false) ∧
    (∃ (s : State) (r : Restore) (h : Tick), s.mir.restore = some r ∧ r.handback = some h ∧ Tick.since s.clk.tick r.lastAck < 2 * s.num O.loadBound) ∧
    (∃ (s : State) (r : Restore) (h : Tick), s.mir.restore = some r ∧ r.handback = some h ∧ 2 * s.num O.loadBound ≤ Tick.since s.clk.tick r.lastAck) := by
  refine ⟨?_, ?_, ?_, ?_, ?_, ?_, ?_, ?_, ?_, ?_, ?_, ?_, ?_⟩
  · refine ⟨{ inState .serving with mir.takeover := some {} }, {}, ?_, ?_, ?_⟩
    · decide +kernel
    · decide +kernel
    · decide +kernel
  · refine ⟨{ late (inState .serving) with mir.takeover := some {} }, {}, ?_, ?_, ?_, ?_⟩
    · decide +kernel
    · decide +kernel
    · decide +kernel
    · decide +kernel
  · refine ⟨{ late (inState .serving) with mir.takeover := some {}, wts.k0.st := .live }, {}, ?_, ?_, ?_, ?_⟩
    · decide +kernel
    · decide +kernel
    · decide +kernel
    · decide +kernel
  · refine ⟨{ inState .serving with mir.takeover := some {} }, {}, ?_, ?_⟩
    · decide +kernel
    · decide +kernel
  · refine ⟨{ inState .serving with mir.takeover := some { imported := true }, wts.k0.st := .live }, { imported := true }, ?_, ?_, ?_, ?_, ?_⟩
    · decide +kernel
    · decide +kernel
    · decide +kernel
    · decide +kernel
    · exact ⟨rfl, rfl⟩
  · refine ⟨inState .serving, 5, ?_, ?_⟩
    · decide +kernel
    · decide +kernel
  · refine ⟨bonded (inState .serving), 5, ?_, ?_⟩
    · decide +kernel
    · decide +kernel
  · refine ⟨inState .serving, 5, ?_, ?_⟩
    · decide +kernel
    · decide +kernel
  · refine ⟨bonded (inState .serving), 5, 1, ?_, ?_, ?_⟩
    · decide +kernel
    · decide +kernel
    · decide +kernel
  · refine ⟨inState .serving, ?_, ?_⟩
    · decide +kernel
    · decide +kernel
  · refine ⟨late (bonded { inState .serving with crs.own.running := true, crs.own.members := 3 }), 5, ?_, ?_, ?_, ?_, ?_, ?_⟩
    · decide +kernel
    · decide +kernel
    · decide +kernel
    · decide +kernel
    · decide +kernel
    · decide +kernel
  · refine ⟨{ inState .serving with mir.restore := some { handback := some 0 } }, { handback := some 0 }, 0, ?_, ?_, ?_⟩
    · decide +kernel
    · decide +kernel
    · decide +kernel
  · refine ⟨{ late (inState .serving) with mir.restore := some { handback := some 0 } }, { handback := some 0 }, 0, ?_, ?_, ?_⟩
    · decide +kernel
    · decide +kernel
    · decide +kernel

/-- Every hypothesis of Tannery is met. -/
theorem witness_tannery :
    (∃ (s : State) (p : Path) (v : Byte), sound s ∧ passes s p O.loadStart (ObjVal.num (BitVec.toNat v)) ∧ s.wts.load.runs = false ∧ s.wts.k0.st = CopyState.absent ∧ (s.pkg.st = PkgState.ready ∨ s.pkg.st = PkgState.serving ∨ s.pkg.st = PkgState.drained) ∧ s.num O.loadMode = 0 ∧ BitVec.ofNat 32 (s.num O.loadEpoch) ≠ 0 ∧ (s.wts.k1.st = CopyState.absent ∨ s.wts.k1.epoch ≠ BitVec.ofNat 32 (s.num O.loadEpoch)) ∧ 1 ≤ u32 (s.peek (s.num O.stagingBase + s.num O.loadManifest) 256).fst 20 ∧ u32 (s.peek (s.num O.stagingBase + s.num O.loadManifest) 256).fst 20 ≤ 65536) ∧
    (∃ (s : State) (p : Path) (v : W64), passes s p O.loadPost (ObjVal.num (BitVec.toNat v)) ∧ (s.wts.load = LoadState.active ∨ s.wts.load = LoadState.twinPhase)) ∧
    (∃ (s : State) (p : Path) (v : W64), passes s p O.loadPost (ObjVal.num (BitVec.toNat v)) ∧ (¬(s.wts.load = LoadState.active ∨ s.wts.load = LoadState.twinPhase))) ∧
    (∃ (s : State) (p : Path) (v : Byte), passes s p O.loadAbort (ObjVal.num (BitVec.toNat v)) ∧ s.wts.load.runs = true) ∧
    (∃ (s : State) (q : W64) (rest : List W64) (j : Nat) (ws : Writes) (m : Nat) (bad : Bool) (ts : List TensorSeen), sound s ∧ s.wts.posts = q :: rest ∧ s.wts.load = LoadState.active ∧ BitVec.toNat q % 2 ^ 32 < manifestChunks s.wts.manifest ∧ s.inLoad (chunkEntry s.wts.manifest (BitVec.toNat q % 2 ^ 32)) = true ∧ s.wts.converted.contains (BitVec.toNat q % 2 ^ 32) = false ∧ (chunkEntry s.wts.manifest (BitVec.toNat q % 2 ^ 32)).template = false ∧ (chunkEntry s.wts.manifest (BitVec.toNat q % 2 ^ 32)).zstd = false ∧ sha3 (s.peek (s.num O.stagingBase + BitVec.toNat q / 2 ^ 32 * 64) (chunkEntry s.wts.manifest (BitVec.toNat q % 2 ^ 32)).bytes).fst = (chunkEntry s.wts.manifest (BitVec.toNat q % 2 ^ 32)).digest ∧ convertTensor (s.peek (s.num O.stagingBase + BitVec.toNat q / 2 ^ 32 * 64) (chunkEntry s.wts.manifest (BitVec.toNat q % 2 ^ 32)).bytes).fst = Except.ok (ws, (chunkEntry s.wts.manifest (BitVec.toNat q % 2 ^ 32)).outBytes, m, bad) ∧ tensorStep s.wts.tensors ((chunkEntry s.wts.manifest (BitVec.toNat q % 2 ^ 32)).tensor + 2 ^ 32 * (chunkEntry s.wts.manifest (BitVec.toNat q % 2 ^ 32)).shard) (BitVec.toNat q % 2 ^ 32) (s.peek (s.num O.stagingBase + BitVec.toNat q / 2 ^ 32 * 64) (chunkEntry s.wts.manifest (BitVec.toNat q % 2 ^ 32)).bytes).fst m bad = some ts ∧ j ∈ s.loadChunks ∧ j ≠ BitVec.toNat q % 2 ^ 32 ∧ s.wts.converted.contains j = false) ∧
    (∃ (s : State) (q : W64) (rest : List W64), sound s ∧ s.wts.posts = q :: rest ∧ s.wts.load = LoadState.active ∧ BitVec.toNat q % 2 ^ 32 < manifestChunks s.wts.manifest ∧ s.inLoad (chunkEntry s.wts.manifest (BitVec.toNat q % 2 ^ 32)) = true ∧ s.wts.converted.contains (BitVec.toNat q % 2 ^ 32) = false ∧ sha3 (s.peek (s.num O.stagingBase + BitVec.toNat q / 2 ^ 32 * 64) (chunkEntry s.wts.manifest (BitVec.toNat q % 2 ^ 32)).bytes).fst ≠ (chunkEntry s.wts.manifest (BitVec.toNat q % 2 ^ 32)).digest) := by
  refine ⟨?_, ?_, ?_, ?_, ?_, ?_⟩
  · refine ⟨{ (inState .ready).setNum O.loadEpoch 1 with mem.mem := [(20, 1)] }, ctl, 1, ?_, ?_, ?_, ?_, ?_, ?_, ?_, ?_, ?_, ?_⟩
    · rfl
    · unfold passes; decide +kernel
    · decide +kernel
    · decide +kernel
    · decide +kernel
    · decide +kernel
    · decide +kernel
    · decide +kernel
    · decide +kernel
    · decide +kernel
  · refine ⟨{ inState .ready with wts.load := .active }, ctl, 0, ?_, ?_⟩
    · unfold passes; decide +kernel
    · decide +kernel
  · refine ⟨inState .ready, ctl, 0, ?_, ?_⟩
    · unfold passes; decide +kernel
    · decide +kernel
  · refine ⟨{ inState .ready with wts.load := .active }, ctl, 1, ?_, ?_⟩
    · unfold passes; decide +kernel
    · decide +kernel
  · refine ⟨loading, 0, [], 1, [(0, zeros 4)], 0, false, [{ tensor := 0, head := headKey chunk }], ?_, ?_, ?_, ?_, ?_, ?_, ?_, ?_, ?_, ?_, ?_, ?_, ?_, ?_⟩
    · rfl
    · decide +kernel
    · decide +kernel
    · decide +kernel
    · decide +kernel
    · decide +kernel
    · decide +kernel
    · decide +kernel
    · decide +kernel
    · with_reducible apply chunk_converts <;> decide +kernel
    · decide +kernel
    · decide +kernel
    · decide +kernel
    · decide +kernel
  · refine ⟨{ loading with mem.mem := [] }, 0, [], ?_, ?_, ?_, ?_, ?_, ?_, ?_⟩
    · rfl
    · decide +kernel
    · decide +kernel
    · decide +kernel
    · decide +kernel
    · decide +kernel
    · decide +kernel

/-- Every hypothesis of TestsAndAttestation is met. -/
theorem witness_tests_and_attestation :
    (∃ (s : State) (p : Path) (nonce : List Byte), passes s p O.attestNonce (ObjVal.bytes nonce) ∧ s.num O.attestState ≠ 1) ∧
    (∃ (s : State) (b : List Byte), s.sec.attest = some b) ∧
    (∃ (s : State) (p : Path) (v : Byte), passes s p O.marginStart (ObjVal.num (BitVec.toNat v)) ∧ s.pkg.st = PkgState.drained ∧ s.testRunning = false) ∧
    (∃ (s : State) (p : Path) (v : Byte), passes s p O.marginStart (ObjVal.num (BitVec.toNat v)) ∧ s.pkg.st ≠ PkgState.drained) ∧
    (∃ (s : State) (p : Path) (v : Byte), passes s p O.escanStart (ObjVal.num (BitVec.toNat v)) ∧ s.pkg.st = PkgState.drained ∧ s.testRunning = false) ∧
    (∃ (s : State) (p : Path) (v : Byte), passes s p O.fbistStart (ObjVal.num (BitVec.toNat v)) ∧ s.pkg.st = PkgState.drained ∧ s.testRunning = false) ∧
    (∃ (s : State), s.num O.marginState = 1) ∧
    (∃ (s : State), s.num O.escanState = 1) ∧
    (∃ (s : State), s.num O.fbistState = 1) ∧
    (∃ (s : State) (q : Fin 4) (nn : Fin 96), (s.coreAt (↑q * 96 + ↑nn)).st = StealState.test) := by
  refine ⟨?_, ?_, ?_, ?_, ?_, ?_, ?_, ?_, ?_, ?_⟩
  · refine ⟨inState .ready, ctl, zeros 32, ?_, ?_⟩
    · unfold passes; decide +kernel
    · decide +kernel
  · refine ⟨{ inState .ready with sec.attest := some [] }, [], ?_⟩
    decide +kernel
  · refine ⟨inState .drained, ctl, 1, ?_, ?_, ?_⟩
    · unfold passes; decide +kernel
    · decide +kernel
    · decide +kernel
  · refine ⟨inState .ready, ctl, 1, ?_, ?_⟩
    · unfold passes; decide +kernel
    · decide +kernel
  · refine ⟨inState .drained, ctl, 1, ?_, ?_, ?_⟩
    · unfold passes; decide +kernel
    · decide +kernel
    · decide +kernel
  · refine ⟨inState .drained, ctl, 1, ?_, ?_, ?_⟩
    · unfold passes; decide +kernel
    · decide +kernel
    · decide +kernel
  · refine ⟨(inState .drained).setNum O.marginState 1, ?_⟩
    decide +kernel
  · refine ⟨(inState .drained).setNum O.escanState 1, ?_⟩
    decide +kernel
  · refine ⟨(inState .drained).setNum O.fbistState 1, ?_⟩
    decide +kernel
  · refine ⟨{ inState .drained with cred.cores := [(0, { st := .test })] }, 0, 0, ?_⟩
    decide +kernel

/-- Every hypothesis of TimeWords is met. -/
theorem witness_time_words :
    (∃ (s : State), s.pkg.st.hubRuns = true ∧ BitVec.toNat s.clk.tick % 16 = 0 ∧ (s.clk.originating = true ∧ (s.dueEvent fun e ↦ e == Ev.handoff) = none ∨ s.clk.originating = false ∧ (s.clk.mode = ClockState.holdover ∨ s.clk.mode = ClockState.locked ∧ s.clk.parent.isSome = true))) ∧
    (∃ (s : State), BitVec.toNat s.clk.tick % 16 ≠ 0) ∧
    (∃ (s : State) (q : Port) (w : BitVec 96), s.pkg.st.hubRuns = true ∧ ↑q < 19 ∧ (s.port ↑q).st = PortState.active ∧ ((readTime w).reserved ≠ 0 ∨ (readTime w).hops = 31 ∨ BitVec.toNat (readTime w).tick % 16 ≠ 0 ∨ (readTime w).epoch ≠ s.clk.epoch ∧ epochLater (readTime w).epoch s.clk.epoch = false)) ∧
    (∃ (s : State) (q : Port) (w : BitVec 96), s.pkg.st.hubRuns = true ∧ ↑q < 19 ∧ (s.port ↑q).st = PortState.active ∧ (readTime w).reserved = 0 ∧ (readTime w).hops ≠ 31 ∧ BitVec.toNat (readTime w).tick % 16 = 0 ∧ (readTime w).epoch = s.clk.epoch ∧ s.clk.originating = false ∧ s.clk.words = [] ∧ s.clk.counting = false ∧ 0 < s.num O.parentTimeout) ∧
    (∃ (s : State) (w : WordSeen), s.clk.originating = false ∧ s.clk.words = [w] ∧ s.eligible w = true) ∧
    (∃ (s : State) (w : WordSeen), s.clk.originating = false ∧ s.clk.words = [w] ∧ s.eligible w = false) := by
  refine ⟨?_, ?_, ?_, ?_, ?_, ?_⟩
  · refine ⟨{ inState .serving with clk.mode := .holdover }, ?_, ?_, ?_⟩
    · decide +kernel
    · decide +kernel
    · decide +kernel
  · refine ⟨{ inState .serving with clk.tick := 1 }, ?_⟩
    decide +kernel
  · refine ⟨withPort (inState .serving) 0 { st := .active }, 0, 0xFFFFFFFFFFFFFFFFFFFFFFFF, ?_, ?_, ?_, ?_⟩
    · decide +kernel
    · decide +kernel
    · decide +kernel
    · decide +kernel
  · refine ⟨withPort (inState .serving) 0 { st := .active }, 0, 0, ?_, ?_, ?_, ?_, ?_, ?_, ?_, ?_, ?_, ?_, ?_⟩
    · decide +kernel
    · decide +kernel
    · decide +kernel
    · decide +kernel
    · decide +kernel
    · decide +kernel
    · decide +kernel
    · decide +kernel
    · decide +kernel
    · decide +kernel
    · decide +kernel
  · refine ⟨withPort { inState .serving with clk.words := [{}] } 0 { st := .active }, {}, ?_, ?_, ?_⟩
    · decide +kernel
    · decide +kernel
    · decide +kernel
  · refine ⟨{ inState .serving with clk.words := [{}] }, {}, ?_, ?_, ?_⟩
    · decide +kernel
    · decide +kernel
    · decide +kernel

/-- Every hypothesis of VectorKinds is met. -/
theorem witness_vector_kinds :
    (∃ (s : State) (r : Run) (a : Ashlar) (x : BlockEntry) (out : BlockEntry), sound s ∧ s.inBlock r.covered a a.d.h0 = some x ∧ x.rows = 1 ∧ s.outBlock r.covered a a.d.h2 = some out ∧ s.ashlar r 8 = some a) ∧
    (∃ (s : State) (r : Run) (a : Ashlar) (x : BlockEntry) (out : BlockEntry), sound s ∧ s.inBlock r.covered a a.d.h0 = some x ∧ x.rows = 1 ∧ s.outBlock r.covered a a.d.h2 = some out ∧ s.ashlar r 9 = some a) ∧
    (∃ (s : State) (r : Run) (a : Ashlar) (x : BlockEntry) (out : BlockEntry), sound s ∧ s.inBlock r.covered a a.d.h0 = some x ∧ x.rows = 1 ∧ s.outBlock r.covered a a.d.h2 = some out ∧ s.ashlar r 10 = some a) ∧
    (∃ (s : State) (r : Run) (a : Ashlar) (x : BlockEntry) (out : BlockEntry), sound s ∧ s.inBlock r.covered a a.d.h0 = some x ∧ x.rows = 1 ∧ s.outBlock r.covered a a.d.h2 = some out ∧ s.ashlar r 12 = some a) ∧
    (∃ (s : State) (r : Run) (a : Ashlar) (x : BlockEntry) (out : BlockEntry), sound s ∧ s.inBlock r.covered a a.d.h0 = some x ∧ x.rows = 1 ∧ s.outBlock r.covered a a.d.h2 = some out ∧ s.ashlar r 13 = some a ∧ BitVec.toNat a.d.p0 = 1 ∧ s.inBlock r.covered a a.d.h3 = none ∧ out.skipGroup = 0) ∧
    (∃ (s : State) (r : Run) (a : Ashlar) (x : BlockEntry) (out : BlockEntry), sound s ∧ s.inBlock r.covered a a.d.h0 = some x ∧ x.rows = 1 ∧ s.outBlock r.covered a a.d.h2 = some out ∧ s.ashlar r 14 = some a ∧ s.outBlock r.covered a a.d.h3 = none) ∧
    (∃ (s : State) (r : Run) (a : Ashlar) (x : BlockEntry) (out : BlockEntry), sound s ∧ s.inBlock r.covered a a.d.h0 = some x ∧ x.rows = 1 ∧ s.outBlock r.covered a a.d.h2 = some out ∧ s.ashlar r 16 = some a) := by
  refine ⟨?_, ?_, ?_, ?_, ?_, ?_, ?_⟩
  · refine ⟨running (desc 0x08 0 0 0 0 0), run0, ⟨desc 0x08 0 0 0 0 0, 0, false⟩, blockAt 0 2, blockAt 0 2, ?_, ?_, ?_, ?_, ?_⟩
    · rfl
    · decide +kernel
    · decide +kernel
    · decide +kernel
    · decide +kernel
  · refine ⟨running (desc 0x09 0 0 0 0 0), run0, ⟨desc 0x09 0 0 0 0 0, 0, false⟩, blockAt 0 2, blockAt 0 2, ?_, ?_, ?_, ?_, ?_⟩
    · rfl
    · decide +kernel
    · decide +kernel
    · decide +kernel
    · decide +kernel
  · refine ⟨running (desc 0x0A 0 0 0 0 0), run0, ⟨desc 0x0A 0 0 0 0 0, 0, false⟩, blockAt 0 2, blockAt 0 2, ?_, ?_, ?_, ?_, ?_⟩
    · rfl
    · decide +kernel
    · decide +kernel
    · decide +kernel
    · decide +kernel
  · refine ⟨running (desc 0x0C 0 0 0 0 0), run0, ⟨desc 0x0C 0 0 0 0 0, 0, false⟩, blockAt 0 2, blockAt 0 2, ?_, ?_, ?_, ?_, ?_⟩
    · rfl
    · decide +kernel
    · decide +kernel
    · decide +kernel
    · decide +kernel
  · refine ⟨running (desc 0x0D 0xFFFFFFFF 1 0 0 0), run0, ⟨desc 0x0D 0xFFFFFFFF 1 0 0 0, 0, false⟩, blockAt 0 2, blockAt 0 2, ?_, ?_, ?_, ?_, ?_, ?_, ?_, ?_⟩
    · rfl
    · decide +kernel
    · decide +kernel
    · decide +kernel
    · decide +kernel
    · decide +kernel
    · decide +kernel
    · decide +kernel
  · refine ⟨running (desc 0x0E 0xFFFFFFFF 1 0 0 0), run0, ⟨desc 0x0E 0xFFFFFFFF 1 0 0 0, 0, false⟩, blockAt 0 2, blockAt 0 2, ?_, ?_, ?_, ?_, ?_, ?_⟩
    · rfl
    · decide +kernel
    · decide +kernel
    · decide +kernel
    · decide +kernel
    · decide +kernel
  · refine ⟨running (desc 0x10 0 0 0 0 0), run0, ⟨desc 0x10 0 0 0 0 0, 0, false⟩, blockAt 0 2, blockAt 0 2, ?_, ?_, ?_, ?_, ?_⟩
    · rfl
    · decide +kernel
    · decide +kernel
    · decide +kernel
    · decide +kernel

/-- Every hypothesis of WeightSwitch is met. -/
theorem witness_weight_switch :
    (∃ (s : State) (p : Path) (req : List Byte), passes s p O.switchRequest (ObjVal.bytes req) ∧ u64 req 0 < 2 ^ 48 ∧ u32 req 12 = 0 ∧ s.wts.k0.st = CopyState.ready ∧ s.wts.k0.epoch = BitVec.ofNat 32 (u32 req 8) ∧ s.wts.sw ≠ SwitchState.pending ∧ s.wts.sw ≠ SwitchState.confirmed ∧ s.clk.mode ≠ ClockState.holdover ∧ s.clk.held = true ∧ Tick.after (BitVec.ofNat 48 (u64 req 0)) s.clk.tick = true ∧ s.num O.switchConfirm + 1000 ≤ Tick.since (BitVec.ofNat 48 (u64 req 0)) s.clk.tick ∧ Tick.since (BitVec.ofNat 48 (u64 req 0)) s.clk.tick ≤ 2 ^ 32 ∧ s.pendingEvents < 1024) ∧
    (∃ (s : State), s.dueBefore 4 = false ∧ (s.dueEvent fun e ↦ e == Ev.switchConfirm).isSome = true ∧ s.wts.sw = SwitchState.pending ∧ s.wts.k0.epoch = s.wts.swEpoch ∧ s.wts.k0.st = CopyState.ready ∧ (∀ (i : Nat), i < s.num O.bondCount → BitVec.getLsbD s.crs.own.members i = true → s.bondMember i ≠ s.node → (s.wts.notices.any fun x ↦ x == (s.bondMember i, s.wts.swTick, s.wts.swEpoch, s.wts.k0.digest)) = true) ∧ (s.mir.twinFailed = true ∨ (s.wts.notices.any fun x ↦ x == (s.twinNode, s.wts.swTick, s.wts.swEpoch, s.wts.k0.digest)) = true)) ∧
    (∃ (s : State), s.dueBefore 4 = false ∧ (s.dueEvent fun e ↦ e == Ev.switchConfirm).isSome = true ∧ s.wts.sw = SwitchState.pending ∧ s.wts.k0.epoch = s.wts.swEpoch ∧ s.wts.k0.st = CopyState.ready ∧ s.wts.notices = [] ∧ s.mir.twinFailed = false) ∧
    (∃ (s : State) (ep : W32), (s.wts.sw = SwitchState.pending ∨ s.wts.sw = SwitchState.confirmed) ∧ s.wts.swEpoch = ep) ∧
    (∃ (s : State) (ep : W32), s.wts.swEpoch ≠ ep) ∧
    (∃ (s : State) (e : Sched), s.dueBefore 4 = false ∧ (s.dueEvent fun e ↦ match e with | Ev.weightSwitch epoch => true | x => false) = some e ∧ s.wts.sw = SwitchState.confirmed ∧ s.wts.k0.st = CopyState.ready ∧ s.wts.k0.epoch = s.wts.swEpoch ∧ s.wts.k1.st = CopyState.live ∧ s.wts.load ≠ LoadState.twinWait ∧ s.pkg.st ≠ PkgState.covering) ∧
    (∃ (s : State) (ep : W32), s.mir.st ≠ MirrorState.restoring ∧ s.wts.k0.epoch ≠ ep ∧ s.wts.k1.epoch ≠ ep) ∧
    (∃ (s : State) (q : Port) (src : Node) (ep : W32) (part : Bool) (a : Nat) (b : Nat) (off : Nat) (g : List Byte), s.mir.st ≠ MirrorState.restoring ∧ s.fetched (↑q) src ep part a b off = some g) := by
  refine ⟨?_, ?_, ?_, ?_, ?_, ?_, ?_, ?_⟩
  · refine ⟨{ inState .ready with wts.k0.st := .ready, clk.held := true }, ctl, leBytes 8 0x1000000 ++ zeros 8, ?_, ?_, ?_, ?_, ?_, ?_, ?_, ?_, ?_, ?_, ?_, ?_, ?_⟩
    · unfold passes; decide +kernel
    · decide +kernel
    · decide +kernel
    · decide +kernel
    · decide +kernel
    · decide +kernel
    · decide +kernel
    · decide +kernel
    · decide +kernel
    · decide +kernel
    · decide +kernel
    · decide +kernel
    · decide +kernel
  · refine ⟨{ inState .ready with clk.events := [{ due := 0, ev := .switchConfirm }], wts.sw := .pending, wts.k0.st := .ready, wts.notices := [(8, 0, 0, [])] }, ?_, ?_, ?_, ?_, ?_, ?_, ?_⟩
    · decide +kernel
    · decide +kernel
    · decide +kernel
    · decide +kernel
    · decide +kernel
    · decide +kernel
    · decide +kernel
  · refine ⟨{ inState .ready with clk.events := [{ due := 0, ev := .switchConfirm }], wts.sw := .pending, wts.k0.st := .ready }, ?_, ?_, ?_, ?_, ?_, ?_, ?_⟩
    · decide +kernel
    · decide +kernel
    · decide +kernel
    · decide +kernel
    · decide +kernel
    · decide +kernel
    · decide +kernel
  · refine ⟨{ inState .ready with wts.sw := .pending }, 0, ?_, ?_⟩
    · decide +kernel
    · decide +kernel
  · refine ⟨inState .ready, 1, ?_⟩
    decide +kernel
  · refine ⟨{ inState .ready with clk.events := [{ due := 0, ev := .weightSwitch 0 }], wts.sw := .confirmed, wts.k0.st := .ready, wts.k1.st := .live }, { due := 0, ev := .weightSwitch 0 }, ?_, ?_, ?_, ?_, ?_, ?_, ?_, ?_⟩
    · decide +kernel
    · decide +kernel
    · decide +kernel
    · decide +kernel
    · decide +kernel
    · decide +kernel
    · decide +kernel
    · decide +kernel
  · refine ⟨inState .ready, 1, ?_, ?_, ?_⟩
    · decide +kernel
    · decide +kernel
    · decide +kernel
  · refine ⟨{ inState .ready with mir.st := .mirroring, wts.k0.st := .ready, wts.k0.placed := [{ bytes := 256, common := true }], wts.k0.own := some 0 }, 0, 8, 0, false, 0, 0, 0, zeros 256, ?_, ?_⟩
    · decide +kernel
    · decide +kernel

end Sys2Proof.Tests
end

/-! PROOF. What every command and every idle step does to the package state (00 R12 to R16): the dispatch of `exec` is read once, each
command by the lemma about its own meaning, and the move along Table 0.5 follows. -/

namespace Sys2Proof.Machine

/-- An operation that keeps, once what comes above it in Table 2.2 has been carried out (02 R53), keeps from the tick's state on. -/
theorem Keeps.moved_of_before {s t : State} {n : Nat} (h : Keeps (s.before n) t) : Moved s t :=
  ((State.before_keeps s n).trans h).moved

/-- Every command completes (log entry 11), and the state it answers is one the package may have moved to along Table 0.5, with nothing
taken back. The arms follow `exec`: each names the lemma about the command's meaning. -/
theorem exec_moved (s : State) (c : Instr) : ∃ t, exec c s = .next t ∧ Moved s t :=
  match c with
  -- The commands that call for a transition of Table 0.5.
  | .vauxRise => ⟨_, rfl, vauxRise_moved ..⟩
  | .vauxLoss => ⟨_, rfl, vauxLoss_moved ..⟩
  | .resetNFall => ⟨_, rfl, resetNFall_moved ..⟩
  | .bootStart => ⟨_, rfl, bootStart_moved ..⟩
  | .hbmTraining .. => ⟨_, rfl, hbmTraining_moved ..⟩
  | .alignComplete => ⟨_, rfl, alignComplete_moved ..⟩
  | .drainComplete => ⟨_, rfl, drainComplete_moved ..⟩
  | .courseClose .. => ⟨_, rfl, courseClose_moved ..⟩
  | .coveringEnter => ⟨_, rfl, coveringEnter_moved ..⟩
  | .restore .. => ⟨_, rfl, restore_moved ..⟩
  | .coolOkFall => ⟨_, rfl, coolOkFall_moved ..⟩
  | .faultIntake => ⟨_, rfl, faultIntake_moved ..⟩
  | .coolOkRise => ⟨_, rfl, coolOkRise_moved ..⟩
  -- The events of Table 2.2, each after what its tick carries out before it.
  | .hodSampling .. => ⟨_, rfl, (hodSampling_keeps ..).moved_of_before⟩
  | .courseCutoff .. => ⟨_, rfl, (courseCutoff_keeps ..).moved_of_before⟩
  | .courseStart .. => ⟨_, rfl, (courseStart_keeps ..).moved_of_before⟩
  | .exchangeWindowOpen => ⟨_, rfl, (exchangeWindowOpen_keeps ..).moved_of_before⟩
  | .exchangeWindowClose => ⟨_, rfl, (exchangeWindowClose_keeps ..).moved_of_before⟩
  | .scrubWindowOpen => ⟨_, rfl, (scrubWindowOpen_keeps ..).moved_of_before⟩
  | .scrubWindowClose => ⟨_, rfl, (scrubWindowClose_keeps ..).moved_of_before⟩
  | .switchConfirm => ⟨_, rfl, (switchConfirm_keeps ..).moved_of_before⟩
  | .weightSwitch => ⟨_, rfl, (weightSwitch_keeps ..).moved_of_before⟩
  | .wakeGrant => ⟨_, rfl, (wakeGrant_keeps ..).moved_of_before⟩
  -- The writes of dictionary objects.
  | .stateRequestReady .. | .stateRequestServing .. | .stateRequestDraining .. | .stateRequestDrained ..
    | .handoffTick .. | .hodEnable .. | .hodDisable .. | .tenantActivate .. | .tenantDeactivate ..
    | .regionWrite .. | .hbmLogClear .. | .sramLogClear .. | .marginStart .. | .loadStart .. | .loadPost ..
    | .loadAbort .. | .copyFree .. | .areaWrite .. | .portEnable .. | .plumbRestart .. | .winEnable ..
    | .restoreStart .. | .rackBeat .. | .errClear .. | .faultLogClear .. | .graveClear .. | .dictStore ..
    | .dictDefaults .. | .plcaEnable .. | .fwUpdate .. | .escanStart .. | .fbistStart .. =>
      ⟨_, rfl, (State.writeNum_keeps ..).moved⟩
  | .splice .. | .switchRequest .. | .rampEvent .. | .keystonePending .. | .attestNonce .. | .calWrite .. =>
      ⟨_, rfl, (State.writeBlob_keeps ..).moved⟩
  -- The operations that leave the package where it is, or drain it.
  | .keystoneStage => ⟨_, rfl, (keystoneStage_keeps ..).moved⟩
  | .runtimeLoad => ⟨_, rfl, (runtimeLoad_keeps ..).moved⟩
  | .timeWordSend => ⟨_, rfl, (timeWordSend_keeps ..).moved⟩
  | .timeWord .. => ⟨_, rfl, (timeWord_keeps ..).moved⟩
  | .parentTimeout => ⟨_, rfl, (parentTimeout_keeps ..).moved⟩
  | .clockLock => ⟨_, rfl, (clockLock_keeps ..).moved⟩
  | .cclkEdge .. => ⟨_, rfl, (cclkEdge_keeps ..).moved⟩
  | .cclkInvalid => ⟨_, rfl, (cclkInvalid_keeps ..).moved⟩
  | .masterHandoff => ⟨_, rfl, (masterHandoff_keeps ..).moved⟩
  | .masterTimeout => ⟨_, rfl, (masterTimeout_keeps ..).moved⟩
  | .holdoverEnter => ⟨_, rfl, (holdoverEnter_keeps ..).moved⟩
  | .holdoverLimit => ⟨_, rfl, (holdoverLimit_keeps ..).moved⟩
  | .closeMarker .. => ⟨_, rfl, (closeMarker_keeps ..).moved⟩
  | .markerTimeout .. => ⟨_, rfl, (markerTimeout_keeps ..).moved⟩
  | .grant .. => ⟨_, rfl, (grant_keeps ..).moved⟩
  | .retireRequest .. => ⟨_, rfl, (retireRequest_keeps ..).moved⟩
  | .runClaim .. => ⟨_, rfl, (runClaim_keeps ..).moved⟩
  | .steal .. => ⟨_, rfl, (steal_keeps ..).moved⟩
  | .stealRetryWait .. => ⟨_, rfl, (stealRetryWait_keeps ..).moved⟩
  | .depthPublish .. => ⟨_, rfl, (depthPublish_keeps ..).moved⟩
  | .coreLeave .. => ⟨_, rfl, (coreLeave_keeps ..).moved⟩
  | .coreWithdrawn .. => ⟨_, rfl, (coreWithdrawn_keeps ..).moved⟩
  | .coreRejoin .. => ⟨_, rfl, (coreRejoin_keeps ..).moved⟩
  | .matmul .. => ⟨_, rfl, (matmul_keeps ..).moved⟩
  | .accCombine .. => ⟨_, rfl, (accCombine_keeps ..).moved⟩
  | .attend .. => ⟨_, rfl, (attend_keeps ..).moved⟩
  | .attnMerge .. => ⟨_, rfl, (attnMerge_keeps ..).moved⟩
  | .routerTopk .. => ⟨_, rfl, (routerTopk_keeps ..).moved⟩
  | .expertScatter .. => ⟨_, rfl, (expertScatter_keeps ..).moved⟩
  | .expertGather .. => ⟨_, rfl, (expertGather_keeps ..).moved⟩
  | .normRms .. => ⟨_, rfl, (normRms_keeps ..).moved⟩
  | .normCentred .. => ⟨_, rfl, (normCentred_keeps ..).moved⟩
  | .activate .. => ⟨_, rfl, (activate_keeps ..).moved⟩
  | .rotaryScore .. => ⟨_, rfl, (rotaryScore_keeps ..).moved⟩
  | .softmax .. => ⟨_, rfl, (softmax_keeps ..).moved⟩
  | .residualAdd .. => ⟨_, rfl, (residualAdd_keeps ..).moved⟩
  | .requant .. => ⟨_, rfl, (requant_keeps ..).moved⟩
  | .embed .. => ⟨_, rfl, (embed_keeps ..).moved⟩
  | .probs .. => ⟨_, rfl, (probs_keeps ..).moved⟩
  | .sample .. => ⟨_, rfl, (sample_keeps ..).moved⟩
  | .scaffoldVerify .. => ⟨_, rfl, (scaffoldVerify_keeps ..).moved⟩
  | .kvSet .. => ⟨_, rfl, (kvSet_keeps ..).moved⟩
  | .kvShip .. => ⟨_, rfl, (kvShip_keeps ..).moved⟩
  | .kvRepack .. => ⟨_, rfl, (kvRepack_keeps ..).moved⟩
  | .satchelStore .. => ⟨_, rfl, (satchelStore_keeps ..).moved⟩
  | .gateMask .. => ⟨_, rfl, (gateMask_keeps ..).moved⟩
  | .lsumCombine .. => ⟨_, rfl, (lsumCombine_keeps ..).moved⟩
  | .copy .. => ⟨_, rfl, (copy_keeps ..).moved⟩
  | .collect .. => ⟨_, rfl, (collect_keeps ..).moved⟩
  | .fence .. => ⟨_, rfl, (fence_keeps ..).moved⟩
  | .gatherRows .. => ⟨_, rfl, (gatherRows_keeps ..).moved⟩
  | .placementRequest .. => ⟨_, rfl, (placementRequest_keeps ..).moved⟩
  | .expertTransfer .. => ⟨_, rfl, (expertTransfer_keeps ..).moved⟩
  | .expertReturn .. => ⟨_, rfl, (expertReturn_keeps ..).moved⟩
  | .pageRecord .. => ⟨_, rfl, (pageRecord_keeps ..).moved⟩
  | .closingRecord .. => ⟨_, rfl, (closingRecord_keeps ..).moved⟩
  | .shipmentTimeout .. => ⟨_, rfl, (shipmentTimeout_keeps ..).moved⟩
  | .handoverRequest .. => ⟨_, rfl, (handoverRequest_keeps ..).moved⟩
  | .handoverGrant .. => ⟨_, rfl, (handoverGrant_keeps ..).moved⟩
  | .handoverDecline .. => ⟨_, rfl, (handoverDecline_keeps ..).moved⟩
  | .handoverRecord .. => ⟨_, rfl, (handoverRecord_keeps ..).moved⟩
  | .handoverAccept .. => ⟨_, rfl, (handoverAccept_keeps ..).moved⟩
  | .handoverRefuse .. => ⟨_, rfl, (handoverRefuse_keeps ..).moved⟩
  | .handoverWaitExpiry .. => ⟨_, rfl, (handoverWaitExpiry_keeps ..).moved⟩
  | .grantHoldExpiry .. => ⟨_, rfl, (grantHoldExpiry_keeps ..).moved⟩
  | .verdictTimeout .. => ⟨_, rfl, (verdictTimeout_keeps ..).moved⟩
  | .ttlExpiry .. => ⟨_, rfl, (ttlExpiry_keeps ..).moved⟩
  | .quotaWaitExpiry .. => ⟨_, rfl, (quotaWaitExpiry_keeps ..).moved⟩
  | .hbmRead .. => ⟨_, rfl, (hbmRead_keeps ..).moved⟩
  | .hbmWrite .. => ⟨_, rfl, (hbmWrite_keeps ..).moved⟩
  | .mergeTimeout .. => ⟨_, rfl, (mergeTimeout_keeps ..).moved⟩
  | .twinData .. => ⟨_, rfl, (twinArrival_keeps ..).moved⟩
  | .farReadDeadline .. => ⟨_, rfl, (farReadDeadline_keeps ..).moved⟩
  | .sramRead .. => ⟨_, rfl, (sramRead_keeps ..).moved⟩
  | .scrubRead .. => ⟨_, rfl, (scrubRead_keeps ..).moved⟩
  | .marginDone .. => ⟨_, rfl, (marginDone_keeps ..).moved⟩
  | .chunkConvert => ⟨_, rfl, (chunkConvert_keeps ..).moved⟩
  | .switchNotice .. => ⟨_, rfl, (switchNotice_keeps ..).moved⟩
  | .switchCancel .. => ⟨_, rfl, (switchCancel_keeps ..).moved⟩
  | .twinFetch .. => ⟨_, rfl, (twinFetch_keeps ..).moved⟩
  | .flitReceive .. => ⟨_, rfl, (flitReceive_keeps ..).moved⟩
  | .replay .. => ⟨_, rfl, (replay_keeps ..).moved⟩
  | .replayTimer .. => ⟨_, rfl, (replayTimer_keeps ..).moved⟩
  | .linkDown .. => ⟨_, rfl, (linkDown_keeps ..).moved⟩
  | .echo .. => ⟨_, rfl, (echo_keeps ..).moved⟩
  | .creditInit .. => ⟨_, rfl, (creditInit_keeps ..).moved⟩
  | .laneMap .. => ⟨_, rfl, (laneMap_keeps ..).moved⟩
  | .laneFail .. => ⟨_, rfl, (laneFail_keeps ..).moved⟩
  | .rewiden .. => ⟨_, rfl, (rewiden_keeps ..).moved⟩
  | .portTrainStart .. => ⟨_, rfl, (portTrainStart_keeps ..).moved⟩
  | .laneDetect .. => ⟨_, rfl, (laneDetect_keeps ..).moved⟩
  | .trainStateLimit .. => ⟨_, rfl, (trainStateLimit_keeps ..).moved⟩
  | .deskewAligned .. => ⟨_, rfl, (deskewAligned_keeps ..).moved⟩
  | .routeRecompute => ⟨_, rfl, (routeRecompute_keeps ..).moved⟩
  | .packetRoute .. => ⟨_, rfl, (packetRoute_keeps ..).moved⟩
  | .hello .. => ⟨_, rfl, (hello_keeps ..).moved⟩
  | .beacon .. => ⟨_, rfl, (beacon_keeps ..).moved⟩
  | .gatherQuietExpiry => ⟨_, rfl, (gatherQuietExpiry_keeps ..).moved⟩
  | .assign .. => ⟨_, rfl, (assign_keeps ..).moved⟩
  | .assignQuietExpiry => ⟨_, rfl, (assignQuietExpiry_keeps ..).moved⟩
  | .report .. => ⟨_, rfl, (report_keeps ..).moved⟩
  | .reportTimeout => ⟨_, rfl, (reportTimeout_keeps ..).moved⟩
  | .fabric .. => ⟨_, rfl, (fabric_keeps ..).moved⟩
  | .join .. => ⟨_, rfl, (join_keeps ..).moved⟩
  | .joinWaitExpiry => ⟨_, rfl, (joinWaitExpiry_keeps ..).moved⟩
  | .call .. => ⟨_, rfl, (call_keeps ..).moved⟩
  | .load .. | .store .. | .fetchAdd .. | .swap .. | .fetchAnd .. | .fetchOr .. | .fetchXor .. | .fetchMaxU ..
    | .cas .. => ⟨_, rfl, (request_keeps ..).moved⟩
  | .fabricResponse .. => ⟨_, rfl, (fabricResponse_keeps ..).moved⟩
  | .requestTimeout .. => ⟨_, rfl, (requestTimeout_keeps ..).moved⟩
  | .combineTimeout .. => ⟨_, rfl, (combineTimeout_keeps ..).moved⟩
  | .lintelFlush .. => ⟨_, rfl, (lintelFlush_keeps ..).moved⟩
  | .lintelBatch .. => ⟨_, rfl, (lintelBatch_keeps ..).moved⟩
  | .lintelReturn .. => ⟨_, rfl, (lintelReturn_keeps ..).moved⟩
  | .hostWrite .. => ⟨_, rfl, (hostWrite_keeps ..).moved⟩
  | .hostRead .. => ⟨_, rfl, (hostRead_keeps ..).moved⟩
  | .hostAtomic .. => ⟨_, rfl, (hostAtomic_keeps ..).moved⟩
  | .hostIrq .. => ⟨_, rfl, (hostIrq_keeps ..).moved⟩
  | .mirror .. => ⟨_, rfl, (mirror_keeps ..).moved⟩
  | .mirrorClose .. => ⟨_, rfl, (mirrorClose_keeps ..).moved⟩
  | .mirrorAck .. => ⟨_, rfl, (mirrorAck_keeps ..).moved⟩
  | .beatSend => ⟨_, rfl, (beatSend_keeps ..).moved⟩
  | .beatLoss => ⟨_, rfl, (beatLoss_keeps ..).moved⟩
  | .failNotice .. => ⟨_, rfl, (failNotice_keeps ..).moved⟩
  | .aliasSet .. => ⟨_, rfl, (aliasSet_keeps ..).moved⟩
  | .aliasAck .. => ⟨_, rfl, (aliasAck_keeps ..).moved⟩
  | .takeoverQuietEnd => ⟨_, rfl, (takeoverQuietEnd_keeps ..).moved⟩
  | .rejoin .. => ⟨_, rfl, (rejoin_keeps ..).moved⟩
  | .shardDown .. => ⟨_, rfl, (shardDown_keeps ..).moved⟩
  | .stallLimit .. => ⟨_, rfl, (stallLimit_keeps ..).moved⟩
  | .plinthCommand => ⟨_, rfl, (plinthCommand_keeps ..).moved⟩
  | .telemetryFrame .. => ⟨_, rfl, (telemetryFrame_keeps ..).moved⟩
  | .plinthSilent => ⟨_, rfl, (plinthSilent_keeps ..).moved⟩
  | .plinthLost => ⟨_, rfl, (plinthLost_keeps ..).moved⟩
  | .reinUpdate => ⟨_, rfl, (reinUpdate_keeps ..).moved⟩
  | .holdEnd => ⟨_, rfl, (holdEnd_keeps ..).moved⟩
  | .excessInterval => ⟨_, rfl, (excessInterval_keeps ..).moved⟩
  | .thermalHoldStep .. => ⟨_, rfl, (thermalHoldStep_keeps ..).moved⟩
  | .thermTrip .. => ⟨_, rfl, (thermTrip_keeps ..).moved⟩
  | .opStep => ⟨_, rfl, (opStep_keeps ..).moved⟩
  | .opClockChange => ⟨_, rfl, (opClockChange_keeps ..).moved⟩
  | .wearCharge => ⟨_, rfl, (wearCharge_keeps ..).moved⟩
  | .rampEventApply => ⟨_, rfl, (rampEventApply_keeps ..).moved⟩
  | .preRamp => ⟨_, rfl, (preRamp_keeps ..).moved⟩
  | .wakeComplete .. => ⟨_, rfl, (wakeComplete_keeps ..).moved⟩
  | .pwrGoodFall => ⟨_, rfl, (pwrGoodFall_keeps ..).moved⟩
  | .supplyPullEnd => ⟨_, rfl, (supplyPullEnd_keeps ..).moved⟩
  | .rackTimeout => ⟨_, rfl, (rackTimeout_keeps ..).moved⟩
  | .fcuTrapDone .. => ⟨_, rfl, (fcuTrapDone_keeps ..).moved⟩
  | .fcuKick .. => ⟨_, rfl, (fcuKick_keeps ..).moved⟩
  | .watchdog .. => ⟨_, rfl, (watchdog_keeps ..).moved⟩
  | .fcuInject .. => ⟨_, rfl, (fcuInject_keeps ..).moved⟩
  | .icxClaim .. => ⟨_, rfl, (icxClaim_keeps ..).moved⟩
  | .icxEoi .. => ⟨_, rfl, (icxEoi_keeps ..).moved⟩
  | .icxPendSet .. => ⟨_, rfl, (icxPendSet_keeps ..).moved⟩
  | .icxPendClr .. => ⟨_, rfl, (icxPendClr_keeps ..).moved⟩
  | .icxEnSet .. => ⟨_, rfl, (icxEnSet_keeps ..).moved⟩
  | .icxEnClr .. => ⟨_, rfl, (icxEnClr_keeps ..).moved⟩
  | .icxSwSet .. => ⟨_, rfl, (icxSwSet_keeps ..).moved⟩
  | .holdoffExpiry .. => ⟨_, rfl, (holdoffExpiry_keeps ..).moved⟩
  | .coalesceTimeout .. => ⟨_, rfl, (coalesceTimeout_keeps ..).moved⟩
  | .dozeEnter => ⟨_, rfl, (dozeEnter_keeps ..).moved⟩
  | .dozeWake => ⟨_, rfl, (dozeWake_keeps ..).moved⟩
  | .read .. | .write .. | .discover .. => ⟨_, rfl, (frame_keeps ..).moved⟩
  | .discoverAnswer => ⟨_, rfl, (discoverAnswer_keeps ..).moved⟩
  | .bridleStagingTimeout => ⟨_, rfl, (bridleStagingTimeout_keeps ..).moved⟩
  | .windowStagingTimeout .. => ⟨_, rfl, (windowStagingTimeout_keeps ..).moved⟩
  | .objectWrite .. => ⟨_, rfl, (objectWrite_keeps ..).moved⟩
  | .storeImageDone .. => ⟨_, rfl, (storeImageDone_keeps ..).moved⟩
  | .attestDone => ⟨_, rfl, (attestDone_keeps ..).moved⟩
  | .selftestDone .. => ⟨_, rfl, (selftestDone_keeps ..).moved⟩
  | .escanDone => ⟨_, rfl, (escanDone_keeps ..).moved⟩
  | .fbistDone .. => ⟨_, rfl, (fbistDone_keeps ..).moved⟩
  | .flitBoundary .. => ⟨_, rfl, (flitBoundary_keeps ..).moved⟩
  | .beat .. => ⟨_, rfl, (beat_keeps ..).moved⟩
  | .pcieStateChange .. => ⟨_, rfl, (pcieStateChange_keeps ..).moved⟩
  | .flashWriteDone .. => ⟨_, rfl, (flashWriteDone_keeps ..).moved⟩
  | .handbackQuietEnd => ⟨_, rfl, (handbackQuietEnd_keeps ..).moved⟩
  | .lintelReturnFlush .. => ⟨_, rfl, (lintelReturnFlush_keeps ..).moved⟩

/-- Whatever next state a command answers, it has moved to. -/
theorem moved_of_exec {c : Instr} {s t : State} (h : exec c s = .next t) : Moved s t := by
  obtain ⟨u, hu, k⟩ := exec_moved s c
  rw [hu] at h
  cases h
  exact k

/-- An idle step crosses a tick boundary, so it may hold two transitions: what the ending tick still carries out drains at most, and the
new tick takes the waiting STATE_REQUEST (00 R16; 16 R532). -/
theorem idle_step_drains_then_moves {s t : State} (hq : s.pending = []) (h : step s = .next t) :
    ∃ u : State, drains s u ∧ moves u t := by
  have hs : step s = .next (idleTick s) := by simp only [step, hq]
  rw [hs] at h
  cases h
  obtain ⟨u, hu, k⟩ := idleTick_twice s
  exact ⟨u, hu.st, k.st⟩

/-- Settles O4: the first clause is what `exec_moved` says of the package state, the second the two ticks that an idle step touches. -/
theorem packageMovesAlongTable : Obligations.PackageMovesAlongTable :=
  ⟨fun _ _ _ h => (moved_of_exec h).st, fun _ _ => idle_step_drains_then_moves⟩

end Sys2Proof.Machine

/-! PROOF. RESET_N and COOL_OK (18 R597; 00 R14): the entry to HALT leaves the levels of the pins as they are, and each of the two commands
either takes that entry or changes its pin's level alone. -/

namespace Sys2Proof.Machine

theorem Raised.foldl {α : Type} {s : State} {f : State → α → State} (h : ∀ t x, Raised t (f t x)) (l : List α) :
    ∀ {t}, Raised s t → Raised s (l.foldl f t) := by
  induction l with
  | nil => exact id
  | cons x l ih => exact fun k => ih (k.trans (h _ x))

/-- Recording a message that a reset forestalls touches the fault collector, the dictionary unit, the outputs and ERR_N only. -/
theorem State.saveFault_raised (s : State) (m : FaultMsg) : Raised s (s.saveFault m) :=
  have h := State.vauxStore_raised s (m.bits 0) m.cls
  Raised.ite (h.trans (State.assertErr_raised _)) h

theorem State.saveFaults_raised (s : State) : Raised s s.saveFaults :=
  Raised.foldl State.saveFault_raised _ (Raised.refl s)

@[simp] theorem State.enter_halt_resetN (s : State) : (s.enter .halt).pkg.resetN = s.pkg.resetN := by
  obtain ⟨_, _, _, h⟩ := (State.saveFaults_raised s.abortTests).pkg
  simp [State.enter, State.hubReset, h]

@[simp] theorem State.enter_halt_coolOk (s : State) : (s.enter .halt).pkg.coolOk = s.pkg.coolOk := by
  obtain ⟨_, _, _, h⟩ := (State.saveFaults_raised s.abortTests).pkg
  simp [State.enter, State.hubReset, h]

/-- Table 0.5, the row of HALT: every state but GRAVE and HALT itself may move to it. -/
theorem edge_halt {a : PkgState} (hg : a ≠ .grave) (hh : a ≠ .halt) : edge a .halt = true := by
  simp [edge, hg, hh]

/-- The transition to HALT, taken: the package is in HALT, the pins are at the levels they had. -/
theorem State.transition_halt_calm {s : State} (h : calm s) (hg : s.pkg.st ≠ .grave) (hh : s.pkg.st ≠ .halt) :
    (s.transition .halt).pkg.st = .halt ∧ (s.transition .halt).pkg.resetN = s.pkg.resetN ∧
      (s.transition .halt).pkg.coolOk = s.pkg.coolOk := by
  obtain ⟨ht, hr⟩ := h
  rw [State.transition_calm s .halt (edge_halt hg hh) ht hr]
  simp [State.enter_st]

/-- A new tick is calm where no request waits. -/
theorem State.newTick_calm {s : State} (h : s.pkg.request = none) : calm s.newTick := ⟨rfl, h⟩

/-- The states in which RESET_N low has no effect on the package state: OFF and GRAVE, and STOPPED while COOL_OK is low. -/
def ignoresReset (s : State) : Prop :=
  s.pkg.st = .off ∨ s.pkg.st = .grave ∨ (s.pkg.st = .stopped ∧ s.pkg.coolOk = false)

/-- The states in which RESET_N_FALL takes no transition: those that ignore it, and HALT, where the package is already. -/
theorem stays_on_resetNFall_iff {s : State} :
    (s.pkg.st = .off ∨ s.pkg.st = .grave ∨ s.pkg.st = .halt ∨ (s.pkg.st = .stopped ∧ !s.pkg.coolOk)) ↔
      ignoresReset s ∨ s.pkg.st = .halt := by
  rw [ignoresReset, Bool.not_eq_true', or_assoc, or_assoc, or_comm (a := s.pkg.st = .halt)]

/-- Where RESET_N is ignored, and in HALT, its fall changes its own level alone. -/
theorem resetNFall_level {s : State} (h : ignoresReset s ∨ s.pkg.st = .halt) :
    resetNFall s = { s with pkg := { s.pkg with resetN := false } } :=
  if_pos (stays_on_resetNFall_iff.2 h)

/-- Anywhere else it calls for HALT. -/
theorem resetNFall_transition {s : State} (h : ¬ (ignoresReset s ∨ s.pkg.st = .halt)) :
    resetNFall s = ({ s with pkg := { s.pkg with resetN := false } } : State).transition .halt :=
  if_neg (mt stays_on_resetNFall_iff.1 h)

/-- RESET_N low, where the package does not ignore it, leaves the package in HALT. -/
theorem resetNFall_halt {s : State} (h : calm s) (hi : ¬ ignoresReset s) :
    (resetNFall s).pkg.st = .halt ∧ (resetNFall s).pkg.resetN = false := by
  by_cases hh : s.pkg.st = .halt
  · rw [resetNFall_level (.inr hh)]
    exact ⟨hh, rfl⟩
  · have hg : s.pkg.st ≠ .grave := fun e => hi (.inr (.inl e))
    obtain ⟨hst, hr, -⟩ :=
      State.transition_halt_calm (s := { s with pkg := { s.pkg with resetN := false } }) h hg hh
    rw [resetNFall_transition (not_or.2 ⟨hi, hh⟩)]
    exact ⟨hst, hr⟩

/-- COOL_OK back in STOPPED with RESET_N low: RESET_N counts as asserted, and a new tick enters HALT. -/
theorem coolOkRise_halt {s : State} (hr : s.pkg.request = none) (hs : s.pkg.st = .stopped) (hn : s.pkg.resetN = false) :
    (coolOkRise s).pkg.st = .halt ∧ (coolOkRise s).pkg.coolOk = true := by
  have he : coolOkRise s = ({ s with pkg := { s.pkg with coolOk := true } } : State).newTick.transition .halt :=
    if_pos (by simp [hs, hn])
  obtain ⟨hst, -, hc⟩ :=
    State.transition_halt_calm (State.newTick_calm (s := { s with pkg := { s.pkg with coolOk := true } }) hr)
      (by simp [State.newTick, hs]) (by simp [State.newTick, hs])
  rw [he]
  exact ⟨hst, hc⟩

/-- Anywhere else, and in STOPPED with RESET_N high, its rise changes its own level alone. -/
theorem coolOkRise_level {s : State} (h : ¬ (s.pkg.st = .stopped ∧ s.pkg.resetN = false)) :
    coolOkRise s = { s with pkg := { s.pkg with coolOk := true } } :=
  if_neg (by simpa using h)

/-- Settles O11: RESET_N by whether the package ignores it, COOL_OK by whether it lets RESET_N's level take effect in STOPPED. -/
theorem resetPin : Obligations.ResetPin := by
  refine ⟨fun s hcalm => ⟨resetNFall s, rfl, ?_⟩, fun s hreq => ⟨coolOkRise s, rfl, ?_⟩⟩
  · by_cases hi : ignoresReset s
    · have he := resetNFall_level (.inl hi)
      refine ⟨by rw [he], fun _ => he, fun ho hg hs => ?_⟩
      rcases hi with h | h | h
      · exact absurd h ho
      · exact absurd h hg
      · exact absurd h hs
    · obtain ⟨hst, hr⟩ := resetNFall_halt hcalm hi
      exact ⟨hr, fun h => absurd h hi, fun _ _ _ => hst⟩
  · by_cases hn : s.pkg.st = .stopped ∧ s.pkg.resetN = false
    · obtain ⟨hst, hc⟩ := coolOkRise_halt hreq hn.1 hn.2
      exact ⟨hc, fun _ _ => hst, fun h => absurd hn h⟩
    · have he := coolOkRise_level hn
      exact ⟨by rw [he], fun hs hr => absurd ⟨hs, hr⟩ hn, fun _ => he⟩

end Sys2Proof.Machine

/-! PROOF. What every command and every step leaves standing: the queue, the outputs, the fuses, memory's canonical form, GRAVE. -/

namespace Sys2Proof.Machine

/-- Settles O1: the queue's front is what `step` dispatches on. -/
theorem stepRunsFront : Obligations.StepRunsFront := fun _ _ _ => rfl

/-- Settles O3: `exec_moved` names the next state of every command. -/
theorem everyCommandCompletes : Obligations.EveryCommandCompletes := fun c s => by
  obtain ⟨t, ht, -⟩ := exec_moved s c
  exact ⟨t, ht⟩

/-- Settles O6. -/
theorem memoryCanonicalAtReset : Obligations.MemoryCanonicalAtReset := ⟨reset_mem_wf, rfl⟩

/-- Settles O7: the three are what `exec_moved` says of the parts that nothing inside the package takes back. -/
theorem nothingTakenBack : Obligations.NothingTakenBack := fun _ _ _ h => by
  have k := moved_of_exec h
  exact ⟨k.queue, k.out, k.fuses⟩

/-- A step on a queue that is not empty runs the front command on the state without it. -/
theorem step_cons (s : State) {c : Instr} {rest : List Instr} (h : s.pending = c :: rest) :
    step s = exec c { s with pending := rest } := by
  simp only [step, h]

/-- Settles O5: a command keeps memory's canonical form by `exec_moved`, an idle tick by both halves of `idleTick_twice`. -/
theorem memoryCanonicalKept : Obligations.MemoryCanonicalKept := by
  intro s t hwf h
  cases hq : s.pending with
  | cons c rest =>
    rw [step_cons s hq] at h
    exact (moved_of_exec h).mem hwf
  | nil =>
    have hs : step s = .next (idleTick s) := by simp only [step, hq]
    rw [hs] at h
    cases h
    obtain ⟨u, hu, k⟩ := idleTick_twice s
    exact k.mem (hu.mem hwf)

/-- Table 0.5 from GRAVE: its only transition is to OFF (00 R14). -/
theorem allowed_of_grave {s : State} (hs : s.pkg.st = .grave) {t : PkgState} (h : allowed s t) : t = .off := by
  unfold allowed at h
  rw [hs] at h
  cases t <;> simp_all [edge]

/-- Settles O8: of the moves of Table 0.5 only the one to OFF leaves GRAVE, and DRAINING does not follow OFF. -/
theorem graveOnlyToOff : Obligations.GraveOnlyToOff := by
  intro c s t hs h
  rcases (moved_of_exec h).st with hst | hst | ⟨-, m, hm, hd⟩
  · exact .inl (hst.trans hs)
  · exact .inr (allowed_of_grave hs hst)
  · cases allowed_of_grave hs hm
    exact absurd hd (by decide)

/-- A transition taken leaves the package in its target. -/
theorem State.transition_take (s : State) (t : PkgState) (h : ∃ a b, s.transition t = { s.enter t with pkg := { (s.enter t).pkg with tickStart := a, taken := b } }) :
    (s.transition t).pkg.st = t := by
  obtain ⟨a, b, e⟩ := h
  rw [e]
  exact State.enter_st s t

/-- Settles O9: the branches of `State.transition` and `State.settleRequest` for a tick in which a transition has been taken, and for one
in which none has. -/
theorem oneTransitionATick : Obligations.OneTransitionATick := by
  refine ⟨by decide, fun s t => ⟨fun a ha hb => ⟨fun hr he => ?_, fun hr => ?_⟩, fun ht hr he => ?_, fun a ha hq hr => ?_⟩⟩
  · refine State.transition_take s t ⟨s.pkg.tickStart, some t, ?_⟩
    simp only [State.transition, ha, hb, hr, he, decide_true, Bool.and_self, if_true]
  · have hlt : ¬ t.rank < a.rank := Nat.not_lt.2 hr
    simp only [State.transition, ha, hb, hlt, decide_false, Bool.false_and, if_true, Bool.false_eq_true, if_false]
  · refine State.transition_take s t ⟨s.pkg.st, some t, State.transition_calm s t he ht hr⟩
  · have hlt : ¬ t.rank < a.rank := Nat.not_lt.2 hr
    simp only [State.settleRequest, hq, ha, hlt, decide_false, Bool.and_false, Bool.not_false, Bool.true_or, if_true]

end Sys2Proof.Machine

/-! PROOF. Frames: the units that one update touches, and the objects that a write leaves as they are. -/

namespace Sys2Proof.Machine

/-! ### One unit replaced -/

theorem State.clk_changes (s : State) (x : ClockUnit) : changesOnly [.clk] s { s with clk := x } :=
  ⟨rfl, fun p hp => by cases p <;> simp_all [samePiece, State.num, State.blob]⟩
theorem State.crs_changes (s : State) (x : CourseUnit) : changesOnly [.crs] s { s with crs := x } :=
  ⟨rfl, fun p hp => by cases p <;> simp_all [samePiece, State.num, State.blob]⟩
theorem State.cred_changes (s : State) (x : CreditUnit) : changesOnly [.cred] s { s with cred := x } :=
  ⟨rfl, fun p hp => by cases p <;> simp_all [samePiece, State.num, State.blob]⟩
theorem State.ses_changes (s : State) (x : SessionUnit) : changesOnly [.ses] s { s with ses := x } :=
  ⟨rfl, fun p hp => by cases p <;> simp_all [samePiece, State.num, State.blob]⟩
theorem State.mem_changes (s : State) (x : MemUnit) : changesOnly [.mem] s { s with mem := x } :=
  ⟨rfl, fun p hp => by cases p <;> simp_all [samePiece, State.num, State.blob]⟩
theorem State.wts_changes (s : State) (x : WeightUnit) : changesOnly [.wts] s { s with wts := x } :=
  ⟨rfl, fun p hp => by cases p <;> simp_all [samePiece, State.num, State.blob]⟩
theorem State.lnk_changes (s : State) (x : LinkUnit) : changesOnly [.lnk] s { s with lnk := x } :=
  ⟨rfl, fun p hp => by cases p <;> simp_all [samePiece, State.num, State.blob]⟩
theorem State.fab_changes (s : State) (x : FabricUnit) : changesOnly [.fab] s { s with fab := x } :=
  ⟨rfl, fun p hp => by cases p <;> simp_all [samePiece, State.num, State.blob]⟩
theorem State.mir_changes (s : State) (x : MirrorUnit) : changesOnly [.mir] s { s with mir := x } :=
  ⟨rfl, fun p hp => by cases p <;> simp_all [samePiece, State.num, State.blob]⟩
theorem State.pwr_changes (s : State) (x : PowerUnit) : changesOnly [.pwr] s { s with pwr := x } :=
  ⟨rfl, fun p hp => by cases p <;> simp_all [samePiece, State.num, State.blob]⟩
theorem State.sec_changes (s : State) (x : SecUnit) : changesOnly [.sec] s { s with sec := x } :=
  ⟨rfl, fun p hp => by cases p <;> simp_all [samePiece, State.num, State.blob]⟩
theorem State.out_changes (s : State) (x : List OutMsg) : changesOnly [.out] s { s with out := x } :=
  ⟨rfl, fun p hp => by cases p <;> simp_all [samePiece, State.num, State.blob]⟩

/-- The next operation's frame, which the list at hand holds. -/
theorem changesOnly.then {l m : List Piece} {s t u : State} (h : changesOnly l s t) (k : changesOnly m t u)
    (hm : ∀ p ∈ m, p ∈ l := by decide) : changesOnly l s u := h.trans (k.mono hm)

/-- A frame with room for more. -/
theorem changesOnly.within {l m : List Piece} {s t : State} (h : changesOnly m s t) (hm : ∀ p ∈ m, p ∈ l := by decide) :
    changesOnly l s t := h.mono hm

theorem changesOnly.foldl {α : Type} {l : List Piece} {s : State} {f : State → α → State} (hf : ∀ t x, changesOnly l t (f t x))
    (xs : List α) : ∀ {t}, changesOnly l s t → changesOnly l s (xs.foldl f t) := by
  induction xs with
  | nil => exact id
  | cons x xs ih => exact fun h => ih (h.trans (hf _ x))

/-- Setting a port's running state touches the links alone. -/
theorem State.setPort_changes (s : State) (p : Nat) (r : PortRt) : changesOnly [.lnk] s (s.setPort p r) := State.lnk_changes ..

/-! ### Objects -/

theorem objectsBut.refl (keys : List Nat) (s : State) : objectsBut keys s s := fun _ _ => ⟨fun _ => rfl, rfl⟩

theorem objectsBut.trans {keys : List Nat} {s t u : State} (h : objectsBut keys s t) (k : objectsBut keys t u) : objectsBut keys s u :=
  fun o ho => ⟨fun hf => ((k o ho).1 hf).trans ((h o ho).1 hf), (k o ho).2.trans (h o ho).2⟩

/-- The store of a number leaves every other object. -/
theorem State.setNum_objectsBut {keys : List Nat} (s : State) (o : Obj) (v : Nat) (h : o.key ∈ keys) : objectsBut keys s (s.setNum o v) :=
  fun _ hx => ⟨fun _ => State.num_setNum_other _ _ _ _ (fun e => hx (e ▸ h)), rfl⟩

/-- An operation whose frame leaves the objects out leaves them all. -/
theorem changesOnly.objectsBut {l : List Piece} {s t : State} (h : changesOnly l s t) (keys : List Nat)
    (hl : Piece.objects ∉ l := by decide) : objectsBut keys s t :=
  fun o _ => h.2 .objects hl o

/-- A state with the same stored objects. -/
theorem objectsBut.of_dict {keys : List Nat} {s t : State} (hn : t.dict.nums = s.dict.nums) (hb : t.dict.blobs = s.dict.blobs) :
    objectsBut keys s t := fun o _ => ⟨fun _ => by rw [State.num, State.num, hn], by rw [State.blob, State.blob, hb]⟩

/-! ### Objects dropped from the store -/

/-- What a read finds after the entries of some keys have been taken out of a map. -/
theorem SMap.get_filter {β : Type} (d : β) (m : SMap β) (p : Nat → Bool) (k : Nat) :
    SMap.get d (m.filter (fun e => p e.1)) k = if p k then SMap.get d m k else d := by
  induction m with
  | nil => cases p k <;> rfl
  | cons e r ih =>
    obtain ⟨j, v⟩ := e
    by_cases hj : j = k
    · subst hj
      cases hp : p j <;> simp_all [SMap.get]
    · cases hp : p j <;> simp_all [SMap.get]

/-! ### A fault raised (15 R496, R500) -/

theorem keepLast_concat_getLast? {β : Type} {n : Nat} (hn : 0 < n) (l : List β) (x : β) : (keepLast n (l ++ [x])).getLast? = some x := by
  have h : (l ++ [x]).length - n ≤ l.length := by simp; omega
  rw [keepLast, List.drop_append_of_le_length h]
  simp

end Sys2Proof.Machine

/-! PROOF. What raising a fault does (15 R488, R490, R496, R497, R500): one lemma for each place a message can go. -/

namespace Sys2Proof.Machine

/-- The message that a fault raised becomes (15 Table 15.2). -/
def State.messageOf (s : State) (src part kind cls addr : Nat) : FaultMsg :=
  { tick := s.now, source := src, part := part, kind := BitVec.ofNat 8 kind, cls := cls, addr := BitVec.ofNat 47 addr,
    seq := (SMap.get 0 s.fcu.seqs src + 1) % 8, running := if src < 384 then (SMap.get {} s.cred.cores src).running else none }

/-- The fault collector once the source's sequence number has been counted. -/
def State.counted (s : State) (src : Nat) : State :=
  { s with fcu := { s.fcu with seqs := SMap.set 0 s.fcu.seqs src ((SMap.get 0 s.fcu.seqs src + 1) % 8) } }

theorem State.raise_off {s : State} (h : s.pkg.st = .off) (src part kind cls addr : Nat) : s.raise src part kind cls addr = s :=
  if_pos h

/-- A hub or quarter source in HALT, STOPPED or GRAVE. -/
theorem State.raise_halted {s : State} (h : s.pkg.st.mgmtOnly = true) {src : Nat} (hs : src < 0x3A0) (part kind cls addr : Nat) :
    s.raise src part kind cls addr = s := by
  unfold State.raise
  split
  · rfl
  · rw [if_pos (by simp [h, hs])]

theorem PkgState.ne_off_of_mgmtOnly {p : PkgState} (h : p.mgmtOnly = true) : p ≠ .off := by rintro rfl; cases h

/-- A management source in HALT, STOPPED or GRAVE: the message goes to the VAUX store. -/
theorem State.raise_managed {s : State} (h : s.pkg.st.mgmtOnly = true) {src : Nat} (hs : 0x3A0 ≤ src) (part kind cls addr : Nat) :
    s.raise src part kind cls addr =
      if s.errFor src cls = true then ((s.counted src).vauxStore ((s.messageOf src part kind cls addr).bits 0) cls).assertErr
      else (s.counted src).vauxStore ((s.messageOf src part kind cls addr).bits 0) cls := by
  unfold State.raise
  rw [if_neg (PkgState.ne_off_of_mgmtOnly h), if_neg (by simp [Nat.not_lt.2 hs])]
  exact if_pos h

/-- In every other state but OFF a message of class 3 or higher bypasses the queue. -/
theorem State.raise_urgent {s : State} (ho : s.pkg.st ≠ .off) (h : s.pkg.st.mgmtOnly = false) (src part kind : Nat) {cls : Nat}
    (hc : 3 ≤ cls) (addr : Nat) : s.raise src part kind cls addr =
      { s.counted src with fcu := { (s.counted src).fcu with urgent := s.fcu.urgent ++ [s.messageOf src part kind cls addr] } } := by
  unfold State.raise
  rw [if_neg ho, if_neg (by simp [h])]
  exact (if_neg (by simp [h])).trans (if_pos hc)

/-- One of a lower class joins the queue while it has room. -/
theorem State.raise_queued {s : State} (ho : s.pkg.st ≠ .off) (h : s.pkg.st.mgmtOnly = false) (src part kind : Nat) {cls : Nat}
    (hc : cls ≤ 2) (hr : s.fcu.intake.length < 64) (addr : Nat) : s.raise src part kind cls addr =
      { s.counted src with fcu := { (s.counted src).fcu with intake := s.fcu.intake ++ [s.messageOf src part kind cls addr] } } := by
  unfold State.raise
  rw [if_neg ho, if_neg (by simp [h])]
  exact (if_neg (by simp [h])).trans ((if_neg (by omega)).trans (if_pos hr))

/-- A class-2 message that finds it full is held back. -/
theorem State.raise_heldBack {s : State} (ho : s.pkg.st ≠ .off) (h : s.pkg.st.mgmtOnly = false) (src part kind : Nat)
    (hr : 64 ≤ s.fcu.intake.length) (addr : Nat) : s.raise src part kind 2 addr =
      { s.counted src with fcu := { (s.counted src).fcu with heldBack := s.fcu.heldBack ++ [s.messageOf src part kind 2 addr] } } := by
  unfold State.raise
  rw [if_neg ho, if_neg (by simp [h])]
  exact (if_neg (by simp [h])).trans ((if_neg (by decide)).trans ((if_neg (Nat.not_lt.2 hr)).trans (if_pos rfl)))

/-- One of a lower class still is dropped and counted; the first of its source lets the FCU write an FCU_OVERFLOW of its own. -/
theorem State.raise_dropped {s : State} (ho : s.pkg.st ≠ .off) (h : s.pkg.st.mgmtOnly = false) (src part kind : Nat) {cls : Nat}
    (hc : cls ≤ 1) (hr : 64 ≤ s.fcu.intake.length) (addr : Nat) :
    s.raise src part kind cls addr = (s.counted src).bump O.faultsDropped 64 ∨
      ∃ l u q, s.raise src part kind cls addr = { (s.counted src).bump O.faultsDropped 64 with
        fcu := { (s.counted src).fcu with overflowed := l, urgent := u, seqs := SMap.set 0 (s.counted src).fcu.seqs srcFcu q } } := by
  unfold State.raise
  rw [if_neg ho, if_neg (by simp [h])]
  by_cases hv : s.fcu.overflowed.contains src = true
  · exact .inl ((if_neg (by simp [h])).trans ((if_neg (by omega)).trans ((if_neg (Nat.not_lt.2 hr)).trans
      ((if_neg (by omega)).trans (if_pos hv)))))
  · exact .inr ⟨_, _, _, (if_neg (by simp [h])).trans ((if_neg (by omega)).trans ((if_neg (Nat.not_lt.2 hr)).trans
      ((if_neg (by omega)).trans (if_neg hv))))⟩

@[simp] theorem State.counted_seq (s : State) (src : Nat) :
    SMap.get 0 (s.counted src).fcu.seqs src = (SMap.get 0 s.fcu.seqs src + 1) % 8 := SMap.get_set_same ..

/-- Wherever the message goes, its source's sequence number has been counted. -/
theorem State.raise_seq {s : State} (ho : s.pkg.st ≠ .off) (h : s.pkg.st.mgmtOnly = false) {src : Nat} (hs : src ≠ srcFcu)
    (part kind cls addr : Nat) :
    SMap.get 0 (s.raise src part kind cls addr).fcu.seqs src = (SMap.get 0 s.fcu.seqs src + 1) % 8 := by
  by_cases hu : 3 ≤ cls
  · rw [State.raise_urgent ho h src part kind hu]
    exact State.counted_seq s src
  by_cases hq : s.fcu.intake.length < 64
  · rw [State.raise_queued ho h src part kind (by omega) hq]
    exact State.counted_seq s src
  by_cases hc : cls = 2
  · rw [hc, State.raise_heldBack ho h src part kind (by omega)]
    exact State.counted_seq s src
  · rcases State.raise_dropped ho h src part kind (cls := cls) (by omega) (by omega) addr with e | ⟨l, u, q, e⟩
    · rw [e]
      exact State.counted_seq s src
    · rw [e]
      exact (SMap.get_set_other _ _ _ _ _ hs).trans (State.counted_seq s src)

@[simp] theorem State.assertErr_fcu (s : State) : s.assertErr.fcu = s.fcu := by
  unfold State.assertErr
  split <;> rfl
@[simp] theorem State.assertErr_err (s : State) : s.assertErr.pkg.err = true := by
  unfold State.assertErr
  split
  · assumption
  · rfl

/-- Settles O37: the frame, then each state and class by the lemma about where its message goes. -/
theorem faultMessagesRaised : Obligations.FaultMessagesRaised := by
  intro s src part kind cls addr m hm
  have hm : s.messageOf src part kind cls addr = m := hm.symm
  refine ⟨State.raise_changes .., fun ho => State.raise_off ho .., fun h hs => State.raise_halted h hs .., fun h hs => ?_, fun ho h => ?_⟩
  · rw [State.raise_managed h hs, hm]
    split
    · exact ⟨by simp [State.vauxStore, State.counted, ringPush], fun _ => State.assertErr_err _⟩
    · exact ⟨by simp [State.vauxStore, State.counted, ringPush], fun e => absurd e ‹_›⟩
  · refine ⟨fun hs => ?_, fun hc => ?_, fun hc hr => ?_, fun hc hr => ?_, fun hc hr => ?_⟩
    · rw [State.raise_seq ho h hs, ← hm]
      rfl
    · rw [State.raise_urgent ho h src part kind hc, hm]
    · rw [State.raise_queued ho h src part kind hc hr, hm]
    · subst hc
      rw [State.raise_heldBack ho h src part kind hr, hm]
    · rcases State.raise_dropped ho h src part kind hc hr addr with e | ⟨l, u, q, e⟩
      · rw [e]
        exact ⟨State.num_setNum_same .., rfl⟩
      · rw [e]
        exact ⟨State.num_setNum_same .., rfl⟩

end Sys2Proof.Machine

/-! PROOF. The power rails and the pins (00 R14, R16, Table 0.5; 14 R456, R480; 17 R564; 18 R597, R599): what the entries to HALT, OFF and
STOPPED keep and lose. -/

namespace Sys2Proof.Machine

/-! ### The end of the tests at a transition -/

/-- Where no eye scan runs, the end of the tests sends nothing. -/
theorem State.abortTests_out {s : State} (h : s.num O.escanState ≠ 1) : s.abortTests.out = s.out := by
  have hm : ∀ t : State, t.afterMargin.out = t.out := fun _ => rfl
  have he : (if s.num O.marginState = 1 then (s.setNum O.marginState 3).afterMargin else s).num O.escanState ≠ 1 := by
    split
    · rwa [State.num_afterMargin, State.num_setNum_other _ _ _ _ (by decide)]
    · exact h
  unfold State.abortTests
  simp only [if_neg he, apply_ite State.out, State.setNum_out, hm, ite_self]

/-- Objects of the management domain are none of the tests'. -/
theorem State.abortTests_num_held (s : State) {o : Obj} (h : vauxHeld o.key = true) : s.abortTests.num o = s.num o :=
  State.abortTests_num s o (fun e => by rw [e] at h; revert h; decide) (fun e => by rw [e] at h; revert h; decide)
    (fun e => by rw [e] at h; revert h; decide)

/-! ### The messages saved at entry to HALT -/

@[simp] theorem State.assertErr_nums (s : State) : s.assertErr.dict.nums = s.dict.nums := by
  unfold State.assertErr
  split <;> rfl
@[simp] theorem State.assertErr_blobs (s : State) : s.assertErr.dict.blobs = s.dict.blobs := by
  unfold State.assertErr
  split <;> rfl
@[simp] theorem State.assertErr_server (s : State) : s.assertErr.dict.server = s.dict.server := by
  unfold State.assertErr
  split <;> rfl

/-- Saving a message leaves the objects and the server as they are. -/
theorem State.saveFault_dict (s : State) (m : FaultMsg) :
    (s.saveFault m).dict.nums = s.dict.nums ∧ (s.saveFault m).dict.blobs = s.dict.blobs ∧ (s.saveFault m).dict.server = s.dict.server := by
  unfold State.saveFault
  dsimp only
  split
  · rw [State.assertErr_nums, State.assertErr_blobs, State.assertErr_server]
    exact ⟨rfl, rfl, rfl⟩
  · exact ⟨rfl, rfl, rfl⟩

theorem State.saveFault_foldl_dict (l : List FaultMsg) (s : State) :
    (l.foldl State.saveFault s).dict.nums = s.dict.nums ∧ (l.foldl State.saveFault s).dict.blobs = s.dict.blobs ∧
      (l.foldl State.saveFault s).dict.server = s.dict.server := by
  induction l generalizing s with
  | nil => exact ⟨rfl, rfl, rfl⟩
  | cons m l ih =>
    obtain ⟨hn, hb, hv⟩ := State.saveFault_dict s m
    obtain ⟨kn, kb, kv⟩ := ih (s.saveFault m)
    exact ⟨kn.trans hn, kb.trans hb, kv.trans hv⟩

/-- With no message in the collector there is nothing to save. -/
theorem State.saveFaults_nil {s : State} (h1 : s.fcu.urgent = []) (h2 : s.fcu.intake = []) (h3 : s.fcu.heldBack = []) : s.saveFaults = s := by
  simp [State.saveFaults, h1, h2, h3]

/-! ### Entry to HALT -/

/-- Every unit of the hub and the quarters is at its reset value (Table 0.5). -/
theorem State.enter_halt_units (s : State) :
    (s.enter .halt).clk = {} ∧ (s.enter .halt).crs = {} ∧ (s.enter .halt).cred = {} ∧ (s.enter .halt).eng = {} ∧ (s.enter .halt).ses = {} ∧
      (s.enter .halt).wts = {} ∧ (s.enter .halt).lnk = {} ∧ (s.enter .halt).fab = {} ∧ (s.enter .halt).mir = {} ∧ (s.enter .halt).pwr = {} ∧
      (s.enter .halt).icx = {} :=
  ⟨rfl, rfl, rfl, rfl, rfl, rfl, rfl, rfl, rfl, rfl, rfl⟩

/-- What the flash die and the fuses hold stays. -/
theorem State.enter_halt_flash (s : State) :
    (s.enter .halt).sec.fwA = s.sec.fwA ∧ (s.enter .halt).sec.fwB = s.sec.fwB ∧ (s.enter .halt).sec.ks0 = s.sec.ks0 ∧
      (s.enter .halt).sec.ks1 = s.sec.ks1 ∧ (s.enter .halt).sec.cal = s.sec.cal ∧ (s.enter .halt).sec.img0 = s.sec.img0 ∧
      (s.enter .halt).sec.img1 = s.sec.img1 ∧ (s.enter .halt).sec.fuses = s.sec.fuses := by
  simp [State.enter, State.hubReset, (State.saveFaults_raised s.abortTests).sec]

@[simp] theorem State.enter_halt_vaux (s : State) : (s.enter .halt).pkg.vaux = s.pkg.vaux := by
  obtain ⟨_, _, _, h⟩ := (State.saveFaults_raised s.abortTests).pkg
  simp [State.enter, State.hubReset, h]

/-- An object that the management domain does not hold reads its default; one that it holds reads as before (16 R537). -/
theorem State.enter_halt_objects (s : State) (o : Obj) :
    (s.enter .halt).num o = (if vauxHeld o.key then s.num o else o.dflt) ∧ (s.enter .halt).blob o = if vauxHeld o.key then s.blob o else [] := by
  obtain ⟨hn, hb, -⟩ := State.saveFault_foldl_dict
    ((s.abortTests.fcu.urgent ++ s.abortTests.fcu.intake ++ s.abortTests.fcu.heldBack).filter (fun m => decide (m.cls ≥ 2))) s.abortTests
  have en : (s.enter .halt).dict.nums = s.abortTests.dict.nums.filter (fun e => vauxHeld e.1) := by
    simp only [State.enter, State.hubReset, State.saveFaults, hn]
  have eb : (s.enter .halt).dict.blobs = s.abortTests.dict.blobs.filter (fun e => vauxHeld e.1) := by
    simp only [State.enter, State.hubReset, State.saveFaults, hb]
  rw [State.num, en, SMap.get_filter, State.blob, eb, SMap.get_filter, ← State.blob_abortTests]
  refine ⟨?_, rfl⟩
  split
  · exact State.abortTests_num_held s ‹_›
  · rfl

/-- Where no margin test runs every byte of memory stays; the open merge entries are lost. -/
theorem State.enter_halt_mem {s : State} (h : s.num O.marginState ≠ 1) : (s.enter .halt).mem.mem = s.mem.mem ∧ (s.enter .halt).mem.merge = [] := by
  have hm := (State.saveFaults_raised s.abortTests).mem.trans (State.abortTests_mem s h).1
  simp only [State.enter, State.hubReset, hm, and_self]

/-- Where no eye scan runs and no message waits, nothing is sent. -/
theorem State.enter_halt_out {s : State} (h : s.num O.escanState ≠ 1) (h1 : s.fcu.urgent = []) (h2 : s.fcu.intake = [])
    (h3 : s.fcu.heldBack = []) : (s.enter .halt).out = s.out := by
  have hs : s.abortTests.saveFaults = s.abortTests := State.saveFaults_nil (by simpa) (by simpa) (by simpa)
  simp only [State.enter, State.hubReset, hs, State.abortTests_out h]

/-- Settles O12: RESET_N_FALL takes the transition to HALT, whose entry resets the hub and keeps the rest. -/
theorem haltEntryResetsTheHub : Obligations.HaltEntryResetsTheHub := by
  intro s hc ho hg hh hs hm
  obtain ⟨u, hu⟩ : ∃ u : State, u = { s with pkg := { s.pkg with resetN := false } } := ⟨_, rfl⟩
  have ht : resetNFall s = u.transition .halt := by rw [hu]; exact resetNFall_transition (by simp [ignoresReset, ho, hg, hh, hs])
  have hst : u.pkg.st = s.pkg.st := by rw [hu]
  rw [State.transition_calm u .halt (by rw [hst]; exact edge_halt hg hh) (by rw [hu]; exact hc.1) (by rw [hu]; exact hc.2)] at ht
  obtain ⟨e1, e2, e3, e4, e5, e6, e7, e8, e9, e10, e11⟩ := State.enter_halt_units u
  obtain ⟨f1, f2, f3, f4, f5, f6, f7, f8⟩ := State.enter_halt_flash u
  obtain ⟨m1, m2⟩ := State.enter_halt_mem (s := u) (by rw [hu]; exact hm)
  have hu' := State.enter_st u .halt
  have ho := fun o => State.enter_halt_objects u o
  have hsec : (u.enter .halt).dict.window = [] ∧ (u.enter .halt).sec.lock = false := ⟨rfl, rfl⟩
  have hout := fun he h1 h2 h3 => State.enter_halt_out (s := u) he h1 h2 h3
  refine ⟨resetNFall s, rfl, ?_⟩
  rw [ht]
  generalize u.enter .halt = v at *
  subst hu
  refine ⟨hu', e1, e2, e3, e4, e5, e6, e7, e8, e9, e10, e11, fun o hk => ?_, fun o hk => ?_, hsec.1, hsec.2, m1, m2, f1, f2, f3, f4, f5, f6,
    f7, f8, hout⟩
  · have h := ho o
    rwa [hk] at h
  · have h := ho o
    rwa [hk] at h

/-! ### VAUX -/

/-- Entry to OFF leaves the flash die and the fuses alone (14 R456; 17 R555, R559). -/
theorem State.enter_off_flash (s : State) :
    (s.enter .off).sec.fwA = s.sec.fwA ∧ (s.enter .off).sec.fwB = s.sec.fwB ∧ (s.enter .off).sec.ks0 = s.sec.ks0 ∧
      (s.enter .off).sec.ks1 = s.sec.ks1 ∧ (s.enter .off).sec.cal = s.sec.cal ∧ (s.enter .off).sec.img0 = s.sec.img0 ∧
      (s.enter .off).sec.img1 = s.sec.img1 ∧ (s.enter .off).sec.graveLast = s.sec.graveLast ∧ (s.enter .off).sec.fuses = s.sec.fuses := by
  simp [State.enter, State.powerLost]

/-- It leaves nothing else: VAUX is gone, and with it memory, the objects, the records and the courses. -/
theorem State.enter_off_units (s : State) :
    (s.enter .off).pkg.vaux = false ∧ (s.enter .off).mem = {} ∧ (s.enter .off).dict.nums = [] ∧ (s.enter .off).dict.blobs = [] ∧
      (s.enter .off).crs = {} ∧ (s.enter .off).clk = {} ∧ (s.enter .off).fcu = {} ∧ (s.enter .off).icx = {} ∧ (s.enter .off).lnk = {} :=
  ⟨rfl, rfl, rfl, rfl, rfl, rfl, rfl, rfl, rfl⟩

theorem State.enter_off_out (s : State) (h : s.num O.escanState ≠ 1) : (s.enter .off).out = s.out := by
  simp only [State.enter, State.powerLost, State.abortTests_out h]

/-- Settles O10: each rail's edge begins a tick of its own and takes its transition; the rest is what the two entries keep. -/
theorem powerRail : Obligations.PowerRail := by
  refine ⟨fun s hs hr => ⟨vauxRise s, rfl, ?_⟩, fun s hs hr => ⟨vauxLoss s, rfl, ?_⟩⟩
  · obtain ⟨u, hu⟩ : ∃ u : State, u = ({ s with pkg := { s.pkg with vaux := true } } : State).newTick := ⟨_, rfl⟩
    have he : vauxRise s = u.transition .halt := by rw [hu]; exact if_neg (by simp [hs])
    rw [he, State.transition_calm u .halt (by rw [hu]; simp [State.newTick, hs, edge]) (by rw [hu]; rfl) (by rw [hu]; exact hr)]
    obtain ⟨hA, hB, -, -, hcal, -, -, hf⟩ := State.enter_halt_flash u
    have hv := State.enter_halt_vaux u
    have hst := State.enter_st u .halt
    generalize u.enter .halt = v at *
    subst hu
    exact ⟨hst, hv, hA, hB, hcal, hf⟩
  · obtain ⟨u, hu⟩ : ∃ u : State, u = s.newTick := ⟨_, rfl⟩
    have he : vauxLoss s = u.transition .off := by rw [hu]; exact if_neg hs
    rw [he, State.transition_calm u .off (by rw [hu]; simp [State.newTick, hs, edge]) (by rw [hu]; rfl) (by rw [hu]; exact hr)]
    obtain ⟨f1, f2, f3, f4, f5, f6, f7, f8, f9⟩ := State.enter_off_flash u
    obtain ⟨g1, g2, g3, g4, g5, g6, g7, g8, g9⟩ := State.enter_off_units u
    have hout := State.enter_off_out u
    have hst := State.enter_st u .off
    generalize u.enter .off = v at *
    subst hu
    exact ⟨hst, g1, g2, g3, g4, g5, g6, g7, g8, g9, f1, f2, f3, f4, f5, f6, f7, f8, f9, hout⟩

/-! ### COOL_OK and PWR_GOOD -/

theorem PkgState.hubRuns_iff {p : PkgState} : p.hubRuns = true ↔ p ≠ .off ∧ p ≠ .halt ∧ p ≠ .stopped ∧ p ≠ .grave := by
  cases p <;> simp [PkgState.hubRuns]

theorem PkgState.mgmtOnly_of_hubRuns {p : PkgState} (h : p.hubRuns = true) : p.mgmtOnly = false := by
  cases p <;> simp_all [PkgState.hubRuns, PkgState.mgmtOnly]

theorem PkgState.ne_off_of_hubRuns {p : PkgState} (h : p.hubRuns = true) : p ≠ .off := (PkgState.hubRuns_iff.1 h).1

/-- Entry to STOPPED: the merge entries are lost, the server stops, the rein of every quarter is 0 (15 R501). -/
theorem State.enter_stopped_facts (s : State) :
    (s.enter .stopped).mem.merge = [] ∧ (s.enter .stopped).dict.server = .stopped ∧
      (s.enter .stopped).pwr.reins = (List.range 4).map (fun q => (q, { level := 0, source := 0 })) := ⟨rfl, rfl, rfl⟩

@[simp] theorem State.abortLoad_pkg (s : State) (a b : Nat) : (s.abortLoad a b).pkg = s.pkg := by
  unfold State.abortLoad
  split
  · rfl
  · simp

@[simp] theorem State.enter_stopped_coolOk (s : State) : (s.enter .stopped).pkg.coolOk = s.pkg.coolOk := by
  simp [State.enter, State.fence]

/-- The class-3 messages that a stop overtakes touch the fault collector, the dictionary unit, the outputs and ERR_N only. -/
theorem State.overtakeUrgent_raised (s : State) : Raised s s.overtakeUrgent :=
  Raised.foldl State.saveFault_raised _ State.raised

theorem State.overtakeUrgent_server (s : State) : s.overtakeUrgent.dict.server = s.dict.server := by
  obtain ⟨-, -, h⟩ := State.saveFault_foldl_dict (s.fcu.urgent.filter (fun m => m.cls == 3))
    { s with fcu := { s.fcu with urgent := s.fcu.urgent.filter (fun m => m.cls != 3) } }
  exact h

/-- A message of a management source raised in STOPPED is the newest in the VAUX store. -/
theorem State.raise_managed_newest {s : State} (h : s.pkg.st.mgmtOnly = true) {src : Nat} (hs : 0x3A0 ≤ src) (part kind cls addr : Nat) :
    (s.raise src part kind cls addr).fcu.store.getLast? = some ((s.messageOf src part kind cls addr).bits 0) := by
  obtain ⟨-, -, -, hm, -⟩ := faultMessagesRaised s src part kind cls addr _ rfl
  rw [(hm h hs).1]
  exact keepLast_concat_getLast? (by decide) ..

/-- COOL_OK taken low where the hub runs. -/
theorem coolOkFall_stopped {s : State} (hc : calm s) (hr : s.pkg.st.hubRuns = true) (hk : s.pkg.coolOk = true) :
    (coolOkFall s).pkg.st = .stopped ∧ (coolOkFall s).pkg.coolOk = false ∧ (coolOkFall s).mem.merge = [] ∧
      (coolOkFall s).dict.server = .stopped ∧ (∀ q, q < 4 → ((coolOkFall s).rein q).level = 0) ∧
      ∃ m : FaultMsg, m.source = srcPins ∧ m.kind = 0x8B ∧ m.cls = 1 ∧ (coolOkFall s).fcu.store.getLast? = some (m.bits 0) := by
  obtain ⟨ho, hh, hs, hg⟩ := PkgState.hubRuns_iff.1 hr
  obtain ⟨u, hu⟩ : ∃ u : State, u = { s with pkg := { s.pkg with coolOk := false } } := ⟨_, rfl⟩
  have hst : u.pkg.st = s.pkg.st := by rw [hu]
  have hfall : coolOkFall s = if (u.transition .stopped).pkg.st ≠ .stopped ∨ u.pkg.st = .stopped then u.transition .stopped else
      ((u.transition .stopped).overtakeUrgent.emit (.plinth (plinthFrame (u.clk.tick.toNat % 16) 600 u.pwr.vmemSet 2))).raise srcPins 2 0x8B 1 0 := by
    rw [hu]
    exact if_neg (by simp [hk])
  rw [State.transition_calm u .stopped (by simp [edge, hst, ho, hg, hs]) (by rw [hu]; exact hc.1) (by rw [hu]; exact hc.2)] at hfall
  obtain ⟨hm, hsv, hrn⟩ := State.enter_stopped_facts u
  have hcool : (u.enter .stopped).pkg.coolOk = false := by rw [State.enter_stopped_coolOk, hu]
  have hest := State.enter_st u .stopped
  generalize u.enter .stopped = v at *
  obtain ⟨t, ht⟩ : ∃ t : State, t = { v with pkg := { v.pkg with tickStart := u.pkg.st, taken := some .stopped } } := ⟨_, rfl⟩
  rw [← ht] at hfall
  have htst : t.pkg.st = .stopped := by rw [ht]; exact hest
  have htcool : t.pkg.coolOk = false := by rw [ht]; exact hcool
  rw [if_neg (by simp [htst, hst, hs])] at hfall
  rw [hfall]
  have hv := State.overtakeUrgent_raised t
  obtain ⟨a, b, c, hp⟩ := hv.pkg
  refine ⟨by simp [hp, htst], by simp [hp, htcool], ?_, ?_, fun q hq => ?_, _, rfl, rfl, rfl,
    State.raise_managed_newest (by simp [hp, htst, PkgState.mgmtOnly]) (by decide) ..⟩
  · rw [State.raise_mem, State.emit_mem, hv.mem, ht, hm]
  · rw [State.raise_server, State.emit_dict, State.overtakeUrgent_server, ht, hsv]
  · have hr : ∀ q, q < 4 → (SMap.get {} ((List.range 4).map (fun q => (q, ({ level := 0, source := 0 } : Rein)))) q).level = 0 := by decide
    rw [State.rein, State.raise_pwr, State.emit_pwr, hv.pwr, ht, hrn]
    exact hr q hq

@[simp] theorem State.beginSupplyPull_pkg_st (s : State) : s.beginSupplyPull.pkg.st = s.pkg.st := by
  unfold State.beginSupplyPull
  split <;> simp
@[simp] theorem State.beginSupplyPull_pwrGood (s : State) : s.beginSupplyPull.pkg.pwrGood = s.pkg.pwrGood := by
  unfold State.beginSupplyPull
  split <;> simp
@[simp] theorem State.beginSupplyPull_supplyPull (s : State) : s.beginSupplyPull.pwr.supplyPull = true := by
  unfold State.beginSupplyPull
  split
  · assumption
  · simp

/-- Settles O13: COOL_OK low takes the stop, PWR_GOOD low begins a supply pull where the hub runs. -/
theorem pinsFall : Obligations.PinsFall := by
  refine ⟨fun s hc hr hk => ⟨coolOkFall s, rfl, coolOkFall_stopped hc hr hk⟩, fun s hp => ⟨pwrGoodFall s, rfl, ?_⟩⟩
  unfold pwrGoodFall
  rw [if_neg (by simp [hp])]
  dsimp only
  split
  · next hr => exact ⟨by simp, by simp, fun _ => by simp, fun hh => by simp [hh, PkgState.hubRuns] at hr⟩
  · next hr => exact ⟨rfl, rfl, fun h => absurd h hr, fun _ => rfl⟩

end Sys2Proof.Machine

/-! PROOF. Two statements about states of every form that some form refutes: a merge map with a key twice (O15), and FORMATION_LEAD beyond
its range, which makes the entry to SERVING form a course at once (O17). -/

namespace Sys2Proof.Machine

/-- DRAINING with nothing open, and a merge map that lists stack 0 twice: a read of it finds the empty list, the second entry stays. -/
def shadowedMerge : State :=
  { State.reset with pkg := { st := .draining }, mem := { merge := [(0, []), (0, [{}])] } }

theorem shadowedMerge_entries (n : Nat) : shadowedMerge.mem.entries n = [] := by
  simp only [MemUnit.entries, shadowedMerge, SMap.get]
  split <;> rfl

/-- Refutes O15: every entry that a read of the merge map finds is written, the shadowed one is not, and DRAIN_COMPLETE waits for it. -/
theorem not_alignAndDrainEnd : ¬ Obligations.AlignAndDrainEnd := by
  rintro ⟨-, -, h⟩
  obtain ⟨t, ht, hst, -⟩ := h shadowedMerge ⟨rfl, rfl⟩ rfl rfl rfl rfl (by decide) (by decide)
    (fun n e he => by rw [shadowedMerge_entries] at he; cases he)
  cases ht
  exact absurd hst (by decide +kernel)

/-- READY with a LIVE copy and SERVING asked for. FORMATION_LEAD 100 lies beyond CLOSE_LEAD, hod 0 is enabled, and its first record lies
in a WEIGHTS word of no copy that is stored poisoned. -/
def longFormationLead : State :=
  { State.reset with
    pkg := { st := .ready, request := some .serving }
    wts := { k0 := { st := .live } }
    mem := { chk := [(0, poisonXor)] }
    dict := { nums := [(O.formationLead.key, 100), ((O.hodEnable 0).key, 1), ((O.region 0).key, 196608 * 2 ^ 18)] } }

/-- Refutes O17: the stream that SERVING opens is formed at once, the sampling of hod 0 finds its word unrecoverable, the package's own
shard is lost (13 R448), and the package is in DRAINING. -/
theorem not_stateRequests : ¬ Obligations.StateRequests := by
  rintro ⟨-, -, -, -, h⟩
  obtain ⟨hst, -⟩ := h longFormationLead .serving rfl rfl rfl (fun _ => rfl) (fun e => by cases e)
  exact absurd hst (by decide +kernel)

end Sys2Proof.Machine

/-! PROOF. The dictionary: a write and its RESULT (16 R525 to R527, R553), DICT_DEFAULTS (16 R531), and the writes of the flash die
(17 R556 to R559; 16 R530). -/

namespace Sys2Proof.Machine

/-! ### RESULT -/

theorem State.keystoneFault_changes (s : State) (key : Nat) : changesOnly [.fcu, .errN, .notify, .out] s (s.keystoneFault key) := by
  unfold State.keystoneFault
  exact changesOnly.ite (State.raise_changes ..) (changesOnly.refl ..)

/-- The server's own fields stay where only the fault collector, ERR_N, the occasions for NOTIFY and the outputs change. -/
theorem changesOnly.results {l : List Piece} {s t : State} (h : changesOnly l s t) (hl : Piece.server ∉ l := by decide) :
    t.dict.results = s.dict.results := by
  have k := h.2 .server hl
  simp only [samePiece] at k
  rw [k]

theorem changesOnly.serverState {l : List Piece} {s t : State} (h : changesOnly l s t) (hl : Piece.server ∉ l := by decide) :
    t.dict.server = s.dict.server := by
  have k := h.2 .server hl
  simp only [samePiece] at k
  rw [k]

/-- RESULT of an object that can be written, in a state whose server runs or where the management domain holds it (16 R553). -/
theorem State.resultOf_noteResult {s : State} {key : Nat} {r : ObjRow} (hr : objRow key = some r) (h1 : r.acc ≠ .ro) (h2 : r.acc ≠ .const)
    (hs : s.dict.server ≠ .stopped ∨ mgmtObject key = true) (code : Nat) :
    resultOf (s.noteResult key code) key = (code, ((resultOf s key).2 + 1) % 65536) := by
  have hn : s.noteResult key code = s.recordResult key code := if_neg (by rcases hs with h | h <;> simp [h])
  rw [hn]
  simp only [State.recordResult, hr, h1, h2, or_self, if_false, resultOf]
  exact SMap.get_set_same ..

theorem State.noteWritten_changes (s : State) (key : Nat) : changesOnly [.mir] s (s.noteWritten key) :=
  changesOnly.ite (State.mir_changes ..) (changesOnly.refl ..)

/-- A refused write: KEYSTONE_WRITE where LOCK calls for it, then RESULT. -/
theorem State.applyWrite_refused {s : State} {p : Path} {key typ : Nat} {v : ObjVal} (h : s.writeError p key typ v ≠ Err.ok) :
    (s.applyWrite p key typ v).2 =
      (if s.writeError p key typ v = Err.keystone then s.keystoneFault key else s).noteResult key (s.writeError p key typ v) := by
  rw [State.applyWrite, if_pos h]

/-- A refused write touches RESULT and, for KEYSTONE, what a fault raised touches. -/
theorem State.applyWrite_refused_changes {s : State} {p : Path} {key typ : Nat} {v : ObjVal} (h : s.writeError p key typ v ≠ Err.ok) :
    changesOnly [.server, .fcu, .errN, .notify, .out] s (s.applyWrite p key typ v).2 := by
  rw [State.applyWrite_refused h]
  refine changesOnly.then ?_ (State.noteResult_changes ..)
  exact changesOnly.ite (State.keystoneFault_changes ..).within (changesOnly.refl ..)

/-- A write that passes, to a number that no rule owns: its value is stored. -/
theorem State.applyWrite_plain {s : State} {p : Path} {key typ n : Nat} (h : s.writeError p key typ (.num n) = Err.ok)
    (h0 : s.ownNumeric key n = none) (h1 : s.ownIndexed key n = none) :
    (s.applyWrite p key typ (.num n)).2 = ((s.storeNum key n).noteWritten key).noteResult key Err.ok := by
  rw [State.applyWrite, if_neg (Classical.not_not.2 h), State.ownWrite, h0, h1]
  rfl

/-- Settles O16: the refused write by its frame, the plain one by what it stores; RESULT by `State.resultOf_noteResult`. -/
theorem objectWriteResult : Obligations.ObjectWriteResult := by
  intro s p key typ n r hr h1 h2 hs
  refine ⟨(s.applyWrite p key typ.toNat (.num n)).2, rfl, fun he => ⟨?_, ?_⟩, fun he h0 hi hk => ?_⟩
  · have hc : changesOnly [.fcu, .errN, .notify, .out] s
        (if s.writeError p key typ.toNat (.num n) = Err.keystone then s.keystoneFault key else s) :=
      changesOnly.ite (State.keystoneFault_changes ..) (changesOnly.refl ..)
    rw [State.applyWrite_refused he, State.resultOf_noteResult hr h1 h2 (by rwa [hc.serverState]), resultOf, hc.results]
    rfl
  · exact (State.applyWrite_refused_changes he).within
  · have hst : changesOnly [.objects] s (s.storeNum key n) := State.setNum_changes _ _ _ hk
    have hw := State.noteWritten_changes (s.storeNum key n) key
    have hres : ((s.storeNum key n).noteWritten key).dict.results = s.dict.results := hw.results.trans rfl
    have hsv : ((s.storeNum key n).noteWritten key).dict.server = s.dict.server := hw.serverState.trans rfl
    rw [State.applyWrite_plain he h0 hi]
    refine ⟨?_, ?_, ?_, ?_⟩
    · rw [State.resultOf_noteResult hr h1 h2 (by rwa [hsv]), resultOf, hres]
      rfl
    · have hnum : ((s.storeNum key n).noteWritten key).num ⟨key, dfltOf key⟩ = (s.storeNum key n).num ⟨key, dfltOf key⟩ := by
        unfold State.noteWritten
        split <;> rfl
      rw [State.num_noteResult, hnum]
      exact State.num_setNum_same ..
    · refine (State.setNum_objectsBut s ⟨key, dfltOf key⟩ n (List.mem_singleton.2 rfl)).trans ?_
      exact (hw.objectsBut _).trans ((State.noteResult_changes ..).objectsBut _)
    · exact (hst.within.then hw).then (State.noteResult_changes ..)

/-! ### DICT_DEFAULTS -/

/-- Waking quarters is asked of the power manager alone. -/
theorem State.askWakes_frame (s : State) (qs : List (Fin 4)) : ∃ w, s.askWakes qs = { s with pwr := w } := by
  unfold State.askWakes
  induction qs generalizing s with
  | nil => exact ⟨_, rfl⟩
  | cons q qs ih =>
    rw [List.foldl_cons]
    split
    · obtain ⟨w, e⟩ := ih { s with pwr := { s.pwr with wakeAsked := s.pwr.wakeAsked ++ [q] } }
      exact ⟨w, e⟩
    · exact ih s

/-- A port enabled anew: nothing but the links, their events and PORT_ENABLE. -/
theorem State.portEnableWrite_one (s : State) (p : Nat) :
    ∃ l i o, (s.portEnableWrite p 1).2 = { s.setNum (O.portPortEnable p) 1 with lnk := l, icx := i, out := o } := by
  rw [State.portEnableWrite, if_neg (by decide)]
  dsimp only
  split
  · exact State.putPort_frame ..
  · exact ⟨_, _, _, rfl⟩

theorem isSetting_portPortEnable : ∀ p ∈ List.range 19, isSetting (O.portPortEnable p).key = true := by decide +kernel

/-- The settings of t have returned to their defaults; its other objects, the security engine and the package state are those of s. -/
structure Defaulted (s t : State) : Prop where
  num : ∀ o : Obj, t.num o = if isSetting o.key then o.dflt else s.num o
  blob : ∀ o : Obj, t.blob o = if isSetting o.key then [] else s.blob o
  sec : t.sec = s.sec
  st : t.pkg.st = s.pkg.st

theorem State.dropObjects_defaulted (s : State) : Defaulted s (s.dropObjects isSetting) := by
  have hif : ∀ {β : Type} (b : Bool) (x y : β), (if (!b) = true then x else y) = if b = true then y else x := fun b _ _ => by cases b <;> rfl
  refine ⟨fun o => ?_, fun o => ?_, rfl, rfl⟩
  · exact (SMap.get_filter o.dflt s.dict.nums (fun k => !isSetting k) o.key).trans (hif ..)
  · exact (SMap.get_filter [] s.dict.blobs (fun k => !isSetting k) o.key).trans (hif ..)

/-- It stays so through what leaves the stored objects, the security engine and the package state. -/
theorem Defaulted.through {s t u : State} (h : Defaulted s t) (hn : u.dict.nums = t.dict.nums := by rfl)
    (hb : u.dict.blobs = t.dict.blobs := by rfl) (hs : u.sec = t.sec := by rfl) (hp : u.pkg.st = t.pkg.st := by rfl) : Defaulted s u :=
  ⟨fun o => by rw [State.num, hn]; exact h.num o, fun o => by rw [State.blob, hb]; exact h.blob o, hs.trans h.sec, hp.trans h.st⟩

/-- PORT_ENABLE set to its default, 1. -/
theorem Defaulted.portEnable {s t : State} (h : Defaulted s t) {p : Nat} (hp : p ∈ List.range 19) :
    Defaulted s (t.setNum (O.portPortEnable p) 1) := by
  refine ⟨fun o => ?_, h.blob, h.sec, h.st⟩
  have e : (t.setNum (O.portPortEnable p) 1).dict.nums = SMap.del t.dict.nums (O.portPortEnable p).key := by
    simp [State.setNum, SMap.set, O.portPortEnable]
  rw [State.num, e]
  by_cases hk : o.key = (O.portPortEnable p).key
  · rw [hk, SMap.get_del_same, if_pos (isSetting_portPortEnable p hp)]
  · rw [SMap.get_del_other _ _ _ _ hk]
    exact h.num o

theorem Defaulted.portsEnabled {s : State} : ∀ (ps : List Nat), (∀ p ∈ ps, p ∈ List.range 19) → ∀ {t : State}, Defaulted s t →
    Defaulted s (ps.foldl (fun u p => (u.portEnableWrite p 1).2) t)
  | [], _, _, h => h
  | p :: ps, hps, t, h => by
    obtain ⟨l, i, o, e⟩ := State.portEnableWrite_one t p
    rw [List.foldl_cons, e]
    exact Defaulted.portsEnabled ps (fun q hq => hps q (List.mem_cons_of_mem _ hq)) (h.portEnable (hps p List.mem_cons_self)).through

/-- What DICT_DEFAULTS in DRAINED leaves. -/
theorem State.defaultsWrite_drained {s : State} (h : s.pkg.st = .drained) :
    ∃ t, s.defaultsWrite = (Err.ok, t) ∧ Defaulted s t := by
  rw [State.defaultsWrite, if_neg (Classical.not_not.2 h)]
  refine ⟨_, rfl, Defaulted.through (t := State.askWakes _ _) ?_⟩
  obtain ⟨w, e⟩ := State.askWakes_frame _ _
  rw [e]
  refine (Defaulted.portsEnabled _ (fun p hm => (List.mem_filter.1 hm).1) ?_).through
  split
  · exact (State.dropObjects_defaulted s).through
  · exact State.dropObjects_defaulted s

theorem execDictDefaults_passes {s : State} {p : Path} {v : Byte} (h : passes s p O.dictDefaults (.num v.toNat)) :
    exec (.dictDefaults p v) s = .next (s.defaultsWrite.2.noteResult O.dictDefaults.key s.defaultsWrite.1) := by
  have hm : mirroredKey O.dictDefaults.key = false := by decide +kernel
  rw [← State.writeNum_owned h (State.ownNumeric_dictDefaults ..) hm]
  rfl

/-- Settles O20: in DRAINED every setting is dropped from the store; elsewhere DEFAULTS is refused. -/
theorem dictDefaults : Obligations.DictDefaults := by
  refine ⟨fun s p v h hd => ?_, fun s p v h hd => ?_⟩
  · obtain ⟨t, ht, hdef⟩ := State.defaultsWrite_drained hd
    have hn : Defaulted s (t.noteResult O.dictDefaults.key Err.ok) := by
      rw [State.noteResult_results]
      exact hdef.through
    refine ⟨_, by rw [execDictDefaults_passes h, ht], fun o ho => ?_, fun o ho => ?_, hn.sec, hn.st.trans hd⟩
    · exact ⟨(hn.num o).trans (if_pos ho), (hn.blob o).trans (if_pos ho)⟩
    · exact ⟨(hn.num o).trans (by simp [ho]), (hn.blob o).trans (by simp [ho])⟩
  · rw [execDictDefaults_passes h, State.defaultsWrite, if_pos hd]

end Sys2Proof.Machine

/-! PROOF. The flash die: firmware, keystone and calibration writes (17 R548, R553, R571) and the image of the dictionary (16 R530). -/

namespace Sys2Proof.Machine

theorem State.imaging_changes (s : State) (x : Option (SMap Nat × SMap (List Byte))) :
    changesOnly [.server] s { s with dict := { s.dict with imaging := x } } :=
  ⟨rfl, fun p hp => by cases p <;> simp_all [samePiece, State.num, State.blob]⟩

theorem State.fwUpdate_taken {s : State} {n : Nat} (h0 : s.pkg.st.noFlash = false) (h1 : s.flashBusy = false) :
    s.fwUpdate n =
      if s.imageFault (s.peek (s.num O.fwStageBase) n).1 ≠ 0 then
        (Err.ok, (s.setNum O.fwUpdateState 4).setNum O.fwUpdateStatus (s.imageFault (s.peek (s.num O.fwStageBase) n).1))
      else (Err.ok, ({ s with sec := { s.sec with job := some (.firmware (s.peek (s.num O.fwStageBase) n).1) } }.setNum
        O.fwUpdateState 2).setNum O.fwUpdateStatus 0) := by
  rw [State.fwUpdate, if_neg (by simp [h0]), if_neg (by simp [h1])]

/-- The two objects of a firmware update, with the outcome recorded. -/
theorem State.fwObjects (u : State) (a b k c : Nat) :
    (((u.setNum O.fwUpdateState a).setNum O.fwUpdateStatus b).noteResult k c).num O.fwUpdateState = a ∧
      (((u.setNum O.fwUpdateState a).setNum O.fwUpdateStatus b).noteResult k c).num O.fwUpdateStatus = b ∧
      objectsBut [O.fwUpdateState.key, O.fwUpdateStatus.key] u
        (((u.setNum O.fwUpdateState a).setNum O.fwUpdateStatus b).noteResult k c) ∧
      changesOnly [.objects, .server] u (((u.setNum O.fwUpdateState a).setNum O.fwUpdateStatus b).noteResult k c) := by
  refine ⟨?_, ?_, ?_, ?_⟩
  · rw [State.num_noteResult, State.num_setNum_other _ _ _ _ (by decide), State.num_setNum_same]
  · rw [State.num_noteResult, State.num_setNum_same]
  · exact ((State.setNum_objectsBut u O.fwUpdateState a (by decide)).trans (State.setNum_objectsBut _ O.fwUpdateStatus b (by decide))).trans
      ((State.noteResult_changes ..).objectsBut _)
  · exact ((State.setNum_changes u O.fwUpdateState a (by decide)).within.then (State.setNum_changes _ O.fwUpdateStatus b (by decide))).then
      (State.noteResult_changes ..)

theorem execFwUpdate_taken {s : State} {p : Path} {v : W32} (h : passes s p O.fwUpdate (.num v.toNat)) (h0 : s.pkg.st.noFlash = false)
    (h1 : s.flashBusy = false) :
    ∃ t, exec (.fwUpdate p v) s = .next t ∧
      (s.imageFault (s.peek (s.num O.fwStageBase) v.toNat).1 = 0 →
        t.sec = { s.sec with job := some (.firmware (s.peek (s.num O.fwStageBase) v.toNat).1) } ∧ t.num O.fwUpdateState = 2) ∧
      (s.imageFault (s.peek (s.num O.fwStageBase) v.toNat).1 ≠ 0 →
        t.sec = s.sec ∧ t.num O.fwUpdateState = 4 ∧ t.num O.fwUpdateStatus = s.imageFault (s.peek (s.num O.fwStageBase) v.toNat).1) ∧
      objectsBut [O.fwUpdateState.key, O.fwUpdateStatus.key] s t ∧ changesOnly [.sec, .objects, .server] s t := by
  have hm : mirroredKey O.fwUpdate.key = false := by decide +kernel
  have he : exec (.fwUpdate p v) s = .next ((s.fwUpdate v.toNat).2.noteResult O.fwUpdate.key (s.fwUpdate v.toNat).1) := by
    rw [← State.writeNum_owned h (State.ownNumeric_fwUpdate ..) hm]
    rfl
  rw [he, State.fwUpdate_taken h0 h1]
  by_cases hf : s.imageFault (s.peek (s.num O.fwStageBase) v.toNat).1 = 0
  · rw [if_neg (Classical.not_not.2 hf)]
    obtain ⟨hst, -, ho, hc⟩ := State.fwObjects
      { s with sec := { s.sec with job := some (.firmware (s.peek (s.num O.fwStageBase) v.toNat).1) } } 2 0 O.fwUpdate.key Err.ok
    exact ⟨_, rfl, fun _ => ⟨hc.2 .sec (by decide), hst⟩, fun h => absurd hf h,
      ((State.sec_changes s _).objectsBut _).trans ho, (State.sec_changes s _).within.then hc⟩
  · rw [if_pos hf]
    obtain ⟨hst, hss, ho, hc⟩ := State.fwObjects s 4 (s.imageFault (s.peek (s.num O.fwStageBase) v.toNat).1) O.fwUpdate.key Err.ok
    exact ⟨_, rfl, fun h => absurd h hf, fun _ => ⟨hc.2 .sec (by decide), hst, hss⟩, ho, hc.within⟩

theorem execKeystonePending_taken {s : State} {p : Path} {rec : List Byte} (h : passes s p O.keystonePending (.bytes rec))
    (h0 : s.sec.ksMode ≠ 2) (h1 : s.flashBusy = false) :
    exec (.keystonePending p rec) s = .next (if s.ksPendingFault rec = 0 then
      ({ s.setNum O.keystoneStatus 0 with sec := { s.sec with job := some (.keystone rec) } }).noteResult O.keystonePending.key Err.ok
      else (s.setNum O.keystoneStatus (s.ksPendingFault rec)).noteResult O.keystonePending.key Err.range) := by
  have hm : mirroredKey O.keystonePending.key = false := by decide +kernel
  have he : exec (.keystonePending p rec) s =
      .next ((s.keystonePending rec).2.noteResult O.keystonePending.key (s.keystonePending rec).1) := by
    rw [← State.writeBlob_owned h (State.ownBytes_keystonePending ..) hm]
    rfl
  rw [he, State.keystonePending, if_neg h0, if_neg (by simp [h1])]
  by_cases hf : s.ksPendingFault rec = 0
  · simp [hf]
  · simp [hf]

theorem execCalWrite_taken {s : State} {p : Path} {set : List Byte} (h : passes s p O.calWrite (.bytes set)) (h0 : s.pkg.st = .drained)
    (h1 : s.flashBusy = false) :
    exec (.calWrite p set) s = .next (if calOk set = true then
      { s with sec := { s.sec with job := some (.calibration set) } }.noteResult O.calWrite.key Err.ok
      else s.noteResult O.calWrite.key Err.range) := by
  have hm : mirroredKey O.calWrite.key = false := by decide +kernel
  have he : exec (.calWrite p set) s = .next ((s.calWrite set).2.noteResult O.calWrite.key (s.calWrite set).1) := by
    rw [← State.writeBlob_owned h (State.ownBytes_calWrite ..) hm]
    rfl
  rw [he, State.calWrite, if_neg (Classical.not_not.2 h0), if_neg (by simp [h1])]
  by_cases hf : calOk set = true
  · simp [hf]
  · simp [hf]

theorem execDictStore_taken {s : State} {p : Path} {v : Byte} (h : passes s p O.dictStore (.num v.toNat)) (h0 : s.pkg.st.noFlash = false)
    (h1 : s.num O.storeState ≠ 1) (h2 : s.flashBusy = false) :
    exec (.dictStore p v) s =
      .next (({ s with dict := { s.dict with imaging := some s.storedValues } }.setNum O.storeState 1).noteResult O.dictStore.key Err.ok) := by
  have hm : mirroredKey O.dictStore.key = false := by decide +kernel
  have he : exec (.dictStore p v) s = .next (s.dictStoreWrite.2.noteResult O.dictStore.key s.dictStoreWrite.1) := by
    rw [← State.writeNum_owned h (State.ownNumeric_dictStore ..) hm]
    rfl
  rw [he, State.dictStoreWrite, if_neg (by simp [h0]), if_neg (by simp [h1, h2])]

/-! ### FLASH_WRITE_DONE -/

theorem flashWriteDone_firmware_good {s : State} {img : List Byte} (h : s.sec.job = some (.firmware img)) :
    ∃ t, exec (.flashWriteDone true) s = .next t ∧ t.sec.job = none ∧ t.sec.slot (!s.sec.slotB) = img ∧
      t.sec.slot s.sec.slotB = s.sec.slot s.sec.slotB ∧ t.sec.selector = (!s.sec.slotB) ∧ t.num O.fwUpdateState = 3 ∧
      changesOnly [.sec, .objects] s t := by
  refine ⟨flashWriteDone s true, rfl, ?_⟩
  simp only [flashWriteDone, h, if_true]
  refine ⟨rfl, ?_, ?_, rfl, State.num_setNum_same .., (State.sec_changes s _).within.then (State.setNum_changes _ O.fwUpdateState 3 (by decide))⟩
  · cases hb : s.sec.slotB <;> simp [SecUnit.slot, State.setNum]
  · cases hb : s.sec.slotB <;> simp [SecUnit.slot, State.setNum]

theorem flashWriteDone_firmware_bad {s : State} {img : List Byte} (h : s.sec.job = some (.firmware img)) :
    ∃ t, exec (.flashWriteDone false) s = .next t ∧ t.sec.job = none ∧ t.sec.slot s.sec.slotB = s.sec.slot s.sec.slotB ∧
      t.sec.selector = s.sec.selector ∧ t.num O.fwUpdateState = 4 ∧ changesOnly [.sec, .objects] s t := by
  refine ⟨flashWriteDone s false, rfl, ?_⟩
  simp only [flashWriteDone, h, Bool.false_eq_true, if_false]
  refine ⟨rfl, ?_, rfl, ?_, ?_⟩
  · cases hb : s.sec.slotB <;> simp [SecUnit.slot, State.setNum]
  · rw [State.num_setNum_other _ _ _ _ (by decide), State.num_setNum_same]
  · exact ((State.sec_changes s _).within.then (State.setNum_changes _ O.fwUpdateState 4 (by decide))).then
      (State.setNum_changes _ O.fwUpdateStatus 5 (by decide))

theorem flashWriteDone_calibration {s : State} {set : List Byte} (good : Bool) (h : s.sec.job = some (.calibration set)) :
    exec (.flashWriteDone good) s = .next { s with sec := { s.sec with job := none, cal := if good then set else s.sec.cal } } := by
  rw [show exec (.flashWriteDone good) s = .next (flashWriteDone s good) from rfl]
  simp only [flashWriteDone, h]

/-! ### STORE_IMAGE_DONE -/

/-- An image that is not valid, put in the place that the newest does not hold, leaves the newest one. -/
theorem SecUnit.newestImage_invalid (u : SecUnit) (x : Image) (hx : x.valid = false) :
    { u with img0 := if u.newestImage == some false then u.img0 else x, img1 := if u.newestImage == some false then x else u.img1 }.newestImage
      = u.newestImage := by
  by_cases h : u.newestImage = some false
  · have h0 : u.img0.valid = true := by
      refine Classical.byContradiction fun hc => ?_
      simp only [SecUnit.newestImage] at h
      split at h
      · simp_all
      · split at h <;> simp at h
    rw [h]
    simp [SecUnit.newestImage, hx, h0]
  · have hb : (u.newestImage == some false) = false := by simpa using h
    simp only [hb, Bool.false_eq_true, if_false]
    simp only [SecUnit.newestImage, hx, Bool.false_and, Bool.false_eq_true, if_false] at h ⊢
    rw [if_neg (c := _ && _) (fun hc => h (if_pos hc))]

theorem storeImageDone_good {s : State} {v : SMap Nat × SMap (List Byte)} (h : s.dict.imaging = some v) :
    ∃ t, exec (.storeImageDone true) s = .next t ∧ t.num O.storeState = 2 ∧ t.dict.imaging = none ∧
      t.num O.storeGeneration = s.sec.newestGeneration + 1 ∧
      { generation := s.sec.newestGeneration + 1, nums := v.1, blobs := v.2, valid := true } ∈ [t.sec.img0, t.sec.img1] ∧
      objectsBut [O.storeState.key, O.storeGeneration.key] s t ∧ changesOnly [.sec, .server, .objects] s t := by
  refine ⟨storeImageDone s true, rfl, ?_⟩
  simp only [storeImageDone, h, if_true]
  refine ⟨State.num_setNum_same .., rfl, ?_, ?_, ?_, ?_⟩
  · rw [State.num_setNum_other _ _ _ _ (by decide), State.num_setNum_same]
  · cases hb : s.sec.newestImage == some false <;> simp [State.setNum]
  · exact (objectsBut.trans (objectsBut.of_dict rfl rfl) (State.setNum_objectsBut _ O.storeGeneration _ (by decide))).trans
      (State.setNum_objectsBut _ O.storeState 2 (by decide))
  · exact (((State.imaging_changes s none).within.then (State.sec_changes _ _)).then
      (State.setNum_changes _ O.storeGeneration _ (by decide))).then (State.setNum_changes _ O.storeState 2 (by decide))

theorem storeImageDone_bad {s : State} {v : SMap Nat × SMap (List Byte)} (h : s.dict.imaging = some v) :
    ∃ t, exec (.storeImageDone false) s = .next t ∧ t.num O.storeState = 3 ∧ t.dict.imaging = none ∧
      t.sec.newestImage = s.sec.newestImage ∧ objectsBut [O.storeState.key] s t ∧ changesOnly [.sec, .server, .objects] s t := by
  refine ⟨storeImageDone s false, rfl, ?_⟩
  simp only [storeImageDone, h, Bool.false_eq_true, if_false]
  refine ⟨State.num_setNum_same .., rfl, SecUnit.newestImage_invalid s.sec _ rfl, ?_, ?_⟩
  · exact objectsBut.trans (objectsBut.of_dict rfl rfl) (State.setNum_objectsBut _ O.storeState 3 (by decide))
  · exact ((State.imaging_changes s none).within.then (State.sec_changes _ _)).then (State.setNum_changes _ O.storeState 3 (by decide))

/-- Settles O19: each write by the branch that its premises leave, each end of a flash write by the kind of its job. -/
theorem flashWrites : Obligations.FlashWrites :=
  ⟨fun _ _ _ h h0 h1 => execFwUpdate_taken h h0 h1, fun _ _ _ h h0 h1 => execKeystonePending_taken h h0 h1,
    fun _ _ _ h h0 h1 => execCalWrite_taken h h0 h1, fun _ _ _ h h0 h1 h2 => execDictStore_taken h h0 h1 h2,
    fun _ _ h => ⟨flashWriteDone_firmware_good h, flashWriteDone_firmware_bad h⟩,
    fun _ _ good h => flashWriteDone_calibration good h, fun _ _ h => ⟨storeImageDone_good h, storeImageDone_bad h⟩⟩

end Sys2Proof.Machine

/-! PROOF. A statement about states of every form that some form refutes: a session table off the word grid, whose write opens a merge entry
where every entry waits for one poisoned word (O22). -/

namespace Sys2Proof.Machine

/-- SERVING with one session of tenant 0. The session table begins at byte 1, so a session's descriptor begins inside a word; the 64 merge
entries of stack 0 all name word 64, a WEIGHTS word of no copy that is stored poisoned. -/
def offsetSessionTable : State :=
  { State.reset with
    pkg := { st := .serving }
    ses := { table := [(0, { st := .active })] }
    mem := { chk := [(64, poisonXor)], merge := [(0, List.replicate 64 { word := 64 })] }
    dict := { server := .running, nums := [(O.sessionTableBase.key, 1), ((O.region 0).key, 196608 * 2 ^ 18)] } }

/-- Refutes O22: ending the session of tenant 0 writes its descriptor, the partial word needs a merge entry, the entry flushed for it meets
the unrecoverable word, the package's own shard is lost (13 R448), and the package is in DRAINING. -/
theorem not_hodsTenantsAndEvents : ¬ Obligations.HodsTenantsAndEvents := by
  rintro ⟨h, -⟩
  obtain ⟨-, -, -, -, ⟨t, ht, hst, -⟩, -⟩ := h offsetSessionTable (.control 0) 0 0 []
  rw [← (Host.Outcome.next.inj ht : offsetSessionTable.writeNum (.control 0) (O.tenActive 0) 0 = t)] at hst
  exact absurd hst (by decide +kernel)

end Sys2Proof.Machine

/-! PROOF. The course clock: time words sent and received, lock, holdover, CCLK and the master roles (02 R31 to R54). -/

namespace Sys2Proof.Machine

/-- A command's next state, by another name. -/
theorem exec_next_of_eq {i : Instr} {s t u : State} (h : exec i s = .next t) (e : t = u) : exec i s = .next u := h.trans (congrArg _ e)

/-! ### Ports and modes -/

/-- A control word queued on each port of a list without repetitions. -/
theorem State.port_sendCtls (ct : Nat) (w : BitVec 96) (q : Nat) : ∀ (ps : List Nat), ps.Nodup → ∀ s : State,
    (ps.foldl (fun t p => t.sendCtl p ct w) s).port q =
      if q ∈ ps then { s.port q with words := (s.port q).words ++ [ctrlWord ct w] } else s.port q
  | [], _, s => rfl
  | p :: ps, hnd, s => by
    obtain ⟨hp, hnd'⟩ := List.nodup_cons.1 hnd
    rw [List.foldl_cons, State.port_sendCtls ct w q ps hnd']
    by_cases hq : q = p
    · subst hq
      rw [if_neg hp, if_pos List.mem_cons_self]
      exact State.port_setPort_same ..
    · rw [show (s.sendCtl p ct w).port q = s.port q from State.port_setPort_other _ _ _ _ hq]
      simp [hq]

theorem State.sendCtls_changes (ct : Nat) (w : BitVec 96) (ps : List Nat) (s : State) :
    changesOnly [.lnk] s (ps.foldl (fun t p => t.sendCtl p ct w) s) :=
  changesOnly.foldl (fun _ _ => State.setPort_changes ..) ps (changesOnly.refl ..)

theorem State.setClockMode_changes (s : State) (m : ClockState) : changesOnly [.clk, .icx, .out] s (s.setClockMode m) := by
  unfold State.setClockMode
  refine changesOnly.ite (changesOnly.refl ..) ?_
  have h := (State.clk_changes s { s.clk with mode := m, held := s.clk.held || m == ClockState.locked }).within
    (l := [.clk, .icx, .out])
  have h' := h.then (State.icxEvent_changes _ 0x060)
  exact changesOnly.ite (h'.then (State.icxEvent_changes _ 0x062)) h'

/-- The mode of the clock after a change; a package locked once holds a count. -/
theorem State.setClockMode_clk (s : State) (m : ClockState) (h : s.clk.mode ≠ m) :
    (s.setClockMode m).clk = { s.clk with mode := m, held := s.clk.held || m == .locked } := by
  simp only [State.setClockMode, if_neg h]
  split <;> simp

theorem State.setClockMode_mode (s : State) (m : ClockState) : (s.setClockMode m).clk.mode = m := by
  by_cases h : s.clk.mode = m
  · rw [State.setClockMode, if_pos h, h]
  · rw [State.setClockMode_clk s m h]

/-- The rest of the clock's record stays through a change of the mode. -/
theorem State.setClockMode_rest (s : State) (m : ClockState) :
    (s.setClockMode m).clk = { s.clk with mode := m, held := (s.setClockMode m).clk.held } := by
  by_cases h : s.clk.mode = m
  · rw [State.setClockMode, if_pos h, ← h]
  · rw [State.setClockMode_clk s m h]

/-! ### TIME_WORD_SEND -/

theorem timeWordSend_sends {s : State} (hr : s.pkg.st.hubRuns = true) (ht : s.clk.tick.toNat % 16 = 0)
    (ho : (s.clk.originating = true ∧ s.dueEvent (fun e => e == .handoff) = none) ∨
      (s.clk.originating = false ∧ (s.clk.mode = .holdover ∨ s.clk.mode = .locked))) :
    ∃ t, exec .timeWordSend s = .next t ∧ changesOnly [.lnk] s t ∧
      ∀ q, t.port q = (if q < 19 ∧ (s.port q).st = .active ∧ (s.clk.originating = true ∨ s.clk.parent.map (·.val) ≠ some q)
        then { s.port q with words := (s.port q).words ++ [ctrlWord ctTime s.ownTimeWord.payload] } else s.port q) := by
  have hs : s.sendsTime = true := by
    rcases ho with ⟨h, hd⟩ | ⟨h, hm⟩
    · simp [State.sendsTime, h, hd]
    · rcases hm with hm | hm <;> simp [State.sendsTime, h, hm]
  have he : timeWordSend s = (s.upPorts.filter (fun p => s.clk.originating || s.clk.parent.map (·.val) != some p)).foldl
      (fun t p => t.sendCtl p ctTime s.ownTimeWord.payload) s := by
    rw [timeWordSend, if_pos (by simp [hr, ht, hs])]
  refine ⟨timeWordSend s, rfl, ?_, fun q => ?_⟩ <;> rw [he]
  · exact State.sendCtls_changes ..
  · have hnd : (s.upPorts.filter (fun p => s.clk.originating || s.clk.parent.map (·.val) != some p)).Nodup :=
      (List.nodup_range.filter _).filter _
    rw [State.port_sendCtls _ _ _ _ hnd]
    refine ite_congr (propext ?_) (fun _ => rfl) (fun _ => rfl)
    simp only [State.upPorts, State.portUp, List.mem_filter, List.mem_range, beq_iff_eq, Bool.or_eq_true, bne_iff_ne]
    rw [and_assoc]

theorem timeWordSend_elsewhere {s : State} (h : s.clk.tick.toNat % 16 ≠ 0) : timeWordSend s = s := by
  simp [timeWordSend, h]

/-! ### TIME_WORD -/

/-- The word noted when one comes in. -/
def seenWord (s : State) (q : Port) (w : BitVec 96) : WordSeen :=
  { port := q, heard := s.clk.tick, hops := (readTime w).hops, hold := (readTime w).hold }

/-- A state in which the first word has been noted and its port chosen as time parent. -/
def State.withParent (s : State) (q : Port) (w : BitVec 96) : State :=
  { s with clk := { s.clk with
      master := (readTime w).master, lastWord := some s.clk.tick, words := [seenWord s q w], parent := some q, hops := (readTime w).hops + 1 } }

/-- A single word heard that is eligible makes its port the parent. -/
theorem State.chooseParent_one {s : State} {w : WordSeen} (hw : s.clk.words = [w]) (he : s.eligible w = true) :
    s.chooseParent = { s with clk := { s.clk with parent := some w.port, hops := w.hops + 1 } } := by
  simp [State.chooseParent, hw, he, sortBy, insertBy]

theorem State.chooseParent_none {s : State} {w : WordSeen} (hw : s.clk.words = [w]) (he : s.eligible w = false) :
    s.chooseParent = s := by
  simp [State.chooseParent, hw, he]

theorem epochLater_self (e : Byte) : epochLater e e = false := by simp [epochLater]

/-- A good word of the current epoch, the first one heard: its port is the parent and the counts are compared. -/
theorem timeWord_first {s : State} {q : Port} {w : BitVec 96} {ph : BitVec 10} (hr : s.pkg.st.hubRuns = true) (hq : q.val < 19)
    (ha : (s.port q.val).st = .active) (h0 : (readTime w).reserved = 0) (h1 : (readTime w).hops ≠ 31)
    (h2 : (readTime w).tick.toNat % 16 = 0) (h3 : (readTime w).epoch = s.clk.epoch) (h4 : s.clk.originating = false)
    (h5 : s.clk.words = []) (h6 : 0 < s.num O.parentTimeout) :
    ∃ ws l, timeWord s q w ph =
      { (s.withParent q w).compareCount q.val (readTime w) ph with clk :=
        { ((s.withParent q w).compareCount q.val (readTime w) ph).clk with words := ws, lastWord := l } } := by
  have hup : s.portUp q.val = true := by simp [State.portUp, ha]
  have h19 : (q.val == 19) = false := by simpa using Nat.ne_of_lt hq
  obtain ⟨u, hu⟩ : ∃ u : State, u = { s with clk := { s.clk with
    master := (readTime w).master, lastWord := some s.clk.tick, words := [seenWord s q w] } } := ⟨_, rfl⟩
  have hel : u.eligible (seenWord s q w) = true := by
    have e1 : u.num O.parentTimeout = s.num O.parentTimeout := by rw [hu]; rfl
    have e2 : u.portUp q.val = true := by rw [hu]; exact hup
    have e3 : Tick.since u.clk.tick s.clk.tick = 0 := by rw [hu]; simp [Tick.since]
    simp [State.eligible, seenWord, e1, e2, e3, h6]
  have hc : u.chooseParent = s.withParent q w := by
    rw [State.chooseParent_one (w := seenWord s q w) (by rw [hu]) hel, hu]
    rfl
  have hst : timeWord s q w ph = (if u.chooseParent.clk.parent = some q then
      let t := u.chooseParent.compareCount q.val (readTime w) ph
      { t with clk := { t.clk with
        words := t.clk.words.map (fun (x : WordSeen) => if x.port == q then { x with heard := t.clk.tick } else x), lastWord := some t.clk.tick } }
    else u.chooseParent) := by
    rw [hu]
    simp only [timeWord, hr, hup, h19, h0, h2, h3, h4, h5, epochLater_self, Bool.not_true, Bool.or_self, Bool.false_eq_true, if_false,
      bne_self_eq_false, beq_eq_false_iff_ne.2 h1, List.filter_nil, List.nil_append]
    rfl
  rw [hst, hc, if_pos (show (s.withParent q w).clk.parent = some q from rfl)]
  exact ⟨_, _, rfl⟩

/-- A word that a check of the word refuses is counted and nothing else. -/
theorem timeWord_discarded {s : State} {q : Port} {w : BitVec 96} {ph : BitVec 10} (hr : s.pkg.st.hubRuns = true) (hq : q.val < 19)
    (ha : (s.port q.val).st = .active)
    (h : (readTime w).reserved ≠ 0 ∨ (readTime w).hops = 31 ∨ (readTime w).tick.toNat % 16 ≠ 0 ∨
      ((readTime w).epoch ≠ s.clk.epoch ∧ epochLater (readTime w).epoch s.clk.epoch = false)) :
    timeWord s q w ph = s.setNum (O.portCtrlDiscarded q.val) ((s.num (O.portCtrlDiscarded q.val) + 1) % 2 ^ 32) := by
  have hup : s.portUp q.val = true := by simp [State.portUp, ha]
  have h19 : (q.val == 19) = false := by simpa using Nat.ne_of_lt hq
  have hc : ((readTime w).reserved != 0 || (readTime w).hops == 31 || (readTime w).tick.toNat % 16 != 0 ||
      ((readTime w).epoch != s.clk.epoch && !epochLater (readTime w).epoch s.clk.epoch)) = true := by
    rcases h with h | h | h | ⟨h, h'⟩ <;> simp [*]
  rw [timeWord, if_neg (by simp [hr, hup, h19]), if_pos hc]
  rfl

/-- The first word gives the count, corrected by the port's delay. -/
theorem timeWord_count {s : State} {q : Port} {w : BitVec 96} {ph : BitVec 10} (hr : s.pkg.st.hubRuns = true) (hq : q.val < 19)
    (ha : (s.port q.val).st = .active) (h0 : (readTime w).reserved = 0) (h1 : (readTime w).hops ≠ 31)
    (h2 : (readTime w).tick.toNat % 16 = 0) (h3 : (readTime w).epoch = s.clk.epoch) (h4 : s.clk.originating = false)
    (h5 : s.clk.words = []) (hc : s.clk.counting = false) (h6 : 0 < s.num O.parentTimeout) :
    ∃ t, exec (.timeWord q w ph) s = .next t ∧ t.clk.parent = some q ∧ t.clk.hops = (readTime w).hops + 1 ∧ t.clk.counting = true ∧
      t.clk.master = (readTime w).master ∧
      t.clk.tick = BitVec.ofNat 48 (((readTime w).tick.toNat * 1024 + (readTime w).phase + s.num (O.portDelay q.val)) / 1024) ∧
      changesOnly [.clk] s t := by
  obtain ⟨ws, l, he⟩ := timeWord_first (ph := ph) hr hq ha h0 h1 h2 h3 h4 h5 h6
  have hcc : (s.withParent q w).compareCount q.val (readTime w) ph =
      { s.withParent q w with clk := { (s.withParent q w).clk with
        counting := true, phaseError := 0, lockRun := 0
        tick := BitVec.ofNat 48 (((readTime w).tick.toNat * 1024 + (readTime w).phase + s.num (O.portDelay q.val)) / 1024) } } := by
    rw [State.compareCount, if_pos (by simp [State.withParent, hc])]
    rfl
  rw [hcc] at he
  exact ⟨_, exec_next_of_eq rfl he, rfl, rfl, rfl, rfl, rfl, State.clk_changes s _⟩

/-! ### A count 16 ticks off -/

theorem State.discardPassed_st (s : State) (a b : Tick) : (s.discardPassed a b).pkg = s.pkg := by
  unfold State.discardPassed
  split
  · rfl
  · dsimp only
    split <;> simp [State.bump]

theorem State.setClockMode_pkg (s : State) (m : ClockState) : (s.setClockMode m).pkg = s.pkg := by
  unfold State.setClockMode
  split
  · rfl
  · dsimp only
    split <;> simp

/-- The count stepped: the word's count, UNLOCKED, in the same package state. -/
theorem State.stepCount_clk (s : State) (t : Tick) :
    (s.stepCount t).clk.tick = t ∧ (s.stepCount t).clk.mode = .unlocked ∧ (s.stepCount t).clk.lockRun = 0 ∧
      (s.stepCount t).pkg = s.pkg := by
  unfold State.stepCount
  refine ⟨?_, State.setClockMode_mode .., ?_, ?_⟩
  · rw [State.setClockMode_rest]
  · rw [State.setClockMode_rest]
  · rw [State.setClockMode_pkg]
    exact State.discardPassed_st ..

theorem State.enterHoldover_own (s : State) :
    (s.enterHoldover true).clk.mode = .holdover ∧ (s.enterHoldover true).clk.tick = s.clk.tick ∧ (s.enterHoldover true).pkg = s.pkg := by
  rw [State.enterHoldover]
  split
  · rename_i h
    exact ⟨h, rfl, rfl⟩
  · simp only [if_true]
    refine ⟨State.setClockMode_mode .., ?_, ?_⟩
    · rw [State.setClockMode_rest]
    · rw [State.setClockMode_pkg]

/-- Entry to DRAINING in a quiet tick: the clock, the courses and the sessions are as before. -/
theorem State.transition_draining {s : State} (hc : calm s) (h : s.pkg.st = .serving ∨ s.pkg.st = .covering) :
    (s.transition .draining).pkg.st = .draining ∧ (s.transition .draining).clk = s.clk ∧ (s.transition .draining).crs = s.crs ∧
      (s.transition .draining).ses = s.ses := by
  have hedge : edge s.pkg.st .draining = true := by rcases h with h | h <;> rw [h] <;> rfl
  rw [State.transition_calm s .draining hedge hc.1 hc.2]
  simp [State.enter]

/-- What the comparison does with a difference of 16 ticks or more, in a package that has not been stepped off. -/
theorem State.compareCount_far {s : State} {p : Nat} {w : TimeWord} {ph : BitVec 10} (hc : s.clk.counting = true) (hs : s.clk.selfHold = false)
    (hd : (toSigned 58 (s.clk.tick.toNat * 1024 + ph.toNat + (2 ^ 58 - s.correctedCount p w % 2 ^ 58))).natAbs ≥ 16 * 1024) :
    ((s.pkg.st = .boot ∨ s.pkg.st = .align ∨ s.pkg.st = .ready ∨ s.pkg.st = .drained) →
      (s.compareCount p w ph).clk.tick = BitVec.ofNat 48 (s.correctedCount p w / 1024) ∧ (s.compareCount p w ph).clk.mode = .unlocked ∧
        (s.compareCount p w ph).clk.lockRun = 0 ∧ (s.compareCount p w ph).pkg.st = s.pkg.st) ∧
    ((s.pkg.st = .serving ∨ s.pkg.st = .covering) → calm s →
      (s.compareCount p w ph).pkg.st = .draining ∧ (s.compareCount p w ph).clk.tick = s.clk.tick ∧
        (s.compareCount p w ph).clk.mode = .holdover) := by
  obtain ⟨u, hu⟩ : ∃ u : State, u = ({ s with clk := { s.clk with
    ahead := s.clk.tick - BitVec.ofNat 48 (s.correctedCount p w / 1024) } }).raise srcClock 0 0x10 1 0 := ⟨_, rfl⟩
  have hst : u.pkg.st = s.pkg.st := by rw [hu, State.raise_pkg_st]
  have htk : u.clk.tick = s.clk.tick := by rw [hu, State.raise_clk]
  have he : s.compareCount p w ph = match u.pkg.st with
      | .serving | .covering => (u.transition .draining).enterHoldover true
      | .draining => u.enterHoldover true
      | _ => u.stepCount (BitVec.ofNat 48 (s.correctedCount p w / 1024)) := by
    rw [State.compareCount, if_neg (by simp [hc]), if_pos hd, hu]
    exact if_neg (by simp [hs])
  refine ⟨fun h => ?_, fun h hcalm => ?_⟩
  · have he' : s.compareCount p w ph = u.stepCount (BitVec.ofNat 48 (s.correctedCount p w / 1024)) := by
      rw [he]
      rcases h with h | h | h | h <;> rw [hst, h]
    obtain ⟨h1, h2, h3, h4⟩ := State.stepCount_clk u (BitVec.ofNat 48 (s.correctedCount p w / 1024))
    rw [he']
    exact ⟨h1, h2, h3, by rw [h4, hst]⟩
  · have he' : s.compareCount p w ph = (u.transition .draining).enterHoldover true := by
      rw [he]
      rcases h with h | h <;> rw [hst, h]
    have hcu : calm u := by
      rw [hu]
      exact ⟨(State.raise_pkg_taken ..).trans hcalm.1, (State.raise_pkg_request ..).trans hcalm.2⟩
    obtain ⟨h1, h2, -, -⟩ := State.transition_draining hcu (by rwa [hst])
    obtain ⟨h4, h5, h6⟩ := State.enterHoldover_own (u.transition .draining)
    rw [he']
    exact ⟨by rw [h6, h1], by rw [h5, h2, htk], h4⟩

/-- Settles O27: the word makes its port the parent, and the comparison finds the count 16 ticks off. -/
theorem countStep : Obligations.CountStep := by
  intro s q w ph theirs hr hq ha h0 h1 h2 h3 h4 h5 hc hs h6 hth hd
  obtain ⟨ws, l, he⟩ := timeWord_first (ph := ph) hr hq ha h0 h1 h2 h3 h4 h5 h6
  have hcc : (s.withParent q w).correctedCount q.val (readTime w) = theirs := hth ▸ rfl
  obtain ⟨k1, k2⟩ := State.compareCount_far (s := s.withParent q w) (p := q.val) (w := readTime w) (ph := ph) hc hs (by rw [hcc]; exact hd)
  rw [hcc] at k1
  exact ⟨_, exec_next_of_eq rfl he, k1, k2⟩

/-- Settles O26: the words sent by the fold over the ports, the words received by their checks. -/
theorem timeWords : Obligations.TimeWords :=
  ⟨fun _ hr ht ho => timeWordSend_sends hr ht ho, fun _ h => exec_next_of_eq rfl (timeWordSend_elsewhere h),
    fun _ _ _ _ hr hq ha h => exec_next_of_eq rfl (timeWord_discarded hr hq ha h),
    fun _ _ _ _ hr hq ha h0 h1 h2 h3 h4 h5 hc h6 => timeWord_count hr hq ha h0 h1 h2 h3 h4 h5 hc h6,
    fun s w ho hw => ⟨fun h => exec_next_of_eq rfl (by rw [parentTimeout, if_neg (by simp [ho]), State.chooseParent_one hw h]),
      fun h => exec_next_of_eq rfl (by rw [parentTimeout, if_neg (by simp [ho]), State.chooseParent_none hw h])⟩⟩

/-! ### Lock, holdover and the master roles -/

theorem State.enterHoldover_locked {s : State} (h : s.clk.mode = .locked) :
    (s.enterHoldover false).clk = { s.clk with mode := .holdover, holdElapsed := 0, selfHold := false } ∧
      changesOnly [.clk, .icx, .fcu, .errN, .notify, .out] s (s.enterHoldover false) := by
  obtain ⟨u, hu⟩ : ∃ u : State, u = { s with clk := { s.clk with holdElapsed := 0, selfHold := false } } := ⟨_, rfl⟩
  have hm : u.clk.mode ≠ .holdover := by rw [hu]; simp [h]
  have he : s.enterHoldover false = (u.setClockMode .holdover).raise srcClock 0 0x13 1 0 := by
    rw [State.enterHoldover, if_neg (by simp [h]), hu]
    rfl
  rw [he]
  refine ⟨?_, ?_⟩
  · rw [State.raise_clk, State.setClockMode_clk u .holdover hm, hu]
    simp
  · refine changesOnly.then ?_ (State.raise_changes ..)
    refine changesOnly.then ?_ (State.setClockMode_changes ..)
    rw [hu]
    exact (State.clk_changes s _).within

theorem holdoverEnter_silent {s : State} {h : Tick} (hm : s.clk.mode = .locked) (ho : s.clk.originating = false)
    (hw : s.clk.lastWord = some h) (ht : s.num O.timeWordTimeout ≤ Tick.since s.clk.tick h) :
    holdoverEnter s = s.enterHoldover false := by
  simp [holdoverEnter, hm, ho, hw, ht]

theorem clockLock_run {s : State} (hm : s.clk.mode = .unlocked) (hc : s.clk.counting = true) (hp : s.clk.parent.isSome = true)
    (hr : 1024 ≤ s.clk.lockRun) :
    (clockLock s).clk = { s.clk with mode := .locked, held := true } ∧ changesOnly [.clk, .icx, .out] s (clockLock s) := by
  have he : clockLock s = s.setClockMode .locked := if_pos ⟨hm, hc, hp, hr⟩
  rw [he]
  refine ⟨?_, State.setClockMode_changes ..⟩
  rw [State.setClockMode_clk s .locked (by simp [hm])]
  simp

theorem State.startCall_changes (s : State) : changesOnly [.lnk] s s.startCall := by
  unfold State.startCall
  dsimp only
  split
  · exact changesOnly.refl ..
  · exact (State.lnk_changes s _).then (State.sendCtls_changes ..)

/-- What the new master leaves: it originates with the next epoch, LOCKED, at the count it had. -/
theorem State.becomeMaster_clk (s : State) :
    s.becomeMaster.clk = { s.clk with
      originating := true, role := .master, master := s.node, epoch := s.clk.epoch + 1, hops := 0, parent := none, words := []
      counting := true, held := true, mode := .locked } ∧ changesOnly [.clk, .lnk, .icx, .out] s s.becomeMaster := by
  obtain ⟨u, hu⟩ : ∃ u : State, u = ({ s with clk := { s.clk with
    originating := true, role := .master, master := s.node, epoch := s.clk.epoch + 1, hops := 0, parent := none, words := []
    counting := true, held := true } }).clockEvent 1 := ⟨_, rfl⟩
  have hc : u.clk = { s.clk with
      originating := true, role := .master, master := s.node, epoch := s.clk.epoch + 1, hops := 0, parent := none, words := []
      counting := true, held := true } := by rw [hu, State.clockEvent_clk]
  have he : s.becomeMaster = (u.setClockMode .locked).startCall := by rw [hu]; rfl
  rw [he]
  refine ⟨?_, ?_⟩
  · rw [(State.startCall_changes _).2 .clk (by decide)]
    by_cases h : u.clk.mode = .locked
    · rw [State.setClockMode, if_pos h, ← h, hc]
    · rw [State.setClockMode_clk u .locked h, hc]
      rfl
  · refine changesOnly.then ?_ (State.startCall_changes _)
    refine changesOnly.then ?_ (State.setClockMode_changes ..)
    rw [hu]
    exact (State.clk_changes s _).within.then (State.icxEvent_changes _ 0x061)

theorem holdoverLimit_serving {s : State} (hm : s.clk.mode = .holdover) (he : 10000000 ≤ s.clk.holdElapsed)
    (hs : s.pkg.st = .serving ∨ s.pkg.st = .covering) : holdoverLimit s = s.transition .draining := if_pos ⟨hm, he, hs⟩

theorem State.dropCclk_valid {s : State} (h : s.clk.cclkValid = true) :
    s.dropCclk.clk = { s.clk with cclkValid := false, cclkGood := 0, cclkSum := 0, cclkEdges := 0 } ∧
      changesOnly [.clk, .icx, .fcu, .errN, .notify, .out] s s.dropCclk := by
  rw [State.dropCclk, if_pos h]
  refine ⟨by rw [State.clockEvent_clk, State.raise_clk], ?_⟩
  exact ((State.clk_changes s _).within.then (State.raise_changes ..)).then (State.icxEvent_changes _ 0x063)

theorem State.dropCclk_any (s : State) :
    s.dropCclk.clk.cclkValid = false ∧ s.dropCclk.clk.cclkGood = 0 ∧ s.dropCclk.clk.tick = s.clk.tick ∧
      changesOnly [.clk, .icx, .fcu, .errN, .notify, .out] s s.dropCclk := by
  by_cases h : s.clk.cclkValid = true
  · obtain ⟨hc, hch⟩ := State.dropCclk_valid h
    rw [hc]
    exact ⟨rfl, rfl, rfl, hch⟩
  · rw [State.dropCclk, if_neg h]
    exact ⟨by simpa using h, rfl, rfl, (State.clk_changes s _).within⟩

theorem cclkEdge_late {s : State} {gap : Nat} (off : Int) (hr : s.pkg.st.hubRuns = true) (h : 1500 < gap) :
    cclkEdge s gap off = s.dropCclk := by
  rw [cclkEdge, if_neg (by simp [hr])]
  exact if_pos (Or.inl h)

theorem cclkEdge_good {s : State} {gap : Nat} {off : Int} (hr : s.pkg.st.hubRuns = true) (hg : gap ≤ 1500) (ho : off.natAbs ≤ 250)
    (he : s.clk.cclkEdges < 1000) (hv : s.clk.cclkValid = false) (hn : s.clk.cclkGood < 1000) :
    cclkEdge s gap off = { s with clk := { s.clk with
      cclkGood := s.clk.cclkGood + 1, cclkSum := s.clk.cclkSum + gap, cclkEdges := s.clk.cclkEdges + 1 } } := by
  have h1 : ¬ 1500 < gap := by omega
  have h2 : ¬ 250 < off.natAbs := by omega
  have h3 : ¬ 1023 ≤ s.clk.cclkEdges := by omega
  have hm : Nat.min 1024 (s.clk.cclkGood + 1) = s.clk.cclkGood + 1 := Nat.min_eq_right (by omega)
  simp [cclkEdge, hr, h1, h2, h3, hm, hv, State.onCclk]

/-- Settles O28: lock and holdover by the mode's change, the master's roles by what becoming master leaves, CCLK by its edge. -/
theorem lockAndHoldover : Obligations.LockAndHoldover := by
  refine ⟨fun s hm hc hp => ⟨fun h => ⟨_, rfl, clockLock_run hm hc hp h⟩, fun h => exec_next_of_eq rfl (if_neg (by omega))⟩,
    fun s h hm ho hw ht => ⟨_, exec_next_of_eq rfl (holdoverEnter_silent hm ho hw ht), State.enterHoldover_locked hm⟩,
    fun s hc hm he => ⟨fun hs => ⟨_, exec_next_of_eq rfl (holdoverLimit_serving hm he hs), State.transition_draining hc hs⟩,
      fun hs => exec_next_of_eq rfl (if_neg (by simp [hs]))⟩,
    fun s hr hh => ?_, fun s hr ho hd => exec_next_of_eq rfl ?_, fun s h hr hw ht => ?_,
    fun s gap off hr => ⟨fun h => ⟨_, exec_next_of_eq rfl (cclkEdge_late off hr h), State.dropCclk_any s⟩,
      fun h1 h2 h3 h4 h5 => exec_next_of_eq rfl (cclkEdge_good hr h1 h2 h3 h4 h5)⟩,
    fun s hv => ⟨_, exec_next_of_eq rfl (if_pos hv), State.dropCclk_valid hv⟩⟩
  · obtain ⟨hc, hch⟩ := State.becomeMaster_clk s
    refine ⟨s.becomeMaster, exec_next_of_eq rfl (if_pos ⟨hr, hh⟩), ?_⟩
    rw [hc]
    exact ⟨rfl, rfl, rfl, rfl, rfl, rfl, rfl, hch⟩
  · rw [masterHandoff, if_neg (by simp [hr]), if_pos ⟨ho, hd⟩]
    rfl
  · obtain ⟨hc, hch⟩ := State.becomeMaster_clk s
    refine ⟨s.becomeMaster, exec_next_of_eq rfl ?_, ?_⟩
    · rw [masterTimeout, hw]
      exact if_pos ⟨hr, ht⟩
    · rw [hc]
      exact ⟨rfl, rfl, rfl, rfl, hch⟩

end Sys2Proof.Machine

/-! PROOF. Memory: SRAM and full HBM words read back what was written, and Table 9.1 is one to one (09 R283, R290). -/

namespace Sys2Proof.Machine

theorem fit_of_length {n : Nat} {l : List Byte} (h : l.length = n) : fit n l = l := by
  subst h
  simp [fit, slice, zeros]

/-- Once the entry of a word is dropped none is open for it. -/
theorem State.dropEntry_entryOf (s : State) (w : Nat) : (s.dropEntry w).mem.entryOf w = none := by
  have he : (s.dropEntry w).mem.entries (locate w).stack = (s.mem.entries (locate w).stack).filter (fun e => e.word != w) :=
    SMap.get_set_same ..
  rw [MemUnit.entryOf, he]
  simp

theorem State.writeWord_full {s : State} {w : Nat} {d : List Byte} {g : BitVec 16} (h : d.length = 32) :
    s.writeWord w 0 d g = (s.dropEntry w).storeWord w d g := if_pos ⟨rfl, h⟩

/-- A stored word reads as it was stored while no merge entry is open for it. -/
theorem State.readWord_storeWord {s : State} {w : Nat} {d : List Byte} {g : BitVec 16} (h : d.length = 32)
    (he : s.mem.entryOf w = none) : (s.storeWord w d g).readWord w = (d, false) := by
  have hd : (s.storeWord w d g).decodeWord w = some d := by
    have hx : SMap.get 0 (s.storeWord w d g).mem.chk w = 0 := SMap.get_set_same 0 s.mem.chk w 0
    have hw : (s.storeWord w d g).mem.word w = d := by
      have := cellsGet_puts s.mem.mem w d
      rw [h] at this
      rw [MemUnit.word, State.storeWord, fit_of_length h]
      exact this
    rw [State.decodeWord, hx, if_pos rfl, hw]
  have he' : (s.storeWord w d g).mem.entryOf w = none := he
  simp only [State.readWord, hd, he']

/-- Table 9.1: the location of a word is a place of the stacks, and gives the word's address back. -/
theorem locate_addr {w : Nat} (ha : w % 32 = 0) :
    (locate w).stack < 16 ∧ (locate w).pch < 32 ∧ (locate w).bank < 64 ∧ (locate w).col < 32 ∧ (locate w).addr = w := by
  obtain ⟨p, hp⟩ : ∃ p, p = w / 0x200000 := ⟨_, rfl⟩
  obtain ⟨g, hg⟩ : ∃ g, g = w / 256 % 8192 := ⟨_, rfl⟩
  obtain ⟨k, hk⟩ : ∃ k, k = w / 32 % 8 := ⟨_, rfl⟩
  have hwe : w = p * 0x200000 + g * 256 + k * 32 := by omega
  obtain ⟨c, hc⟩ : ∃ c, c = (g % 128) ^^^ (p / 4 % 128) := ⟨_, rfl⟩
  have hc128 : c < 128 := hc ▸ Nat.xor_lt_two_pow (n := 7) (Nat.mod_lt _ (by decide)) (Nat.mod_lt _ (by decide))
  have hcx : c ^^^ (p / 4 % 128) = g % 128 := by rw [hc, Nat.xor_assoc, Nat.xor_self, Nat.xor_zero]
  have hl : locate w = ⟨4 * (p % 4) + c / 32, c % 32, (p / 4 * 64 + g / 128) / 4 % 64, (p / 4 * 64 + g / 128) / 256,
      (p / 4 * 64 + g / 128) % 4 * 8 + k⟩ := by
    simp only [locate, homeQuarter, pageOf, bits, ← hp, hc]
    simp [hg, hk]
  have hgl : g < 8192 := by omega
  have hkl : k < 8 := by omega
  have hpl : p % 4 < 4 := Nat.mod_lt _ (by decide)
  rw [hl]
  clear hl
  refine ⟨?_, Nat.mod_lt _ (by decide), Nat.mod_lt _ (by decide), ?_, ?_⟩
  · dsimp only
    omega
  · dsimp only
    omega
  have hgp : (p / 4 * 64 + g / 128) / 256 * 256 + (p / 4 * 64 + g / 128) / 4 % 64 * 4 + ((p / 4 * 64 + g / 128) % 4 * 8 + k) / 8 =
      p / 4 * 64 + g / 128 := by omega
  have hp4 : (p / 4 * 64 + g / 128) / 64 = p / 4 := by omega
  have hcc : (4 * (p % 4) + c / 32) % 4 * 32 + c % 32 = c := by omega
  have hkc : ((p / 4 * 64 + g / 128) % 4 * 8 + k) % 8 = k := by omega
  have hpq : (4 * (p % 4) + c / 32) / 4 = p % 4 := by omega
  have hgg : (p / 4 * 64 + g / 128) % 64 * 128 + g % 128 = g := by omega
  have hpp : p / 4 * 4 + p % 4 = p := by omega
  unfold Loc.addr
  dsimp only
  rw [hgp, hp4, hcc, hcx, hkc, hpq, hgg, hpp, ← hwe]

/-- Settles O51: SRAM by the cells put and got, a full word by the store that drops its merge entry, the location by Table 9.1. -/
theorem memoryHoldsWhatIsWritten : Obligations.MemoryHoldsWhatIsWritten := by
  refine ⟨fun s a d => ⟨cellsGet_puts .., fun i hi => cellGet_puts_other _ _ _ _ hi⟩, fun s w d g h => ⟨?_, fun i hi => ?_⟩,
    fun _ _ ha => locate_addr ha⟩
  · rw [State.writeWord_full h, State.readWord_storeWord h (State.dropEntry_entryOf s w)]
  · rw [State.writeWord_full h, State.storeWord, fit_of_length h]
    exact cellGet_puts_other _ _ _ _ (by rw [h]; exact hi)

end Sys2Proof.Machine

/-! PROOF. REIN_UPDATE: the least of the limits in force (14 R465 to R471). -/

namespace Sys2Proof.Machine

/-! ### The least of some limits -/

theorem leastLimit_foldl_le (l : List (Nat × Nat)) : ∀ b : Nat × Nat,
    (l.foldl (fun best x => if x.2 < best.2 then x else best) b).2 ≤ b.2 ∧
      ∀ x ∈ l, (l.foldl (fun best x => if x.2 < best.2 then x else best) b).2 ≤ x.2 := by
  induction l with
  | nil => exact fun b => ⟨Nat.le_refl _, fun _ h => nomatch h⟩
  | cons y l ih =>
    intro b
    rw [List.foldl_cons]
    obtain ⟨h1, h2⟩ := ih (if y.2 < b.2 then y else b)
    have hb : (if y.2 < b.2 then y else b).2 ≤ b.2 ∧ (if y.2 < b.2 then y else b).2 ≤ y.2 := by
      split <;> omega
    refine ⟨Nat.le_trans h1 hb.1, fun x hx => ?_⟩
    rcases List.mem_cons.1 hx with rfl | hx
    · exact Nat.le_trans h1 hb.2
    · exact h2 x hx

theorem leastLimit_le {l : List (Nat × Nat)} {x : Nat × Nat} (h : x ∈ l) : (leastLimit l).2 ≤ x.2 := (leastLimit_foldl_le l (7, 65)).2 x h

/-! ### The update of the reins -/

/-- REIN_UPDATE once a protective pull has been made or not: the power manager with its new reins and flags. -/
def State.reined (s : State) (pulled : Bool) : State :=
  let s := { s with pwr := { s.pwr with reins := (List.range 4).map (fun q =>
      let x := leastLimit (s.reinLimits q pulled)
      (q, { s.rein q with level := x.2, source := x.1 })) } }
  let dr := s.num O.rampLimit
  { s with pwr := { s.pwr with
      excessFull := decide (s.pwr.excessCount ≥ 4000)
      currentFull := decide (s.pwr.currentCount ≥ 5000)
      pull := pulled || s.pwr.supplyPull || (List.range 4).any (fun q => (s.rein q).thermal != 64)
      fill := s.fills pulled
      floor := match s.pwr.preTarget with
        | some pc => Nat.min pc (s.pwr.p + dr)
        | none => s.pwr.p - dr } }

theorem reinUpdate_eq {s : State} (h : s.pkg.st.hubRuns = true) :
    reinUpdate s = if s.pullCases = [] then s.reined false else (s.protectivePull s.pullCases).reined true := by
  rw [reinUpdate, if_neg (by simp [h])]
  by_cases hc : s.pullCases = []
  · simp only [hc, List.isEmpty_nil]
    rfl
  · have he : (!s.pullCases.isEmpty) = true := by simpa using hc
    simp only [he, if_neg hc]
    rfl

theorem State.reined_changes (s : State) (b : Bool) : changesOnly [.pwr] s (s.reined b) := State.pwr_changes ..

theorem State.reined_rein (s : State) (b : Bool) {q : Nat} (hq : q < 4) :
    (s.reined b).rein q = { s.rein q with level := (leastLimit (s.reinLimits q b)).2, source := (leastLimit (s.reinLimits q b)).1 } := by
  have hr : (s.reined b).pwr.reins = (List.range 4).map (fun q =>
      (q, { s.rein q with level := (leastLimit (s.reinLimits q b)).2, source := (leastLimit (s.reinLimits q b)).1 })) := rfl
  rw [State.rein, hr]
  match q, hq with
  | 0, _ => rfl
  | 1, _ => rfl
  | 2, _ => rfl
  | 3, _ => rfl

/-! ### The protective pull -/

/-- The faults of a pull's cases raised. -/
def State.raisePull (s : State) (cases : List Nat) : State := cases.foldl (fun (t : State) k => t.raise srcPower 0 k 0 0) s

/-- The faults of a pull are raised first; they leave the power manager as it is. -/
theorem State.protectivePull_spec (s : State) (cases : List Nat) :
    (s.protectivePull cases).pwr = { s.pwr with
      holds := s.pwr.holds ++ cases.map (fun k => { cause := holdCause k, until_ := s.clk.tick + 1000 }) } ∧
    (s.protectivePull cases).sec = s.sec ∧
    (s.protectivePull cases).num O.pulls = (s.num O.pulls + 1) % 2 ^ 32 ∧
    objectsBut [O.pulls.key] s (s.protectivePull cases) ∧
    changesOnly [.pwr, .fcu, .errN, .notify, .objects, .icx, .out] s (s.protectivePull cases) := by
  have hf : changesOnly [.fcu, .errN, .notify, .out] s (s.raisePull cases) :=
    changesOnly.foldl (fun _ _ => State.raise_changes ..) cases (changesOnly.refl ..)
  have hp : s.protectivePull cases = (({ s.raisePull cases with pwr := { (s.raisePull cases).pwr with
      holds := (s.raisePull cases).pwr.holds ++ cases.map (fun k => ({ cause := holdCause k, until_ := s.clk.tick + 1000 } : Hold)) } }).bump
      O.pulls).icxEvent 0x080 := rfl
  rw [hp]
  generalize s.raisePull cases = u at hf ⊢
  have hpwr : u.pwr = s.pwr := hf.2 .pwr (by decide)
  have hsec : u.sec = s.sec := hf.2 .sec (by decide)
  have hnum : u.num O.pulls = s.num O.pulls := ((hf.2 .objects (by decide)) O.pulls).1 (by decide)
  refine ⟨?_, ?_, ?_, ?_, ?_⟩
  · rw [State.icxEvent_pwr, State.bump, State.setNum_pwr, hpwr]
  · rw [State.icxEvent_sec, State.bump, State.setNum_sec, hsec]
  · rw [State.num_icxEvent, State.bump, State.num_setNum_same, ← hnum]
    rfl
  · exact (((hf.objectsBut _).trans ((State.pwr_changes u _).objectsBut _)).trans
      (State.setNum_objectsBut (State.mk ..) O.pulls _ (by decide))).trans ((State.icxEvent_changes ..).objectsBut _)
  · exact ((hf.within.then (State.pwr_changes u _)).then (State.setNum_changes _ O.pulls _ (by decide))).then (State.icxEvent_changes ..)

/-- A protective pull caps every quarter. -/
theorem State.reined_pulled_le (s : State) {q : Nat} (hq : q < 4) :
    ((s.reined true).rein q).level ≤ Nat.max 1 (Nat.min (s.rein q).level (s.sustain s.pwr.op)) := by
  rw [State.reined_rein s true hq]
  refine leastLimit_le (x := (1, Nat.max 1 (Nat.min (s.rein q).level (s.sustain s.pwr.op)))) ?_
  simp [State.reinLimits]

/-- Settles O42: each quarter's level by the fold that `leastLimit` is, the pull's own limit as one of those compared. -/
theorem reinIsLeast : Obligations.ReinIsLeast := by
  refine ⟨fun s h hc => ⟨s.reined false, exec_next_of_eq rfl ?_, State.reined_changes .., rfl, rfl, rfl, rfl, fun q hq => ?_⟩,
    fun s q ht hp => ⟨by rw [State.pullCases, ht], ?_⟩,
    fun s h hc => ⟨(s.protectivePull s.pullCases).reined true, exec_next_of_eq rfl ?_, ?_⟩⟩
  · rw [reinUpdate_eq h, if_pos hc]
  · rw [State.reined_rein s false hq]
    exact ⟨rfl, fun x hx => leastLimit_le hx⟩
  · simp [State.reinLimits, ht, hp]
  · rw [reinUpdate_eq h, if_neg hc]
  · obtain ⟨hpwr, hsec, hnum, hobj, hch⟩ := State.protectivePull_spec s s.pullCases
    refine ⟨hch.then (State.reined_changes ..), hobj.trans ((State.reined_changes ..).objectsBut _), hnum, ?_, rfl, ?_, fun q hq => ?_⟩
    · show (s.protectivePull s.pullCases).pwr.op = _
      rw [hpwr]
    · show (s.protectivePull s.pullCases).pwr.holds = _
      rw [hpwr]
    · have hl := State.reined_pulled_le (s.protectivePull s.pullCases) hq
      have hr : (s.protectivePull s.pullCases).rein q = s.rein q := by rw [State.rein, hpwr]; rfl
      have hs : (s.protectivePull s.pullCases).sustain (s.protectivePull s.pullCases).pwr.op = s.sustain s.pwr.op := by
        rw [State.sustain, hsec, hpwr]
        rfl
      rwa [hr, hs] at hl

end Sys2Proof.Machine

/-! PROOF. Routing (11 R377, R378), operating points and wakes (14 R463 to R478), and Plumbline (11 R384 to R387). -/

namespace Sys2Proof.Machine

/-! ### The next hop -/

/-- Settles O47: the branches of the router's choice in their order. -/
theorem nextHop : Obligations.NextHop := by
  rintro s p d rfl
  refine ⟨fun hd => if_pos hd, fun hd hh => (if_neg hd).trans (if_pos hh), fun hd hh ht hl hw j rest hj hn => ?_,
    fun hd hh ht hl => ⟨fun hp hr => ?_, fun hp hr => ?_⟩⟩
  · have hl' : ((s.alias_ p.dest).getLsbD 16 != s.node.getLsbD 16) = false := by simpa using hl
    simp only [State.nextHop, if_neg hd, if_neg hh, ht, hl', hw, hj, Bool.false_and, Bool.false_eq_true, if_false, List.head?_cons]
    exact if_pos hn
  · have hl' : ((s.alias_ p.dest).getLsbD 16 != s.node.getLsbD 16) = true := by simpa using hl
    have hpref : s.lnk.k - popcount s.lnk.k ((s.node ^^^ s.alias_ p.dest).toNat % 2 ^ s.lnk.k) <
      popcount s.lnk.k ((s.node ^^^ s.alias_ p.dest).toNat % 2 ^ s.lnk.k) := by omega
    simp only [State.nextHop, if_neg hd, if_neg hh, ht, hl', hpref, hr, Bool.false_and, Bool.false_eq_true, if_true, if_false]
  · have hl' : ((s.alias_ p.dest).getLsbD 16 != s.node.getLsbD 16) = true := by simpa using hl
    have hpref : ¬ s.lnk.k - popcount s.lnk.k ((s.node ^^^ s.alias_ p.dest).toNat % 2 ^ s.lnk.k) <
      popcount s.lnk.k ((s.node ^^^ s.alias_ p.dest).toNat % 2 ^ s.lnk.k) := by omega
    simp only [State.nextHop, if_neg hd, if_neg hh, ht, hl', hpref, hr, Bool.false_and, Bool.false_eq_true, if_true, if_false]

/-! ### Operating points, wear and wakes -/

/-- Where nothing above a command in Table 2.2 is due, nothing is carried out before it. -/
theorem State.before_eq {s : State} {n : Nat} (h : s.dueBefore n = false) : s.before n = s := by simp [State.before, h]

theorem opStep_down {s : State} (hr : s.pkg.st.hubRuns = true) (h : s.targetOp < s.pwr.op) :
    opStep s = { s with pwr := { s.pwr with op := s.pwr.op - 1, stepping := none, vcoreSet := s.vcoreOf (s.pwr.op - 1), cmd := 1 } } := by
  rw [opStep, if_neg (by simp [hr])]
  exact if_pos h

theorem opStep_up {s : State} (hr : s.pkg.st.hubRuns = true) (h : s.pwr.op < s.targetOp) (hn : s.pwr.stepping = none) :
    opStep s = { s with pwr := { s.pwr with
      stepping := some (s.pwr.op + 1), tele := s.pwr.tele.map (fun (x : Tele) => { x with settled := false })
      vcoreSet := s.vcoreOf (s.pwr.op + 1), cmd := 1 } } := by
  rw [opStep, if_neg (by simp [hr])]
  exact (if_neg (by omega)).trans ((if_neg (by omega)).trans (if_neg (by simp [hn])))

theorem opStep_there {s : State} (hr : s.pkg.st.hubRuns = true) (h : s.pwr.op = s.targetOp) (hn : s.pwr.stepping = none) : opStep s = s := by
  rw [opStep, if_neg (by simp [hr])]
  exact (if_neg (by omega)).trans ((if_pos h.symm).trans (if_neg (by simp [hn])))

theorem wearCharge_first {s : State} (hs : s.pwr.stepping = some 7) (hc : s.pwr.charged = false) :
    (s.sec.wear + 1 < 17520 → wearCharge s =
      { s with sec := { s.sec with wear := s.sec.wear + 1 }, pwr := { s.pwr with charged := true, op7Ticks := 0 } }) ∧
    (17520 ≤ s.sec.wear → wearCharge s = s) := by
  rw [wearCharge, if_pos (.inl ⟨hs, by simp [hc]⟩)]
  refine ⟨fun h => ?_, fun h => if_pos (decide_eq_true h)⟩
  rw [if_neg (by simp [State.wearSpent]; omega)]
  exact if_neg (by simp [State.wearSpent]; omega)

theorem wakeGrant_slot {s : State} {q : Fin 4} {rest : List (Fin 4)} (hr : s.pkg.st.hubRuns = true) (ha : s.pwr.wakeAsked = q :: rest)
    (hw : s.pwr.waking = []) (h50 : s.clk.tick.toNat % 50 = 0) (hs : s.clk.tick.toNat / 50 % s.num O.wakeStride = s.num O.wakePhase) :
    wakeGrant s = ({ s with pwr := { s.pwr with wakeAsked := rest, waking := [(q, s.clk.tick + 20)] } }).icxEvent 0x083 := by
  simp [wakeGrant, ha, hr, hw, h50, hs]

/-- Settles O44: the steps by the target's place, the clock change and the charge by their conditions, the wakes by the slot. -/
theorem pointsAndWakes : Obligations.PointsAndWakes := by
  refine ⟨fun s hr => ⟨fun h => exec_next_of_eq rfl (opStep_down hr h), fun h hn => ⟨_, exec_next_of_eq rfl (opStep_up hr h hn), rfl, rfl, rfl, rfl,
      fun x hx => ?_, State.pwr_changes ..⟩, fun h hn => exec_next_of_eq rfl (opStep_there hr h hn)⟩,
    fun s n x hs ht hx => ⟨fun h => exec_next_of_eq rfl ?_, fun hn h => exec_next_of_eq rfl ?_⟩,
    fun s hs hc => ⟨fun h => exec_next_of_eq rfl ((wearCharge_first hs hc).1 h), fun h => exec_next_of_eq rfl ((wearCharge_first hs hc).2 h)⟩,
    fun s q rest hd hr ha hw h50 hs => exec_next_of_eq rfl ?_, fun s q due hw hd => exec_next_of_eq rfl ?_⟩
  · obtain ⟨y, -, rfl⟩ := Option.map_eq_some_iff.1 hx
    rfl
  · rcases h with h | ⟨h, h'⟩
    · simp [opClockChange, hs, ht, hx, h]
    · simp [opClockChange, hs, ht, hx, h, h']
  · rcases h with h | h
    · simp [opClockChange, hs, ht, hx, hn, h]
    · simp [opClockChange, hs, ht, hx, hn, Nat.not_lt.2 h]
  · rw [State.before_eq hd, wakeGrant_slot hr ha hw h50 hs]
  · simp [wakeComplete, hw, hd]

/-! ### Plumbline -/

/-- A port's new state touches the links and what its event does. -/
theorem State.putPort_changes (s : State) (p : Nat) (r : PortRt) : changesOnly [.lnk, .icx, .out] s (s.putPort p r) :=
  changesOnly.ite (State.setPort_changes ..).within ((State.setPort_changes ..).within.then (State.icxEvent_changes ..))

/-- A new state of Plumbline: HELLO goes out on the ports, STATE's event is raised. -/
theorem State.setPlumb_spec (s : State) (b : PlumbUnit) :
    (s.setPlumb b).lnk.plumb = b ∧ changesOnly [.lnk, .icx, .out] s (s.setPlumb b) ∧ (s.setPlumb b).clk = s.clk := by
  have hp : ∀ (ps : List Nat) (t : State) (w : State → Nat → BitVec 96), (ps.foldl (fun t p => t.sendCtl p ctHello (w t p)) t).lnk.plumb = t.lnk.plumb := by
    intro ps
    induction ps with
    | nil => exact fun _ _ => rfl
    | cons p ps ih => exact fun t w => (ih _ w).trans rfl
  have h0 : ∀ u : State, u.lnk.plumb = b → changesOnly [.lnk, .icx, .out] s u →
      (u.upPorts.foldl (fun t p => t.sendCtl p ctHello (t.helloWord p)) u).lnk.plumb = b ∧
        changesOnly [.lnk, .icx, .out] s (u.upPorts.foldl (fun t p => t.sendCtl p ctHello (t.helloWord p)) u) := fun u h k =>
    ⟨(hp _ u (fun t p => t.helloWord p)).trans h, k.then (changesOnly.foldl (fun _ _ => State.setPort_changes ..) _ (changesOnly.refl [.lnk] u))⟩
  have h1 : ∀ c : Prop, ∀ _ : Decidable c, (if c then ({ s with lnk := { s.lnk with plumb := b } }) else
      ({ s with lnk := { s.lnk with plumb := b } }).icxEvent 0x0A4).lnk.plumb = b ∧
      changesOnly [.lnk, .icx, .out] s (if c then ({ s with lnk := { s.lnk with plumb := b } }) else
        ({ s with lnk := { s.lnk with plumb := b } }).icxEvent 0x0A4) := fun c _ => by
    split
    · exact ⟨rfl, (State.lnk_changes s _).within⟩
    · exact ⟨by rw [State.icxEvent_lnk], (State.lnk_changes s _).within.then (State.icxEvent_changes ..)⟩
  obtain ⟨ha, hb⟩ := h1 (s.lnk.plumb.st = b.st) inferInstance
  have h2 : (s.setPlumb b).lnk.plumb = b ∧ changesOnly [.lnk, .icx, .out] s (s.setPlumb b) := by
    unfold State.setPlumb
    dsimp only
    split
    · exact ⟨ha, hb⟩
    · exact h0 _ ha hb
  exact ⟨h2.1, h2.2, h2.2.2 .clk (by decide)⟩

/-- While its state and identity stay, nothing but the Plumbline unit changes. -/
theorem State.setPlumb_quiet {s : State} {b : PlumbUnit} (h : s.lnk.plumb.st = b.st) (hi : s.lnk.plumb.ident = b.ident) :
    s.setPlumb b = { s with lnk := { s.lnk with plumb := b } } := by
  simp only [State.setPlumb, if_pos h]
  exact if_pos ⟨by rw [h], hi⟩

theorem State.spread_changes (s : State) (but : Option Nat) (ct : Nat) (w : BitVec 96) : changesOnly [.lnk] s (s.spread but ct w) :=
  State.sendCtls_changes ..

theorem State.spread_plumb (s : State) (but : Option Nat) (ct : Nat) (w : BitVec 96) : (s.spread but ct w).lnk.plumb = s.lnk.plumb := by
  unfold State.spread
  generalize s.upPorts.filter _ = ps
  induction ps generalizing s with
  | nil => rfl
  | cons p ps ih => exact (ih _).trans rfl

/-- The Plumbline unit of a node that adopts a fabric. -/
def PlumbUnit.adopted (b : PlumbUnit) (w : BitVec 96) : PlumbUnit :=
  { b with
    st := .settled, tag := BitVec.ofNat 48 (bits w.toNat 95 48)
    standby := if bit w.toNat 5 then none else some (BitVec.ofNat 17 (bits w.toNat 30 14)), m := BitVec.ofNat 17 (bits w.toNat 47 31)
    fabricSeen := some (plainFabric w), round := false, waitFrom := none }

theorem State.eventUnless_spec (c : Prop) [Decidable c] (s : State) (n : Nat) :
    (if c then s else s.clockEvent n).lnk = s.lnk ∧ (if c then s else s.clockEvent n).clk = s.clk ∧
      changesOnly [.icx, .out] s (if c then s else s.clockEvent n) := by
  split
  · exact ⟨rfl, rfl, changesOnly.refl ..⟩
  · exact ⟨State.clockEvent_lnk .., State.clockEvent_clk .., State.icxEvent_changes ..⟩

theorem State.adoptFabric_spec (s : State) (w : BitVec 96) :
    (s.adoptFabric w).lnk.plumb = s.lnk.plumb.adopted w ∧ changesOnly [.lnk, .clk, .icx, .out] s (s.adoptFabric w) := by
  obtain ⟨hp, hch, -⟩ := State.setPlumb_spec s (s.lnk.plumb.adopted w)
  have hk := fun (c : ClockUnit) (k : Prop) (_ : Decidable k) => State.eventUnless_spec k { s.setPlumb (s.lnk.plumb.adopted w) with clk := c } 1
  unfold State.adoptFabric
  refine ⟨?_, ?_⟩
  · exact (congrArg LinkUnit.plumb (hk ..).1).trans hp
  · exact changesOnly.then (hch.within.then (State.clk_changes ..)) (hk ..).2.2

/-- The clock of a node that adopts a fabric: its epoch and master where the node had none, and its role. -/
def State.adoptedClock (s : State) (w : BitVec 96) : ClockUnit :=
  let c := if s.lnk.plumb.st != .settled && !s.clk.originating then
    { s.clk with epoch := BitVec.ofNat 8 (bits w.toNat 13 6), master := BitVec.ofNat 17 (bits w.toNat 47 31) } else s.clk
  { c with role := if c.originating then c.role
    else if (s.lnk.plumb.adopted w).standby = s.lnk.plumb.ident ∧ (s.lnk.plumb.adopted w).standby.isSome then .standby else .follower }

theorem State.adoptFabric_clk (s : State) (w : BitVec 96) : (s.adoptFabric w).clk = s.adoptedClock w := by
  obtain ⟨hp, -, hc⟩ := State.setPlumb_spec s (s.lnk.plumb.adopted w)
  have hi : (s.setPlumb (s.lnk.plumb.adopted w)).lnk.plumb.ident = s.lnk.plumb.ident := by rw [hp]; rfl
  unfold State.adoptFabric
  refine (State.eventUnless_spec _ { s.setPlumb (s.lnk.plumb.adopted w) with clk := _ } 1).2.1.trans ?_
  simp only [PlumbUnit.adopted] at hc hi
  simp only [State.adoptedClock, PlumbUnit.adopted, hc, hi]
  rfl

/-- A node that had not settled and does not originate takes the fabric's epoch and master and keeps its count. -/
theorem State.adoptedClock_fresh {s : State} {w : BitVec 96} (h : s.lnk.plumb.st ≠ .settled) (ho : s.clk.originating = false) :
    (s.adoptedClock w).epoch = BitVec.ofNat 8 (bits w.toNat 13 6) ∧ (s.adoptedClock w).master = BitVec.ofNat 17 (bits w.toNat 47 31) ∧
      (s.adoptedClock w).tick = s.clk.tick := by
  simp [State.adoptedClock, h, ho]

/-! ### FABRIC, JOIN and CALL -/

theorem portUp_st {s : State} {p : Nat} (h : s.portUp p = true) : (s.port p).st = .active := by simpa [State.portUp] using h

/-- The checks of FABRIC passed on an ACTIVE port. -/
theorem fabric_checked {s : State} {p : Port} {w : BitVec 96} (h : s.portUp p.val = true) (h0 : bits w.toNat 3 0 = 0) :
    fabric s p w = if s.lnk.plumb.st = .joining then s.setPort p.val { s.port p.val with answer := some w }
      else if s.lnk.plumb.st = .settled ∧ BitVec.ofNat 48 (bits w.toNat 95 48) ≠ s.lnk.plumb.tag then s.foreign p.val
      else
        let u := if s.lnk.plumb.restoreHeld && p.val == 18 && !bit w.toNat 4 && s.lnk.plumb.st == .settled then
          s.setPlumb { s.lnk.plumb with restoreHeld := false } else s
        if s.lnk.plumb.ident.isNone ∨ s.lnk.plumb.fabricSeen = some (plainFabric w) then u
        else (u.adoptFabric w).spread (some p.val) ctFabric (plainFabric w) := by
  have hst := portUp_st h
  rw [fabric, if_neg (by simp [hst]), if_neg (by simp [h0])]
  simp only [hst, ne_eq, not_true_eq_false, or_false]

/-- A port made FOREIGN by a settled node. -/
theorem State.foreign_settled {s : State} {p : Nat} (h : (s.port p).st = .active) (hs : s.lnk.plumb.st = .settled) :
    ((s.foreign p).port p).st = .foreign ∧ (s.foreign p).lnk.plumb = s.lnk.plumb ∧
      changesOnly [.lnk, .icx, .fcu, .errN, .notify, .out] s (s.foreign p) := by
  obtain ⟨u, hu⟩ : ∃ u : State, u = (s.putPort p { s.port p with st := .foreign }).raise (srcPort p) 0 0x67 1 p := ⟨_, rfl⟩
  have hl : u.lnk = (s.setPort p { s.port p with st := .foreign }).lnk := by
    rw [hu, State.raise_lnk, State.putPort]
    split
    · rfl
    · rw [State.icxEvent_lnk]
  have hpl : u.lnk.plumb = s.lnk.plumb := by rw [hl]; rfl
  have he : s.foreign p = u := by
    rw [State.foreign, if_neg (by simp [h]), ← hu, State.checkIsolated]
    exact if_neg (by simp [hpl, hs])
  rw [he]
  refine ⟨?_, hpl, ?_⟩
  · rw [State.port, hl]
    exact congrArg PortRt.st (State.port_setPort_same s p _)
  · rw [hu]
    exact (State.putPort_changes ..).within.then (State.raise_changes ..)

theorem fabric_reporting {s : State} {p : Port} {w : BitVec 96} (h : s.portUp p.val = true) (h0 : bits w.toNat 3 0 = 0)
    (hst : s.lnk.plumb.st = .reporting) (hi : s.lnk.plumb.ident.isSome = true) (hf : s.lnk.plumb.fabricSeen = none) :
    fabric s p w = (s.adoptFabric w).spread (some p.val) ctFabric (plainFabric w) := by
  rw [fabric_checked h h0]
  have hi' : s.lnk.plumb.ident.isNone = false := by simpa using hi
  simp [hst, hi', hf]

/-- One answer to JOIN: the node takes its identity from the port that gave it and adopts the fabric. -/
theorem joinWaitExpiry_answer {s : State} {p : Nat} {w : BitVec 96} (hst : s.lnk.plumb.st = .joining)
    (ht : s.lnk.plumb.joinAt + 10000 ≤ s.us) (ha : s.upPorts.filterMap (fun p => ((s.port p).answer).map (fun a => (p, a))) = [(p, w)]) :
    joinWaitExpiry s = State.adoptFabric { s with lnk := { s.lnk with plumb := { s.lnk.plumb with
      restoreHeld := bit w.toNat 4, ident := some ((s.port p).peerNode ^^^ portMask s.lnk.k s.lnk.twist p) } } } w := by
  have hg : ¬ (s.lnk.plumb.st ≠ .joining ∨ s.us < s.lnk.plumb.joinAt + 10000) := by simp [hst]; omega
  simp [joinWaitExpiry, if_neg hg, ha]

theorem State.tryReport_quiet {s : State} {b : Bool} (h : s.us < s.lnk.plumb.assignAt + 1000 * s.num O.assignQuiet) : s.tryReport b = s := by
  simp [State.tryReport, h]

/-- A CALL of the fabric, new to a settled node. -/
theorem call_new {s : State} {p : Port} {w : BitVec 96} (h : s.portUp p.val = true) (h0 : bits w.toNat 22 0 = 0)
    (hst : s.lnk.plumb.st = .settled) (ht : BitVec.ofNat 48 (bits w.toNat 95 48) = s.lnk.plumb.tag) (hn : s.lnk.plumb.callSeen ≠ some w)
    (hq : s.us < s.lnk.plumb.assignAt + 1000 * s.num O.assignQuiet) :
    call s p w = ({ s with lnk := { s.lnk with plumb := { s.lnk.plumb with
      callSeen := some w, m := BitVec.ofNat 17 (bits w.toNat 47 31), round := true, reports := [], reported := false, waitFrom := none } } }).spread
        (some p.val) ctCall w := by
  rw [call, if_neg (by simp [h]), if_neg (by simp [h0]), if_neg (by simp [hst, ht, hn])]
  show State.tryReport (State.spread (s.setPlumb _) _ _ _) false = _
  rw [State.setPlumb_quiet (b := { s.lnk.plumb with
    callSeen := some w, m := BitVec.ofNat 17 (bits w.toNat 47 31), round := true, reports := [], reported := false, waitFrom := none }) rfl rfl]
  refine State.tryReport_quiet ?_
  rw [State.spread_plumb]
  have hs := State.spread_changes { s with lnk := { s.lnk with plumb := { s.lnk.plumb with
      callSeen := some w, m := BitVec.ofNat 17 (bits w.toNat 47 31), round := true, reports := [], reported := false, waitFrom := none } } }
      (some p.val) ctCall w
  rw [State.us, ((hs.2 .objects (by decide)) O.assignQuiet).1 (by decide), congrArg PkgUnit.now (hs.2 .pkg (by decide))]
  exact hq

/-- Settles O50: FABRIC by the node's state, JOIN and its wait, CALL while the quiet time has not passed. -/
theorem plumblineFabric : Obligations.PlumblineFabric := by
  refine ⟨fun s p w h h0 => ⟨fun hst => exec_next_of_eq rfl ?_, fun hst ht => ⟨s.foreign p.val, exec_next_of_eq rfl ?_,
      State.foreign_settled (portUp_st h) hst⟩, fun hst ht hr hf => exec_next_of_eq rfl ?_, fun hst hi hf ho => ?_⟩,
    fun s p w h h0 => ⟨fun hst => exec_next_of_eq rfl ?_, fun hst => exec_next_of_eq rfl ?_⟩,
    fun s => ⟨fun h => exec_next_of_eq rfl (if_pos h), fun p w hst ht ha => ?_⟩,
    fun s p w h h0 hst ht => ⟨fun hn => exec_next_of_eq rfl ?_, fun hn hq => ⟨_, exec_next_of_eq rfl (call_new h h0 hst ht hn hq), ?_, ?_⟩⟩⟩
  · rw [fabric_checked h h0, if_pos hst]
  · rw [fabric_checked h h0, if_neg (by simp [hst]), if_pos ⟨hst, ht⟩]
  · rw [fabric_checked h h0, if_neg (by simp [hst]), if_neg (by simp [ht])]
    simp [hr, hf]
  · have hns : s.lnk.plumb.st ≠ .settled := by simp [hst]
    obtain ⟨hp, hch⟩ := State.adoptFabric_spec s w
    obtain ⟨he, hm, hk⟩ := State.adoptedClock_fresh (w := w) hns ho
    have hsp := State.spread_changes (s.adoptFabric w) (some p.val) ctFabric (plainFabric w)
    have hc : ((s.adoptFabric w).spread (some p.val) ctFabric (plainFabric w)).clk = s.adoptedClock w :=
      Eq.trans (hsp.2 .clk (by decide)) (State.adoptFabric_clk s w)
    refine ⟨_, exec_next_of_eq rfl (fabric_reporting h h0 hst hi hf), ?_⟩
    rw [State.spread_plumb, hp, hc]
    exact ⟨rfl, rfl, rfl, rfl, he, hm, hk, hch.then hsp⟩
  · rw [join, if_neg (by simp [h]), if_neg (by simp [h0]), if_pos hst]
  · rw [join, if_neg (by simp [h]), if_neg (by simp [h0]), if_neg (by simp [hst])]
  · refine ⟨_, exec_next_of_eq rfl (joinWaitExpiry_answer hst ht ha), ?_⟩
    obtain ⟨u, hu⟩ : ∃ u : State, u = { s with lnk := { s.lnk with plumb := { s.lnk.plumb with
      restoreHeld := bit w.toNat 4, ident := some ((s.port p).peerNode ^^^ portMask s.lnk.k s.lnk.twist p) } } } := ⟨_, rfl⟩
    obtain ⟨hp, hch⟩ := State.adoptFabric_spec u w
    have hsu : changesOnly [.lnk, .clk, .icx, .out] s u := by rw [hu]; exact (State.lnk_changes s _).within
    rw [← hu, hp]
    refine ⟨rfl, ?_, rfl, ?_, hsu.trans hch⟩ <;> rw [hu] <;> rfl
  · rw [call, if_neg (by simp [h]), if_neg (by simp [h0])]
    exact if_pos (by simp [hn])
  · exact State.spread_plumb ..
  · exact changesOnly.trans (State.lnk_changes s _) (State.spread_changes ..)

end Sys2Proof.Machine

/-! PROOF. The interrupt controller: its registers, its events, hold-off, coalescing and doze (15 R509 to R521). -/

namespace Sys2Proof.Machine

theorem State.wake_awake {s : State} (h : s.icx.doze = false) : s.wake = s := by simp [State.wake, h]

/-! ### The registers -/

theorem State.claim_none {s : State} {who : Requester} {c : Fin 4} (h : who ≠ .control c ∨ s.pick c = none) : s.claim who c = (0, s) := by
  unfold State.claim
  by_cases hw : who = .control c
  · have hp : s.pick c = none := h.resolve_left (Classical.not_not.2 hw)
    rw [if_neg (Classical.not_not.2 hw), hp, ite_self]
  · rw [if_pos hw]

theorem State.claim_some {s : State} {c : Fin 4} {src : Nat} (h : s.pick c = some src) (hl : (s.icxStack c).length < 16) :
    s.claim (.control c) c = (2 ^ 31 + src, ({ s with icx := { s.icx with
      pend := setBit512 s.icx.pend src false, active := setBit512 s.icx.active src true
      running := SMap.set [] s.icx.running c (src :: s.icxStack c) } }).startHoldoff src) := by
  rw [State.claim, if_neg (Classical.not_not.2 rfl), if_neg (by omega), h]

theorem icxClaim_none {s : State} {who : Requester} {c : Fin 4} (hd : s.icx.doze = false) (h : who ≠ .control c ∨ s.pick c = none) :
    icxClaim s who c = s.emit (.answer who 0) := by
  rw [icxClaim, State.wake_awake hd, State.claim_none h]
  rfl

theorem icxClaim_some {s : State} {c : Fin 4} {src : Nat} (hd : s.icx.doze = false) (h : s.pick c = some src)
    (hl : (s.icxStack c).length < 16) :
    icxClaim s (.control c) c = (({ s with icx := { s.icx with
      pend := setBit512 s.icx.pend src false, active := setBit512 s.icx.active src true
      running := SMap.set [] s.icx.running c (src :: s.icxStack c) } }).startHoldoff src).emit
        (.answer (.control c) (BitVec.ofNat 64 (2 ^ 31 + src))) := by
  rw [icxClaim, State.wake_awake hd, State.claim_some h hl]
  rfl

/-- Settles O39: an awake hub has nothing to wake, and each register is its own branch. -/
theorem icxRegisters : Obligations.IcxRegisters := by
  intro s hd
  have hw := State.wake_awake hd
  refine ⟨fun c who h => exec_next_of_eq rfl (icxClaim_none hd h), fun c src h hl => exec_next_of_eq rfl (icxClaim_some hd h hl),
    fun who c v hc => ⟨fun rest hs => exec_next_of_eq rfl ?_, fun x rest hs hx => exec_next_of_eq rfl ?_⟩,
    fun who w v hc => ⟨exec_next_of_eq rfl ?_, exec_next_of_eq rfl ?_, exec_next_of_eq rfl ?_, exec_next_of_eq rfl ?_⟩,
    fun who w c v hc => ⟨exec_next_of_eq rfl ?_, exec_next_of_eq rfl ?_, exec_next_of_eq rfl ?_, exec_next_of_eq rfl ?_, exec_next_of_eq rfl ?_⟩,
    fun who v => ⟨fun h => exec_next_of_eq rfl ?_, fun h => exec_next_of_eq rfl ?_⟩⟩
  · simp [icxEoi, hw, hc, hs]
  · simp [icxEoi, hw, hc, hs, hx]
  · simp [icxPendSet, hw, hc]
  · simp [icxPendClr, hw, hc]
  · simp [icxEnSet, hw, hc]
  · simp [icxEnClr, hw, hc]
  · simp [icxPendSet, hw, hc, State.refuseReg]
  · simp [icxPendClr, hw, hc, State.refuseReg]
  · simp [icxEnSet, hw, hc, State.refuseReg]
  · simp [icxEnClr, hw, hc, State.refuseReg]
  · simp [icxEoi, hw, hc, State.refuseReg]
  · rw [icxSwSet, hw]
    exact if_neg (by omega)
  · rw [icxSwSet, hw]
    exact if_pos h

/-! ### The events -/

theorem getLsbD_setBit512_true (m : BitVec 512) {i : Nat} (h : i < 512) : (setBit512 m i true).getLsbD i = true := by
  rw [setBit512, if_pos rfl, BitVec.getLsbD_or, BitVec.getLsbD_ofNat]
  simp [h, Nat.testBit_two_pow_self]

theorem State.icxEvent_awake {s : State} {src : Nat} (h : s.pkg.st ≠ .off) (hm : s.pkg.st.mgmtOnly = false) (hd : s.icx.doze = false)
    (h5 : 5 ≤ src) : s.icxEvent src = s.icxFire src := by
  rw [State.icxEvent, if_neg (by simp [h, hm]), if_neg (by simp [hd]), State.icxApply, if_neg (by omega)]

theorem State.icxFire_core {s : State} {src : Nat} (hc : s.coreRoute src ≠ 0xFF) (he : s.icx.en.getLsbD src = true)
    (hh : s.hostLine src = 0xFF) : s.icxFire src = { s with icx := { s.icx with pend := setBit512 s.icx.pend src true } } := by
  simp [State.icxFire, hc, he, hh]

/-- A host-pending source of a group without a hold-off: HOST_IRQ goes to the group's first member. -/
theorem State.hostDeliver_sent {s : State} {src : Nat} (hb : s.icx.hpend.getLsbD src = true)
    (hn : s.num (O.icxGroupHoldoff (src / 16)) = 0) (hg : s.num O.groupCount ≠ 0) :
    s.hostDeliver src = ({ s with icx := { s.icx with hpend := setBit512 s.icx.hpend src false } }).send
      (BitVec.ofNat 17 (s.num (O.groupMember 0))) (.hostIrq (s.hostLine src)) := by
  simp only [State.hostDeliver, if_pos hb]
  rw [if_neg (show ¬ State.num { s with icx := { s.icx with hpend := setBit512 s.icx.hpend src false } } O.groupCount = 0 from hg)]
  exact if_pos (.inr hn)

/-- A source's pending bits, as its routes to a core and to the host set them. -/
def State.pended (s : State) (src : Nat) : State :=
  { s with icx := { s.icx with
      pend := if s.coreRoute src != 0xFF && s.icx.en.getLsbD src then setBit512 s.icx.pend src true else s.icx.pend
      hpend := if s.hostLine src != 0xFF then setBit512 s.icx.hpend src true else s.icx.hpend } }

theorem State.icxFire_eq (s : State) (src : Nat) : s.icxFire src =
    if s.hostLine src != 0xFF && (decide (src < 5) || !s.heldOff (src / 16)) then (s.pended src).hostDeliver src else s.pended src := rfl

theorem State.icxFire_host {s : State} {src : Nat} (h : src < 512) (hh : s.hostLine src ≠ 0xFF) (ho : s.heldOff (src / 16) = false)
    (hn : s.num (O.icxGroupHoldoff (src / 16)) = 0) (hg : s.num O.groupCount ≠ 0) :
    (s.icxFire src).out = s.out ++ [.send (BitVec.ofNat 17 (s.num (O.groupMember 0))) (.hostIrq (s.hostLine src))] := by
  have hl : (s.hostLine src != 0xFF) = true := by simpa using hh
  have hb : (s.pended src).icx.hpend.getLsbD src = true := by
    simp only [State.pended, hl, if_true]
    exact getLsbD_setBit512_true _ h
  rw [State.icxFire_eq, if_pos (by simp [hh, ho]), State.hostDeliver_sent hb hn hg]
  rfl

/-- HOLDOFF_EXPIRY of a group due, the hub awake, as far as the sources that wait for the host are concerned. -/
theorem holdoffExpiry_due {s : State} {g : Fin 32} {due : Tick} (hf : SMap.find s.icx.holdEnds g = some due) (hd : s.icx.doze = false)
    (ht : Tick.atLeast s.clk.tick due = true) :
    (((List.range 16).map (fun i => 16 * g.val + i)).filter s.icx.hpend.getLsbD = [] →
      holdoffExpiry s g = { s with icx := { s.icx with holdEnds := SMap.del s.icx.holdEnds g } }) ∧
    (∀ x, ((List.range 16).map (fun i => 16 * g.val + i)).filter s.icx.hpend.getLsbD = [x] → s.num O.groupCount ≠ 0 →
      holdoffExpiry s g = (({ s with icx := { s.icx with
        holdEnds := SMap.del s.icx.holdEnds g, hpend := setBit512 s.icx.hpend x false } }).send
        (BitVec.ofNat 17 (s.num (O.groupMember 0))) (.hostIrq (s.hostLine x))).startHoldoff x) := by
  have hg : ¬ ((!Tick.atLeast s.clk.tick due || s.icx.doze) = true) := by simp [hd, ht]
  refine ⟨fun hr => ?_, fun x hr hn => ?_⟩
  · simp only [holdoffExpiry, hf, if_neg hg, hr, List.foldl_nil, List.map_nil, List.eraseDups_nil, ite_self]
  · simp only [holdoffExpiry, hf, if_neg hg, hr, List.foldl_cons, List.foldl_nil, State.insertUrgent, List.map_cons, List.map_nil]
    rw [if_neg (show ¬ State.num { s with icx := { s.icx with
      holdEnds := SMap.del s.icx.holdEnds g, hpend := setBit512 s.icx.hpend x false } } O.groupCount = 0 from hn)]
    rfl

/-- Settles O40: events by the branch that the routing leaves, the ends of hold-off and of accumulation by their conditions. -/
theorem icxEvents : Obligations.IcxEvents := by
  refine ⟨fun s src h hm => ⟨fun hd => ?_, fun hd h5 hc he hh => ?_, fun hd h5 h512 hh ho hn hg => ?_⟩,
    fun s g due hf => ⟨fun h => exec_next_of_eq rfl ?_, fun hd ht hr => exec_next_of_eq rfl ((holdoffExpiry_due hf hd ht).1 hr),
      fun x hd ht hr hg => exec_next_of_eq rfl ((holdoffExpiry_due hf hd ht).2 x hr hg)⟩,
    fun s src f hd hf ht hl => exec_next_of_eq rfl ?_, fun s h1 hst hc he hw hd => exec_next_of_eq rfl ?_,
    fun s => ⟨fun hd => exec_next_of_eq rfl (State.wake_awake hd), fun hd => exec_next_of_eq rfl (if_pos hd)⟩⟩
  · rw [State.icxEvent, if_neg (by simp [h, hm]), if_pos hd]
  · rw [State.icxEvent_awake h hm hd h5, State.icxFire_core hc he hh]
  · rw [State.icxEvent_awake h hm hd h5, State.icxFire_host h512 hh ho hn hg]
  · rcases h with h | h <;> simp [holdoffExpiry, hf, h]
  · simp [coalesceTimeout, hf, hd, ht, hl]
  · exact if_pos ⟨h1, hst, hc, by simp [he], by simp [hw], by simp [hd]⟩

end Sys2Proof.Machine

/-! PROOF. The fault collector: intake, reactions, traps, kicks, the watchdog and injection (15 R490 to R507). -/

namespace Sys2Proof.Machine

/-! ### What a record leaves -/

/-- The part of a record that the collector and the objects hold: the log, its counters and the VAUX store. -/
def State.fileFault (s : State) (m : FaultMsg) (r : Nat) : State :=
  let t := (({ s with fcu := { s.fcu with log := ringPush 1024 s.fcu.log (m.bits r) } }).bump O.faultIndex 64).bump (O.faultCount m.cls) 64
  if m.cls ≥ 2 ∨ m.kind = 0x8B then t.vauxStore (m.bits r) m.cls else t

/-- The rest of a record: ERR_N and the events. -/
theorem State.recordFault_tail (s : State) (m : FaultMsg) (r : Nat) :
    changesOnly [.errN, .notify, .icx, .out] (s.fileFault m r) (s.recordFault m r) := by
  have he : changesOnly [.errN, .notify, .icx, .out] (s.fileFault m r)
      (if (s.fileFault m r).errFor m.source m.cls then (s.fileFault m r).assertErr else s.fileFault m r) :=
    changesOnly.ite (State.assertErr_changes _).within (changesOnly.refl ..)
  have hd : s.recordFault m r = (let t := if (s.fileFault m r).errFor m.source m.cls then (s.fileFault m r).assertErr else s.fileFault m r
      if r = 0 then t else
        let t := t.icxEvent 0x002
        if m.cls ≤ 3 then t.icxEvent (0x010 + m.cls) else t) := rfl
  rw [hd]
  have h2 := he.then (State.icxEvent_changes _ 0x002)
  exact changesOnly.ite he (changesOnly.ite (h2.then (State.icxEvent_changes _ (0x010 + m.cls))) h2)

/-- The counters of a class that a fault counts in are no others'. -/
theorem faultCount_keys {c : Nat} (h : c ≤ 3) :
    (O.faultCount c).key ≠ O.faultIndex.key ∧ (O.faultCount c).key ≠ O.faultsDropped.key ∧ O.chipResets.key ≠ (O.faultCount c).key := by
  simp only [O.faultCount, O.faultIndex, O.faultsDropped, O.chipResets]
  omega

theorem State.num_fcu (s : State) (f : FcuUnit) (o : Obj) : State.num { s with fcu := f } o = s.num o := rfl

/-- A message of class 0 or 1, of no COOL_OK fault, filed: the log and two counters. -/
theorem State.fileFault_low {s : State} {m : FaultMsg} {r : Nat} (hc : m.cls ≤ 1) (hk : m.kind ≠ 0x8B) :
    (s.fileFault m r).fcu = { s.fcu with log := keepLast 1024 (s.fcu.log ++ [m.bits r]) } ∧
      (s.fileFault m r).num O.faultIndex = (s.num O.faultIndex + 1) % 2 ^ 64 ∧
      (s.fileFault m r).num (O.faultCount m.cls) = (s.num (O.faultCount m.cls) + 1) % 2 ^ 64 ∧
      objectsBut [O.faultIndex.key, (O.faultCount m.cls).key] s (s.fileFault m r) ∧ changesOnly [.fcu, .objects] s (s.fileFault m r) := by
  obtain ⟨k1, k2, -⟩ := faultCount_keys (c := m.cls) (by omega)
  have hf : s.fileFault m r = (({ s with fcu := { s.fcu with log := ringPush 1024 s.fcu.log (m.bits r) } }).bump O.faultIndex 64).bump
      (O.faultCount m.cls) 64 := if_neg (fun h => h.elim (by omega) hk)
  rw [hf]
  refine ⟨rfl, ?_, ?_, ?_, ?_⟩
  · rw [State.bump, State.num_setNum_other _ _ _ _ k1.symm, State.bump, State.num_setNum_same, State.num_fcu]
  · rw [State.bump, State.num_setNum_same, State.bump, State.num_setNum_other _ _ _ _ k1, State.num_fcu]
  · exact (((State.fcu_changes s _).objectsBut _ (by decide)).trans (State.setNum_objectsBut (State.mk ..) O.faultIndex _ (by simp))).trans
      (State.setNum_objectsBut _ (O.faultCount m.cls) _ (by simp))
  · exact ((State.fcu_changes s _).within.then (State.setNum_changes _ O.faultIndex _ (by decide))).then
      (State.setNum_changes _ (O.faultCount m.cls) _ k2)


/-! ### The intake -/

theorem State.rollRate_same {s : State} (h : s.fcu.rateAt = s.clk.tick.toNat / 1000) : s.rollRate = s := if_pos h

theorem State.countRate_frame (s : State) (m : FaultMsg) : ∃ x, s.countRate m = { s with fcu := { s.fcu with rate := x } } := by
  unfold State.countRate
  split
  · exact ⟨s.fcu.rate, rfl⟩
  · exact ⟨_, rfl⟩

/-- A message at the head of the queue with reaction 0 or 1 and no block reset of its source is recorded, and that is all. -/
theorem State.react_recorded {s : State} {m : FaultMsg} (h : s.pkg.st ≠ .off) (hm : s.pkg.st.mgmtOnly = false) (hc : m.cls ≤ 1)
    (hr : s.reactionOf m.source m.cls ≤ 1) (hs : s.stillResetting m.source = false) :
    s.react m = s.recordFault m (s.reactionOf m.source m.cls) := by
  have hh : (s.pkg.st == .halt || s.pkg.st == .stopped || s.pkg.st == .grave || s.pkg.st == .off) = false := by
    cases hst : s.pkg.st <;> simp_all [PkgState.mgmtOnly]
  have h3 : (m.cls == 3) = false := by simpa using (by omega : m.cls ≠ 3)
  simp only [State.react, hh, h3, hs, Bool.false_and, Bool.or_self, Bool.false_eq_true, if_false, and_false]
  rw [if_neg (by omega), if_neg (by omega), if_neg (by omega), if_neg (by omega)]

theorem faultIntake_recorded {s : State} {m : FaultMsg} {rest : List FaultMsg} (hu : s.fcu.urgent = []) (hi : s.fcu.intake = m :: rest)
    (hb : s.fcu.heldBack = []) (hat : s.fcu.rateAt = s.clk.tick.toNat / 1000) (h : s.pkg.st ≠ .off) (hm : s.pkg.st.mgmtOnly = false)
    (hc : m.cls ≤ 1) (hk : m.kind ≠ 0x8B) (hrt : SMap.get 0 s.fcu.rate m.source < s.num O.faultRate)
    (hr : s.reactionOf m.source m.cls ≤ 1) (hs : s.stillResetting m.source = false) :
    (faultIntake s).fcu.intake = rest ∧
      (faultIntake s).fcu.log = keepLast 1024 (s.fcu.log ++ [m.bits (s.reactionOf m.source m.cls)]) ∧
      (faultIntake s).num O.faultIndex = (s.num O.faultIndex + 1) % 2 ^ 64 ∧
      (faultIntake s).num (O.faultCount m.cls) = (s.num (O.faultCount m.cls) + 1) % 2 ^ 64 ∧
      objectsBut [O.faultIndex.key, (O.faultCount m.cls).key] s (faultIntake s) ∧
      changesOnly [.fcu, .objects, .errN, .notify, .icx, .out] s (faultIntake s) := by
  obtain ⟨x, hx⟩ := State.countRate_frame { s with fcu := { s.fcu with intake := rest } } m
  obtain ⟨u, hu'⟩ : ∃ u : State, u = { s with fcu := { s.fcu with intake := rest, rate := x } } := ⟨_, rfl⟩
  have he : faultIntake s = u.recordFault m (s.reactionOf m.source m.cls) := by
    have hf : State.refill { s with fcu := { s.fcu with intake := rest } } = { s with fcu := { s.fcu with intake := rest } } := by
      rw [State.refill]
      simp only [hb]
    have ho : ¬ ((s.pkg.st.mgmtOnly || s.pkg.st == .off) = true) := by simp [hm, h]
    have hrec := State.react_recorded (s := u) (m := m) (by rw [hu']; exact h) (by rw [hu']; exact hm) hc (by rw [hu']; exact hr)
      (by rw [hu']; exact hs)
    unfold faultIntake
    dsimp only
    rw [State.rollRate_same hat]
    split
    next h1 => simp [hu] at h1
    next =>
      rw [if_neg ho]
      split
      next h2 => simp [hi] at h2
      next m' rest' h2 =>
        obtain ⟨rfl, rfl⟩ : m' = m ∧ rest' = rest := by simpa [hi, eq_comm] using h2
        rw [hf]
        refine (if_neg fun hg => ?_).trans ?_
        · exact absurd hrt (Nat.not_lt.2 hg.2)
        · rw [hx]
          rw [hu'] at hrec ⊢
          exact hrec
  have hsu : changesOnly [.fcu] s u := by rw [hu']; exact State.fcu_changes ..
  obtain ⟨f1, f2, f3, f4, f5⟩ := State.fileFault_low (s := u) (m := m) (r := s.reactionOf m.source m.cls) hc hk
  have ht := State.recordFault_tail u m (s.reactionOf m.source m.cls)
  have hn : ∀ o : Obj, u.num o = s.num o := fun o => by rw [hu', State.num_fcu]
  have hobj := ht.2 .objects (by decide)
  have hfcu : (u.recordFault m (s.reactionOf m.source m.cls)).fcu = (u.fileFault m (s.reactionOf m.source m.cls)).fcu := (ht.2 .fcu (by decide)).1
  rw [he]
  refine ⟨?_, ?_, ?_, ?_, ?_, ?_⟩
  · rw [hfcu, f1, hu']
  · rw [hfcu, f1, hu']
  · rw [(hobj O.faultIndex).1 (by decide), f2, hn]
  · rw [(hobj (O.faultCount m.cls)).1 (faultCount_keys (by omega)).2.1, f3, hn]
  · exact ((objectsBut.of_dict (by rw [hu']) (by rw [hu'])).trans f4).trans (ht.objectsBut _)
  · exact (hsu.within.then f5).then ht

/-! ### A chip reset -/

/-- The VAUX store takes a word; objects and the package state stay. -/
theorem State.vauxStore_spec (s : State) (w : BitVec 128) (c : Nat) :
    (s.vauxStore w c).fcu.store = keepLast 64 (s.fcu.store ++ [w]) ∧ (s.vauxStore w c).fcu.urgent = s.fcu.urgent ∧
      (s.vauxStore w c).fcu.intake = s.fcu.intake ∧ (s.vauxStore w c).fcu.heldBack = s.fcu.heldBack ∧
      (∀ o, (s.vauxStore w c).num o = s.num o) ∧ (s.vauxStore w c).pkg = s.pkg :=
  ⟨rfl, rfl, rfl, rfl, fun _ => rfl, rfl⟩

/-- A message of class 3 filed: it is the newest of the VAUX store too. -/
theorem State.fileFault_reset {s : State} {m : FaultMsg} {r : Nat} (hc : m.cls = 3) :
    (s.fileFault m r).fcu.store = keepLast 64 (s.fcu.store ++ [m.bits r]) ∧ (s.fileFault m r).fcu.urgent = s.fcu.urgent ∧
      (s.fileFault m r).fcu.intake = s.fcu.intake ∧ (s.fileFault m r).fcu.heldBack = s.fcu.heldBack ∧
      (s.fileFault m r).num O.chipResets = s.num O.chipResets ∧ (s.fileFault m r).pkg = s.pkg := by
  obtain ⟨-, -, k3⟩ := faultCount_keys (c := m.cls) (by omega)
  obtain ⟨u, hu⟩ : ∃ u : State, u = (({ s with fcu := { s.fcu with log := ringPush 1024 s.fcu.log (m.bits r) } }).bump O.faultIndex 64).bump
      (O.faultCount m.cls) 64 := ⟨_, rfl⟩
  have hf : s.fileFault m r = u.vauxStore (m.bits r) m.cls := by
    have hcc : m.cls ≥ 2 ∨ m.kind = 0x8B := .inl (by omega)
    simp only [State.fileFault, if_pos hcc, hu]
  obtain ⟨h1, h2, h3, h4, h5, h6⟩ := State.vauxStore_spec u (m.bits r) m.cls
  have hfcu : u.fcu = { s.fcu with log := keepLast 1024 (s.fcu.log ++ [m.bits r]) } := by
    rw [hu, State.bump, State.setNum_fcu, State.bump, State.setNum_fcu, ringPush]
  rw [hf, h1, h2, h3, h4, h5, h6, hfcu]
  refine ⟨rfl, rfl, rfl, rfl, ?_, ?_⟩
  · rw [hu, State.bump, State.num_setNum_other _ _ _ _ k3, State.bump, State.num_setNum_other _ _ _ _ (by decide), State.num_fcu]
  · rw [hu, State.bump, State.setNum_pkg, State.bump, State.setNum_pkg]

/-- What a record of class 3 leaves of what the reset looks at. -/
theorem State.recordFault_reset {s : State} {m : FaultMsg} {r : Nat} (hc : m.cls = 3) :
    (s.recordFault m r).fcu.store = keepLast 64 (s.fcu.store ++ [m.bits r]) ∧ (s.recordFault m r).fcu.urgent = s.fcu.urgent ∧
      (s.recordFault m r).fcu.intake = s.fcu.intake ∧ (s.recordFault m r).fcu.heldBack = s.fcu.heldBack ∧
      (s.recordFault m r).num O.chipResets = s.num O.chipResets ∧ (s.recordFault m r).pkg.st = s.pkg.st ∧
      (s.recordFault m r).pkg.taken = s.pkg.taken ∧ (s.recordFault m r).pkg.request = s.pkg.request ∧ (s.recordFault m r).pkg.now = s.pkg.now := by
  obtain ⟨h1, h2, h3, h4, hn, hp⟩ := State.fileFault_reset (s := s) (r := r) hc
  have ht := State.recordFault_tail s m r
  have hpkg := ht.2 .pkg (by decide)
  simp only [samePiece] at hpkg
  have hf : (s.recordFault m r).fcu = (s.fileFault m r).fcu := (ht.2 .fcu (by decide)).1
  rw [hf]
  refine ⟨h1, h2, h3, h4, ((ht.2 .objects (by decide)) O.chipResets).1 (by decide) |>.trans hn, ?_⟩
  rw [hpkg, hp]
  exact ⟨rfl, rfl, rfl, rfl⟩

/-- A CHIP_RESET that is no storm: what entry to HALT finds. -/
theorem State.chipReset_first {s : State} {m : FaultMsg} (hc : m.cls = 3) (hr : ∀ x ∈ s.fcu.resets, x + stormWindow ≤ s.us)
    (hl : 2 ≤ s.num O.stormLimit) :
    ∃ u : State, s.chipReset m = u.transition .halt ∧ u.pkg.st = s.pkg.st ∧ u.pkg.taken = s.pkg.taken ∧ u.pkg.request = s.pkg.request ∧
      u.fcu.resets = [s.us] ∧ u.fcu.store = keepLast 64 (s.fcu.store ++ [m.bits 4]) ∧ u.fcu.urgent = s.fcu.urgent ∧
      u.fcu.intake = s.fcu.intake ∧ u.fcu.heldBack = s.fcu.heldBack ∧ u.num O.chipResets = (s.num O.chipResets + 1) % 2 ^ 32 := by
  have hrec : s.fcu.resets.filter (fun t => decide (s.us < t + stormWindow)) = [] := by
    refine List.filter_eq_nil_iff.2 fun x hx => ?_
    have := hr x hx
    simp only [decide_eq_true_eq]
    omega
  obtain ⟨f1, f2, f3, f4, hn, h1, h2, h3, h4⟩ := State.recordFault_reset (s := s) (r := 4) hc
  -- the trap and FAIL_NOTICE leave what the reset looks at
  have htrap : ∃ x, (s.recordFault m 4).lastTrap m 4 = { s.recordFault m 4 with fcu := { (s.recordFault m 4).fcu with traps := x } } := by
    unfold State.lastTrap
    dsimp only
    split <;> exact ⟨_, rfl⟩
  obtain ⟨x, hx⟩ := htrap
  obtain ⟨y, p, hfail⟩ : ∃ y p, ((s.recordFault m 4).lastTrap m 4).failSteps m.kind = { (s.recordFault m 4).lastTrap m 4 with out := y, pwr := p } := by
    unfold State.failSteps
    dsimp only
    split <;> exact ⟨_, _, rfl⟩
  obtain ⟨v, hv⟩ : ∃ v : State, v = ((s.recordFault m 4).lastTrap m 4).failSteps m.kind := ⟨_, rfl⟩
  have he : s.chipReset m = State.transition { v.bump O.chipResets with fcu := { (v.bump O.chipResets).fcu with resets := [v.us] } } .halt := by
    rw [hv, State.chipReset]
    simp only [hrec, List.length_nil, List.nil_append]
    rw [if_neg (by omega)]
  have hvp : v.pkg = (s.recordFault m 4).pkg := by rw [hv, hfail, hx]
  have hvf : v.fcu = { (s.recordFault m 4).fcu with traps := x } := by rw [hv, hfail, hx]
  have hvn : v.num O.chipResets = s.num O.chipResets := by
    rw [← hn, hv, hfail, hx]
    rfl
  have hvus : v.us = s.us := by rw [State.us, hvp, h4]; rfl
  refine ⟨_, he, ?_, ?_, ?_, ?_, ?_, ?_, ?_, ?_, ?_⟩
  · exact (congrArg PkgUnit.st hvp).trans h1
  · exact (congrArg PkgUnit.taken hvp).trans h2
  · exact (congrArg PkgUnit.request hvp).trans h3
  · show [v.us] = _
    rw [hvus]
  · show v.fcu.store = _
    rw [hvf]
    exact f1
  · show v.fcu.urgent = _
    rw [hvf]
    exact f2
  · show v.fcu.intake = _
    rw [hvf]
    exact f3
  · show v.fcu.heldBack = _
    rw [hvf]
    exact f4
  · rw [State.num_fcu, State.bump, State.num_setNum_same, hvn]

theorem State.react_reset {s : State} {m : FaultMsg} (hc : m.cls = 3) (hh : s.pkg.st.hubRuns = true)
    (hu : ∀ x ∈ s.fcu.urgent, x.cls ≤ 1) (hr : s.reactionOf m.source 3 = 4) : s.react m = s.chipReset m := by
  have h1 : (s.pkg.st == .halt || s.pkg.st == .stopped || s.pkg.st == .grave || s.pkg.st == .off) = false := by
    cases hst : s.pkg.st <;> simp_all [PkgState.hubRuns]
  have h2 : s.fcu.urgent.any (fun x => decide (x.cls ≥ 4)) = false := by
    refine List.any_eq_false.2 fun x hx => ?_
    have := hu x hx
    simp only [decide_eq_true_eq]
    omega
  simp only [State.react, h1, h2, hc, hr, Bool.false_and, Bool.and_false, Bool.or_self, Bool.false_eq_true, if_false]
  rfl

/-- Entry to HALT with no message above class 1 waiting. -/
theorem State.enter_halt_fcu {s : State} (h : ∀ x ∈ s.fcu.urgent ++ s.fcu.intake ++ s.fcu.heldBack, x.cls ≤ 1) :
    (s.enter .halt).fcu.resets = s.fcu.resets ∧ (s.enter .halt).fcu.log = [] ∧ (s.enter .halt).fcu.store = s.fcu.store := by
  have hs : s.abortTests.saveFaults = s.abortTests := by
    have hf : (s.abortTests.fcu.urgent ++ s.abortTests.fcu.intake ++ s.abortTests.fcu.heldBack).filter (fun m => decide (m.cls ≥ 2)) = [] := by
      refine List.filter_eq_nil_iff.2 fun x hx => ?_
      rw [State.abortTests_fcu] at hx
      have := h x hx
      simp only [decide_eq_true_eq]
      omega
    rw [State.saveFaults, hf]
    rfl
  simp only [State.enter, State.hubReset, hs, State.abortTests_fcu, and_self]

theorem faultIntake_reset {s : State} {m : FaultMsg} {rest : List FaultMsg} (hu : s.fcu.urgent = m :: rest) (hc : m.cls = 3)
    (hat : s.fcu.rateAt = s.clk.tick.toNat / 1000) (hh : s.pkg.st.hubRuns = true) (hcalm : calm s)
    (hw : ∀ x, x ∈ rest ++ s.fcu.intake ++ s.fcu.heldBack → x.cls ≤ 1) (hr : s.reactionOf m.source 3 = 4)
    (hold : ∀ x ∈ s.fcu.resets, x + stormWindow ≤ s.us) (hl : 2 ≤ s.num O.stormLimit) :
    (faultIntake s).pkg.st = .halt ∧ (faultIntake s).fcu.resets = [s.us] ∧ (faultIntake s).fcu.log = [] ∧
      (faultIntake s).num O.chipResets = (s.num O.chipResets + 1) % 2 ^ 32 ∧
      (faultIntake s).fcu.store = keepLast 64 (s.fcu.store ++ [m.bits 4]) := by
  obtain ⟨x, hx⟩ := State.countRate_frame { s with fcu := { s.fcu with urgent := rest } } m
  obtain ⟨v, hv⟩ : ∃ v : State, v = { s with fcu := { s.fcu with urgent := rest, rate := x } } := ⟨_, rfl⟩
  have hi : faultIntake s = v.react m := by
    unfold faultIntake
    dsimp only
    rw [State.rollRate_same hat]
    split
    next m' rest' h1 =>
      obtain ⟨rfl, rfl⟩ : m' = m ∧ rest' = rest := by simpa [hu, eq_comm] using h1
      rw [hx, hv]
    next h1 => simp [hu] at h1
  have hvs : v.pkg = s.pkg := by rw [hv]
  have hvf : v.fcu.urgent = rest ∧ v.fcu.intake = s.fcu.intake ∧ v.fcu.heldBack = s.fcu.heldBack ∧ v.fcu.resets = s.fcu.resets ∧
      v.fcu.store = s.fcu.store := by rw [hv]; exact ⟨rfl, rfl, rfl, rfl, rfl⟩
  have hvn : ∀ o, v.num o = s.num o := fun o => by rw [hv, State.num_fcu]
  have hvus : v.us = s.us := by rw [State.us, hvs]; rfl
  obtain ⟨f1, f2, f3, f4, f5⟩ := hvf
  have hre : v.react m = v.chipReset m := State.react_reset hc (by rwa [hvs])
    (fun y hy => hw y (by rw [f1] at hy; simp [hy])) (by rw [hv]; exact hr)
  obtain ⟨u, he, u1, u2, u3, u4, u5, u6, u7, u8, u9⟩ := State.chipReset_first (s := v) hc (by rw [f4, hvus]; exact hold) (by rw [hvn]; exact hl)
  have hst : u.pkg.st = s.pkg.st := by rw [u1, hvs]
  have hcu : calm u := ⟨by rw [u2, hvs]; exact hcalm.1, by rw [u3, hvs]; exact hcalm.2⟩
  obtain ⟨-, hh', -, hg'⟩ := PkgState.hubRuns_iff.1 hh
  have htr := State.transition_calm u .halt (by rw [hst]; exact edge_halt hg' hh') hcu.1 hcu.2
  obtain ⟨g1, g2, g3⟩ := State.enter_halt_fcu (s := u) (by rw [u6, u7, u8, f1, f2, f3]; exact hw)
  have hn := (State.enter_halt_objects u O.chipResets).1
  rw [if_pos (by decide)] at hn
  rw [hi, hre, he, htr]
  refine ⟨State.enter_st u .halt, ?_, g2, ?_, ?_⟩
  · show (u.enter .halt).fcu.resets = _
    rw [g1, u4, hvus]
  · show (u.enter .halt).num O.chipResets = _
    rw [hn, u9, hvn]
  · show (u.enter .halt).fcu.store = _
    rw [g3, u5, f5]

/-- Settles O38: the head of the queue and the urgent reset by what they leave, the registers by their branches. -/
theorem faultCollector : Obligations.FaultCollector := by
  refine ⟨fun s m rest hu hi hb hat h hm hc hk hrt hr hs => ⟨faultIntake s, rfl, faultIntake_recorded hu hi hb hat h hm hc hk hrt hr hs⟩,
    fun s m rest hu hc hat hh hcalm hw hr hold hl => ⟨faultIntake s, rfl, faultIntake_reset hu hc hat hh hcalm hw hr hold hl⟩,
    fun s who v => ⟨fun hc hv => exec_next_of_eq rfl ?_, fun hc hv => exec_next_of_eq rfl ?_, fun hc => exec_next_of_eq rfl ?_⟩,
    fun s who c v => ⟨fun hc hv => exec_next_of_eq rfl ?_, fun hc hv => exec_next_of_eq rfl ?_, fun hc => exec_next_of_eq rfl ?_⟩,
    fun s c k hk => ⟨fun h => exec_next_of_eq rfl ?_, fun h => exec_next_of_eq rfl ?_⟩,
    fun s who w a b c v hj hv => ⟨fun hc hst hcl hk => exec_next_of_eq rfl ?_, fun hc h => exec_next_of_eq rfl ?_, fun hc => exec_next_of_eq rfl ?_⟩⟩
  · simp [fcuTrapDone, hc, hv]
  · simp [fcuTrapDone, hc, hv]
  · simp [fcuTrapDone, hc, State.refuseReg]
  · simp [fcuKick, hc, hv]
  · simp [fcuKick, hc, hv]
  · simp [fcuKick, hc, State.refuseReg]
  · simp only [watchdog, hk, if_neg (Nat.not_lt.2 h)]
  · simp only [watchdog, hk, if_pos h]
  · have hg : ¬ (s.pkg.st ≠ .drained ∨ bits v 55 53 ≥ 3 ∨ (!knownKind (bits v 63 56)) = true) := by
      simp [hst, hk]
      omega
    rw [fcuInject, if_neg (by simp [hc]), hj]
    subst hv
    exact if_neg hg
  · have hg : s.pkg.st ≠ .drained ∨ bits v 55 53 ≥ 3 ∨ (!knownKind (bits v 63 56)) = true := by simpa using h
    rw [fcuInject, if_neg (by simp [hc]), hj]
    subst hv
    exact if_pos hg
  · rw [fcuInject, if_pos (by simp [hc])]
    rfl

end Sys2Proof.Machine

/-! PROOF. The plinth link (14 R457 to R461), and a statement about the thermal holds that a state refutes (O43). -/

namespace Sys2Proof.Machine

/-! ### The plinth link -/

/-- A sound frame with nothing wrong in it: the manager takes its readings, and at the first of a tick counts the power. -/
theorem telemetryFrame_sound {s : State} {w : BitVec 128} {x : Tele} (hr : s.pkg.st.hubRuns = true)
    (hx : readTelemetry w ((s.clk.tick - 1).toNat % 16) = some x) (h1 : x.vcoreOk = true) (h2 : x.vmemOk = true) (h3 : x.vauxOk = true)
    (h4 : x.inputLow = false) (h5 : x.vcore ≤ 950) (h6 : x.vmem ≤ 1250) (h7 : s.pwr.supplyPull = false) :
    ∃ u : State, (u = { s with pwr := { s.pwr with
        tele := some { x with settled := x.settled && s.pwr.cmd == 0 && s.pwr.cmdAt != some s.clk.tick }
        missed := 0, gotFrame := true, silent := false, lost := false
        p := (x.vcore * x.icore + x.vmem * x.imem + x.vaux * x.iaux) / 4, railBad := 0, overRun := 0 } }) ∧
      telemetryFrame s w = if (!s.pwr.gotFrame) = true then u.countPower else u := by
  have hv : ¬ (x.vcore > 950 ∨ x.vmem > 1250) := by omega
  refine ⟨_, rfl, ?_⟩
  have hs : ∀ u : State, u.pwr.supplyPull = false → (if u.pwr.supplyPull ∧ u.pwr.clearSince = none then
      { u with pwr := { u.pwr with clearSince := some u.clk.tick } } else u) = u := fun u hu => if_neg (by simp [hu])
  have hc : ∀ u : State, u.countPower.pwr.supplyPull = u.pwr.supplyPull := fun u => by
    unfold State.countPower
    split <;> rfl
  have hf : ∀ (b : Bool) (u : State), (if b = true then u.countPower else u).pwr.supplyPull = u.pwr.supplyPull := fun b u => by
    cases b
    · rfl
    · exact hc u
  simp only [telemetryFrame, hr, hx, h1, h2, h3, h4, Bool.not_true, Bool.false_eq_true, if_false, Bool.and_self, if_true, if_neg hv, Tele.power,
    show ¬ (0 : Nat) = 100 by decide]
  exact hs _ ((hf _ _).trans h7)

/-- The power counted for a tick leaves the readings. -/
theorem State.countPower_readings (s : State) :
    s.countPower.pwr.tele = s.pwr.tele ∧ s.countPower.pwr.p = s.pwr.p ∧ s.countPower.pwr.missed = s.pwr.missed ∧
      s.countPower.pwr.silent = s.pwr.silent ∧ s.countPower.pwr.railBad = s.pwr.railBad ∧ s.countPower.pwr.overRun = s.pwr.overRun ∧
      s.countPower.pwr.supplyPull = s.pwr.supplyPull ∧ changesOnly [.pwr] s s.countPower := by
  unfold State.countPower
  split
  · exact ⟨rfl, rfl, rfl, rfl, rfl, rfl, rfl, changesOnly.refl ..⟩
  · rename_i t ht
    exact ⟨ht.symm ▸ rfl, rfl, rfl, rfl, rfl, rfl, rfl, State.pwr_changes ..⟩

theorem State.beginSupplyPull_pwr (s : State) :
    s.beginSupplyPull.pwr = { s.pwr with supplyPull := true, clearSince := none } ∧
      changesOnly [.pwr, .fcu, .errN, .notify, .icx, .out] s s.beginSupplyPull := by
  unfold State.beginSupplyPull
  split
  · rename_i h
    exact ⟨by rw [← h], (State.pwr_changes s _).within⟩
  · exact ⟨by rw [State.icxEvent_pwr, State.raise_pwr],
      ((State.pwr_changes s _).within.then (State.raise_changes ..)).then (State.icxEvent_changes ..)⟩

theorem plinthSilent_begins {s : State} (hr : s.pkg.st.hubRuns = true) (hm : 16 ≤ s.pwr.missed) (hs : s.pwr.silent = false) :
    (plinthSilent s).pwr = { s.pwr with silent := true, supplyPull := true, clearSince := none } ∧
      changesOnly [.pwr, .fcu, .errN, .notify, .icx, .out] s (plinthSilent s) := by
  obtain ⟨u, hu⟩ : ∃ u : State, u = ({ s with pwr := { s.pwr with silent := true } }).raise srcPlinth 0 0x85 1 0 := ⟨_, rfl⟩
  have he : plinthSilent s = u.beginSupplyPull := by
    rw [hu, plinthSilent, if_pos (by simp [hr, hm, hs])]
  obtain ⟨h1, h2⟩ := State.beginSupplyPull_pwr u
  have hp : u.pwr = { s.pwr with silent := true } := by rw [hu, State.raise_pwr]
  have hsu : changesOnly [.pwr, .fcu, .errN, .notify, .icx, .out] s u := by
    rw [hu]
    exact (State.pwr_changes s _).within.then (State.raise_changes ..)
  rw [he]
  exact ⟨by rw [h1, hp], hsu.trans h2⟩

/-- Settles O41: each command of the link by its branch. -/
theorem plinthLink : Obligations.PlinthLink := by
  intro s hr
  refine ⟨exec_next_of_eq rfl ?_, fun w hw => exec_next_of_eq rfl ?_, fun w x hx h1 h2 h3 h4 h5 h6 h7 => ?_,
    fun hm hs => ⟨plinthSilent s, rfl, plinthSilent_begins hr hm hs⟩, fun hm hl => exec_next_of_eq rfl ?_, fun hm => exec_next_of_eq rfl ?_,
    fun hm => exec_next_of_eq rfl ?_⟩
  · rw [plinthCommand, if_neg (by simp [hr])]
    rfl
  · rw [telemetryFrame, if_neg (by simp [hr]), hw]
    rfl
  · obtain ⟨u, hu, he⟩ := telemetryFrame_sound hr hx h1 h2 h3 h4 h5 h6 h7
    obtain ⟨c1, c2, c3, c4, c5, c6, c7, c8⟩ := State.countPower_readings u
    have hch : changesOnly [.pwr] s u := by rw [hu]; exact State.pwr_changes ..
    refine ⟨telemetryFrame s w, rfl, ?_⟩
    rw [he]
    split
    · rw [c1, c2, c3, c4, c5, c6, c7]
      refine ⟨?_, ?_, ?_, ?_, ?_, ?_, ?_, hch.trans c8⟩ <;> rw [hu]
      exact h7
    · refine ⟨?_, ?_, ?_, ?_, ?_, ?_, ?_, hch⟩ <;> rw [hu]
      exact h7
  · rw [plinthLost, if_pos (by simp [hr, hm, hl])]
  · exact if_neg (by simp; omega)
  · exact if_neg (by simp; omega)

/-! ### Readings with a calibration set in use -/

/-- BOOT at tick 0 with the thermal limits at 1. The safe defaults are flagged, and yet a calibration set stands in use, whose sensor
offsets are 0. -/
def flaggedDefaults : State :=
  { State.reset with
    pkg := { st := .boot }
    pwr := { reins := [(0, { thermal := 1 }), (1, { thermal := 1 }), (2, { thermal := 1 }), (3, { thermal := 1 })] }
    sec := { State.reset.sec with calDefaults := true, calUse := [0] } }

/-- Refutes O43: the offset of a sensor comes from the set in use, not from the flag, so readings of 0 leave TEMP_MAX at 0. -/
theorem not_holdsAndLimits : ¬ Obligations.HoldsAndLimits := by
  rintro ⟨-, -, -, h, -⟩
  obtain ⟨t, ht, -, -, hn, -⟩ := h flaggedDefaults rfl rfl rfl rfl rfl (by decide)
  rw [← (Host.Outcome.next.inj ht : thermalHoldStep flaggedDefaults (List.replicate 52 0) = t)] at hn
  exact absurd hn (by decide +kernel)

end Sys2Proof.Machine

/-! PROOF. Credits, claims and stealing (04 R127 to R149). -/

namespace Sys2Proof.Machine

/-! ### Maps, parities and cores -/

theorem SMap.find_put_same {β : Type} (m : SMap β) (k : Nat) (v : β) : SMap.find (SMap.put m k v) k = some v := by
  induction m with
  | nil => simp [SMap.put, SMap.find]
  | cons e r ih =>
    obtain ⟨j, w⟩ := e
    simp only [SMap.put]
    split
    · simp [SMap.find]
    · split
      · simp [SMap.find]
      · rename_i h
        rw [SMap.find, if_neg (fun h' => h h'.symm), ih]

theorem State.parity_setParity_same (s : State) (c o : Bool) (p : Parity) : (s.setParity c o p).parity c o = p := by
  cases c <;> cases o <;> rfl

/-- A parity written over with itself. -/
theorem State.setParity_self (s : State) (c o : Bool) : s.setParity c o (s.parity c o) = s := by
  cases c <;> cases o <;> rfl

theorem State.setParity_changes (s : State) (c o : Bool) (p : Parity) : changesOnly [.cred] s (s.setParity c o p) := by
  cases c <;> cases o <;> exact State.cred_changes ..

theorem State.setParity_cores (s : State) (c o : Bool) (p : Parity) : (s.setParity c o p).cred.cores = s.cred.cores := by
  cases c <;> cases o <;> rfl

theorem State.setWord_changes (s : State) (c o : Bool) (i : Nat) (w : InstWord) : changesOnly [.cred] s (s.setWord c o i w) :=
  State.setParity_changes ..

theorem State.setCore_changes (s : State) (g : Nat) (c : Core) : changesOnly [.cred] s (s.setCore g c) := State.cred_changes ..

theorem State.coreAt_setWord (s : State) (c o : Bool) (i : Nat) (w : InstWord) (g : Nat) : (s.setWord c o i w).coreAt g = s.coreAt g := by
  rw [State.coreAt, State.setWord, State.setParity_cores]
  rfl

theorem State.word_setWord_same (s : State) (c o : Bool) (i : Nat) (w : InstWord) : (s.setWord c o i w).word c o i = w := by
  rw [State.word, State.setWord, State.parity_setParity_same]
  simp only [SMap.find_put_same]

/-- A core's running state is no part of a state word. -/
theorem State.word_setCore (s : State) (g : Nat) (k : Core) (c o : Bool) (i : Nat) : (s.setCore g k).word c o i = s.word c o i := by
  cases c <;> cases o <;> rfl

theorem State.unplaced_setWord (s : State) (c o a b : Bool) (i : Nat) (w : InstWord) :
    ((s.setWord c o i w).parity a b).unplaced = (s.parity a b).unplaced := by
  cases c <;> cases o <;> cases a <;> cases b <;> rfl

theorem State.unplaced_setCore (s : State) (g : Nat) (k : Core) (a b : Bool) : ((s.setCore g k).parity a b).unplaced = (s.parity a b).unplaced := by
  cases a <;> cases b <;> rfl

/-- The template of a parity is that of its copy slot. -/
theorem State.templ_setParity (s : State) (c o : Bool) (p : Parity) (h : p.slot = (s.parity c o).slot) :
    (s.setParity c o p).templ c o = s.templ c o := by
  have hw : (s.setParity c o p).wts = s.wts := (State.setParity_changes s c o p).2 .wts (by decide)
  rw [State.templ, State.templ, State.parity_setParity_same, h, State.templateOn, State.templateOn, hw]

/-! ### Grants -/

theorem State.pump_nil (n : Nat) (s : State) : State.pump n [] s = s := by cases n <;> rfl

/-- One grant to a counter on which no instances wait and that does not overflow. -/
theorem State.applyGrant_free {s : State} {g : GrantWork} (hw : (s.templ g.covered g.odd).waiters g.counter = [])
    (hn : SMap.get 0 (s.parity g.covered g.odd).counters g.counter + g.amount ≤ 65535) :
    s.applyGrant g = (s.setParity g.covered g.odd { s.parity g.covered g.odd with
      counters := SMap.set 0 (s.parity g.covered g.odd).counters g.counter
        (SMap.get 0 (s.parity g.covered g.odd).counters g.counter + g.amount) }, []) := by
  have hm : Nat.min 65535 (SMap.get 0 (s.parity g.covered g.odd).counters g.counter + g.amount) =
      SMap.get 0 (s.parity g.covered g.odd).counters g.counter + g.amount := Nat.min_eq_right hn
  simp only [State.applyGrant, hm, if_neg (Nat.not_lt.2 hn)]
  rw [State.templ_setParity, hw]
  · rfl
  · rfl

theorem State.grants_free {s : State} {g : GrantWork} (hw : (s.templ g.covered g.odd).waiters g.counter = [])
    (hn : SMap.get 0 (s.parity g.covered g.odd).counters g.counter + g.amount ≤ 65535) :
    s.grants [g] = s.setParity g.covered g.odd { s.parity g.covered g.odd with
      counters := SMap.set 0 (s.parity g.covered g.odd).counters g.counter
        (SMap.get 0 (s.parity g.covered g.odd).counters g.counter + g.amount) } := by
  have hl : [g].length + 2 * (s.templ g.covered g.odd).instances = 2 * (s.templ g.covered g.odd).instances + 1 := by simp; omega
  rw [State.grants, hl, State.pump, State.applyGrant_free hw hn]
  exact State.pump_nil ..

theorem grant_first {s : State} {c odd : Bool} {course : W64} {k : BitVec 18} {n : BitVec 12} {src : Node} {i : BitVec 20}
    (hp : s.courseParity c course = some odd) (hf : s.eng.seen.contains (c, course, src, arrivalNo i 0 255) = false) :
    grant s c course k n src i = State.grants { s with eng := { s.eng with seen := s.eng.seen ++ [(c, course, src, arrivalNo i 0 255)] } }
      [{ covered := c, odd := odd, counter := k.toNat, amount := n.toNat, cause := none }] := by
  simp only [grant, hp, State.firstTime, hf, Bool.false_eq_true, if_false]

theorem grant_again {s : State} {c odd : Bool} {course : W64} {k : BitVec 18} {n : BitVec 12} {src : Node} {i : BitVec 20}
    (hp : s.courseParity c course = some odd) (hf : s.eng.seen.contains (c, course, src, arrivalNo i 0 255) = true) :
    grant s c course k n src i = s := by
  simp only [grant, hp, State.firstTime, hf, if_true]

/-! ### Retirement -/

/-- With nothing to send, retirement in a kind with no effect of its own sends nothing. -/
theorem State.retireEffects_none {s : State} {c o : Bool} {d : Descriptor} {i inst : Nat}
    (hk : d.kind.toNat ∉ [0x05, 0x12, 0x17, 0x1A, 0x1B]) (hm : s.mir.outbox = []) : s.retireEffects c o d i inst false = s := by
  have hf : s.flushOut c o inst = s := by
    have hp : s.putOut c o inst [] = s := by
      have he : s.putOut c o inst [] = { s with mir := { s.mir with outbox := [] } } := by
        simp only [State.putOut, hm, List.filter_nil, List.append_nil]
      rw [he, ← hm]
    rw [State.flushOut, hm, hp]
    rfl
  simp only [List.mem_cons, List.not_mem_nil, or_false, not_or] at hk
  obtain ⟨-, h1, h2, h3, h4⟩ := hk
  unfold State.retireEffects
  split
  · exact absurd ‹_› h4
  · exact absurd ‹_› h1
  · exact absurd ‹_› h2
  · exact absurd ‹_› h3
  · exact hf

/-- The core that asks for a retirement, freed. -/
def Core.freed (c : Core) (busy : Nat) : Core :=
  { c with running := none, done := false, retired := c.retired + 1, busy := c.busy + BitVec.ofNat 32 busy }

theorem retireRequest_plain {s : State} {r : Run} {d : Descriptor} {i : Nat} (hr : s.runs r = true) (hd : (s.coreAt (runCore r)).done = true)
    (ht : (s.templ r.covered (oddOf (s.streamOf r.covered).course)).find r.inst.toNat = some (d, i))
    (hk : d.kind.toNat ∉ [0x05, 0x12, 0x17, 0x1A, 0x1B]) (hg : d.grants = []) (hm : s.mir.outbox = []) :
    ∃ (b : Nat) (w : InstWord), retireRequest s r = ((s.drawNat.2.countBusy b).setCore (runCore r) ((s.coreAt (runCore r)).freed b)).setWord
      r.covered (oddOf (s.streamOf r.covered).course) r.inst.toNat { w with st := .retired, holder := none } := by
  have h5 : d.kind ≠ 0x05 := fun h => hk (by rw [h]; decide)
  refine ⟨s.drawNat.1 % 2 ^ 32, ((s.drawNat.2.countBusy (s.drawNat.1 % 2 ^ 32)).setCore (runCore r)
    ((s.coreAt (runCore r)).freed (s.drawNat.1 % 2 ^ 32))).word r.covered (oddOf (s.streamOf r.covered).course) r.inst.toNat, ?_⟩
  simp only [retireRequest, hr, hd, ht, if_neg h5, State.retire, hg, List.map_nil, Bool.not_true, Bool.or_self, Bool.false_eq_true, if_false]
  refine State.retireEffects_none hk ?_
  rw [(State.setWord_changes _ _ _ _ _).2 .mir (by decide)]
  exact hm

/-! ### Claims -/

/-- With nothing held unplaced a pop lets nothing be placed. -/
theorem State.placeHeld_none {s : State} (h : ∀ a b, (s.parity a b).unplaced = []) (q : Nat) : s.placeHeld q = s := by
  have hs : ∀ cov odd, (if !s.started cov odd then s else
      ((s.parity cov odd).unplaced.filter (fun (x : Nat × Nat) => x.2 == q || x.2 == 4)).foldl (fun (u : State) x => u.place cov odd x.1 none)
        (s.setParity cov odd { s.parity cov odd with
          unplaced := (s.parity cov odd).unplaced.filter (fun x => !(x.2 == q || x.2 == 4)) })) = s := fun cov odd => by
    have hp : { s.parity cov odd with unplaced := [] } = s.parity cov odd := by rw [← h cov odd]
    rw [h cov odd, List.filter_nil, List.filter_nil, List.foldl_nil, hp, State.setParity_self, ite_self]
  simp only [State.placeHeld, List.foldl_cons, List.foldl_nil]
  rw [hs, hs, hs, hs]

theorem runClaim_claims {s : State} {r : Run} {odd : Bool} {rest : List Entry} {w : InstWord} (h1 : (s.coreAt (runCore r)).st = .active)
    (h2 : (s.coreAt (runCore r)).running = none) (h3 : (s.coreAt (runCore r)).waits = false)
    (h4 : (s.coreAt (runCore r)).deque = rest ++ [entryOf r.covered odd r.inst.toNat]) (h5 : s.started r.covered odd = true)
    (h6 : SMap.find (s.parity r.covered odd).words r.inst.toNat = some w) (h7 : w.st = .ready) (h8 : w.holder.map (·.val) = some (runCore r))
    (h9 : ∀ a b, (s.parity a b).unplaced = []) :
    runClaim s r = (s.setWord r.covered odd r.inst.toNat { w with st := .running }).setCore (runCore r)
      { s.coreAt (runCore r) with deque := rest, running := some (entryOf r.covered odd r.inst.toNat), done := false } := by
  have hg : ¬ ((s.coreAt (runCore r)).st ≠ .active ∨ (s.coreAt (runCore r)).running ≠ none ∨ (s.coreAt (runCore r)).waits = true) := by
    simp [h1, h2, h3]
  have hne : (s.coreAt (runCore r)).deque ≠ [] := by simp [h4]
  have hlast : (s.coreAt (runCore r)).deque.getLast? = some (entryOf r.covered odd r.inst.toNat) := by simp [h4]
  have hw : s.word r.covered odd r.inst.toNat = w := by rw [State.word, h6]
  obtain ⟨k, hk, hkv⟩ := Option.map_eq_some_iff.1 h8
  have hd : (s.coreAt (runCore r)).deque.dropLast = rest := by simp [h4]
  unfold runClaim
  dsimp only
  rw [if_neg hg]
  obtain ⟨a, as, has⟩ := List.exists_cons_of_ne_nil hne
  rw [has] at hlast hd
  simp only [has]
  rw [hlast]
  dsimp only [entryOf]
  rw [if_neg (by simp), hw, hd]
  rw [h7, hk, h5]
  simp only [hkv, beq_self_eq_true, Bool.and_self, if_true]
  rw [State.placeHeld_none]
  exact fun a b => by rw [State.unplaced_setCore, State.unplaced_setWord, h9]

theorem State.drawNat_changes (s : State) : changesOnly [.free] s s.drawNat.2 :=
  ⟨rfl, fun p hp => by cases p <;> simp_all [samePiece, State.num, State.blob, State.drawNat]⟩
theorem State.eng_changes (s : State) (x : RouterEngine) : changesOnly [.eng] s { s with eng := x } :=
  ⟨rfl, fun p hp => by cases p <;> simp_all [samePiece, State.num, State.blob]⟩

theorem State.countBusy_changes (s : State) (n : Nat) : changesOnly [.ses] s (s.countBusy n) := State.ses_changes ..

/-- Settles O31: with no waiter a grant only moves its counter, a plain retirement sends nothing, and with nothing held unplaced a claim only
takes the entry off the deque. -/
theorem creditsAndClaims : Obligations.CreditsAndClaims := by
  unfold Obligations.CreditsAndClaims
  refine ⟨fun s c course k n src i => ⟨fun hp => ?_, fun odd hp hf hw hn => ?_, fun odd hp hf => exec_next_of_eq rfl (grant_again hp hf)⟩,
    fun s r odd d i ho hr hd ht hk hg hm => ?_, fun s r odd rest w ho h1 h2 h3 h4 h5 h6 h7 h8 h9 => ?_⟩
  · refine exec_next_of_eq rfl ?_
    simp only [grant, hp]
  · refine ⟨_, exec_next_of_eq rfl ((grant_first hp hf).trans (State.grants_free hw hn)), ?_, ?_, ?_⟩
    · rw [State.parity_setParity_same]
      exact SMap.get_set_same ..
    · rw [(State.setParity_changes ..).2 .eng (by decide)]
    · exact ((State.eng_changes s _).within.then (State.setParity_changes ..))
  · subst ho
    obtain ⟨b, w, he⟩ := retireRequest_plain hr hd ht hk hg hm
    refine ⟨_, exec_next_of_eq rfl he, ?_, ?_, ?_, ?_, ?_⟩
    · rw [State.word_setWord_same]
    · rw [State.word_setWord_same]
    · rw [State.coreAt_setWord, State.coreAt_setCore_same]
      rfl
    · rw [State.coreAt_setWord, State.coreAt_setCore_same]
      rfl
    · exact (s.drawNat_changes.within.then (State.countBusy_changes ..)).then ((State.setCore_changes ..).then (State.setWord_changes ..))
  · subst ho
    refine ⟨_, exec_next_of_eq rfl (runClaim_claims h1 h2 h3 h4 h5 h6 h7 h8 h9), State.coreAt_setCore_same .., ?_, ?_⟩
    · rw [State.word_setCore, State.word_setWord_same]
    · exact ((State.setWord_changes ..).then (State.setCore_changes ..)).within

/-! ### Stealing -/

/-- The core's row of the map where it may be the one written. -/
theorem State.coreAt_setCore (s : State) (g k : Nat) (c : Core) : (s.setCore g c).coreAt k = if k = g then c else s.coreAt k := by
  split
  · rename_i h
    rw [h, State.coreAt_setCore_same]
  · rw [State.coreAt_setCore_other _ _ _ _ ‹_›]

theorem State.refreshHub_changes (s : State) : changesOnly [.cred, .free] s s.refreshHub := by
  rw [State.refreshHub]
  dsimp only
  split
  · exact s.drawNat_changes.within
  · exact s.drawNat_changes.within.then (State.cred_changes ..)

@[simp] theorem State.coreAt_refreshHub (s : State) (k : Nat) : s.refreshHub.coreAt k = s.coreAt k := by
  rw [State.refreshHub]
  dsimp only
  split <;> rfl

/-- The hub's totals are those it had or the depths published. -/
theorem State.hubDepth_refreshHub (s : State) (k : Nat) (h : ∀ j, s.hubDepth j = 0) (hs : ∀ gs, s.shownDepth gs = 0) :
    s.refreshHub.hubDepth k = 0 := by
  rw [State.refreshHub]
  dsimp only
  split
  · exact h k
  · simp only [State.hubDepth, hs]
    rfl

theorem State.stealTop_one {s : State} {g v : Nat} {x : Entry} {rest : List Entry} (h : (s.coreAt v).deque = x :: rest) :
    ∃ u, s.stealTop g v 1 = (true, u) ∧ changesOnly [.cred] s u ∧
      ∀ k, u.coreAt k = ((s.setCore v { s.coreAt v with deque := rest }).setCore g
        { s.coreAt g with deque := (s.coreAt g).deque ++ [x], steals := (s.coreAt g).steals + 1 }).coreAt k := by
  have hc := (State.setCore_changes s v { s.coreAt v with deque := rest }).then (State.setCore_changes _ g
    { s.coreAt g with deque := (s.coreAt g).deque ++ [x], steals := (s.coreAt g).steals + 1 })
  simp only [State.stealTop, h, List.take_succ_cons, List.take_zero, List.isEmpty_cons, Bool.false_eq_true, if_false, List.foldl_cons,
    List.foldl_nil, List.drop_succ_cons, List.drop_zero]
  refine ⟨_, rfl, ?_, fun k => ?_⟩
  · split
    · split
      · split
        · exact hc.then (State.setWord_changes ..)
        · exact hc
      · exact hc
    · exact hc
  · split
    · split
      · split
        · rw [State.coreAt_setWord]
        · rfl
      · rfl
    · rfl

theorem State.stealTop_miss {s : State} {g v n : Nat} (h : (s.coreAt v).deque = []) :
    s.stealTop g v n = (false, s.setCore g { s.coreAt g with misses := (s.coreAt g).misses + 1 }) := by
  simp only [State.stealTop, h, List.take_nil, List.isEmpty_nil, if_true]

/-- The seven neighbours tried in turn, the first of which holds work. -/
theorem State.search_first {s u : State} {q nn : Nat} (h : s.stealTop (q * 96 + nn) (q * 96 + 8 * (nn / 8) + (nn % 8 + 1) % 8) 1 = (true, u)) :
    s.search q nn = (true, u) := by
  have hk : (List.range 7).foldl (fun (acc : Bool × State) k =>
      if acc.1 then acc else acc.2.stealTop (q * 96 + nn) (q * 96 + 8 * (nn / 8) + (nn % 8 + k + 1) % 8) 1) (false, s) = (true, u) := by
    rw [show List.range 7 = [0, 1, 2, 3, 4, 5, 6] from rfl]
    simp only [List.foldl_cons, List.foldl_nil, Nat.add_zero, h, Bool.false_eq_true, if_false, if_true]
  rw [State.search]
  dsimp only
  rw [hk]
  rfl

/-- The state u is s with n more misses of the core g. -/
def State.MissedBy (s : State) (g n : Nat) (u : State) : Prop :=
  changesOnly [.cred] s u ∧ u.cred.hub = s.cred.hub ∧
    ∀ k, u.coreAt k = if k = g then { s.coreAt g with misses := (s.coreAt g).misses + BitVec.ofNat 32 n } else s.coreAt k

theorem State.MissedBy.deque {s u : State} {g n : Nat} (h : s.MissedBy g n u) (k : Nat) : (u.coreAt k).deque = (s.coreAt k).deque := by
  rw [h.2.2]
  split
  · rename_i hk
    rw [hk]
  · rfl

theorem State.MissedBy.shown {s u : State} {g n : Nat} (h : s.MissedBy g n u) (k : Nat) : (u.coreAt k).shown = (s.coreAt k).shown := by
  rw [h.2.2]
  split
  · rename_i hk
    rw [hk]
  · rfl

theorem State.MissedBy.refl (s : State) (g : Nat) : s.MissedBy g 0 s := by
  refine ⟨changesOnly.refl _ _, rfl, fun k => ?_⟩
  split
  · rename_i hk
    rw [hk, BitVec.add_zero]
  · rfl

theorem State.MissedBy.again {s u : State} {g n : Nat} (h : s.MissedBy g n u) :
    s.MissedBy g (n + 1) (u.setCore g { u.coreAt g with misses := (u.coreAt g).misses + 1 }) := by
  refine ⟨h.1.then (State.setCore_changes ..), h.2.1, fun k => ?_⟩
  rw [State.coreAt_setCore]
  split
  · rw [h.2.2 g, if_pos rfl, BitVec.ofNat_add, BitVec.add_assoc]
    rfl
  · rw [h.2.2 k, if_neg ‹_›]

/-- Victims with nothing to give are each one miss. -/
theorem State.misses_fold {s : State} {g : Nat} (hs : ∀ k, (s.coreAt k).deque = []) (victim : Nat → Nat) (ks : List Nat) :
    ∀ {n : Nat} {u : State}, s.MissedBy g n u → ∃ w, s.MissedBy g (n + ks.length) w ∧
      ks.foldl (fun (acc : Bool × State) k => if acc.1 then acc else acc.2.stealTop g (victim k) 1) (false, u) = (false, w) := by
  induction ks with
  | nil => exact fun h => ⟨_, h, rfl⟩
  | cons k ks ih =>
    intro n u h
    obtain ⟨w, hw, he⟩ := ih h.again
    refine ⟨w, by rw [List.length_cons, ← Nat.add_assoc, Nat.add_right_comm]; exact hw, ?_⟩
    rw [List.foldl_cons]
    dsimp only
    rw [if_neg Bool.false_ne_true, State.stealTop_miss (by rw [h.deque, hs]), he]

theorem sumNat_zero (xs : List Nat) (h : ∀ x ∈ xs, x = 0) : sumNat xs = 0 := by
  have hf : ∀ ys : List Nat, (∀ y ∈ ys, y = 0) → ys.foldl (· + ·) 0 = 0 := fun ys => by
    induction ys with
    | nil => exact fun _ => rfl
    | cons y ys ih =>
      intro hy
      rw [List.foldl_cons, hy y (List.mem_cons_self ..)]
      exact ih (fun z hz => hy z (List.mem_cons_of_mem _ hz))
  exact hf xs h

theorem State.shownDepth_zero {s : State} (h : ∀ k, (s.coreAt k).shown = 0) (gs : List Nat) : s.shownDepth gs = 0 :=
  sumNat_zero _ (fun x hx => by
    obtain ⟨g, -, rfl⟩ := List.mem_map.1 hx
    exact h g)

/-- A search where no core has work and none shows any: seven misses. -/
theorem State.search_none {s : State} {q nn : Nat} (hd : ∀ k, (s.coreAt k).deque = []) (hs : ∀ k, (s.coreAt k).shown = 0)
    (hh : ∀ k, s.hubDepth k = 0) : ∃ u, s.search q nn = (false, u) ∧ s.MissedBy (q * 96 + nn) 7 u := by
  obtain ⟨u, hu, he⟩ := State.misses_fold hd (fun k => q * 96 + 8 * (nn / 8) + (nn % 8 + k + 1) % 8) (List.range 7)
    (State.MissedBy.refl s (q * 96 + nn))
  have hz : ∀ gs, u.shownDepth gs = 0 := State.shownDepth_zero (fun k => by rw [hu.shown, hs])
  have hb : ∀ k, u.hubDepth k = 0 := fun k => by rw [State.hubDepth, hu.2.1]; exact hh k
  refine ⟨u, ?_, hu⟩
  rw [State.search]
  dsimp only
  rw [he]
  simp only [hz, hb, if_true, Option.bind_fun_none, Bool.false_eq_true, if_false]

theorem steal_searches {s : State} {q : Fin 4} {nn : Fin 96} (h1 : (s.coreAt (coreNo q nn)).st = .active)
    (h2 : (s.coreAt (coreNo q nn)).running = none) (h3 : (s.coreAt (coreNo q nn)).waits = false)
    (h4 : (s.coreAt (coreNo q nn)).deque = []) (h5 : s.overflow q.val = []) :
    steal s q nn = if (s.refreshHub.search q.val nn.val).1 then (s.refreshHub.search q.val nn.val).2
      else (s.refreshHub.search q.val nn.val).2.setCore (coreNo q nn)
        { (s.refreshHub.search q.val nn.val).2.coreAt (coreNo q nn) with waits := true } := by
  rw [steal]
  dsimp only
  rw [if_neg (by simp [h1, h2, h3, h4, h5])]

theorem steal_neighbour {s : State} {q : Fin 4} {nn : Fin 96} {x : Entry} {rest : List Entry} {v : Nat}
    (hv : v = q.val * 96 + 8 * (nn.val / 8) + (nn.val % 8 + 1) % 8) (h1 : (s.coreAt (coreNo q nn)).st = .active)
    (h2 : (s.coreAt (coreNo q nn)).running = none) (h3 : (s.coreAt (coreNo q nn)).waits = false)
    (h4 : (s.coreAt (coreNo q nn)).deque = []) (h5 : s.overflow q.val = []) (hx : (s.coreAt v).deque = x :: rest) :
    changesOnly [.cred, .free] s (steal s q nn) ∧
      ∀ k, (steal s q nn).coreAt k = ((s.setCore v { s.coreAt v with deque := rest }).setCore (coreNo q nn)
        { s.coreAt (coreNo q nn) with deque := [x], steals := (s.coreAt (coreNo q nn)).steals + 1 }).coreAt k := by
  have hx' : (s.refreshHub.coreAt v).deque = x :: rest := by rw [State.coreAt_refreshHub, hx]
  obtain ⟨u, he, hc, hu⟩ := State.stealTop_one (g := coreNo q nn) hx'
  rw [steal_searches h1 h2 h3 h4 h5, State.search_first (by rw [← hv]; exact he)]
  refine ⟨s.refreshHub_changes.then hc, fun k => ?_⟩
  rw [if_pos rfl, hu]
  simp only [State.coreAt_setCore, State.coreAt_refreshHub, h4, List.nil_append]

theorem steal_nothing {s : State} {q : Fin 4} {nn : Fin 96} (h1 : (s.coreAt (coreNo q nn)).st = .active)
    (h2 : (s.coreAt (coreNo q nn)).running = none) (h3 : (s.coreAt (coreNo q nn)).waits = false) (h5 : s.overflow q.val = [])
    (hd : ∀ k, (s.coreAt k).deque = [] ∧ (s.coreAt k).shown = 0) (hh : ∀ k, s.hubDepth k = 0) :
    changesOnly [.cred, .free] s (steal s q nn) ∧
      ∀ k, (steal s q nn).coreAt k = (s.setCore (coreNo q nn)
        { s.coreAt (coreNo q nn) with misses := (s.coreAt (coreNo q nn)).misses + 7, waits := true }).coreAt k := by
  obtain ⟨u, he, hm⟩ := State.search_none (s := s.refreshHub) (q := q.val) (nn := nn.val) (fun k => by rw [State.coreAt_refreshHub, (hd k).1])
    (fun k => by rw [State.coreAt_refreshHub, (hd k).2])
    (fun k => s.hubDepth_refreshHub k hh (State.shownDepth_zero (fun j => (hd j).2)))
  obtain ⟨hc, -, hu⟩ : s.refreshHub.MissedBy (coreNo q nn) 7 u := hm
  rw [steal_searches h1 h2 h3 (hd _).1 h5, he]
  refine ⟨(s.refreshHub_changes.then hc).then (State.setCore_changes ..), fun k => ?_⟩
  rw [if_neg Bool.false_ne_true]
  dsimp only
  rw [State.coreAt_setCore, State.coreAt_setCore]
  split
  · rw [hu, if_pos rfl, State.coreAt_refreshHub]
    rfl
  · rw [hu, if_neg ‹_›, State.coreAt_refreshHub]

/-- Settles O32: the first of the seven neighbours is the next one of the ring, and each search only moves entries and counts. -/
theorem stealingAndWithdrawal : Obligations.StealingAndWithdrawal := by
  unfold Obligations.StealingAndWithdrawal
  refine ⟨fun s q nn g v x rest hg hv h1 h2 h3 h4 h5 hx => ?_, fun s q nn h1 h2 h3 h5 hd hh => ?_, fun s q nn => ⟨rfl, ?_⟩,
    fun s q nn c h => ?_, fun _ _ _ _ => rfl, fun s q nn h1 h2 h3 => ?_, fun s q nn c h1 h2 h3 => ?_⟩
  · subst hg
    obtain ⟨hc, hk⟩ := steal_neighbour hv h1 h2 h3 h4 h5 hx
    have hne : v ≠ coreNo q nn := by
      rw [hv, coreNo]
      omega
    refine ⟨_, rfl, ?_, ?_, ?_, fun k hkg hkv => ?_, hc⟩
    · rw [hk, State.coreAt_setCore_same]
    · rw [hk, State.coreAt_setCore_same]
    · rw [hk, State.coreAt_setCore_other _ _ _ _ hne, State.coreAt_setCore_same]
    · rw [hk, State.coreAt_setCore_other _ _ _ _ hkg, State.coreAt_setCore_other _ _ _ _ hkv]
  · obtain ⟨hc, hk⟩ := steal_nothing h1 h2 h3 h5 hd hh
    refine ⟨_, rfl, ?_, ?_, ?_, fun k hkg => ?_, hc⟩
    · rw [hk, State.coreAt_setCore_same]
    · rw [hk, State.coreAt_setCore_same]
      exact (hd _).1
    · rw [hk, State.coreAt_setCore_same]
    · rw [hk, State.coreAt_setCore_other _ _ _ _ hkg]
  · refine ⟨_, rfl, ?_, fun k hk => ?_, (State.setCore_changes ..).within.then (State.refreshHub_changes _)⟩
    · rw [depthPublish, State.coreAt_refreshHub, State.coreAt_setCore_same]
    · rw [depthPublish, State.coreAt_refreshHub, State.coreAt_setCore_other _ _ _ _ hk]
  · refine exec_next_of_eq rfl ?_
    simp [coreLeave, isCtl, h]
  · refine exec_next_of_eq rfl ?_
    simp [coreWithdrawn, h1, h2, h3]
  · refine exec_next_of_eq rfl ?_
    simp [coreRejoin, isCtl, h1, h2, h3]

end Sys2Proof.Machine

/-! PROOF. The Bridle responder (16 R538 to R548). -/

namespace Sys2Proof.Machine

theorem objectsBut.mono {k l : List Nat} {s t : State} (h : objectsBut k s t) (hl : ∀ x ∈ k, x ∈ l) : objectsBut l s t :=
  fun o ho => h o (fun hk => ho (hl _ hk))

theorem State.bump_changes (s : State) (o : Obj) (w n : Nat) (h : o.key ≠ O.faultsDropped.key) : changesOnly [.objects] s (s.bump o w n) :=
  State.setNum_changes s o _ h

/-- The server's own records: neither a value nor an occasion for NOTIFY. -/
theorem State.server_changes (s : State) (d : DictUnit) (h1 : d.nums = s.dict.nums) (h2 : d.blobs = s.dict.blobs)
    (h3 : d.notifyDue = s.dict.notifyDue) (h4 : d.lastStore = s.dict.lastStore) : changesOnly [.server] s { s with dict := d } :=
  ⟨rfl, fun p hp => by cases p <;> simp_all [samePiece, State.num, State.blob]⟩

theorem State.sendFrame_changes (s : State) (mac : BitVec 48) (b : List Byte) : changesOnly [.objects, .out] s (s.sendFrame mac b) :=
  (s.bump_changes O.txFrames 32 1 (by decide)).within.then (State.emit_changes ..)

theorem State.sendFrame_out (s : State) (mac : BitVec 48) (b : List Byte) : (s.sendFrame mac b).out = s.out ++ [.frame mac (padded b)] := rfl

theorem State.sendFrame_objectsBut {keys : List Nat} (s : State) (mac : BitVec 48) (b : List Byte) (h : O.txFrames.key ∈ keys) :
    objectsBut keys s (s.sendFrame mac b) :=
  (s.setNum_objectsBut O.txFrames _ h).trans ((State.emit_changes ..).objectsBut _)

theorem frame_bad {s : State} {f : Frame} (h : s.pkg.st ≠ .off) (hb : f.good = false ∨ parsePdu f.pdu = none) :
    frame s f = (s.bump O.rxFrames).bump O.rxDiscarded := by
  have hn : (if f.good then parsePdu f.pdu else none) = none := by
    rcases hb with hb | hb
    · rw [hb]
      rfl
    · rw [hb, ite_self]
  rw [frame, if_neg h]
  dsimp only
  rw [hn]

/-- A sound frame is served by its OP. -/
theorem frame_good {s : State} {f : Frame} {p : Pdu} (h : s.pkg.st ≠ .off) (hg : f.good = true) (hp : parsePdu f.pdu = some p)
    (hb : f.broadcast = false ∨ p.op = 3) :
    frame s f = if p.op = 1 then (s.bump O.rxFrames).queueRequest (fun t => t.serveRead f.mac p)
      else if p.op = 2 then (s.bump O.rxFrames).queueRequest (fun t => t.serveWrite f.mac p) else (s.bump O.rxFrames).serveDiscover f.mac p := by
  have hc : (f.broadcast && p.op != 3) = false := by
    rcases hb with hb | hb <;> simp [hb]
  rw [frame, if_neg h]
  simp only [hg, hp, hc, if_true, Bool.false_eq_true, if_false]

/-- With no staging open and no snapshot held, nothing expires. -/
theorem State.expireBridle_idle {s : State} (h1 : s.dict.staging = none) (h2 : s.dict.snaps = []) : s.expireBridle = s := by
  have hd : { s.dict with staging := none, snaps := [] } = s.dict := by rw [← h1, ← h2]
  rw [State.expireBridle, h1, h2]
  exact congrArg (fun d => { s with dict := d }) hd

theorem State.touchSnap_idle {s : State} (h : s.dict.snaps = []) (mac : BitVec 48) : s.touchSnap mac = s := by
  have hd : { s.dict with snaps := [] } = s.dict := by rw [← h]
  rw [State.touchSnap, h]
  exact congrArg (fun d => { s with dict := d }) hd

theorem State.serveRead_numeric {s : State} {mac : BitVec 48} {p : Pdu} {r : ObjRow} (h1 : s.dict.staging = none) (h2 : s.dict.snaps = [])
    (hr : objRow p.key = some r) (ha : r.acc ≠ .wo) (hb : r.isBytes = false) (he : s.reachError (.bridle mac) p.key false = Err.ok) :
    s.serveRead mac p = s.sendFrame mac (p.response 0 0 (beBytes (typeBytes r.ty) (s.readNum p.key))) := by
  have hx : s.bridleRead mac p = (Err.ok, 0, beBytes (typeBytes r.ty) (s.readNum p.key), s) := by
    rw [State.bridleRead, State.expireBridle_idle h1 h2, State.touchSnap_idle h2]
    simp only [he, hr, if_neg ha, hb, ne_eq, not_true, if_false, Bool.false_eq_true]
  rw [State.serveRead, hx]
  rfl

theorem State.serveWrite_again {s : State} {mac : BitVec 48} {p : Pdu} {k : Kept}
    (h : s.dict.kept.find? (fun k => k.mac == mac && k.seq == p.seq) = some k) :
    s.serveWrite mac p = (State.bump { s with dict := { s.dict with kept := s.dict.kept.filter (fun k => k.mac != mac) ++ [k] } } O.replayed).sendFrame
      mac k.pdu := by
  rw [State.serveWrite]
  dsimp only
  rw [h]

theorem State.bridleWrite_numeric {s : State} {mac : BitVec 48} {p : Pdu} {r : ObjRow} (h1 : s.dict.staging = none) (h2 : s.dict.snaps = [])
    (ho : p.offset = 0) (hl : p.last = true) (hr : objRow p.key = some r) (hb : r.isBytes = false) (hd : p.data.length = typeBytes r.ty) :
    s.bridleWrite mac p = s.applyWrite (.bridle mac) p.key p.typ (.num (ofLe p.data.reverse)) := by
  rw [State.bridleWrite, State.expireBridle_idle h1 h2]
  simp only [hr, ho, hl, hb, h1, State.bridleApply, hd, beq_self_eq_true, Bool.not_false, Bool.and_true, bne_self_eq_false, Bool.not_true,
    Bool.or_self, Bool.and_false, Bool.false_eq_true, if_false, if_true, ne_eq, not_true]

theorem State.serveWrite_numeric {s : State} {mac : BitVec 48} {p : Pdu} {r : ObjRow} (h1 : s.dict.staging = none) (h2 : s.dict.snaps = [])
    (hk : s.dict.kept = []) (ho : p.offset = 0) (hl : p.last = true) (hr : objRow p.key = some r) (hb : r.isBytes = false)
    (hd : p.data.length = typeBytes r.ty) {w : Nat × State} (hw : s.applyWrite (.bridle mac) p.key p.typ (.num (ofLe p.data.reverse)) = w) :
    s.serveWrite mac p = State.sendFrame { w.2.countRefused w.1 with dict := { (w.2.countRefused w.1).dict with
      kept := [{ mac := mac, seq := p.seq, pdu := p.response w.1 0 [] }] } } mac (p.response w.1 0 []) := by
  rw [State.serveWrite]
  dsimp only
  rw [hk, State.bridleWrite_numeric h1 h2 ho hl hr hb hd, hw]
  rfl

theorem State.serveWrite_again_spec {s : State} {mac : BitVec 48} {p : Pdu} {k : Kept}
    (h : s.dict.kept.find? (fun k => k.mac == mac && k.seq == p.seq) = some k) :
    (s.serveWrite mac p).out = s.out ++ [.frame mac (padded k.pdu)] ∧ (s.serveWrite mac p).num O.replayed = (s.num O.replayed + 1) % 2 ^ 32 ∧
      objectsBut [O.replayed.key, O.txFrames.key] s (s.serveWrite mac p) ∧ changesOnly [.objects, .server, .out] s (s.serveWrite mac p) := by
  obtain ⟨d, hd⟩ : ∃ d : DictUnit, d = { s.dict with kept := s.dict.kept.filter (fun k => k.mac != mac) ++ [k] } := ⟨_, rfl⟩
  have hs : changesOnly [.server] s { s with dict := d } :=
    State.server_changes _ _ (by rw [hd]) (by rw [hd]) (by rw [hd]) (by rw [hd])
  rw [State.serveWrite_again h, ← hd]
  refine ⟨rfl, ?_, ?_, ?_⟩
  · rw [((State.sendFrame_objectsBut (keys := [O.txFrames.key]) _ mac k.pdu (by decide)) O.replayed (by decide)).1 (by decide), State.bump,
      State.num_setNum_same, (hs.objectsBut [] (by decide) O.replayed (by decide)).1 (by decide)]
  · exact ((hs.objectsBut _).trans (State.setNum_objectsBut _ O.replayed _ (by decide))).trans (State.sendFrame_objectsBut _ _ _ (by decide))
  · exact (hs.within.then (State.bump_changes _ O.replayed 32 1 (by decide))).then (State.sendFrame_changes ..)

theorem State.serveWrite_numeric_spec {s : State} {mac : BitVec 48} {p : Pdu} {r : ObjRow} (h1 : s.dict.staging = none) (h2 : s.dict.snaps = [])
    (hk : s.dict.kept = []) (ho : p.offset = 0) (hl : p.last = true) (hr : objRow p.key = some r) (hb : r.isBytes = false)
    (hd : p.data.length = typeBytes r.ty) {c : Nat} (hc : (s.applyWrite (.bridle mac) p.key p.typ (.num (ofLe p.data.reverse))).1 = c) :
    (s.serveWrite mac p).dict.kept = [⟨mac, p.seq, p.response c 0 []⟩] ∧
      ∃ more, (s.serveWrite mac p).out = s.out ++ more ++ [.frame mac (padded (p.response c 0 []))] := by
  obtain ⟨w, hw⟩ : ∃ w, s.applyWrite (.bridle mac) p.key p.typ (.num (ofLe p.data.reverse)) = w := ⟨_, rfl⟩
  obtain ⟨more, hm⟩ : ∃ more, w.2.out = s.out ++ more := by
    rw [← hw]
    exact (State.applyWrite_keeps ..).out
  have hn : ∀ e, (w.2.countRefused e).out = w.2.out := fun e => by
    rw [State.countRefused]
    split <;> rfl
  rw [hw] at hc
  subst hc
  rw [State.serveWrite_numeric h1 h2 hk ho hl hr hb hd hw]
  exact ⟨rfl, more, by rw [State.sendFrame_out, hn, hm]⟩

/-- The frame counted and its place in the queue taken. -/
def State.queuedOne (s : State) : State :=
  { s.bump O.rxFrames with dict := { (s.bump O.rxFrames).dict with queued := s.dict.queued + 1 } }

theorem State.queuedOne_changes (s : State) : changesOnly [.objects, .server] s s.queuedOne :=
  (s.bump_changes O.rxFrames 32 1 (by decide)).within.then (State.server_changes _ _ rfl rfl rfl rfl)

theorem State.queuedOne_objectsBut {keys : List Nat} (s : State) (h : O.rxFrames.key ∈ keys) : objectsBut keys s s.queuedOne :=
  (s.setNum_objectsBut O.rxFrames ((s.num O.rxFrames + 1) % 2 ^ 32) h).trans (objectsBut.of_dict rfl rfl)

theorem State.queueRequest_room {s : State} (h : s.dict.queued < 16) (f : State → State) :
    (s.bump O.rxFrames).queueRequest f = f s.queuedOne := by
  exact if_neg (Nat.not_le.2 h)

theorem State.queueRequest_full {s : State} (h : 16 ≤ s.dict.queued) (f : State → State) :
    (s.bump O.rxFrames).queueRequest f = (s.bump O.rxFrames).bump O.rxDiscarded := by
  exact if_pos h

theorem discoverAnswer_early {s : State} {due k : Nat} {m : BitVec 48} (h : s.dict.discover = some (due, m, k)) (hu : s.us < due) :
    discoverAnswer s = s := by
  rw [discoverAnswer, h]
  exact if_pos hu

theorem discoverAnswer_due {s : State} {due k : Nat} {m : BitVec 48} (h : s.dict.discover = some (due, m, k)) (hu : due ≤ s.us) :
    ∃ b, discoverAnswer s = State.sendFrame { s with dict := { s.dict with discover := none } } m b := by
  rw [discoverAnswer, h]
  exact ⟨_, if_neg (Nat.not_lt.2 hu)⟩

/-- The count of discarded frames is another object than that of received ones. -/
theorem State.bump_rxDiscarded (s : State) :
    (s.bump O.rxFrames).bump O.rxDiscarded = (s.setNum O.rxFrames ((s.num O.rxFrames + 1) % 2 ^ 32)).setNum O.rxDiscarded
      ((s.num O.rxDiscarded + 1) % 2 ^ 32) := by
  rw [State.bump, State.bump, State.num_setNum_other _ _ _ _ (by decide)]

/-- Settles O60: a frame is counted, and its PDU served from the queue. -/
theorem bridleFrames : Obligations.BridleFrames := by
  unfold Obligations.BridleFrames
  refine ⟨fun s u v f hoff hst hsn hq hu hv => ⟨fun hb => ?_, fun p r hg hbc hp hop hr ha hby he => ?_, fun p hg hbc hp hop => ⟨fun k hk => ?_,
    fun r hk ho hl hr hby hd => ?_⟩, fun p hg hp hop hd => ?_⟩, fun s u f p hoff hq hu hg hbc hp hop => ?_, fun s due m k hd => ⟨fun hu => ?_,
    fun hu => ?_⟩, fun s g hg => ?_, fun _ _ => rfl⟩
  · have hf := frame_bad hoff hb
    rw [State.bump_rxDiscarded, ← hu] at hf
    intro c hc
    simp only [List.mem_cons, List.not_mem_nil, or_false] at hc
    rcases hc with rfl | rfl | rfl <;> exact exec_next_of_eq rfl hf
  · subst hu
    obtain rfl : v = s.queuedOne := hv
    refine exec_next_of_eq rfl ?_
    rw [frame_good hoff hg hp (.inl hbc), if_pos hop, State.queueRequest_room hq, State.serveRead_numeric (s := s.queuedOne) hst hsn hr ha hby he,
      State.sendFrame, State.bump, (s.queuedOne_objectsBut (keys := [O.rxFrames.key]) (by decide) O.txFrames (by decide)).1 (by decide)]
  · obtain ⟨h1, h2, h3, h4⟩ := State.serveWrite_again_spec (s := s.queuedOne) hk
    refine ⟨_, exec_next_of_eq rfl ((frame_good hoff hg hp (.inl hbc)).trans ?_), h1, ?_, ?_, s.queuedOne_changes.within.then h4⟩
    · rw [if_neg (by omega), if_pos hop, State.queueRequest_room hq]
    · rw [h2, (s.queuedOne_objectsBut (keys := [O.rxFrames.key]) (by decide) O.replayed (by decide)).1 (by decide)]
    · exact (s.queuedOne_objectsBut (by decide)).trans (h3.mono (by decide))
  · subst hu
    obtain rfl : v = s.queuedOne := hv
    obtain ⟨h1, more, h2⟩ := State.serveWrite_numeric_spec (s := s.queuedOne) (mac := f.mac) hst hsn hk ho hl hr hby hd rfl
    refine ⟨_, more, exec_next_of_eq rfl ((frame_good hoff hg hp (.inl hbc)).trans ?_), h1, h2⟩
    rw [if_neg (by omega), if_pos hop, State.queueRequest_room hq]
  · subst hu
    refine exec_next_of_eq rfl ?_
    rw [frame_good hoff hg hp (.inr hop), if_neg (by omega), if_neg (by omega), State.serveDiscover]
    have hb : (s.bump O.rxFrames).dict.discover = none := hd
    rw [hb]
    rfl
  · have hf : frame s f = u.setNum O.rxDiscarded ((s.num O.rxDiscarded + 1) % 2 ^ 32) := by
      rw [frame_good hoff hg hp (.inl hbc), State.queueRequest_full hq, State.queueRequest_full hq, State.bump_rxDiscarded, hu]
      rcases hop with h | h <;> simp [h]
    intro c hc
    simp only [List.mem_cons, List.not_mem_nil, or_false] at hc
    rcases hc with rfl | rfl <;> exact exec_next_of_eq rfl hf
  · exact exec_next_of_eq rfl (discoverAnswer_early hd hu)
  · obtain ⟨b, hb⟩ := discoverAnswer_due hd hu
    have hs : changesOnly [.server] s { s with dict := { s.dict with discover := none } } := State.server_changes _ _ rfl rfl rfl rfl
    refine ⟨_, _, exec_next_of_eq rfl hb, rfl, rfl, ?_, (hs.objectsBut _).trans (State.sendFrame_objectsBut _ _ _ (by decide)),
      hs.within.then (State.sendFrame_changes ..)⟩
    exact State.num_setNum_same ..
  · refine ⟨_, rfl, ?_, State.server_changes _ _ rfl rfl rfl rfl⟩
    show (match s.dict.staging with | some g => if g.since + 1000000 ≤ s.us then none else some g | none => none) = _
    rw [hg]

end Sys2Proof.Machine

/-! PROOF. Hand-over at the sender (08 R258 to R268). -/

namespace Sys2Proof.Machine

/-! ### Aligned writes -/

theorem mem_cutWords_aligned {n a : Nat} {d : List Byte} {x : Nat × Nat × List Byte} (ha : a % 32 = 0) (hd : d.length % 32 = 0)
    (hx : x ∈ cutWords 32 n a d) : x.2.1 = 0 ∧ x.2.2.length = 32 := by
  induction n generalizing a d with
  | zero => simp [cutWords] at hx
  | succ n ih =>
    rw [cutWords] at hx
    split at hx
    · simp at hx
    · rename_i he
      have h32 : 32 ≤ d.length := by
        have : d.length ≠ 0 := fun h => he (by simp [List.length_eq_zero_iff.1 h])
        omega
      have hk : Nat.min (32 - a % 32) d.length = 32 := by
        rw [ha]
        exact Nat.min_eq_left h32
      simp only [hk, List.mem_cons] at hx
      rcases hx with rfl | hx
      · exact ⟨ha, by simp [h32]⟩
      · exact ih (by omega) (by rw [List.length_drop]; omega) hx

theorem State.writeWord_full_changes {s : State} {w : Nat} {d : List Byte} {g : BitVec 16} (h : d.length = 32) :
    changesOnly [.mem] s (s.writeWord w 0 d g) := by
  rw [State.writeWord_full h]
  exact (State.mem_changes s _).then (State.mem_changes _ _)

/-- Whole words written one after the other: no merge entry is flushed. -/
theorem State.writeWords_changes (tag : BitVec 16) (l : List (Nat × Nat × List Byte)) (h : ∀ x ∈ l, x.2.1 = 0 ∧ x.2.2.length = 32) :
    ∀ s : State, changesOnly [.mem] s (l.foldl (fun t x => t.writeWord x.1 x.2.1 x.2.2 tag) s) := by
  induction l with
  | nil => exact fun s => changesOnly.refl _ s
  | cons x l ih =>
    intro s
    obtain ⟨h0, h1⟩ := h x (List.mem_cons_self ..)
    rw [List.foldl_cons, h0]
    exact (State.writeWord_full_changes h1).then (ih (fun y hy => h y (List.mem_cons_of_mem _ hy)) _)

theorem State.tally_changes (s : State) (a b c : Nat) : changesOnly [.ses] s (s.tally a b c) := State.ses_changes ..

theorem State.poke_aligned {s : State} {a : Nat} {d : List Byte} (ha : a % 32 = 0) (hd : d.length % 32 = 0) (hs : space a = .hbm) :
    changesOnly [.ses, .mem] s (s.poke a d) ∧ (s.poke a d).ses.table = s.ses.table := by
  have hp : s.poke a d = s.hbmPut a d (mkTag s.oddNow 0) := by
    rw [State.poke, State.pokeAs, hs]
    rfl
  have hw := State.writeWords_changes (mkTag s.oddNow 0) (cutWords 32 (d.length + 1) a d) (fun _ hx => mem_cutWords_aligned ha hd hx)
    (s.tally d.length 0 0)
  rw [hp, State.hbmPut]
  refine ⟨(s.tally_changes ..).within.then hw, ?_⟩
  rw [hw.2 .ses (by decide)]
  rfl

/-! ### Sessions -/

theorem leBytes_length (n v : Nat) : (leBytes n v).length = n := by
  induction n generalizing v with
  | zero => rfl
  | succ n ih => rw [leBytes, List.length_cons, ih]

theorem zeros_length (n : Nat) : (zeros n).length = n := by simp [zeros]

theorem Root.image_length (r : Root) (slot tenant : Nat) : (r.image slot tenant).length = 32 := by
  rw [Root.image]
  split
  · exact zeros_length _
  · simp only [List.length_append, leBytes_length, zeros_length]

theorem Session.descriptor_length (x : Session) (slot reason : Nat) : (x.descriptor slot reason).length = 256 := by
  unfold Session.descriptor
  generalize x.depth + x.dry * 16 + x.full * 64 + x.idle * 256 + b2n x.probe * 16384 = depth
  repeat rw [List.length_append]
  repeat rw [leBytes_length]
  repeat rw [Root.image_length]
  rw [zeros_length]

theorem Session.image_length (x : Session) (slot : Nat) : (x.image slot).length = 256 := by
  rw [Session.image]
  split
  · exact zeros_length _
  · exact Session.descriptor_length ..

theorem State.putSession_session {s : State} {k : Nat} {x : Session} (h1 : s.num O.sessionTableBase % 32 = 0)
    (h2 : space (s.num O.sessionTableBase + 256 * k) = .hbm) :
    changesOnly [.ses, .mem] s (s.putSession k x) ∧ (s.putSession k x).ses.table = SMap.set {} s.ses.table k x := by
  have ha : (s.num O.sessionTableBase + 256 * k) % 32 = 0 := by omega
  have hl : (x.image k).length % 32 = 0 := by rw [Session.image_length]
  have hp := State.poke_aligned (s := { s with ses := { s.ses with table := SMap.set {} s.ses.table k x } }) ha hl h2
  rw [State.putSession]
  exact ⟨(State.ses_changes s _).within.then hp.1, hp.2⟩

theorem State.session_putSession {s : State} {k : Nat} {x : Session} (h1 : s.num O.sessionTableBase % 32 = 0)
    (h2 : space (s.num O.sessionTableBase + 256 * k) = .hbm) (j : Nat) :
    (s.putSession k x).session j = if j = k then x else s.session j := by
  rw [State.session, (State.putSession_session h1 h2).2]
  split
  · rename_i h
    rw [h]
    exact SMap.get_set_same ..
  · exact SMap.get_set_other _ _ _ _ _ ‹_›

/-- A stream's object stays where neither the objects nor the mirror unit change. -/
theorem changesOnly.cnum {l : List Piece} {s t : State} (h : changesOnly l s t) (c : Bool) (o : Obj) (ho : o.key ≠ O.faultsDropped.key)
    (hl : Piece.objects ∉ l ∧ Piece.mir ∉ l := by decide) : t.cnum c o = s.cnum c o := by
  cases c
  · exact (h.2 .objects hl.1 o).1 ho
  · rw [State.cnum, State.cnum, h.2 .mir hl.2]
    rfl

theorem handoverDecline_last {s : State} {src : Node} {b : List Byte} {k : Nat} (h : s.shipOf src b = some k) (hr : replyIs b 1 = true)
    (hg : (s.session k).ship.granted = false) (hn : s.cnum (s.session k).covered O.targetCount ≤ (s.session k).ship.declined + 1)
    (h1 : s.num O.sessionTableBase % 32 = 0) (h2 : space (s.num O.sessionTableBase + 256 * k) = .hbm) :
    handoverDecline s src b = s.putSession k { s.session k with ship := { (s.session k).ship with
      declined := (s.session k).ship.declined + 1, target := none } } := by
  obtain ⟨u, hu⟩ : ∃ u, u = s.putSession k { s.session k with ship := { (s.session k).ship with
      declined := (s.session k).ship.declined + 1, target := none } } := ⟨_, rfl⟩
  have hc : changesOnly [.ses, .mem] s u := hu ▸ (State.putSession_session h1 h2).1
  have hge : u.cnum (s.session k).covered O.targetCount ≤ (s.session k).ship.declined + 1 := by
    rw [hc.cnum _ O.targetCount (by decide)]
    exact hn
  subst hu
  rw [handoverDecline, h]
  dsimp only
  rw [if_neg (by simp [hr, hg]), if_pos]
  exact hge

theorem handoverRefuse_fails {s : State} {src : Node} {b : List Byte} {k : Nat} (h : s.shipOf src b = some k) (hr : replyIs b 3 = true)
    (ha : (s.session k).ship.recordAt.isSome = true) (hi : u64 b 0x10 = (s.session k).ship.id.toNat) :
    handoverRefuse s src b = s.shipFailed k := by
  simp only [handoverRefuse, h, hr, ha, hi, Bool.and_self, beq_self_eq_true, if_true]

theorem State.shipFailed_first {s : State} {k : Nat} (h : (s.session k).ship.tries = 0) :
    s.shipFailed k = (s.putSession k { s.session k with ship := { (s.session k).ship with tries := 1, recordAt := none } }).newShipment k := by
  simp only [State.shipFailed, h]
  rfl

theorem State.shipFailed_third {s : State} {k : Nat} (h : (s.session k).ship.tries = 2) :
    s.shipFailed k = (s.putSession k { s.session k with ship := { (s.session k).ship with tries := 3, recordAt := none } }).editSession k
      (fun y => y.because 0x2B) := by
  simp only [State.shipFailed, h]
  rfl

/-- Settles O56: a session's descriptor is eight whole words, so keeping a session flushes no merge entry. -/
theorem handoverSender : Obligations.HandoverSender := by
  unfold Obligations.HandoverSender
  refine ⟨fun s k x h1 h2 => ⟨?_, fun j hj => ?_, (State.putSession_session h1 h2).1⟩, fun s src b h => ⟨?_, ?_, ?_, ?_⟩,
    fun s src b k x h hx => ?_, fun s k x hx => ⟨fun f hf hst => ⟨fun ht => ?_, fun ht htr => ?_⟩, fun hst hg => ⟨fun ht => ?_, fun ht => ?_⟩,
      fun hst => ⟨fun ht => ?_, fun ht => ?_⟩, fun f hf hst => ⟨fun ht => ?_, fun ht => ?_⟩⟩⟩
  · rw [State.session_putSession h1 h2, if_pos rfl]
  · rw [State.session_putSession h1 h2, if_neg hj]
  · exact exec_next_of_eq rfl (by simp only [handoverGrant, h])
  · exact exec_next_of_eq rfl (by simp only [handoverDecline, h])
  · exact exec_next_of_eq rfl (by simp only [handoverRefuse, h])
  · exact exec_next_of_eq rfl (by simp only [handoverAccept, h])
  · subst hx
    refine ⟨fun hr hg => exec_next_of_eq rfl ?_, fun hr hg hn h1 h2 => exec_next_of_eq rfl (handoverDecline_last h hr hg hn h1 h2),
      fun hr ha hi ht => exec_next_of_eq rfl ((handoverRefuse_fails h hr ha hi).trans (State.shipFailed_first ht)),
      fun hr ha hi ht => exec_next_of_eq rfl ((handoverRefuse_fails h hr ha hi).trans (State.shipFailed_third ht)),
      fun hr ha hi => exec_next_of_eq rfl ?_⟩
    · simp only [handoverGrant, h, hr, hg, Bool.not_true, Bool.or_self, Bool.false_eq_true, if_false]
    · simp only [handoverAccept, h, hr, Option.isNone_eq_false_iff.2 ha, hi, Bool.not_true, bne_self_eq_false, Bool.or_self,
        Bool.false_eq_true, if_false]
  all_goals subst hx
  · refine exec_next_of_eq rfl ?_
    rw [verdictTimeout]
    simp only [hf]
    exact if_neg (fun h => absurd h.2 (Nat.not_le.2 ht))
  · refine exec_next_of_eq rfl ?_
    rw [verdictTimeout]
    simp only [hf]
    exact (if_pos ⟨hst, ht⟩).trans (State.shipFailed_first htr)
  · exact exec_next_of_eq rfl (if_neg (fun h => absurd h.2.2 (Nat.not_le.2 ht)))
  · exact exec_next_of_eq rfl (if_pos ⟨hst, by simp [hg], ht⟩)
  · exact exec_next_of_eq rfl (if_neg (fun h => by simp [ht] at h))
  · exact exec_next_of_eq rfl (if_pos ⟨hst, by simp [ht]⟩)
  · refine exec_next_of_eq rfl ?_
    rw [quotaWaitExpiry]
    simp only [hf]
    exact if_neg (fun h => absurd h.2 (Nat.not_le.2 ht))
  · refine exec_next_of_eq rfl ?_
    rw [quotaWaitExpiry]
    simp only [hf]
    exact if_pos ⟨hst, ht⟩

end Sys2Proof.Machine

/-! PROOF. The mirror stream, beats, the twin's failure and aliases (13 R431 to R439). -/

namespace Sys2Proof.Machine

theorem mirrorClose_good {s : State} {c : MirrorCloseRec} (h1 : c.count = s.mir.incoming.length) (h2 : c.fold = foldOf s.mir.incoming) :
    ∃ (t : State) (more : List OutMsg), mirrorClose s c = t.send s.twinNode (.mirrorAck c.course) ∧ t.out = s.out ++ more ∧
      t.mir.twinClosed = some c.course ∧ t.mir.twinMembers = c.members ∧ t.mir.twinGreatest = c.greatest := by
  have hk : Keeps s (s.mir.incoming.foldl (fun (a : State × MirrorImage) r => a.1.applyRecord a.2 r true)
      ({ s with mir := { s.mir with incoming := [] } }, s.mir.image)).1 :=
    Keeps.foldl1 ⟨⟨rfl, id, ⟨[], by simp⟩, Nat.le_refl _, Nat.le_refl _⟩, .inl rfl⟩ (fun a r => State.applyRecord_keeps ..)
  obtain ⟨more, hm⟩ := hk.out
  have hok : MirrorCloseRec.ok c s.mir.incoming = true := by simp [MirrorCloseRec.ok, h1, h2]
  rw [mirrorClose]
  dsimp only
  rw [if_pos hok]
  exact ⟨_, more, rfl, hm, rfl, rfl, rfl⟩

theorem mirrorClose_bad {s : State} {c : MirrorCloseRec} (h : c.count ≠ s.mir.incoming.length ∨ c.fold ≠ foldOf s.mir.incoming) :
    mirrorClose s c = { s with mir := { s.mir with incoming := [] } } := by
  have hok : ¬ MirrorCloseRec.ok c s.mir.incoming = true := by
    rw [MirrorCloseRec.ok, Bool.and_eq_true, beq_iff_eq, beq_iff_eq]
    exact fun ⟨a, b⟩ => h.elim (fun k => k a) (fun k => k b)
  rw [mirrorClose]
  dsimp only
  rw [if_neg hok]

theorem mirrorAck_none {s : State} {x : W64} (h : s.mir.awaiting.find? (fun y => y.course == x) = none) : mirrorAck s x = s := by
  rw [mirrorAck, h]

theorem mirrorAck_image {s : State} {x : W64} {y : AwaitAck} (h : s.mir.awaiting.find? (fun y => y.course == x) = some y) (hi : y.image = true)
    (hs : s.mir.st = .syncing) :
    mirrorAck s x = (({ s with mir := { s.mir with awaiting := s.mir.awaiting.erase y } } : State).setMirror .mirroring).commitUpTo y.covered x := by
  rw [mirrorAck, h]
  dsimp only
  rw [hs]
  exact if_pos hi

/-! ### Beats -/

theorem beat_mirroring {s : State} {x : Tick} {n : Nat} {rg : List W64} {cp : W32} (h1 : s.mir.st = .mirroring) (h2 : s.mir.restore = none)
    (h3 : s.mir.covered = none) (h4 : s.mir.lastBeat = none) :
    beat s x n rg cp = { s.bump O.beatsMissed 32 0 with mir := { s.mir with
      lastBeat := some s.clk.tick, silent := false, twinFailed := false, twinRanges := rg } } := by
  obtain ⟨u, hu⟩ : ∃ u : State, u = { s.bump O.beatsMissed 32 0 with mir := { s.mir with
      lastBeat := some s.clk.tick, silent := false, twinFailed := false, twinRanges := rg } } := ⟨_, rfl⟩
  have e1 : u.mir.st = .mirroring := by rw [hu]; exact h1
  have e2 : u.mir.restore = none := by rw [hu]; exact h2
  have e3 : u.beginMirror n cp = u := by
    rw [State.beginMirror, e1]
    rfl
  have e4 : u.restoreStep n = u := by
    rw [State.restoreStep, e2]
  have e5 : beat s x n rg cp = (u.beginMirror n cp).restoreStep n := by
    have hm : (s.bump O.beatsMissed 32 0).mir = s.mir := rfl
    rw [hu]
    simp only [beat, h4, hm, h3, Option.isSome_none, Bool.and_false, Bool.false_eq_true, if_false]
    rfl
  rw [e5, e3, e4, hu]

/-! ### The twin declared failed -/

/-- The nodes told who covers. -/
theorem State.tellAlias_eq (f : Node) (q : W32) (l : List Node) : ∀ s : State, ∃ o,
    l.foldl (fun t n => t.send n (.aliasSet f (some t.node) q)) s = { s with out := o } := by
  induction l with
  | nil => exact fun s => ⟨s.out, rfl⟩
  | cons n l ih =>
    intro s
    obtain ⟨o, ho⟩ := ih (s.send n (.aliasSet f (some s.node) q))
    exact ⟨o, ho⟩

/-- With no close waiting there is nothing to commit. -/
theorem State.commitUpTo_nil {s : State} {x : W64} (h : s.crs.own.commits = []) : s.commitUpTo false x = s := by
  have he : ({ s.crs.own with commits := [] } : Stream) = s.crs.own := by rw [← h]
  have hs : s.setStream false { s.crs.own with commits := [] } = s := by rw [he]; rfl
  have hf : s.streamOf false = s.crs.own := rfl
  rw [State.commitUpTo, hf, h]
  exact hs

theorem State.setAlias_eq (s : State) (f : Node) (c : Option Node) : ∃ l, s.setAlias f c = { s with lnk := { s.lnk with aliases := l } } := by
  cases c with
  | none => exact ⟨_, rfl⟩
  | some c =>
    by_cases h : (s.lnk.aliases.filter (fun a => a.1 != f)).length < 64
    · exact ⟨_, if_pos h⟩
    · exact ⟨s.lnk.aliases, if_neg h⟩

/-- The twin noted as failed. -/
def State.twinLost (s : State) : State :=
  State.icxEvent { s with mir := { s.mir with twinFailed := true, incoming := [], awaiting := [], imageDue := [] } } 0x003

theorem State.twinLost_changes (s : State) : changesOnly [.mir, .icx, .out] s s.twinLost :=
  (State.mir_changes s _).within.then (State.icxEvent_changes ..)

theorem State.twinLost_mir (s : State) :
    s.twinLost.mir = { s.mir with twinFailed := true, incoming := [], awaiting := [], imageDue := [] } := State.icxEvent_mir ..

theorem State.declareFailed_covered {s : State} (h : s.mir.covered.isSome = true) :
    s.declareFailed = { s.twinLost with mir := { s.twinLost.mir with st := .covering, restore := none } } := by
  have hc : s.twinLost.mir.covered.isSome = true := by rw [s.twinLost_mir]; exact h
  exact if_pos hc

/-- The twin's identity answered by this node from here on. -/
def State.covers (s : State) (f : Node) : State :=
  let v := s.send f (.aliasSet f (some s.node) (s.mir.aliasSeq + 1))
  { v.setAlias f (some v.node) with pkg.declared := true }

theorem State.covers_eq (s : State) (f : Node) : ∃ a o, s.covers f =
    { s with lnk := { s.lnk with aliases := a }, pkg := { s.pkg with declared := true }, out := o } := by
  obtain ⟨v, hv⟩ : ∃ v, v = s.send f (.aliasSet f (some s.node) (s.mir.aliasSeq + 1)) := ⟨_, rfl⟩
  obtain ⟨a, ha⟩ := v.setAlias_eq f (some v.node)
  rw [State.covers, ← hv]
  dsimp only
  rw [ha, hv]
  exact ⟨a, _, rfl⟩

/-- The takeover begun: the other nodes told, the takeover noted. -/
def State.takesOver (s : State) (f : Node) : State :=
  let u := ((s.covers f).fabricNodes.filter (fun n => n != (s.covers f).node && n != f)).foldl
    (fun t n => t.send n (.aliasSet f (some t.node) (s.mir.aliasSeq + 1))) (s.covers f)
  State.bump { u with mir := { u.mir with
    st := .covering, aliasSeq := s.mir.aliasSeq + 1
    takeover := some { failed := f, declared := u.clk.tick, lastAck := u.clk.tick, seq := s.mir.aliasSeq + 1 } } } O.takeovers

theorem State.declareFailed_takes {s : State} (h1 : s.pkg.st = .serving) (h2 : s.pkg.request ≠ some .draining) (h3 : s.mir.st = .mirroring)
    (h4 : s.mir.covered = none) (h5 : s.liveCopy.twin.isSome = true) (h6 : s.mir.committed.isSome = true) :
    s.declareFailed = (s.twinLost.takesOver s.twinNode).commitUpTo false (BitVec.allOnes 64) := by
  have hm := s.twinLost_mir
  have hw : s.twinLost.wts = s.wts := State.icxEvent_wts ..
  have hl : s.twinLost.liveCopy = s.liveCopy := by rw [State.liveCopy, hw, State.liveCopy]
  have hc : ¬ s.twinLost.mir.covered.isSome = true := by rw [hm]; simp [h4]
  have ht : ((s.twinLost.pkg.st == .ready || s.twinLost.pkg.st == .serving) && s.twinLost.pkg.request != some .draining &&
      s.twinLost.mir.st == .mirroring && s.twinLost.liveCopy.twin.isSome && s.twinLost.mir.committed.isSome) = true := by
    have hp : s.twinLost.pkg = s.pkg := State.icxEvent_pkg ..
    rw [hm, hl, hp]
    simp [h1, h2, h3, h5, h6]
  rw [State.declareFailed, ← State.twinLost]
  dsimp only
  rw [if_neg hc, if_pos ht, State.takesOver, State.covers]

/-- The mirror unit of a takeover begun. -/
def MirrorUnit.took (m : MirrorUnit) (f : Node) (now : Tick) : MirrorUnit :=
  { m with st := .covering, aliasSeq := m.aliasSeq + 1, takeover := some { failed := f, declared := now, lastAck := now, seq := m.aliasSeq + 1 } }

theorem State.takesOver_eq (s : State) (f : Node) : ∃ a o, s.takesOver f = State.bump
    { s with lnk := { s.lnk with aliases := a }, pkg := { s.pkg with declared := true }, out := o, mir := s.mir.took f s.clk.tick } O.takeovers := by
  obtain ⟨a, o, hc⟩ := s.covers_eq f
  obtain ⟨o', ho⟩ := State.tellAlias_eq f (s.mir.aliasSeq + 1) ((s.covers f).fabricNodes.filter (fun n => n != (s.covers f).node && n != f)) (s.covers f)
  refine ⟨a, o', ?_⟩
  rw [State.takesOver]
  dsimp only
  rw [ho, hc]
  rfl

theorem State.declareFailed_spec {s : State} (h1 : s.pkg.st = .serving) (h2 : s.pkg.request ≠ some .draining) (h3 : s.mir.st = .mirroring)
    (h4 : s.mir.covered = none) (h5 : s.liveCopy.twin.isSome = true) (h6 : s.mir.committed.isSome = true) (h7 : s.crs.own.commits = []) :
    s.declareFailed.mir = s.twinLost.mir.took s.twinNode s.clk.tick ∧ s.declareFailed.num O.takeovers = (s.num O.takeovers + 1) % 2 ^ 32 ∧
      objectsBut [O.takeovers.key] s s.declareFailed ∧ s.declareFailed.pkg = { s.pkg with declared := true } ∧
      changesOnly [.pkg, .mir, .lnk, .crs, .objects, .icx, .out] s s.declareFailed := by
  obtain ⟨u, hu⟩ : ∃ u, u = s.twinLost := ⟨_, rfl⟩
  have hp : u.pkg = s.pkg := hu ▸ State.icxEvent_pkg ..
  have hk : u.clk = s.clk := hu ▸ State.icxEvent_clk ..
  have hc : u.crs = s.crs := hu ▸ State.icxEvent_crs ..
  have hs : changesOnly [.mir, .icx, .out] s u := hu ▸ s.twinLost_changes
  obtain ⟨a, o, ht⟩ := u.takesOver_eq s.twinNode
  obtain ⟨v, hv⟩ : ∃ v : State, v = { u with
    lnk := { u.lnk with aliases := a }, pkg := { u.pkg with declared := true }, out := o, mir := u.mir.took s.twinNode u.clk.tick } := ⟨_, rfl⟩
  have hvc : changesOnly [.pkg, .mir, .lnk, .out] u v := by
    rw [hv]
    exact ⟨rfl, fun p hp => by cases p <;> simp_all [samePiece, State.num, State.blob]⟩
  rw [State.declareFailed_takes h1 h2 h3 h4 h5 h6, ← hu, ht, ← hv, State.commitUpTo_nil (by rw [hv]; exact hc ▸ h7)]
  have hsv : changesOnly [.pkg, .mir, .lnk, .icx, .out] s v := hs.within.then hvc
  refine ⟨?_, ?_, (hsv.objectsBut _).trans (State.setNum_objectsBut _ O.takeovers _ (by decide)), ?_,
    hsv.within.then (State.bump_changes _ O.takeovers 32 1 (by decide))⟩
  · rw [← hk, hv]
    rfl
  · rw [State.bump, State.num_setNum_same, (hsv.2 .objects (by decide) _).1 (by decide)]
  · rw [← hp, hv]
    rfl

theorem aliasSet_other {s : State} {src f : Node} {c : Option Node} {q : W32} (h : f ≠ s.node) :
    aliasSet s src f c q = (s.setAlias f c).send src (.aliasAck q) := by
  obtain ⟨a, ha⟩ := s.setAlias_eq f c
  have hf : (f == s.node) = false := beq_false_of_ne h
  rw [aliasSet, if_neg (fun k => h k.1), ha]
  dsimp only
  rw [show ((State.send { s with lnk := { s.lnk with aliases := a } } src (.aliasAck q)).node) = s.node from rfl, hf]

/-- Settles O58: with no close waiting a takeover commits nothing, so only the twin's unit, the aliases and the count change. -/
theorem mirrorAndBeats : Obligations.MirrorAndBeats := by
  unfold Obligations.MirrorAndBeats
  refine ⟨fun _ _ => rfl, fun s c => ⟨fun h => exec_next_of_eq rfl (mirrorClose_bad h), fun h1 h2 => ?_⟩,
    fun s x => ⟨fun h => exec_next_of_eq rfl (mirrorAck_none h), fun y h hi hs => exec_next_of_eq rfl (mirrorAck_image h hi hs)⟩,
    fun s => ⟨fun h1 h2 h3 h4 => exec_next_of_eq rfl ?_, fun h => exec_next_of_eq rfl ?_⟩, fun s x b rg cp h1 h2 h3 h4 => ?_,
    fun s l hl hf hr => ⟨fun ht => ?_, fun ht hm hsl => ?_, fun ht hm h1 h2 h3 h4 h5 h6 h7 => ?_⟩,
    fun s n k => ⟨fun h => exec_next_of_eq rfl (if_neg (fun x => h x.1)), fun h hr hf hc => ?_⟩,
    fun s src f c q => ⟨fun h => exec_next_of_eq rfl (aliasSet_other h), fun h hc => exec_next_of_eq rfl (if_pos ⟨h, hc⟩)⟩,
    fun s src q x hx => ⟨fun h => exec_next_of_eq rfl ?_, fun h hs ha => exec_next_of_eq rfl ?_⟩⟩
  · obtain ⟨t, more, he, ho, m1, m2, m3⟩ := mirrorClose_good h1 h2
    refine ⟨_, more, exec_next_of_eq rfl he, m1, m2, m3, ?_⟩
    rw [State.send, State.emit, ho]
  · rw [beatSend, if_pos (by simp [h1, h2, h3, h4])]
  · rw [beatSend, if_neg (by simp [h])]
  · have hb := s.bump_changes O.beatsMissed 32 0 (by decide)
    refine ⟨_, exec_next_of_eq rfl (beat_mirroring h1 h2 h3 h4), rfl, ?_, hb.within.then (State.mir_changes ..)⟩
    exact (State.setNum_objectsBut _ O.beatsMissed _ (by decide)).trans ((State.mir_changes ..).objectsBut _)
  · refine exec_next_of_eq rfl ?_
    rw [beatLoss, hl]
    exact if_pos (by simp [ht])
  · refine exec_next_of_eq rfl ?_
    rw [beatLoss, hl]
    dsimp only
    rw [if_neg (by simp [hf, hr, Nat.not_lt.2 ht]), if_neg (by simp [hm]), if_pos (by simp [hm, hsl])]
  · obtain ⟨m, n, ob, p, ch⟩ := State.declareFailed_spec h1 h2 h3 h4 h5 h6 h7
    refine ⟨s.declareFailed, exec_next_of_eq rfl ?_, ?_, ?_, ?_, n, ob, p, ch⟩
    · rw [beatLoss, hl]
      dsimp only
      rw [if_neg (by simp [hf, hr, Nat.not_lt.2 ht]), if_pos hm]
    · rw [m]
      rfl
    · rw [m, s.twinLost_mir]
      rfl
    · rw [m, s.twinLost_mir]
      rfl
  · refine ⟨_, exec_next_of_eq rfl ((if_pos ⟨h, hr, by simp [hf]⟩).trans (State.declareFailed_covered hc)), ?_,
      s.twinLost_changes.then (State.mir_changes ..)⟩
    rw [s.twinLost_mir]
  · rw [aliasAck, hx]
    exact if_pos (.inl h)
  · rw [aliasAck, hx]
    exact if_neg (fun k => k.elim (fun e => e h) (fun k => k.elim hs (fun e => Bool.false_ne_true (ha.symm.trans e))))

end Sys2Proof.Machine

/-! PROOF. Takeover and restore (13 R440 to R452): COVERING_ENTER with FORMATION_LEAD beyond its range forms the covered stream's first
course at once. -/

namespace Sys2Proof.Machine

/-- SERVING with a LIVE copy, the failed twin's image imported, no other member in its bond. FORMATION_LEAD 100 lies beyond CLOSE_LEAD, the
covered hod 0 is enabled, and its first record lies in a WEIGHTS word of no copy that is stored poisoned. -/
def longCoverLead : State :=
  { State.reset with
    pkg := { st := .serving }
    wts := { k0 := { st := .live } }
    mem := { chk := [(0, poisonXor)] }
    mir := { covered := some 8, takeover := some { failed := 8, imported := true }, coverNums := [((O.hodEnable 0).key, 1)] }
    dict := { nums := [(O.formationLead.key, 100), ((O.region 0).key, 196608 * 2 ^ 18)] } }

/-- Refutes O59: COVERING_ENTER plans the covered stream's first course, which is late and formed at once; the sampling of its hod 0 finds
the word unrecoverable, the package's own shard is lost (13 R448), and the package is in DRAINING. -/
theorem not_takeoverAndRestore : ¬ Obligations.TakeoverAndRestore := by
  rintro ⟨h, -⟩
  obtain ⟨-, -, -, -, h⟩ := h longCoverLead { failed := 8, imported := true } rfl
  obtain ⟨t, ht, hst⟩ := h rfl rfl (by decide) ⟨rfl, rfl⟩
  rw [← (Host.Outcome.next.inj ht : coveringEnter longCoverLead = t)] at hst
  exact absurd hst (by decide +kernel)

end Sys2Proof.Machine

/-! PROOF. Expert messages and the exchange window (07 R213 to R230). -/

namespace Sys2Proof.Machine

/-- The core freed of the run whose tile waits its turn. -/
def State.coreDone (s : State) (g : Nat) (x : Core) : State :=
  (s.drawNat.2.countBusy (s.drawNat.1 % 2 ^ 32)).setCore g
    { x with running := none, done := false, retired := x.retired + 1, busy := x.busy + BitVec.ofNat 32 (s.drawNat.1 % 2 ^ 32) }

/-- The tile of a run is read from its template and the course's blocks. -/
theorem State.tileOf_coreDone (s : State) (g : Nat) (x : Core) (e : RouterEngine) (c : Bool) (i : Nat) :
    State.tileOf { s.coreDone g x with eng := e } c i = s.tileOf c i := by
  cases c <;> rfl

theorem placementRequest_waits {s : State} {c : Bool} {i : BitVec 20} {g key tile : Nat} {x : Core}
    (h1 : s.cred.cores.find? (fun x => x.2.running == some (entryOf c (oddOf (s.streamOf c).course) i.toNat) && x.2.done) = some (g, x))
    (h2 : s.tileOf c i.toNat = some (key, tile)) (h3 : s.eng.accepted.contains (c, i.toNat) = false) (h4 : s.eng.waiting = [])
    (h5 : tile ≠ SMap.get 0 s.eng.nextTile key) :
    placementRequest s c i = { s.coreDone g x with eng := { s.eng with
      accepted := s.eng.accepted ++ [(c, i.toNat)], waiting := [(c, i.toNat)] } } := by
  obtain ⟨e, he⟩ : ∃ e : RouterEngine, e = { s.eng with accepted := s.eng.accepted ++ [(c, i.toNat)], waiting := [(c, i.toNat)] } := ⟨_, rfl⟩
  obtain ⟨u, hu⟩ : ∃ u : State, u = { s.coreDone g x with eng := e } := ⟨_, rfl⟩
  have ht : u.tileOf c i.toNat = some (key, tile) := by rw [hu, State.tileOf_coreDone, h2]
  have hw : u.eng.waiting = [(c, i.toNat)] := by rw [hu, he]
  have hn : u.eng.nextTile = s.eng.nextTile := by rw [hu, he]
  have hp : ∀ n, u.placeReady n = u := fun n => by
    cases n with
    | zero => rfl
    | succ n =>
      have hf : (tile == SMap.get 0 s.eng.nextTile key) = false := beq_false_of_ne h5
      rw [State.placeReady, hw, List.find?_cons]
      dsimp only
      rw [ht, hn]
      dsimp only
      rw [hf, List.find?_nil]
  have ha : (s.coreDone g x).eng.accepted.contains (c, i.toNat) = false := h3
  have hq : ({ (s.coreDone g x).eng with
      accepted := (s.coreDone g x).eng.accepted ++ [(c, i.toNat)]
      waiting := (s.coreDone g x).eng.waiting ++ [(c, i.toNat)] } : RouterEngine) = e := by
    have hs : (s.coreDone g x).eng = s.eng := rfl
    rw [hs, h4, he]
    rfl
  rw [placementRequest]
  dsimp only
  rw [h1]
  dsimp only
  rw [h2]
  dsimp only
  rw [← State.coreDone, ha, hq, ← hu, hp]
  exact (if_neg Bool.false_ne_true).trans (hu.trans (by rw [he]))

/-! ### Transfers and returns -/

theorem State.firstTime_again {s : State} {c : Bool} {course : W64} {n : Node} {no : Nat} (h : s.eng.seen.contains (c, course, n, no) = true) :
    s.firstTime c course n no = none := by
  rw [State.firstTime, h]
  rfl

theorem State.firstTime_first {s : State} {c : Bool} {course : W64} {n : Node} {no : Nat} (h : s.eng.seen.contains (c, course, n, no) = false) :
    s.firstTime c course n no = some { s with eng := { s.eng with seen := s.eng.seen ++ [(c, course, n, no)] } } := by
  rw [State.firstTime, h]
  rfl

theorem mem_insertBy {β : Type} {key : β → Nat} {x y : β} {l : List β} (h : y ∈ insertBy key x l) : y = x ∨ y ∈ l := by
  induction l with
  | nil => exact .inl (List.mem_singleton.1 h)
  | cons a l ih =>
    rw [insertBy] at h
    split at h
    · exact List.mem_cons.1 h
    · rcases List.mem_cons.1 h with h | h
      · exact .inr (h ▸ List.mem_cons_self ..)
      · exact (ih h).imp_right (List.mem_cons_of_mem _)

/-- A sorted list has no entries of its own. -/
theorem mem_sortBy {β : Type} {key : β → Nat} {y : β} {l : List β} (h : y ∈ sortBy key l) : y ∈ l := by
  have hf : ∀ acc : List β, y ∈ l.foldl (fun acc x => insertBy key x acc) acc → y ∈ l ∨ y ∈ acc := by
    clear h
    induction l with
    | nil => exact fun _ h => .inr h
    | cons a l ih =>
      intro acc h
      rcases ih _ h with h | h
      · exact .inl (List.mem_cons_of_mem _ h)
      · refine (mem_insertBy h).imp (fun e => ?_) id
        rw [e]
        exact List.mem_cons_self ..
  exact (hf [] h).elim id (fun h => by cases h)

/-- The transfers of one expert that are staged come from sources that staged transfers have. -/
theorem State.stagedFor_source {s : State} {c : Bool} {course : W64} {layer slot : Nat} {m : ExpertMsg} (h : m ∈ s.stagedFor c course layer slot) :
    ∃ x ∈ s.eng.staged, x.2 = m := by
  obtain ⟨x, hx, rfl⟩ := List.mem_map.1 (mem_sortBy h)
  exact ⟨x, (List.mem_filter.1 hx).1, rfl⟩

theorem State.completeExpert_waits {s : State} {c odd : Bool} {m : ExpertMsg} {k : Nat} (h1 : k < (s.bondOf c).length)
    (h2 : bit (s.streamOf c).members.toNat k = true) (h3 : ∀ x ∈ s.eng.staged, x.2.source.toNat ≠ k) : s.completeExpert c odd m = s := by
  have hk : ((s.stagedFor c m.course m.layer m.expert).map (fun x => x.source.toNat)).contains k = false := by
    rw [Bool.eq_false_iff]
    intro h
    rw [List.contains_iff_mem, List.mem_map] at h
    obtain ⟨y, hy, he⟩ := h
    obtain ⟨x, hx, rfl⟩ := State.stagedFor_source hy
    exact h3 x hx he
  have ha : (((List.range (s.bondOf c).length).filter (fun k => bit (s.streamOf c).members.toNat k)).any (fun k =>
      !((s.stagedFor c m.course m.layer m.expert).map (fun x => x.source.toNat)).contains k)) = true :=
    List.any_eq_true.2 ⟨k, List.mem_filter.2 ⟨List.mem_range.2 h1, h2⟩, by rw [hk]; rfl⟩
  rw [State.completeExpert]
  dsimp only
  rw [ha, Bool.or_true, Bool.true_or]
  rfl

/-- The message heard and staged. -/
def State.stages (s : State) (c : Bool) (n : Node) (m : ExpertMsg) : State :=
  { s.tally 0 0 (Body.expert m).payload with eng := { s.eng with
    seen := s.eng.seen ++ [(c, m.course, n, arrivalNo m.inst m.layer (m.expert % 64))], staged := s.eng.staged ++ [(c, m)] } }

theorem expertTransfer_staged {s : State} {c odd : Bool} {n : Node} {m : ExpertMsg} {k : Nat} (hp : s.courseParity c m.course = some odd)
    (hf : s.eng.seen.contains (c, m.course, n, arrivalNo m.inst m.layer (m.expert % 64)) = false)
    (hl : m.rows.length ≤ (s.templ c odd).stagingFor m.expert m.source.toNat) (h1 : k < (s.bondOf c).length)
    (h2 : bit (s.streamOf c).members.toNat k = true) (h3 : m.source.toNat ≠ k) (h4 : ∀ x ∈ s.eng.staged, x.2.source.toNat ≠ k) :
    expertTransfer s c n m = s.stages c n m := by
  have hm : { m with rows := m.rows.take ((s.templ c odd).stagingFor m.expert m.source.toNat) } = m := by rw [List.take_of_length_le hl]
  have hb : (s.stages c n m).bondOf c = s.bondOf c := by cases c <;> rfl
  have hst : (s.stages c n m).streamOf c = s.streamOf c := by cases c <;> rfl
  have hw : (s.stages c n m).completeExpert c odd m = s.stages c n m := by
    refine State.completeExpert_waits (by rw [hb]; exact h1) (by rw [hst]; exact h2) (fun x hx => ?_)
    rcases List.mem_append.1 hx with hx | hx
    · exact h4 x hx
    · rw [List.mem_singleton.1 hx]
      exact h3
  obtain ⟨u, hu⟩ : ∃ u : State, u = { s.tally 0 0 (Body.expert m).payload with eng := { s.eng with
      seen := s.eng.seen ++ [(c, m.course, n, arrivalNo m.inst m.layer (m.expert % 64))] } } := ⟨_, rfl⟩
  have hft : (s.tally 0 0 (Body.expert m).payload).firstTime c m.course n (arrivalNo m.inst m.layer (m.expert % 64)) = some u := by
    rw [hu]
    exact State.firstTime_first hf
  have htm : u.templ c odd = s.templ c odd := by
    rw [hu]
    cases c <;> cases odd <;> rfl
  have hus : { u with eng := { u.eng with staged := u.eng.staged ++ [(c, m)] } } = s.stages c n m := by
    rw [hu]
    rfl
  rw [expertTransfer, hp]
  dsimp only
  rw [hft]
  dsimp only
  rw [htm, hm, if_neg (Nat.not_lt.2 hl), hus, hw]

theorem expertReturn_row {s u : State} {c odd : Bool} {n : Node} {m : ExpertMsg} {d : Descriptor} {i e : Nat} {b : BlockEntry} {row : List Byte}
    (hp : s.courseParity c m.course = some odd)
    (hu : (s.tally 0 0 (Body.expert m).payload).firstTime c m.course n (arrivalNo m.inst m.layer (64 + m.expert % 64)) = some u)
    (hr : (u.templ c odd).routerAt m.layer = some (d, i)) (he : u.expertOf c odd d i ((u.indexIn c n).getD 0) m.expert = some e)
    (hb : ((u.templ c odd).returnTable m.layer).bind (u.blockOf c odd) = some b) (hm : m.rows = [row]) :
    expertReturn s c n m = (u.pokeAs odd 0 (b.row (rbase (u.shares c odd d i) e)) row).grants
        [{ covered := c, odd := odd, counter := m.counter.toNat, amount := 1, cause := none }] := by
  rw [expertReturn, hp]
  dsimp only
  rw [hu]
  dsimp only
  rw [hr]
  dsimp only
  rw [he, hb, hm]
  rfl

/-- Settles O55: a tile that is not the next one waits, a transfer with another member's still awaited is staged, a return goes to its base. -/
theorem experts : Obligations.Experts := by
  unfold Obligations.Experts
  refine ⟨fun s c i e he => ⟨fun h => exec_next_of_eq rfl ?_, fun g x key tile h1 h2 h3 h4 h5 => ?_⟩,
    fun s c n m => ⟨fun h => ⟨exec_next_of_eq rfl ?_, exec_next_of_eq rfl ?_⟩, fun odd hp hf => exec_next_of_eq rfl ?_,
      fun odd hp hf => exec_next_of_eq rfl ?_, fun odd k hp hf hl h1 h2 h3 h4 => exec_next_of_eq rfl (expertTransfer_staged hp hf hl h1 h2 h3 h4),
      fun odd u d i e b row hp hu hr he hb hm => exec_next_of_eq rfl (expertReturn_row hp hu hr he hb hm)⟩,
    fun s hd => ⟨fun h1 h2 => exec_next_of_eq rfl ?_, fun h => exec_next_of_eq rfl ?_, fun h => exec_next_of_eq rfl ?_,
      fun h => exec_next_of_eq rfl ?_⟩⟩
  · subst he
    rw [placementRequest, h]
  · subst he
    exact exec_next_of_eq rfl (placementRequest_waits h1 h2 h3 h4 h5)
  · rw [expertTransfer, h]
  · rw [expertReturn, h]
  · rw [expertTransfer, hp]
    dsimp only
    rw [State.firstTime_again (s := s.tally 0 0 (Body.expert m).payload) hf]
  · rw [expertReturn, hp]
    dsimp only
    rw [State.firstTime_again (s := s.tally 0 0 (Body.expert m).payload) hf]
  · rw [State.before_eq hd, exchangeWindowOpen, if_pos (by simp [h1, h2])]
  · rw [State.before_eq hd, exchangeWindowOpen, if_neg (by rcases h with h | h <;> simp [h])]
  · rw [State.before_eq hd, exchangeWindowClose, if_pos h]
  · rw [State.before_eq hd, exchangeWindowClose, if_neg (by simp [h])]

end Sys2Proof.Machine

/-! PROOF. Fabric requests at their target and at their requester (12 R391 to R408). -/

namespace Sys2Proof.Machine

/-! ### Service -/

theorem fit_length (n : Nat) (l : List Byte) : (fit n l).length = n := by
  simp only [fit, slice, zeros, List.length_append, List.length_take, List.length_replicate, List.length_drop]
  omega

/-- A request from outside to this node is checked and served. -/
theorem request_here {s : State} {r : FabReq} {op : Nat} (h1 : s.pkg.st.hubRuns = true) (h2 : r.own = none) (h3 : r.dest = s.node)
    (h4 : s.mir.restore = none) : request s op r = s.serve { op := BitVec.ofNat 8 op, req := r } := by
  have hn : ¬ (s.mir.covered.isNone && s.mir.restore.isSome && r.src != s.node) = true := by simp [h4]
  rw [request]
  dsimp only
  rw [if_neg (by simp [h1]), h2]
  dsimp only
  rw [if_pos h3, if_neg hn]

theorem request_stopped {s : State} {r : FabReq} {op : Nat} (h : s.pkg.st.hubRuns = false) : request s op r = s := by
  rw [request]
  dsimp only
  rw [if_pos (by simp [h])]

theorem State.serve_load {s : State} {r : FabReq} (h : s.checkReq ⟨0x01, r⟩ = 0) : s.serve ⟨0x01, r⟩ = s.serveLoad ⟨0x01, r⟩ := by
  rw [State.serve, h]
  rfl

theorem State.serve_store {s : State} {r : FabReq} (h : s.checkReq ⟨0x02, r⟩ = 0) : s.serve ⟨0x02, r⟩ = s.serveStore ⟨0x02, r⟩ := by
  rw [State.serve, h]
  rfl

theorem State.serve_atomic {s : State} {b : BatchReq} (h : s.checkReq b = 0) (h1 : b.op.toNat ≠ opLoad) (h2 : b.op.toNat ≠ opStore) :
    s.serve b = s.serveAtomic b := by
  rw [State.serve, if_neg (by rw [h]; decide), if_neg h1, if_neg h2]

/-- With no word of the run uncorrectable, its bytes are not marked poisoned. -/
theorem State.hbmGet_clean {s : State} {a n : Nat} (hs : space a = .hbm) (h : s.badIn [(a, n)] = []) : (s.hbmGet a n).2 = false := by
  have hr : ∀ x ∈ cutWords 32 (n + 1) a (zeros n), (s.readWord x.1).2 = false := fun x hx => by
    refine Bool.eq_false_iff.2 fun hb => ?_
    have hm : x.1 ∈ s.badIn [(a, n)] := by
      rw [State.badIn, List.mem_eraseDups]
      refine List.mem_flatMap.2 ⟨(a, n), List.mem_singleton.2 rfl, ?_⟩
      rw [if_pos hs]
      exact List.mem_filter.2 ⟨List.mem_map_of_mem hx, hb⟩
    rw [h] at hm
    cases hm
  rw [State.hbmGet]
  have hf : ∀ (l : List (Nat × Nat × List Byte)) (acc : List Byte × Bool), (∀ x ∈ l, (s.readWord x.1).2 = false) → acc.2 = false →
      (l.foldl (fun (acc : List Byte × Bool) x =>
        (acc.1 ++ ((s.readWord x.1).1.drop x.2.1).take x.2.2.length, acc.2 || (s.readWord x.1).2)) acc).2 = false := fun l => by
    induction l with
    | nil => exact fun _ _ h => h
    | cons x l ih =>
      intro acc hl ha
      exact ih _ (fun y hy => hl y (List.mem_cons_of_mem _ hy)) (Bool.or_eq_false_iff.2 ⟨ha, hl x (List.mem_cons_self ..)⟩)
  exact hf _ _ hr rfl

theorem State.readBad_clean {s : State} {a n : Nat} (hs : space a = .hbm) (h : s.badIn [(a, n)] = []) : s.readBad [(a, n)] = s.tally n 0 0 := by
  have h1 : bytesIn .hbm [(a, n)] = n := by
    rw [bytesIn, List.filter_cons_of_pos (by rw [hs]; rfl)]
    exact Nat.zero_add n
  have h2 : bytesIn .sram [(a, n)] = 0 := by
    rw [bytesIn, List.filter_cons_of_neg (by rw [hs]; decide)]
    rfl
  have h3 : s.badPaths [(a, n)] = s := by
    rw [State.badPaths, h]
    rfl
  rw [State.readBad, h3, State.tallyReads, h1, h2]

theorem State.loadHbm_clean {s : State} {b : BatchReq} {a n : Nat} {node : Node} (hs : space a = .hbm) (h : s.badIn [(a, n)] = []) :
    s.loadHbm node b a n = (s.tally n 0 0).respond b (okResponse node b (s.hbmGet a n).1 0) := by
  have hg : (s.tally n 0 0).hbmGet a n = s.hbmGet a n := rfl
  rw [State.loadHbm]
  dsimp only
  rw [h, State.readBad_clean hs h, hg, State.hbmGet_clean hs h]
  rfl

theorem State.serve_malformed {s : State} {b : BatchReq} (h : s.checkReq b = 5) :
    s.serve b = (s.bump O.refused 64).respond b (failedResponse s.node b 5) := by
  rw [State.serve, h]
  rfl

/-- The atomics of Table 12.2 and their codes. -/
theorem exec_atomic {r : FabReq} {s : State} {c : Instr × Nat}
    (h : c ∈ [(Instr.fetchAdd r, 0x10), (.swap r, 0x11), (.fetchAnd r, 0x12), (.fetchOr r, 0x13), (.fetchXor r, 0x14), (.fetchMaxU r, 0x15), (.cas r, 0x16)]) :
    exec c.1 s = .next (request s c.2 r) ∧ 0x10 ≤ c.2 ∧ c.2 ≤ 0x16 := by
  simp only [List.mem_cons, List.not_mem_nil, or_false] at h
  rcases h with rfl | rfl | rfl | rfl | rfl | rfl | rfl <;> exact ⟨rfl, by dsimp only; decide, by dsimp only; decide⟩

theorem atomicNew_small {n old a b : Nat} (ha : a < 2 ^ (8 * n)) (ho : old < 2 ^ (8 * n)) :
    atomicNew 0x10 n old a b = (old + a) % 2 ^ (8 * n) ∧ atomicNew 0x11 n old a b = a ∧
    atomicNew 0x12 n old a b = old &&& a ∧ atomicNew 0x13 n old a b = old ||| a ∧ atomicNew 0x14 n old a b = old ^^^ a ∧
    atomicNew 0x15 n old a b = Nat.max old a ∧ atomicNew 0x16 n old a b = (if old = a then b % 2 ^ (8 * n) else old) := by
  have hm : a % 2 ^ (8 * n) = a := Nat.mod_eq_of_lt ha
  refine ⟨rfl, hm, Nat.mod_eq_of_lt (Nat.and_lt_two_pow _ ha), Nat.mod_eq_of_lt (Nat.or_lt_two_pow ho ha),
    Nat.mod_eq_of_lt (Nat.xor_lt_two_pow ho ha), ?_, ?_⟩
  · show Nat.max old (a % 2 ^ (8 * n)) % 2 ^ (8 * n) = _
    rw [hm]
    exact Nat.mod_eq_of_lt (Nat.max_lt.2 ⟨ho, ha⟩)
  · show (if old = a % 2 ^ (8 * n) then b else old) % 2 ^ (8 * n) = _
    rw [hm]
    split
    · rfl
    · exact Nat.mod_eq_of_lt ho

/-! ### Issue -/

theorem State.newTag_state {s u : State} {who : Requester} {tag : W32} (h : s.newTag who = some (tag, u)) :
    ∃ g, u = { s with fab := { s.fab with gens := g } } := by
  rw [State.newTag] at h
  dsimp only at h
  split at h
  · cases h
  · obtain ⟨-, rfl⟩ := Prod.mk.inj (Option.some.inj h)
    exact ⟨_, rfl⟩

/-- The record of a request issued. -/
def outReq (s : State) (who : Requester) (tag : W32) (b : BatchReq) : OutReq :=
  { tag := tag, who := who, addr := fabAddr b.req.dest b.req.addr.toNat, op := b.op, size := b.req.size.toNat, issued := s.clk.tick }

/-- With nothing of its own outstanding a requester's request takes a tag and goes out. -/
theorem State.issue_free {s u : State} {who : Requester} {b : BatchReq} {tag : W32} (h1 : s.fab.readyAt ≤ s.us)
    (h2 : s.fab.outs.any (fun o => o.who == who) = false) (h3 : s.newTag who = some (tag, u)) :
    ∃ g, s.issue who b = some (tag, (State.tally { s with fab := { s.fab with gens := g, outs := s.fab.outs ++ [outReq s who tag b] } } 0 0
      b.req.data.length).send b.req.dest (.request b.op { b.req with src := s.node, tag := tag })) := by
  obtain ⟨g, hu⟩ := State.newTag_state h3
  have hm : s.fab.outs.any (fun o => o.who == who && o.meets (fabAddr b.req.dest b.req.addr.toNat).toNat b.req.size.toNat) = false := by
    rw [List.any_eq_false] at h2 ⊢
    exact fun o ho h => h2 o ho (Bool.and_eq_true_iff.1 h).1
  refine ⟨g, ?_⟩
  rw [State.issue]
  dsimp only
  rw [if_neg (Nat.not_lt.2 h1), hm, if_neg Bool.false_ne_true, h3, hu]
  rfl

theorem State.ctlIssue_free {s u : State} {c : Fin 4} {b : BatchReq} {tag : W32} (h0 : s.fab.ctlWait.any (fun w => w.1 == c) = false)
    (h1 : s.fab.readyAt ≤ s.us) (h2 : s.fab.outs.any (fun o => o.who == .control c) = false) (h3 : s.newTag (.control c) = some (tag, u)) :
    ∃ g, s.ctlIssue c b = (State.tally { s with fab := { s.fab with gens := g, outs := s.fab.outs ++ [outReq s (.control c) tag b] } } 0 0
      b.req.data.length).send b.req.dest (.request b.op { b.req with src := s.node, tag := tag }) := by
  obtain ⟨g, hg⟩ := State.issue_free (b := b) h1 h2 h3
  refine ⟨g, ?_⟩
  rw [State.ctlIssue]
  dsimp only
  rw [h0, if_neg Bool.false_ne_true, hg]

/-! ### Completion -/

theorem State.pumpCtl_none {s : State} (h : s.fab.ctlWait = []) : s.pumpCtl = s := by
  have hf : { s.fab with ctlWait := [] } = s.fab := by rw [← h]
  rw [State.pumpCtl, hf, h]
  rfl

/-- A control core's request taken off the list of those outstanding. -/
def State.ended (s : State) (o : OutReq) (c : Fin 4) (r : FabResp) : State :=
  State.tally { s with fab := { s.fab with outs := s.fab.outs.filter (fun x => x.tag != o.tag), lastDone := some (.control c, r) } } 0 0 r.data.length

theorem State.completeOut_control {s : State} {o : OutReq} {c : Fin 4} {r : FabResp} (ho : o.who = .control c) (hw : s.fab.ctlWait = []) :
    s.completeOut o r = (s.ended o c r).emit (.answer (.control c) r.old) := by
  rw [State.completeOut]
  dsimp only
  rw [ho]
  exact State.pumpCtl_none (s := (s.ended o c r).emit (.answer (.control c) r.old)) hw

/-- A request's TIMEOUT noted: the first to a node in LOAD_BOUND ticks raises, the others count. -/
def State.timedOut (s : State) (o : OutReq) : State :=
  if s.fab.timeouts.any (fun (t : Node × Tick) => t.1 == nodeOf o.addr.toNat && decide (Tick.since s.clk.tick t.2 < s.num O.loadBound)) then
    s.bump O.timeouts 64
  else State.raise { s with fab := { s.fab with
      timeouts := s.fab.timeouts.filter (fun (t : Node × Tick) => t.1 != nodeOf o.addr.toNat) ++ [(nodeOf o.addr.toNat, s.clk.tick)] } }
    (requesterSource o.who) (requesterUnit o.who) 0x68 1 (localOf o.addr.toNat)

theorem State.timedOut_changes (s : State) (o : OutReq) : changesOnly [.fab, .fcu, .objects, .errN, .notify, .out] s (s.timedOut o) := by
  rw [State.timedOut]
  split
  · exact (s.bump_changes O.timeouts 64 1 (by decide)).within
  · exact (State.fab_changes s _).within.then (State.raise_changes ..)

theorem State.timedOut_fab (s : State) (o : OutReq) : ∃ l, (s.timedOut o).fab = { s.fab with timeouts := l } := by
  rw [State.timedOut]
  split
  · exact ⟨s.fab.timeouts, rfl⟩
  · exact ⟨_, State.raise_fab ..⟩

theorem State.timedOut_us (s : State) (o : OutReq) : (s.timedOut o).us = s.us := by
  rw [State.timedOut]
  split
  · rfl
  · exact State.raise_pkg_now ..

/-- The entry rests after a TIMEOUT. -/
def State.rests (s : State) (tag : W32) (us : Nat) : State :=
  { s with fab := { s.fab with restUntil := SMap.put s.fab.restUntil (tag.toNat % 2 ^ 24) us } }

theorem requestTimeout_expired {s : State} {tag : W32} {o : OutReq} {c : Fin 4} (ho : s.fab.outs.find? (fun o => o.tag == tag) = some o)
    (ht : Tick.atLeast s.clk.tick o.issued = true) (hb : s.num O.loadBound ≤ Tick.since s.clk.tick o.issued) (hc : o.who = .control c)
    (hw : s.fab.ctlWait = []) :
    ∃ r : FabResp, requestTimeout s tag =
      (((s.timedOut o).rests tag (s.us + 2 * s.num O.loadBound)).ended o c r).emit (.answer (.control c) r.old) := by
  obtain ⟨l, hl⟩ := s.timedOut_fab o
  have hctl : ((s.timedOut o).rests tag ((s.timedOut o).us + 2 * s.num O.loadBound)).fab.ctlWait = [] := by
    rw [State.rests, hl]
    exact hw
  rw [← s.timedOut_us o, requestTimeout, ho]
  dsimp only
  rw [if_neg (by simp [ht, hb]), ← State.timedOut]
  exact ⟨_, State.completeOut_control hc hctl⟩

/-- Settles O53: a request that every check passes is served in one step; a control core's is alone in its entries. -/
theorem fabricRequests : Obligations.FabricRequests := by
  unfold Obligations.FabricRequests
  refine ⟨fun s r h1 h2 h3 h4 => ⟨fun hc hs => ?_, fun hc hs => ?_, fun hc hs hb => ?_, fun hc hs => ?_, fun c hm hc => ?_, fun hc => ?_⟩,
    fun s r h c hc => ?_, fun n old a b ha ho => atomicNew_small ha ho, fun s r c tag u h1 h2 h3 h4 h5 h6 h7 => ?_,
    fun s r h1 hw => ⟨fun o c ho hc => ?_, fun ho hc => ?_⟩, fun s tag o ho ht => ⟨fun hb => ?_, fun c hb hc hw => ?_⟩⟩
  · refine exec_next_of_eq rfl ((request_here h1 h2 h3 h4).trans ((State.serve_load hc).trans ?_))
    rw [State.serveLoad]
    dsimp only
    rw [hs]
    rfl
  · refine exec_next_of_eq rfl ((request_here h1 h2 h3 h4).trans ((State.serve_store hc).trans ?_))
    rw [State.serveStore]
    dsimp only
    rw [hs, fit_length]
    rfl
  · refine exec_next_of_eq rfl ((request_here h1 h2 h3 h4).trans ((State.serve_load hc).trans ?_))
    rw [State.serveLoad]
    dsimp only
    rw [hs]
    exact State.loadHbm_clean hs hb
  · refine ⟨_, exec_next_of_eq rfl ((request_here h1 h2 h3 h4).trans (State.serve_store hc)), ?_⟩
    rw [State.serveStore]
    dsimp only
    rw [hs]
    rfl
  · obtain ⟨he, hl, hu⟩ := exec_atomic hm
    have hop : (BitVec.ofNat 8 c.2).toNat = c.2 := by
      rw [BitVec.toNat_ofNat]
      omega
    refine exec_next_of_eq he ((request_here h1 h2 h3 h4).trans ((State.serve_atomic hc ?_ ?_).trans ?_))
    · rw [hop, opLoad]
      omega
    · rw [hop, opStore]
      omega
    · rw [State.serveAtomic]
      dsimp only
      rw [hop]
      rfl
  · exact exec_next_of_eq rfl ((request_here h1 h2 h3 h4).trans (State.serve_malformed hc))
  · simp only [List.mem_cons, List.not_mem_nil, or_false] at hc
    rcases hc with rfl | rfl | rfl | rfl | rfl | rfl | rfl | rfl | rfl <;> exact exec_next_of_eq rfl (request_stopped h)
  · obtain ⟨g, hg⟩ := State.ctlIssue_free (b := { op := 0x01, req := { r with tenant := BitVec.ofNat 8 (s.num O.systemTenant) } }) h5 h4 h6 h7
    refine ⟨_, exec_next_of_eq rfl (Eq.trans ?_ hg), rfl, rfl, rfl, ?_⟩
    · rw [request]
      dsimp only
      rw [if_neg (by simp [h1]), h2]
      dsimp only
      rw [if_neg h3]
      rfl
    · exact ((State.fab_changes s _).within.then (State.tally_changes ..)).then (State.send_changes ..)
  · refine exec_next_of_eq rfl ?_
    rw [fabricResponse, if_neg (by simp [h1]), ho]
    exact State.completeOut_control hc hw
  · refine exec_next_of_eq rfl ?_
    rw [fabricResponse, if_neg (by simp [h1]), ho]
    dsimp only
    rw [hc]
    rfl
  · refine exec_next_of_eq rfl ?_
    rw [requestTimeout, ho]
    exact if_pos (by simp [hb])
  · obtain ⟨r, hr⟩ := requestTimeout_expired ho ht hb hc hw
    obtain ⟨l, hl⟩ := s.timedOut_fab o
    have hm : (s.timedOut o).mem = s.mem := (s.timedOut_changes o).2 .mem (by decide)
    refine ⟨_, exec_next_of_eq rfl hr, ?_, hm, ?_, ?_⟩
    · show (s.timedOut o).fab.outs.filter _ = _
      rw [hl]
    · exact SMap.find_put_same ..
    · exact (((s.timedOut_changes o).within.then (State.fab_changes _ _)).then
        ((State.fab_changes _ _).within.then (State.tally_changes ..) (l := [.fab, .ses]))).then (State.emit_changes ..)

end Sys2Proof.Machine

/-! PROOF. Far gateways and the host bridge (12 R413 to R425). -/

namespace Sys2Proof.Machine

/-! ### Gateways -/

theorem State.setGateway_changes (s : State) (g : Bool) (x : Gateway) : changesOnly [.fab] s (s.setGateway g x) := by
  cases g <;> exact State.fab_changes ..

theorem State.gateway_setGateway (s : State) (g : Bool) (x : Gateway) : (s.setGateway g x).gateway g = x := by cases g <;> rfl

/-- What a tag is taken from. -/
theorem State.newTag_same {s t u : State} {who : Requester} {tag : W32} (ho : t.fab.outs = s.fab.outs) (hr : t.fab.restUntil = s.fab.restUntil)
    (hg : t.fab.gens = s.fab.gens) (hu : t.us = s.us) (h : s.newTag who = some (tag, u)) : ∃ v, t.newTag who = some (tag, v) := by
  rw [State.newTag] at h ⊢
  rw [ho, hr, hg, hu]
  dsimp only at h ⊢
  split at h
  · cases h
  · rw [(Prod.mk.inj (Option.some.inj h)).1]
    exact ⟨_, rfl⟩

/-- The one request that waits at a gateway is issued. -/
theorem State.pumpGateway_one {s u : State} {g : Bool} {w : W32 × Nat × BatchReq} {tag : W32} (h0 : (s.gateway g).waiting = [w])
    (h1 : s.fab.readyAt ≤ s.us) (h2 : s.fab.outs.any (fun o => o.who == .gateway g) = false) (h3 : s.newTag (.gateway g) = some (tag, u)) :
    ∃ t, changesOnly [.fab, .ses, .out] s t ∧ (t.gateway g) = s.gateway g ∧
      t.out = s.out ++ [.send w.2.2.req.dest (.request w.2.2.op { w.2.2.req with src := s.node, tag := tag })] ∧
      s.pumpGateway g = t.setGateway g { s.gateway g with
        waiting := []
        entries := (s.gateway g).entries ++ [(tag, w.2.2.req.src, w.2.2.req.tag, w.1, w.2.1, w.2.2.op)] } := by
  obtain ⟨gens, hi⟩ := State.issue_free (b := w.2.2) h1 h2 h3
  obtain ⟨t, ht⟩ : ∃ t, t = (State.tally { s with fab := { s.fab with gens := gens, outs := s.fab.outs ++ [outReq s (.gateway g) tag w.2.2] } } 0 0
    w.2.2.req.data.length).send w.2.2.req.dest (.request w.2.2.op { w.2.2.req with src := s.node, tag := tag }) := ⟨_, rfl⟩
  have hg : t.gateway g = s.gateway g := by
    rw [ht]
    cases g <;> rfl
  refine ⟨t, ?_, hg, by rw [ht]; rfl, ?_⟩
  · rw [ht]
    exact ((State.fab_changes s _).within.then (State.tally_changes ..)).then (State.send_changes ..)
  · rw [State.pumpGateway]
    dsimp only
    rw [h0, List.foldl_cons, List.foldl_nil, hi, ← ht]
    dsimp only
    rw [if_neg (fun h => h rfl)]
    dsimp only
    rw [State.gateway_setGateway, hg]
    cases g <;> rfl

theorem lintelBatch_one {s u : State} {g : Bool} {n : W32} {b : BatchReq} {tag : W32} (hr : s.pkg.st.hubRuns = true)
    (hw : (s.gateway g).waiting = []) (h1 : s.fab.readyAt ≤ s.us) (h2 : s.fab.outs.any (fun o => o.who == .gateway g) = false)
    (h3 : s.newTag (.gateway g) = some (tag, u)) :
    ((lintelBatch s g n [b]).gateway g).waiting = [] ∧
      ((lintelBatch s g n [b]).gateway g).entries = (s.gateway g).entries ++ [(tag, b.req.src, b.req.tag, n, 0, b.op)] ∧
      (lintelBatch s g n [b]).out = s.out ++ [.send b.req.dest (.request b.op { b.req with src := s.node, tag := tag })] ∧
      changesOnly [.fab, .ses, .out] s (lintelBatch s g n [b]) := by
  obtain ⟨x, hx⟩ : ∃ x : Gateway, x = { s.gateway g with waiting := [(n, 0, b)] } := ⟨_, rfl⟩
  have hl : lintelBatch s g n [b] = (s.setGateway g x).pumpGateway g := by
    rw [lintelBatch, if_neg (by simp [hr])]
    dsimp only
    rw [hw, hx]
    rfl
  obtain ⟨v, hv⟩ : ∃ v, (s.setGateway g x).newTag (.gateway g) = some (tag, v) := by
    refine State.newTag_same ?_ ?_ ?_ ?_ h3 <;> cases g <;> rfl
  have hu : (s.setGateway g x).us = s.us ∧ (s.setGateway g x).fab.readyAt = s.fab.readyAt ∧ (s.setGateway g x).fab.outs = s.fab.outs ∧
      (s.setGateway g x).node = s.node ∧ (s.setGateway g x).out = s.out := by cases g <;> exact ⟨rfl, rfl, rfl, rfl, rfl⟩
  obtain ⟨hus, hre, hou, hno, hot⟩ := hu
  have hg := s.gateway_setGateway g x
  obtain ⟨t, hc, -, ho, he⟩ := State.pumpGateway_one (s := s.setGateway g x) (w := (n, 0, b)) (by rw [hg, hx]) (by rw [hre, hus]; exact h1)
    (by rw [hou]; exact h2) hv
  have hs : (s.setGateway g x).gateway g = x := hg
  rw [hl, he, State.gateway_setGateway, hs, hx]
  refine ⟨rfl, rfl, ?_, ?_⟩
  · rw [(State.setGateway_changes ..).2 .out (by decide), ho, hno, hot]
  · rw [← hx]
    exact ((State.setGateway_changes s g x).within.then hc).then (State.setGateway_changes ..)

theorem State.returns_eq (l : List LintelRec) : ∀ s : State,
    l.foldl (fun t r => t.send r.origSrc (.response
      { src := t.node, tag := r.origTag, op := r.op, status := r.status, size := r.size, old := r.old, data := r.data })) s =
      { s with out := s.out ++ l.map (fun r => .send r.origSrc (.response
        { src := s.node, tag := r.origTag, op := r.op, status := r.status, size := r.size, old := r.old, data := r.data })) } := by
  induction l with
  | nil => exact fun s => by rw [List.map_nil, List.append_nil]; rfl
  | cons r l ih =>
    intro s
    rw [List.foldl_cons, ih, List.map_cons]
    simp only [State.send, State.emit, State.node, List.append_assoc, List.singleton_append]

theorem State.lintelPacket_changes (s : State) (g : Bool) (ptype : Byte) (b : List Byte) : changesOnly [.lnk] s (s.lintelPacket g ptype b) :=
  State.setPort_changes ..

theorem State.flushReturns_some {s : State} {g : Bool} (h : (s.gateway g).returns ≠ []) :
    (s.flushReturns g).gateway g = { s.gateway g with returns := [] } ∧ changesOnly [.fab, .lnk, .free] s (s.flushReturns g) := by
  rw [State.flushReturns]
  dsimp only
  rw [if_neg h]
  refine ⟨?_, (s.drawNat_changes.within.then (State.setGateway_changes ..)).then (State.lintelPacket_changes ..)⟩
  rw [State.gateway, (State.lintelPacket_changes ..).2 .fab (by decide)]
  exact State.gateway_setGateway ..

/-! ### The host bridge -/

/-- A naturally aligned word is one request. -/
theorem cutHost_word {a : Nat} (h : a % 4 = 0) : cutHost false 5 a 4 = [(a, 4)] := by
  have h2 : a % 2 = 0 := by omega
  simp [cutHost, h]

/-- The request of a host access of one part. -/
def HostPart.sent (p : HostPart) (tenant : Byte) (s : State) (tag : W32) : OutMsg :=
  .send (p.request tenant s.node).req.dest (.request p.op { (p.request tenant s.node).req with src := s.node, tag := tag })

theorem State.pumpParts_one {s t : State} {o : HostOp} {p : HostPart} {tag : W32} (hp : o.parts = [p]) (hpt : p.tag = none)
    (hi : s.issue .host (p.request o.tenant s.node) = some (tag, t)) : s.pumpParts o = ({ o with parts := [{ p with tag := some tag }] }, t) := by
  have ht : ¬ p.tag.isSome = true := by simp [hpt]
  rw [State.pumpParts, hp, List.foldl_cons, List.foldl_nil, if_neg ht, hi]
  rfl

theorem State.pumpHost_one {s t : State} {o o' : HostOp} (h : s.fab.hostOps = [o]) (hp : s.pumpParts o = (o', t)) :
    s.pumpHost = { t with fab := { t.fab with hostOps := [o'] } } := by
  have hm : hostMay [] o = true := by simp [hostMay]
  rw [State.pumpHost]
  dsimp only
  rw [h, List.foldl_cons, List.foldl_nil, if_pos hm, hp]
  rfl

theorem State.sweepHost_open {s : State} {o : HostOp} (h : s.fab.hostOps = [o]) (hc : o.complete = false) : s.sweepHost = s := by
  have hf : ({ s.fab with hostOps := s.fab.hostOps.filter (fun o => !o.complete) } : FabricUnit) = s.fab := by
    have : [o].filter (fun o => !o.complete) = s.fab.hostOps := by simp [hc, h]
    rw [h, this]
  have hd : s.fab.hostOps.filter (fun o => o.complete) = [] := by simp [hc, h]
  rw [State.sweepHost]
  dsimp only
  rw [hd, hf]
  rfl

/-- With nothing of the host's outstanding, an access of one part is issued at once. -/
theorem State.hostStart_one {s u : State} {o : HostOp} {p : HostPart} {tag : W32} (hp : o.parts = [p]) (hpt : p.tag = none) (hpd : p.done = none)
    (h0 : s.fab.hostOps = []) (h1 : s.fab.readyAt ≤ s.us) (h2 : s.fab.outs.any (fun o => o.who == .host) = false)
    (h3 : s.newTag .host = some (tag, u)) :
    changesOnly [.fab, .ses, .out] s (s.hostStart o) ∧ (s.hostStart o).out = s.out ++ [p.sent o.tenant s tag] := by
  obtain ⟨q, hq⟩ : ∃ q : HostOp, q = { o with id := s.fab.hostNext } := ⟨_, rfl⟩
  obtain ⟨v, hv⟩ : ∃ v : State, v = { s with fab := { s.fab with hostOps := [q], hostNext := s.fab.hostNext + 1 } } := ⟨_, rfl⟩
  obtain ⟨w, hw⟩ : ∃ w, v.newTag .host = some (tag, w) := State.newTag_same (by rw [hv]) (by rw [hv]) (by rw [hv]) (by rw [hv]; rfl) h3
  obtain ⟨gens, hi⟩ := State.issue_free (s := v) (b := p.request q.tenant v.node) (by rw [hv]; exact h1) (by rw [hv]; exact h2) hw
  have hc : ({ q with parts := [{ p with tag := some tag }] } : HostOp).complete = false := by simp [HostOp.complete, hpd]
  have hs : s.hostStart o = v.pumpHost.sweepHost := by
    rw [State.hostStart]
    dsimp only
    rw [h0, hv, hq]
    rfl
  have hvs : changesOnly [.fab] s v := hv ▸ State.fab_changes ..
  have hn : v.node = s.node := by rw [hv]; rfl
  have ho : v.out = s.out := by rw [hv]
  rw [hs, State.pumpHost_one (by rw [hv]) (State.pumpParts_one (by rw [hq]; exact hp) hpt hi), State.sweepHost_open rfl hc]
  refine ⟨?_, ?_⟩
  · exact (hvs.within.then (((State.fab_changes v _).within (l := [.fab, .ses, .out]).then (State.tally_changes ..)).then
      (State.send_changes ..))).then (State.fab_changes ..)
  · rw [HostPart.sent, ← hn, ← ho, hq]
    rfl

theorem hostWrite_word {s u : State} {off w : Nat} {d : List Byte} {x : Bool} {a : W64} {tag : W32} (hb : s.bridges = true)
    (hw : s.hostWindow 1 off 4 = some (w, a)) (ha : a.toNat % 4 = 0) (hd : d.length = 4) (h0 : s.fab.hostOps = []) (h1 : s.fab.readyAt ≤ s.us)
    (h2 : s.fab.outs.any (fun o => o.who == .host) = false) (h3 : s.newTag .host = some (tag, u)) :
    changesOnly [.fab, .ses, .out] s (hostWrite s 1 off d x false) ∧ (hostWrite s 1 off d x false).out = s.out ++
      [HostPart.sent { addr := a, op := 2, size := 4, data := d } (BitVec.ofNat 8 (s.num (O.winTenant w))) s tag] := by
  have hs : slice d (a.toNat - a.toNat) 4 = d := by simp [slice, zeros, hd, List.take_of_length_le]
  have he : hostWrite s 1 off d x false = s.hostStart {
      isWrite := true, relaxed := x, tenant := BitVec.ofNat 8 (s.num (O.winTenant w))
      parts := [{ addr := a, op := 2, size := 4, data := d }] } := by
    rw [hostWrite, if_neg (by simp [hb]), if_neg Bool.false_ne_true, if_neg (by decide), hd, show ((1 : Fin 3).val) = 1 from rfl, hw]
    dsimp only
    rw [show ((1 : Nat) == 2) = false from rfl, cutHost_word ha, List.map_cons, List.map_nil, hs, BitVec.ofNat_toNat, BitVec.setWidth_eq]
  rw [he]
  exact State.hostStart_one rfl rfl rfl h0 h1 h2 h3

theorem hostRead_word {s u : State} {off w : Nat} {a : W64} {tag : W32} (hb : s.bridges = true)
    (hw : s.hostWindow 1 off 4 = some (w, a)) (ha : a.toNat % 4 = 0) (h0 : s.fab.hostOps = []) (h1 : s.fab.readyAt ≤ s.us)
    (h2 : s.fab.outs.any (fun o => o.who == .host) = false) (h3 : s.newTag .host = some (tag, u)) :
    changesOnly [.fab, .ses, .out] s (hostRead s 1 off 4) ∧ (hostRead s 1 off 4).out = s.out ++
      [HostPart.sent { addr := a, op := 1, size := 4 } (BitVec.ofNat 8 (s.num (O.winTenant w))) s tag] := by
  have he : hostRead s 1 off 4 = s.hostStart { tenant := BitVec.ofNat 8 (s.num (O.winTenant w)), parts := [{ addr := a, op := 1, size := 4 }] } := by
    rw [hostRead, if_neg (by simp [hb]), if_neg (by decide), show ((1 : Fin 3).val) = 1 from rfl, hw]
    dsimp only
    rw [show ((1 : Nat) == 2) = false from rfl, cutHost_word ha, List.map_cons, List.map_nil, BitVec.ofNat_toNat, BitVec.setWidth_eq]
  rw [he]
  exact State.hostStart_one rfl rfl rfl h0 h1 h2 h3

theorem hostAtomic_word {s u : State} {off w : Nat} {op : Byte} {x y a : W64} {tag : W32} (hb : s.bridges = true)
    (ho : op = 0x10 ∨ op = 0x11 ∨ op = 0x16) (hw : s.hostWindow 1 off 4 = some (w, a)) (h0 : s.fab.hostOps = []) (h1 : s.fab.readyAt ≤ s.us)
    (h2 : s.fab.outs.any (fun o => o.who == .host) = false) (h3 : s.newTag .host = some (tag, u)) :
    changesOnly [.fab, .ses, .out] s (hostAtomic s 1 off op 4 x y) ∧ (hostAtomic s 1 off op 4 x y).out = s.out ++
      [HostPart.sent { addr := a, op := op, size := 4, opA := x, opB := y } (BitVec.ofNat 8 (s.num (O.winTenant w))) s tag] := by
  have hop : ((op == 0x10 || op == 0x11 || op == 0x16) && ((4 : BitVec 16) == 4 || (4 : BitVec 16) == 8)) = true := by
    rcases ho with rfl | rfl | rfl <;> rfl
  have he : hostAtomic s 1 off op 4 x y = s.hostStart {
      isAtomic := true, tenant := BitVec.ofNat 8 (s.num (O.winTenant w))
      parts := [{ addr := a, op := op, size := 4, opA := x, opB := y }] } := by
    rw [hostAtomic, if_neg (by simp [hb]), hop, if_neg (by decide), show ((1 : Fin 3).val) = 1 from rfl, show (4 : BitVec 16).toNat = 4 from rfl, hw]
  rw [he]
  exact State.hostStart_one rfl rfl rfl h0 h1 h2 h3

theorem pcieStateChange_sets {s : State} {a b c : Nat} (hb : s.bridges = true) :
    (pcieStateChange s a b c).num O.pcieState = a ∧ (pcieStateChange s a b c).num O.pcieRate = b ∧ (pcieStateChange s a b c).num O.pcieWidth = c ∧
      objectsBut [O.pcieState.key, O.pcieRate.key, O.pcieWidth.key] s (pcieStateChange s a b c) ∧
      changesOnly [.objects, .icx, .out] s (pcieStateChange s a b c) := by
  obtain ⟨t, ht⟩ : ∃ t, t = ((s.setNum O.pcieState a).setNum O.pcieRate b).setNum O.pcieWidth c := ⟨_, rfl⟩
  have he : pcieStateChange s a b c = if s.num O.pcieState = a then t else t.icxEvent 0x0F0 := by
    rw [pcieStateChange, if_neg (by simp [hb]), ht]
  have hn : ∀ o, (pcieStateChange s a b c).num o = t.num o := fun o => by
    rw [he]
    split
    · rfl
    · exact State.num_icxEvent ..
  have ho : objectsBut [O.pcieState.key, O.pcieRate.key, O.pcieWidth.key] s t := by
    rw [ht]
    exact ((State.setNum_objectsBut s O.pcieState a (by decide)).trans (State.setNum_objectsBut _ O.pcieRate b (by decide))).trans
      (State.setNum_objectsBut _ O.pcieWidth c (by decide))
  have hc : changesOnly [.objects] s t := by
    rw [ht]
    exact ((State.setNum_changes s O.pcieState a (by decide)).then (State.setNum_changes _ O.pcieRate b (by decide))).then
      (State.setNum_changes _ O.pcieWidth c (by decide))
  refine ⟨?_, ?_, ?_, ?_, ?_⟩
  · rw [hn, ht, State.num_setNum_other _ _ _ _ (by decide), State.num_setNum_other _ _ _ _ (by decide), State.num_setNum_same]
  · rw [hn, ht, State.num_setNum_other _ _ _ _ (by decide), State.num_setNum_same]
  · rw [hn, ht, State.num_setNum_same]
  · rw [he]
    split
    · exact ho
    · exact ho.trans ((State.icxEvent_changes ..).objectsBut _)
  · rw [he]
    split
    · exact hc.within
    · exact hc.within.then (State.icxEvent_changes ..)

/-- Settles O54: with nothing else of a requester's in flight an access of one request is issued in the same step. -/
theorem lintelAndHost : Obligations.LintelAndHost := by
  unfold Obligations.LintelAndHost
  refine ⟨fun s g src n b tag u hr hw h1 h2 h3 => ⟨_, rfl, lintelBatch_one hr hw h1 h2 h3⟩, fun s g recs hr => ?_,
    fun s g => ⟨fun h => exec_next_of_eq rfl (if_pos h), fun h => ⟨_, rfl, State.flushReturns_some h⟩⟩,
    fun s hb => ⟨fun bar off d x => ?_, fun bar off d x h0 hn => ?_, fun off n => ?_, fun off w a tag u hw ha h0 h1 h2 h3 =>
      ⟨fun d x hd => ?_, ?_, fun op x y ho => ?_⟩, fun src line hn => ?_, fun src line m hm => ⟨fun hv => ?_, fun hv => ?_⟩, fun a b c => ?_⟩,
    fun s hb => ⟨fun _ _ _ _ _ => ?_, fun _ _ _ => ?_, fun _ _ _ _ _ _ => ?_, fun _ _ => ?_, fun _ _ _ => ?_⟩⟩
  · refine ⟨_, exec_next_of_eq rfl ((if_neg (by simp [hr])).trans (State.returns_eq recs s)), State.out_changes .., rfl⟩
  · exact exec_next_of_eq rfl ((if_neg (by simp [hb])).trans (if_pos rfl))
  · refine exec_next_of_eq rfl ?_
    rw [hostWrite, if_neg (by simp [hb]), if_neg Bool.false_ne_true, if_neg (fun h : bar.val = 0 => h0 (Fin.ext h)), hn]
    rfl
  · exact exec_next_of_eq rfl ((if_neg (by simp [hb])).trans (if_pos rfl))
  · exact ⟨_, rfl, hostWrite_word hb hw ha hd h0 h1 h2 h3⟩
  · exact ⟨_, rfl, hostRead_word hb hw ha h0 h1 h2 h3⟩
  · exact ⟨_, rfl, hostAtomic_word hb ho hw h0 h1 h2 h3⟩
  · refine exec_next_of_eq rfl ?_
    rw [hostIrq, if_neg (by simp [hb]), hn]
  · refine exec_next_of_eq rfl ?_
    rw [hostIrq, if_neg (by simp [hb]), hm]
    exact if_pos hv
  · refine exec_next_of_eq rfl ?_
    rw [hostIrq, if_neg (by simp [hb]), hm]
    exact if_neg hv
  · exact ⟨_, rfl, pcieStateChange_sets hb⟩
  all_goals exact exec_next_of_eq rfl (if_pos (by simp [hb]))

end Sys2Proof.Machine

/-! PROOF. The weight switch: requested, noticed, confirmed, cancelled and made; twin fetches (10 R333 to R341). -/

namespace Sys2Proof.Machine

/-- The set of a name is told a message in each of the names that the package speaks in. -/
theorem State.tellSets_changes (names : List Node) (set : State → Node → List Node) (body : Node → Body) (s : State) :
    changesOnly [.out] s (names.foldl (fun u nm => (set u nm).foldl (fun v n => v.send n (body nm)) u) s) :=
  changesOnly.foldl (fun t _ => changesOnly.foldl (fun _ _ => State.send_changes ..) _ (changesOnly.refl _ t)) names (changesOnly.refl _ s)

/-! ### SWITCH_REQUEST -/

/-- The two events of a switch. -/
def State.switchEvents (s : State) (due : Tick) (ep : W32) : State :=
  (s.schedule due (.weightSwitch ep)).schedule (due - BitVec.ofNat 48 (s.num O.switchConfirm)) .switchConfirm

/-- The switch is pending, nobody told yet. -/
def State.switchAsked (s : State) (due : Tick) (ep : W32) : State :=
  { s.switchEvents due ep with wts := { (s.switchEvents due ep).wts with sw := .pending, swTick := due, swEpoch := ep } }

theorem State.switchAsked_changes (s : State) (due : Tick) (ep : W32) : changesOnly [.clk, .wts] s (s.switchAsked due ep) :=
  (State.clk_changes s (s.switchEvents due ep).clk).within.then (State.wts_changes (s.switchEvents due ep) _)

theorem State.switchRequest_taken {s : State} {req : List Byte} {due : Tick} {ep : W32} (hd : due = BitVec.ofNat 48 (u64 req 0))
    (he : ep = BitVec.ofNat 32 (u32 req 8)) (h0 : u64 req 0 < 2 ^ 48) (h1 : u32 req 0xC = 0) (hr : s.wts.k0.st = .ready)
    (hep : s.wts.k0.epoch = ep) (hp : s.wts.sw ≠ .pending) (hc : s.wts.sw ≠ .confirmed) (hm : s.clk.mode ≠ .holdover)
    (hh : s.clk.held = true) (ha : Tick.after due s.clk.tick = true) (hg : s.num O.switchConfirm + 1000 ≤ Tick.since due s.clk.tick)
    (hf : Tick.since due s.clk.tick ≤ 2 ^ 32) (hn : s.pendingEvents < 1024) :
    ∃ t, s.switchRequest req = (Err.ok, t) ∧ changesOnly [.out] (s.switchAsked due ep) t := by
  subst hd he
  rw [State.switchRequest]
  dsimp only
  rw [if_neg (by omega), List.find?_cons_of_pos (by simp [hr, hep])]
  dsimp only
  rw [if_neg (not_or.2 ⟨hp, hc⟩), if_neg hm, if_neg (by simp [hh]), if_neg (by simp only [ha, Bool.not_true, Bool.false_or, decide_eq_true_eq]; omega),
    if_neg (by omega), if_neg (by omega)]
  exact ⟨_, rfl, State.tellSets_changes _ State.switchSet _ _⟩

theorem execSwitchRequest_taken {s : State} {p : Path} {req : List Byte} {due : Tick} {ep : W32}
    (h : passes s p O.switchRequest (.bytes req)) {t : State} (ht : s.switchRequest req = (Err.ok, t))
    (hc : changesOnly [.out] (s.switchAsked due ep) t) :
    ∃ u, exec (.switchRequest p req) s = .next u ∧ u.wts = { s.wts with sw := .pending, swTick := due, swEpoch := ep } ∧
      u.clk.events = s.clk.events ++ [{ due := due, ev := .weightSwitch ep },
        { due := due - BitVec.ofNat 48 (s.num O.switchConfirm), ev := .switchConfirm }] ∧
      changesOnly [.wts, .clk, .out, .server] s u := by
  have hm : mirroredKey O.switchRequest.key = false := by decide +kernel
  have he : exec (.switchRequest p req) s = .next (t.noteResult O.switchRequest.key Err.ok) := by
    rw [← show (s.switchRequest req).2 = t by rw [ht], ← show (s.switchRequest req).1 = Err.ok by rw [ht],
      ← State.writeBlob_owned h (State.ownBytes_switchRequest ..) hm]
    rfl
  have hk : changesOnly [.out, .server] (s.switchAsked due ep) _ := hc.within.then (State.noteResult_changes t O.switchRequest.key Err.ok)
  refine ⟨_, he, hk.2 .wts (by decide), ?_, ((State.switchAsked_changes s due ep).within.then hk)⟩
  rw [show (t.noteResult O.switchRequest.key Err.ok).clk = _ from hk.2 .clk (by decide)]
  simp [State.switchAsked, State.switchEvents]

/-! ### SWITCH_CONFIRM and SWITCH_CANCEL -/

theorem State.unschedule_changes (s : State) (p : Ev → Bool) : changesOnly [.clk] s (s.unschedule p) := State.clk_changes ..

theorem State.cancelSwitch_spec (s : State) :
    s.cancelSwitch.wts = { s.wts with sw := .cancelled } ∧
      changesOnly [.wts, .clk, .icx, .fcu, .errN, .notify, .out] s s.cancelSwitch := by
  rw [State.cancelSwitch]
  dsimp only
  generalize hu : List.foldl _ _ _ = u
  have hc : changesOnly [.clk, .out] s u := by
    rw [← hu]
    exact (State.unschedule_changes s _).within.then (State.tellSets_changes _ State.switchSet _ _)
  refine ⟨?_, ((hc.within.then (State.wts_changes u { u.wts with sw := .cancelled })).then (State.raise_changes ..)).then
    (State.icxEvent_changes ..)⟩
  rw [State.icxEvent_wts, State.raise_wts, show u.wts = s.wts from hc.2 .wts (by decide)]

/-- The nodes whose notices confirm a switch. -/
def State.switchVoters (s : State) : List Node :=
  (((List.range (s.num O.bondCount)).filter (fun i => s.crs.own.members.getLsbD i) |>.map s.bondMember) ++
    (if s.mir.twinFailed then [] else [s.twinNode])).filter (fun n => n != s.node) |>.eraseDups

theorem State.mem_switchVoters (s : State) (n : Node) :
    n ∈ s.switchVoters ↔ ((∃ i, i < s.num O.bondCount ∧ s.crs.own.members.getLsbD i = true ∧ s.bondMember i = n) ∨
      (s.mir.twinFailed = false ∧ n = s.twinNode)) ∧ n ≠ s.node := by
  simp only [State.switchVoters, List.mem_eraseDups, List.mem_filter, List.mem_append, List.mem_map, List.mem_range, bne_iff_ne]
  refine and_congr_left' (or_congr (by simp only [and_assoc]) ?_)
  cases s.mir.twinFailed <;> simp

theorem State.twinNode_ne (s : State) : s.twinNode ≠ s.node := by
  intro h
  have h8 : s.node ^^^ (s.node ^^^ 8) = 0 := by rw [← State.twinNode, h, BitVec.xor_self]; rfl
  rw [← BitVec.xor_assoc, BitVec.xor_self, BitVec.zero_xor] at h8
  exact absurd h8 (by decide)

/-- SWITCH_CONFIRM at its tick: the notices at hand decide. -/
theorem switchConfirm_due {s : State} (hd : (s.dueEvent (fun e => e == Ev.switchConfirm)).isSome = true) (hp : s.wts.sw = .pending)
    (he : s.wts.k0.epoch = s.wts.swEpoch) (hr : s.wts.k0.st = .ready) :
    switchConfirm s =
      if s.switchVoters.all (fun n => s.wts.notices.any (fun x => x == (n, s.wts.swTick, s.wts.swEpoch, s.wts.k0.digest))) then
        { s.unschedule (fun e => e == Ev.switchConfirm) with wts := { s.wts with sw := .confirmed } }.icxEvent 0x072
      else (s.unschedule (fun e => e == Ev.switchConfirm)).cancelSwitch := by
  obtain ⟨e, he'⟩ := Option.isSome_iff_exists.1 hd
  rw [switchConfirm, he']
  dsimp only
  rw [if_neg (by simp [hp])]
  have hk : [(s.unschedule (fun e => e == Ev.switchConfirm)).wts.k0, (s.unschedule (fun e => e == Ev.switchConfirm)).wts.k1].find?
      (fun c => c.epoch == (s.unschedule (fun e => e == Ev.switchConfirm)).wts.swEpoch && c.st != .absent) = some s.wts.k0 :=
    List.find?_cons_of_pos (by simp [he, hr])
  rw [hk]
  rfl

theorem switchCancel_pending {s : State} {ep : W32} (h : s.wts.sw = .pending ∨ s.wts.sw = .confirmed) (he : s.wts.swEpoch = ep) :
    switchCancel s ep = s.cancelSwitch := if_pos ⟨h, he⟩

theorem switchCancel_other {s : State} {ep : W32} (he : s.wts.swEpoch ≠ ep) : switchCancel s ep = s := by
  rw [switchCancel, if_neg (fun h => he h.2), if_neg (fun h => he h.2)]

/-! ### WEIGHT_SWITCH -/

/-- The copies after a switch made at a tick. -/
def State.switched (s : State) (due : Tick) : State :=
  { s.unschedule (fun e => match e with | .weightSwitch _ => true | _ => false) with
    wts := { s.wts with k0 := { s.wts.k0 with st := .live, swTick := due }, k1 := { s.wts.k1 with st := .outgoing }, sw := .done } }.icxEvent 0x073

theorem State.switched_spec (s : State) (due : Tick) :
    (s.switched due).wts = { s.wts with k0 := { s.wts.k0 with st := .live, swTick := due }, k1 := { s.wts.k1 with st := .outgoing }, sw := .done } ∧
      (s.switched due).pkg = s.pkg ∧ changesOnly [.wts, .clk, .icx, .out] s (s.switched due) :=
  ⟨by rw [State.switched, State.icxEvent_wts], by rw [State.switched, State.icxEvent_pkg]; rfl,
    ((State.unschedule_changes s _).within.then (State.wts_changes _ _)).then (State.icxEvent_changes ..)⟩

/-- The outgoing copy in slot 1 stays outgoing or is READY again. -/
theorem State.retireOutgoing_spec {s : State} (h0 : s.wts.k0.st = .live) (h1 : s.wts.k1.st = .outgoing) (hl : s.wts.load ≠ .twinWait) :
    ∃ x, s.retireOutgoing = { s with wts := { s.wts with k1 := { s.wts.k1 with st := x } } } ∧ x ≠ .live := by
  rw [State.retireOutgoing, if_neg (by simp [h0]), if_pos h1]
  dsimp only
  by_cases hu : s.usesOutgoing = true
  · rw [if_pos hu]
    exact ⟨.outgoing, by rw [← h1], by decide⟩
  · rw [if_neg hu, if_neg hl]
    exact ⟨.ready, rfl, by decide⟩

theorem State.coveredLost_same {s : State} (h : s.pkg.st ≠ .covering) : s.coveredLost = s := by
  rw [State.coveredLost]
  cases s.mir.covered <;> simp [h]

theorem weightSwitch_made {s : State} {e : Sched} (hd : s.dueEvent (fun e => match e with | .weightSwitch _ => true | _ => false) = some e)
    (hc : s.wts.sw = .confirmed) (h0 : s.wts.k0.st = .ready) (he : s.wts.k0.epoch = s.wts.swEpoch) (h1 : s.wts.k1.st = .live)
    (hl : s.wts.load ≠ .twinWait) (hp : s.pkg.st ≠ .covering) : weightSwitch s = (s.switched e.due).retireOutgoing := by
  unfold weightSwitch
  split
  next h => exact absurd (h.symm.trans hd) (by simp)
  next e' h =>
    obtain rfl : e' = e := Option.some.inj (h.symm.trans hd)
    rw [if_neg (by simp [hc])]
    have hr : (s.switched e'.due).retireOutgoing.coveredLost = (s.switched e'.due).retireOutgoing := by
      obtain ⟨hw, hpk, -⟩ := s.switched_spec e'.due
      obtain ⟨x, hx, -⟩ := State.retireOutgoing_spec (s := s.switched e'.due) (by rw [hw]) (by rw [hw]) (by rw [hw]; exact hl)
      exact State.coveredLost_same (by rw [hx, hpk]; exact hp)
    have hb : (s.wts.k0.epoch == s.wts.swEpoch) = true := by simp [he]
    have hn : ∀ (c : Bool) (x y : State), y = x → (if c then x else y) = x := fun c x y h => by cases c <;> simp [h]
    simp only [State.unschedule_wts, h0, hb, h1]
    exact hn _ _ _ hr

/-! ### TWIN_FETCH -/

theorem twinFetch_serving {s : State} {q : Port} {src : Node} {ep : W32} {part : Bool} {a b off : Nat} (h : s.mir.st ≠ .restoring) :
    twinFetch s q src ep part a b off = s.serveFetch q.val src ep part a b off := by
  rw [twinFetch]
  split
  next h' _ => exact absurd h' h
  next => rfl

theorem State.fetched_other {s : State} {ep : W32} (h0 : s.wts.k0.epoch ≠ ep) (h1 : s.wts.k1.epoch ≠ ep) (q : Nat) (src : Node) (part : Bool)
    (a b off : Nat) : s.fetched q src ep part a b off = none := by
  rw [State.fetched]
  simp [h0, h1]

namespace Settled

/-- Settles O25: each command of a switch by its own equation. -/
theorem weightSwitch : Obligations.WeightSwitch := by
  refine ⟨?_, fun _ _ _ _ _ => rfl, ?_, ?_, ?_, ?_⟩
  · intro s p req due ep hpass h0 h1 hd he hr hep hp hc hm hh ha hg hf hn
    obtain ⟨t, ht, htc⟩ := State.switchRequest_taken hd he h0 h1 hr hep hp hc hm hh ha hg hf hn
    exact execSwitchRequest_taken hpass ht htc
  · intro s hb hd hp he hr
    have hx : exec .switchConfirm s = .next (switchConfirm s) := exec_next_of_eq rfl (by rw [State.before_eq hb])
    refine ⟨fun hm ht => ⟨_, hx, ?_⟩, fun hn ht => ⟨_, hx, ?_⟩⟩ <;> rw [switchConfirm_due hd hp he hr]
    · rw [if_pos (by
        rw [List.all_eq_true]
        intro n hn
        obtain ⟨hn | hn, hne⟩ := (s.mem_switchVoters n).1 hn
        · obtain ⟨i, hi, hi', rfl⟩ := hn
          exact hm i hi hi' hne
        · obtain ⟨hf, rfl⟩ := hn
          exact ht.resolve_left (by simp [hf]))]
      exact ⟨State.icxEvent_wts .., ((State.unschedule_changes s _).within.then (State.wts_changes _ _)).then (State.icxEvent_changes ..)⟩
    · have hv : s.twinNode ∈ s.switchVoters := (s.mem_switchVoters _).2 ⟨.inr ⟨ht, rfl⟩, s.twinNode_ne⟩
      rw [if_neg (fun hall => by
        have hany := List.all_eq_true.1 hall _ hv
        rw [hn] at hany
        cases hany)]
      obtain ⟨hw, hk⟩ := State.cancelSwitch_spec (s.unschedule (fun e => e == .switchConfirm))
      exact ⟨hw, (State.unschedule_changes s _).within.then hk⟩
  · intro s src ep
    refine ⟨fun h he => ⟨_, exec_next_of_eq rfl (switchCancel_pending h he), State.cancelSwitch_spec s⟩, fun he => ?_⟩
    exact exec_next_of_eq rfl (switchCancel_other he)
  · intro s e hb hd hc h0 he h1 hl hp
    have hx : exec .weightSwitch s = .next (s.switched e.due).retireOutgoing :=
      exec_next_of_eq rfl (by rw [State.before_eq hb]; exact weightSwitch_made hd hc h0 he h1 hl hp)
    obtain ⟨hw, -, hk⟩ := s.switched_spec e.due
    obtain ⟨x, hr, hx'⟩ := State.retireOutgoing_spec (s := s.switched e.due) (by rw [hw]) (by rw [hw]) (by rw [hw]; exact hl)
    refine ⟨_, hx, ?_⟩
    rw [hr, hw]
    exact ⟨rfl, hx', rfl, rfl, hk.then (State.wts_changes _ _)⟩
  · intro s q src ep part a b off hst
    refine ⟨fun h0 h1 => exec_next_of_eq rfl ?_, fun g hg => ⟨_, exec_next_of_eq rfl ((twinFetch_serving hst).trans
      (by rw [State.serveFetch, hg])), rfl, ?_, ?_⟩⟩
    · rw [twinFetch_serving hst, State.serveFetch, State.fetched_other h0 h1]
    · exact State.num_setNum_same ..
    · exact (State.bump_changes s O.twinFetchesServed 32 1 (by decide)).within.then (State.send_changes ..)

end Settled

end Sys2Proof.Machine

/-! PROOF. Sampling a hod (02 R62 to R67). -/

namespace Sys2Proof.Machine

theorem ofLe_leBytes (n : Nat) : ∀ v, v < 256 ^ n → ofLe (leBytes n v) = v := by
  induction n with
  | zero => intro v h; simp only [Nat.pow_zero, Nat.lt_one_iff] at h; simp [leBytes, ofLe, h]
  | succ n ih =>
    intro v h
    rw [leBytes, ofLe, ih _ (Nat.div_lt_of_lt_mul (by rwa [Nat.pow_succ'] at h)), BitVec.toNat_ofNat]
    omega

theorem State.hodRt_setHodRt_same (s : State) (k : Nat) (r : HodRt) : (s.setHodRt k r).hodRt k = r := SMap.get_set_same ..

theorem State.hodRt_setHodRt_other (s : State) (k i : Nat) (r : HodRt) (h : i ≠ k) : (s.setHodRt k r).hodRt i = s.hodRt i :=
  SMap.get_set_other _ _ _ _ _ h

theorem State.setHodRt_changes (s : State) (k : Nat) (r : HodRt) : changesOnly [.crs] s (s.setHodRt k r) := State.crs_changes ..

theorem State.readBad_none {s : State} {l : List (Nat × Nat)} (h : s.badIn l = []) : s.readBad l = s.tallyReads l := by
  rw [State.readBad, State.badPaths_none h]

theorem hodCovered_own (h : Fin 64) : hodCovered h.val = false := by simp [hodCovered]

theorem State.hodNum_own (s : State) (h : Fin 64) (o : Nat → Obj) : s.hodNum h.val o = s.num (o h.val) := by
  rw [State.hodNum, hodCovered_own, Nat.mod_eq_of_lt h.isLt, State.cnum, if_neg (by decide)]

theorem State.setHodNum_own (s : State) (h : Fin 64) (o : Nat → Obj) (v : Nat) : s.setHodNum h.val o v = s.setNum (o h.val) v := by
  rw [State.setHodNum, hodCovered_own, Nat.mod_eq_of_lt h.isLt, State.setCnum, if_neg (by decide)]

theorem State.consume_own (s : State) (h : Fin 64) :
    s.consume h.val = s.setNum (O.hodConsumerIndex h.val) ((s.num (O.hodConsumerIndex h.val) + 1) % 2 ^ 32) := by
  rw [State.consume, State.hodNum_own, State.setHodNum_own]

/-! ### One sampling -/

/-- The hod has been sampled in this tick. -/
def State.sampledNow (s : State) (k : Nat) : State := s.setHodRt k { s.hodRt k with sampled := some s.clk.tick }

/-- HOD_SAMPLING at a sampling tick of an own hod that takes one record at most, the package state left alone. -/
theorem hodSampling_once {s t : State} {h : Fin 64} {l : List Piece} (hb : s.dueBefore 5 = false) (hr : s.pkg.st.hubRuns = true)
    (hc : s.pkg.st ≠ .covering) (hk : s.clk.counting = true) (hs : s.samplesAt h.val = true) (hw : (s.hodRt h.val).waiting = [])
    (ht : (s.hodRt h.val).sampled ≠ some s.clk.tick) (hl : s.hodNum h.val O.hodTakeLimit = 1)
    (hloop : State.sampleLoop 1 h.val (s.sampledNow h.val) = t) (hf : changesOnly l s t) (hp : Piece.pkg ∉ l) :
    exec (.hodSampling h) s = .next t := by
  have he : s.hodNum h.val O.hodEnable = 1 := by
    simp only [State.samplesAt, Bool.and_eq_true, beq_iff_eq] at hs
    exact hs.1
  have hh : s.sampleHod h.val = t := by
    rw [State.sampleHod, if_neg (by simp [he, hw, ht]), hl]
    exact hloop
  have hst : (t.pkg.st == PkgState.covering) = false := by
    rw [show t.pkg.st = s.pkg.st from congrArg (·.st) (hf.2 .pkg hp)]
    simpa using hc
  refine exec_next_of_eq rfl ?_
  rw [State.before_eq hb, hodSampling, if_neg (by simp [hr, hk]), if_pos hs, hh]
  dsimp only
  rw [hst]
  rfl

/-- The record in a slot whose stamps are both right. -/
def State.slotRecord (s : State) (k seq a : Nat) : TakenRec :=
  { readHodRecord k (BitVec.ofNat 32 seq) (s.peek a 64).1 with tenant := s.hodNum k O.hodTenant }

/-- Sampled once, the slot's bytes read and counted, the index past the record and no torn record remembered. -/
def State.passed (s : State) (h : Fin 64) (a : Nat) : State :=
  ((((s.sampledNow h.val).tallyReads [(a, 64)]).consume h.val).setHodRt h.val
    { s.hodRt h.val with sampled := some s.clk.tick, tornSince := none })

theorem State.passed_spec (s : State) (h : Fin 64) (a : Nat) :
    (s.passed h a).crs.taken = s.crs.taken ∧ (s.passed h a).hodRt h.val = { s.hodRt h.val with sampled := some s.clk.tick, tornSince := none } ∧
      (s.passed h a).num (O.hodConsumerIndex h.val) = (s.num (O.hodConsumerIndex h.val) + 1) % 2 ^ 32 ∧
      objectsBut [(O.hodConsumerIndex h.val).key] s (s.passed h a) ∧ changesOnly [.crs, .ses, .objects] s (s.passed h a) := by
  have hne : (O.hodConsumerIndex h.val).key ≠ O.faultsDropped.key := by simp only [O.hodConsumerIndex, O.faultsDropped]; omega
  obtain ⟨u, hu⟩ : ∃ u : State, u = (s.sampledNow h.val).tallyReads [(a, 64)] := ⟨_, rfl⟩
  have huc : changesOnly [.crs, .ses] s u := by
    rw [hu]
    exact (State.setHodRt_changes ..).within.then (State.tally_changes ..)
  have hun : ∀ o, u.num o = s.num o := fun o => by rw [hu]; rfl
  have hut : u.crs.taken = s.crs.taken := by rw [hu]; rfl
  rw [State.passed, ← hu, State.consume_own, hun]
  refine ⟨hut, State.hodRt_setHodRt_same .., State.num_setNum_same .., ?_, ?_⟩
  · exact ((huc.objectsBut _).trans (State.setNum_objectsBut u _ _ (by simp))).trans ((State.setHodRt_changes ..).objectsBut _)
  · exact ((huc.within (l := [.crs, .ses, .objects])).then (State.setNum_changes u _ _ hne)).then (State.setHodRt_changes ..)

/-- A slot with both stamps right: the record is taken, or rejected with its status. -/
theorem State.sampleLoop_whole {s : State} {h : Fin 64} {a seq : Nat} (hseq : seq = s.hodNum h.val O.hodConsumerIndex)
    (ha : a = s.hodSlot h.val seq) (hbad : s.badIn [(a, 64)] = []) (hlt : seq < 2 ^ 32) (hlead : s.peek a 4 = (leBytes 4 seq, false))
    (htail : s.peek (a + 0x3C) 4 = (leBytes 4 seq, false)) :
    State.sampleLoop 1 h.val (s.sampledNow h.val) =
      if s.intakeStatus false (s.slotRecord h.val seq a) (s.peek a 64).1 (s.peek a 64).2 ≠ 0 then
        (s.passed h a).rejectRecord h.val (if (s.peek (a + 8) 8).2 then 0 else (s.slotRecord h.val seq a).tag)
          (s.intakeStatus false (s.slotRecord h.val seq a) (s.peek a 64).1 (s.peek a 64).2) seq
      else { s.passed h a with crs := { (s.passed h a).crs with taken := (s.passed h a).crs.taken ++ [s.slotRecord h.val seq a] } } := by
  have hn : (s.sampledNow h.val).hodNum h.val O.hodConsumerIndex = seq := hseq.symm
  have hsl : (s.sampledNow h.val).hodSlot h.val seq = a := ha.symm
  have hp : ∀ b n, (s.sampledNow h.val).peek b n = s.peek b n := fun _ _ => rfl
  have hrb : (s.sampledNow h.val).readBad [(a, 64)] = (s.sampledNow h.val).tallyReads [(a, 64)] := State.readBad_none hbad
  have hof : ofLe (leBytes 4 seq) = seq := ofLe_leBytes 4 seq hlt
  rw [State.sampleLoop]
  dsimp only
  rw [hn, hsl]
  simp only [hp, hlead, htail, hof, Bool.not_false, beq_self_eq_true, Bool.and_self, if_true]
  rw [hrb, State.sampleLoop, State.takeRecord]
  dsimp only
  have hrt : ((s.sampledNow h.val).tallyReads [(a, 64)]).hodRt h.val = { s.hodRt h.val with sampled := some s.clk.tick } :=
    State.hodRt_setHodRt_same ..
  rw [hodCovered_own, hrt]
  rfl

theorem State.rejectRecord_own (s : State) (h : Fin 64) (tag : W64) (st seq : Nat) :
    (s.rejectRecord h.val tag st seq).crs.taken = s.crs.taken ∧
      ((s.rejectRecord h.val tag st seq).hodRt h.val).rejects = (s.hodRt h.val).rejects ++ [{ tag := tag, status := st }] ∧
      (s.rejectRecord h.val tag st seq).num (O.hodConsumerIndex h.val) = s.num (O.hodConsumerIndex h.val) ∧
      changesOnly [.crs, .objects, .icx, .out] s (s.rejectRecord h.val tag st seq) := by
  have hne : (O.hodRejected h.val).key ≠ O.faultsDropped.key := by simp only [O.hodRejected, O.faultsDropped]; omega
  have hni : (O.hodConsumerIndex h.val).key ≠ (O.hodRejected h.val).key := by simp only [O.hodRejected, O.hodConsumerIndex]; omega
  rw [State.rejectRecord]
  rw [State.setHodNum_own]
  refine ⟨?_, ?_, ?_, ?_⟩
  · rw [State.icxEvent_crs]
    rfl
  · rw [State.hodRt, State.icxEvent_crs]
    exact congrArg HodRt.rejects (State.hodRt_setHodRt_same ..)
  · rw [State.icxEvent_num, State.num_setNum_other _ _ _ _ hni]
    rfl
  · exact ((State.setHodRt_changes ..).within.then (State.setNum_changes _ _ _ hne)).then (State.icxEvent_changes ..)

/-- A slot of which only LEAD is right, for the first time. -/
theorem State.sampleLoop_torn {s : State} {h : Fin 64} {a : Nat} (ha : a = s.hodSlot h.val (s.hodNum h.val O.hodConsumerIndex))
    (hbad : s.badIn [(a, 4), (a + 0x3C, 4)] = []) (hl : (s.peek a 4).2 = false) (hlead : ofLe (s.peek a 4).1 = s.hodNum h.val O.hodConsumerIndex)
    (ht : (s.peek (a + 0x3C) 4).2 = false) (htail : ofLe (s.peek (a + 0x3C) 4).1 ≠ s.hodNum h.val O.hodConsumerIndex)
    (hf : (s.hodRt h.val).tornSince = none) :
    State.sampleLoop 1 h.val (s.sampledNow h.val) = ((s.sampledNow h.val).tallyReads [(a, 4), (a + 0x3C, 4)]).setHodRt h.val
      { s.hodRt h.val with sampled := some s.clk.tick, tornSince := some s.clk.tick } := by
  have hn : (s.sampledNow h.val).hodNum h.val O.hodConsumerIndex = s.hodNum h.val O.hodConsumerIndex := rfl
  have hsl : (s.sampledNow h.val).hodSlot h.val (s.hodNum h.val O.hodConsumerIndex) = a := ha.symm
  have hp : ∀ b n, (s.sampledNow h.val).peek b n = s.peek b n := fun _ _ => rfl
  have hrb : (s.sampledNow h.val).readBad [(a, 4), (a + 0x3C, 4)] = (s.sampledNow h.val).tallyReads [(a, 4), (a + 0x3C, 4)] :=
    State.readBad_none hbad
  have hrt : ((s.sampledNow h.val).tallyReads [(a, 4), (a + 0x3C, 4)]).hodRt h.val = { s.hodRt h.val with sampled := some s.clk.tick } :=
    State.hodRt_setHodRt_same ..
  rw [State.sampleLoop]
  dsimp only
  rw [hn, hsl]
  simp only [hp, hl, hlead, ht, beq_eq_false_iff_ne.2 htail, Bool.not_false, beq_self_eq_true, Bool.and_false,
    Bool.false_eq_true, if_false]
  rw [hrb, State.torn, hrt]
  simp only [hf]
  rfl

namespace Settled

/-- Settles O29: a slot with both stamps, with one, and no sampling tick. -/
theorem hodSampling : Obligations.HodSampling := by
  refine ⟨?_, ?_, ?_⟩
  · intro s h a r hb hbad hr hc hk hs hw ht hl ha hlead htail hlt hrec
    obtain rfl : r = s.slotRecord h.val (s.hodNum h.val O.hodConsumerIndex) a := hrec
    have hloop := State.sampleLoop_whole rfl ha hbad hlt hlead htail
    obtain ⟨htk, hrt, hci, hob, hch⟩ := s.passed_spec h a
    refine ⟨fun hok => ?_, fun hno => ?_⟩
    · rw [if_neg (Classical.not_not.2 hok)] at hloop
      have hf := hch.then (State.crs_changes (s.passed h a)
        { (s.passed h a).crs with taken := (s.passed h a).crs.taken ++ [s.slotRecord h.val (s.hodNum h.val O.hodConsumerIndex) a] })
      exact ⟨_, hodSampling_once hb hr hc hk hs hw ht hl hloop hf (by decide), congrArg (· ++ _) htk, hci,
        hob.trans ((State.crs_changes ..).objectsBut _), hf⟩
    · rw [if_pos hno] at hloop
      obtain ⟨k1, k2, k3, k4⟩ := (s.passed h a).rejectRecord_own h
        (if (s.peek (a + 8) 8).2 then 0 else (s.slotRecord h.val (s.hodNum h.val O.hodConsumerIndex) a).tag)
        (s.intakeStatus false (s.slotRecord h.val (s.hodNum h.val O.hodConsumerIndex) a) (s.peek a 64).1 (s.peek a 64).2)
        (s.hodNum h.val O.hodConsumerIndex)
      have hf := (hch.within (l := [.crs, .ses, .objects, .icx, .out])).then k4
      exact ⟨_, hodSampling_once hb hr hc hk hs hw ht hl hloop hf (by decide), k1.trans htk, k2.trans (by rw [hrt]), k3.trans hci, hf⟩
  · intro s h a hb hbad hr hc hk hs hw ht hl ha hl1 hlead ht1 htail hf
    have hloop := State.sampleLoop_torn ha hbad hl1 hlead ht1 htail hf
    have hfr : changesOnly [.crs, .ses] s (((s.sampledNow h.val).tallyReads [(a, 4), (a + 0x3C, 4)]).setHodRt h.val
        { s.hodRt h.val with sampled := some s.clk.tick, tornSince := some s.clk.tick }) :=
      ((State.setHodRt_changes ..).within.then (State.tally_changes ..)).then (State.setHodRt_changes ..)
    refine ⟨_, hodSampling_once hb hr hc hk hs hw ht hl hloop hfr (by decide), State.hodRt_setHodRt_same .., rfl, fun k hne => ?_, hfr⟩
    rw [State.hodRt_setHodRt_other _ _ _ _ hne]
    exact State.hodRt_setHodRt_other _ _ _ _ hne
  · intro s h hb hc hs
    refine exec_next_of_eq rfl ?_
    have hcov : (s.pkg.st == PkgState.covering) = false := by simpa using hc
    rw [State.before_eq hb, Machine.hodSampling, hs]
    simp [hcov]

end Settled

end Sys2Proof.Machine

/-! PROOF. The vector kinds on one row (03 R84 to R106; 04 Table 4.6; 06 R200). -/

namespace Sys2Proof.Machine

/-- A kind whose effect is a single write without a scale. -/
theorem State.runKind_ran_write {s : State} {r : Run} {kind : Nat} {a : Ashlar} {f : Ashlar → Effect} {w : Nat × List Byte} (hs : sound s)
    (h : s.ashlar r kind = some a) (hw : (f a).writes = [w]) (he : (f a).exps = []) :
    Ran s (s.runKind r kind f) r (s.pokeAs a.odd 0 w.1 w.2).mem := by
  have hr := State.runKind_ran f h (State.badIn_sound s hs _)
  rwa [hw, List.foldl_cons, List.foldl_nil, Effect.expAt, he] at hr

/-- A kind that writes one row in a block's format, at the row's address. -/
theorem State.runKind_ran_row {α : Type} {put : BlockEntry → Nat → α → (Nat × List Byte) × Bool} {s : State} {r : Run} {kind : Nat}
    {a : Ashlar} {f : Ashlar → Effect} {out : BlockEntry} {reads : List (Nat × Nat)} (g : Nat → α) (hs : sound s)
    (h : s.ashlar r kind = some a) (hf : f a = rowsBy put (some out) 1 g reads) (hp : (put out 0 (g 0)).1.1 = out.row 0) :
    Ran s (s.runKind r kind f) r (s.pokeAs a.odd 0 (out.row 0) (put out 0 (g 0)).1.2).mem := by
  rw [← hp]
  exact State.runKind_ran_write hs h (by rw [hf]; rfl) (by rw [hf]; rfl)

theorem outSums_at (b : BlockEntry) (t : Nat) (l : List (Int × Bool)) : (outSums b t l).1.1 = b.row t := by
  unfold outSums
  split
  · rfl
  · dsimp only
    split <;> rfl

/-- A kind whose one row has a scale: codes at the row's address, and the scale elsewhere, both with its exponent. -/
theorem State.runKind_ran_scaled {s : State} {r : Run} {kind : Nat} {a : Ashlar} {f : Ashlar → Effect} {w v : Nat × List Byte} {x : Nat}
    (hs : sound s) (h : s.ashlar r kind = some a) (hw : (f a).writes = [w, v]) (he : (f a).exps = [(w.1, x), (v.1, x)]) :
    Ran s (s.runKind r kind f) r ((s.pokeAs a.odd x w.1 w.2).pokeAs a.odd x v.1 v.2).mem := by
  have hr := State.runKind_ran f h (State.badIn_sound s hs _)
  have h1 : (f a).expAt w.1 = x := by simp [Effect.expAt, he]
  have h2 : (f a).expAt v.1 = x := by
    by_cases hwv : w.1 = v.1 <;> simp [Effect.expAt, he, hwv]
  rwa [hw, List.foldl_cons, List.foldl_cons, List.foldl_nil, h1, h2] at hr

theorem residualAdd_sum {s : State} {r : Run} {a : Ashlar} {x out : BlockEntry} (hs : sound s) (hx : s.inBlock r.covered a a.d.h0 = some x)
    (h1 : x.rows = 1) (ho : s.outBlock r.covered a a.d.h2 = some out) (h : s.ashlar r 0x0D = some a) (hp : a.d.p0.toNat = 1)
    (hw : s.inBlock r.covered a a.d.h3 = none) (hg : out.skipGroup = 0) :
    Ran s (residualAdd s r) r (s.pokeAs a.odd 0 (out.row 0) (outSums out 0 ((List.range a.d.p1.toNat).map (fun k =>
      longSum [(s.elems x 0 a.d.p1.toNat).getD k (fx 0), (s.elemsOf (s.inBlock r.covered a a.d.h1) 0 a.d.p1.toNat).getD k (fx 0)]))).1.2).mem := by
  have hsk : ∀ t, s.tokenSkipped r.covered a.odd out.skipGroup t = false := fun t => by simp [State.tokenSkipped, hg]
  rw [← outSums_at out 0]
  refine State.runKind_ran_write hs h ?_ ?_
  · simp only [hx, ho, hw, hsk, hp]
    simp only [rowsBy, rowsOf, Option.map_some, Option.getD_some, h1]
    rfl
  · simp only [ho]
    rfl

/-- Settles O34: each kind's effect is the one write of its row, the requantised row's with its scale. -/
theorem vectorKinds : Obligations.VectorKinds := by
  intro s r a x out hs hx h1 ho
  have hn : rowsOf (some x) = 1 := by simp [rowsOf, h1]
  refine ⟨fun h => ⟨_, rfl, ?_⟩, fun h => ⟨_, rfl, ?_⟩, fun h => ⟨_, rfl, ?_⟩, fun h => ⟨_, rfl, ?_⟩,
    fun h hp hw hg => ⟨_, rfl, residualAdd_sum hs hx h1 ho h hp hw hg⟩, ?_, ?_⟩
  · exact State.runKind_ran_row (fun t => rmsNorm (s.elems x t a.d.p1.toNat) (s.elemsOf (s.inBlock r.covered a a.d.h1) 0 a.d.p1.toNat) (fx a.d.p0))
      hs h (by rw [ho, hx]; dsimp only; rw [hn]; rfl) (outRow_at ..)
  · exact State.runKind_ran_row (fun t => centredNorm (s.elems x t a.d.p1.toNat) (s.elemsOf (s.inBlock r.covered a a.d.h1) 0 a.d.p1.toNat)
      (s.elemsOf (s.inBlock r.covered a a.d.h3) 0 a.d.p1.toNat) (fx a.d.p0)) hs h (by rw [ho, hx]; dsimp only; rw [hn]; rfl) (outRow_at ..)
  · exact State.runKind_ran_row (fun t => List.zipWith (activation a.d.p0.toNat) (s.elems x t a.d.p1.toNat)
      (s.elemsOf (s.inBlock r.covered a a.d.h1) t a.d.p1.toNat)) hs h (by rw [ho, hx]; dsimp only; rw [hn]; rfl) (outRow_at ..)
  · exact State.runKind_ran_row (fun t => fsoftmax (s.elems x t a.d.p0.toNat)) hs h (by rw [ho, hx]; dsimp only; rw [hn]; rfl) (outRow_at ..)
  · rintro codes sc h hsb rfl rfl
    have hf : effectOf ((List.range (rowsOf (some x))).map (fun t => a8Row out (s.outBlock r.covered a a.d.h3) t (s.elemsOf (some x) t a.d.p0.toNat)))
        (elemSpan (some x) (rowsOf (some x)) a.d.p0.toNat) =
        effectOf [a8Row out none 0 (s.elems x 0 a.d.p0.toNat)] (elemSpan (some x) 1 a.d.p0.toNat) := by rw [hn, hsb]; rfl
    refine ⟨_, rfl, State.runKind_ran_scaled (w := out.put 0 (codeBytes (requantCodes 127 (s.elems x 0 a.d.p0.toNat)).1))
      (v := out.putScale 0 (leBytes 4 (requantCodes 127 (s.elems x 0 a.d.p0.toNat)).2.v.toNat)) hs h ?_ ?_⟩ <;>
    · rw [ho, hx]
      exact congrArg _ hf
  · rintro p h rfl
    refine ⟨_, rfl, ?_⟩
    exact State.runKind_ran_row (fun t => probsRow (BitVec.ofNat 32 (s.cnum r.covered (O.profTemperature (s.session (s.probsSlot r a x t)).profile)))
      (s.cnum r.covered (O.profTopK (s.session (s.probsSlot r a x t)).profile))
      (BitVec.ofNat 32 (s.cnum r.covered (O.profTopP (s.session (s.probsSlot r a x t)).profile))) (s.elems x t a.d.p0.toNat))
      hs h (by rw [ho, hx]; dsimp only; rw [h1]; rfl) (outRow_at ..)

end Sys2Proof.Machine

/-! PROOF. The Reed-Solomon check bytes of an HBM word (09 R282): a word with valid check bytes has no syndrome. -/

namespace Sys2Proof.Machine

/-! ### Doubling in GF(2^8) -/

/-- Doubling as a shift and a conditional subtraction of the field's polynomial. -/
theorem gfDouble_eq {a : Nat} (h : a < 256) : gfDouble a = 2 * a ^^^ (if a.testBit 7 then 0x11D else 0) := by
  have : ∀ a : Fin 256, gfDouble a.val = 2 * a.val ^^^ (if a.val.testBit 7 then 0x11D else 0) := by decide +kernel
  exact this ⟨a, h⟩

theorem gfDouble_lt {a : Nat} (h : a < 256) : gfDouble a < 256 := by
  have : ∀ a : Fin 256, gfDouble a.val < 256 := by decide +kernel
  exact this ⟨a, h⟩

theorem xor_lt_256 {a b : Nat} (ha : a < 256) (hb : b < 256) : a ^^^ b < 256 := Nat.xor_lt_two_pow (n := 8) ha hb

theorem xor_swap (a b c : Nat) : a ^^^ b ^^^ c = a ^^^ c ^^^ b := by
  rw [Nat.xor_assoc, Nat.xor_comm b c, Nat.xor_assoc]

theorem gfDouble_xor {a b : Nat} (ha : a < 256) (hb : b < 256) : gfDouble (a ^^^ b) = gfDouble a ^^^ gfDouble b := by
  have h2 : 2 * (a ^^^ b) = 2 * a ^^^ 2 * b := by
    have := Nat.shiftLeft_xor_distrib (a := a) (b := b) (i := 1)
    simpa [Nat.shiftLeft_eq, Nat.mul_comm] using this
  rw [gfDouble_eq ha, gfDouble_eq hb, gfDouble_eq (xor_lt_256 ha hb), h2, Nat.testBit_xor]
  cases a.testBit 7 <;> cases b.testBit 7
  · simp
  · simp [Nat.xor_assoc]
  · simp only [Bool.xor_false, if_true, Bool.false_eq_true, if_false, Nat.xor_zero]
    rw [Nat.xor_assoc, Nat.xor_comm (2 * b), Nat.xor_assoc]
  · simp only [Bool.xor_self, if_true, Bool.false_eq_true, if_false, Nat.xor_zero]
    rw [Nat.xor_assoc, ← Nat.xor_assoc 0x11D, Nat.xor_comm 0x11D (2 * b), Nat.xor_assoc (2 * b), Nat.xor_self, Nat.xor_zero]

/-- Multiplication by α^k. -/
def gfShift : Nat → Nat → Nat
  | 0, a => a
  | k + 1, a => gfShift k (gfDouble a)

theorem gfShift_lt (k : Nat) : ∀ {a : Nat}, a < 256 → gfShift k a < 256 := by
  induction k with
  | zero => exact fun h => h
  | succ k ih => exact fun h => ih (gfDouble_lt h)

theorem gfShift_xor (k : Nat) : ∀ {a b : Nat}, a < 256 → b < 256 → gfShift k (a ^^^ b) = gfShift k a ^^^ gfShift k b := by
  induction k with
  | zero => exact fun _ _ => rfl
  | succ k ih =>
    intro a b ha hb
    simp only [gfShift, gfDouble_xor ha hb]
    exact ih (gfDouble_lt ha) (gfDouble_lt hb)

theorem gfShift_add (k j : Nat) : ∀ a, gfShift (k + j) a = gfShift k (gfShift j a) := by
  induction j with
  | zero => exact fun _ => rfl
  | succ j ih => exact fun a => ih (gfDouble a)

theorem gfMul_pow {k a : Nat} (hk : k < 4) (h : a < 256) : gfMul a (gfPow k) = gfShift k a := by
  have : ∀ (k : Fin 4) (a : Fin 256), gfMul a.val (gfPow k.val) = gfShift k.val a.val := by decide +kernel
  exact this ⟨k, hk⟩ ⟨a, h⟩

/-! ### The value of a polynomial at a root of the generator -/

/-- The value at α^k. -/
def atRoot (k : Nat) (l : List Nat) : Nat := l.foldr (fun c acc => gfShift k acc ^^^ c) 0

theorem atRoot_lt (k : Nat) : ∀ {l : List Nat}, (∀ c ∈ l, c < 256) → atRoot k l < 256
  | [], _ => by simp [atRoot]
  | c :: l, h => xor_lt_256 (gfShift_lt k (atRoot_lt k fun x hx => h x (List.mem_cons_of_mem _ hx))) (h c List.mem_cons_self)

theorem polyAt_root {k : Nat} (hk : k < 4) : ∀ {l : List Nat}, (∀ c ∈ l, c < 256) → polyAt l (gfPow k) = atRoot k l
  | [], _ => rfl
  | c :: l, h => by
    have hl : ∀ x ∈ l, x < 256 := fun x hx => h x (List.mem_cons_of_mem _ hx)
    have ih := polyAt_root hk hl
    rw [polyAt] at ih ⊢
    rw [List.foldr_cons, ih, gfMul_pow hk (atRoot_lt k hl)]
    rfl

theorem gfShift_zero (k : Nat) : gfShift k 0 = 0 := by
  induction k with
  | zero => rfl
  | succ k ih => exact ih

theorem atRoot_append (k : Nat) {m : List Nat} (hm : ∀ c ∈ m, c < 256) : ∀ {l : List Nat}, (∀ c ∈ l, c < 256) →
    atRoot k (l ++ m) = atRoot k l ^^^ gfShift (k * l.length) (atRoot k m)
  | [], _ => by simp [atRoot, gfShift]
  | c :: l, h => by
    have hl : ∀ x ∈ l, x < 256 := fun x hx => h x (List.mem_cons_of_mem _ hx)
    have ih := atRoot_append k hm hl
    calc atRoot k (c :: l ++ m) = gfShift k (atRoot k (l ++ m)) ^^^ c := rfl
      _ = gfShift k (atRoot k l) ^^^ gfShift k (gfShift (k * l.length) (atRoot k m)) ^^^ c := by
        rw [ih, gfShift_xor k (atRoot_lt k hl) (gfShift_lt _ (atRoot_lt k hm))]
      _ = atRoot k (c :: l) ^^^ gfShift (k * (c :: l).length) (atRoot k m) := by
        rw [← gfShift_add, List.length_cons, Nat.mul_add_one, Nat.add_comm (k * l.length) k]
        exact xor_swap ..

theorem atRoot_xor (k : Nat) : ∀ {l m : List Nat}, (∀ c ∈ l, c < 256) → (∀ c ∈ m, c < 256) → l.length = m.length →
    atRoot k (List.zipWith (· ^^^ ·) l m) = atRoot k l ^^^ atRoot k m
  | [], [], _, _, _ => (Nat.xor_self 0).symm
  | a :: l, b :: m, ha, hb, hlen => by
    have hl : ∀ x ∈ l, x < 256 := fun x hx => ha x (List.mem_cons_of_mem _ hx)
    have hm : ∀ x ∈ m, x < 256 := fun x hx => hb x (List.mem_cons_of_mem _ hx)
    have ih := atRoot_xor k hl hm (Nat.succ.inj hlen)
    calc atRoot k (List.zipWith (· ^^^ ·) (a :: l) (b :: m)) = gfShift k (atRoot k (List.zipWith (· ^^^ ·) l m)) ^^^ (a ^^^ b) := rfl
      _ = gfShift k (atRoot k l) ^^^ gfShift k (atRoot k m) ^^^ (a ^^^ b) := by rw [ih, gfShift_xor k (atRoot_lt k hl) (atRoot_lt k hm)]
      _ = (gfShift k (atRoot k l) ^^^ a) ^^^ (gfShift k (atRoot k m) ^^^ b) := by ac_rfl
      _ = atRoot k (a :: l) ^^^ atRoot k (b :: m) := rfl

/-! ### The register of the encoder -/

/-- Four symbols. -/
def symbols4 (l : List Nat) : Prop := ∃ a b c d, l = [a, b, c, d] ∧ a < 256 ∧ b < 256 ∧ c < 256 ∧ d < 256

theorem gfMul_lt {a : Nat} (h : a < 256) (i : Fin 4) : gfMul a ((rsGenerator 4).getD i.val 0) < 256 := by
  have : ∀ (a : Fin 256) (i : Fin 4), gfMul a.val ((rsGenerator 4).getD i.val 0) < 256 := by decide +kernel
  exact this ⟨a, h⟩ i

/-- At a root of the generator its four lower terms are x^4. -/
theorem atRoot_generator {k v : Nat} (hk : k < 4) (h : v < 256) :
    atRoot k ((List.range 4).map (fun i => gfMul v ((rsGenerator 4).getD i 0))) = gfShift (4 * k) v := by
  have : ∀ (k : Fin 4) (v : Fin 256), atRoot k.val ((List.range 4).map (fun i => gfMul v.val ((rsGenerator 4).getD i 0))) =
      gfShift (4 * k.val) v.val := by decide +kernel
  exact this ⟨k, hk⟩ ⟨v, h⟩

theorem rsStep_atRoot {k d : Nat} {reg : List Nat} (hk : k < 4) (hr : symbols4 reg) (hd : d < 256) :
    symbols4 (rsStep (rsGenerator 4) reg d) ∧
      atRoot k (rsStep (rsGenerator 4) reg d) = gfShift k (atRoot k reg) ^^^ gfShift (4 * k) d := by
  obtain ⟨r0, r1, r2, r3, rfl, h0, h1, h2, h3⟩ := hr
  have hfb : r3 ^^^ d < 256 := xor_lt_256 h3 hd
  have hg := atRoot_generator hk hfb
  obtain ⟨g0, e0⟩ : ∃ x, x = gfMul (r3 ^^^ d) ((rsGenerator 4).getD 0 0) := ⟨_, rfl⟩
  obtain ⟨g1, e1⟩ : ∃ x, x = gfMul (r3 ^^^ d) ((rsGenerator 4).getD 1 0) := ⟨_, rfl⟩
  obtain ⟨g2, e2⟩ : ∃ x, x = gfMul (r3 ^^^ d) ((rsGenerator 4).getD 2 0) := ⟨_, rfl⟩
  obtain ⟨g3, e3⟩ : ∃ x, x = gfMul (r3 ^^^ d) ((rsGenerator 4).getD 3 0) := ⟨_, rfl⟩
  have l0 : g0 < 256 := e0 ▸ gfMul_lt hfb 0
  have l1 : g1 < 256 := e1 ▸ gfMul_lt hfb 1
  have l2 : g2 < 256 := e2 ▸ gfMul_lt hfb 2
  have l3 : g3 < 256 := e3 ▸ gfMul_lt hfb 3
  have hs : rsStep (rsGenerator 4) [r0, r1, r2, r3] d = [0 ^^^ g0, r0 ^^^ g1, r1 ^^^ g2, r2 ^^^ g3] := by
    rw [e0, e1, e2, e3]
    rfl
  have hgen : atRoot k [g0, g1, g2, g3] = gfShift (4 * k) (r3 ^^^ d) := by
    rw [e0, e1, e2, e3]
    exact hg
  have h4 : ∀ {a b c : Nat}, a < 256 → b < 256 → c < 256 → ∀ x ∈ [a, b, c], x < 256 := fun ha hb hc => by simp [ha, hb, hc]
  have hsplit : atRoot k [r0, r1, r2, r3] = atRoot k [r0, r1, r2] ^^^ gfShift (k * 3) r3 := by
    have := atRoot_append k (m := [r3]) (by simp [h3]) (h4 h0 h1 h2)
    rwa [show atRoot k [r3] = r3 from by simp [atRoot, gfShift_zero]] at this
  have hx : atRoot k [0 ^^^ g0, r0 ^^^ g1, r1 ^^^ g2, r2 ^^^ g3] = atRoot k [0, r0, r1, r2] ^^^ atRoot k [g0, g1, g2, g3] :=
    atRoot_xor k (l := [0, r0, r1, r2]) (m := [g0, g1, g2, g3]) (by simp [h0, h1, h2]) (by simp [l0, l1, l2, l3]) rfl
  rw [hs]
  refine ⟨⟨_, _, _, _, rfl, xor_lt_256 (by decide) l0, xor_lt_256 h0 l1, xor_lt_256 h1 l2, xor_lt_256 h2 l3⟩, ?_⟩
  calc atRoot k [0 ^^^ g0, r0 ^^^ g1, r1 ^^^ g2, r2 ^^^ g3]
      = gfShift k (atRoot k [r0, r1, r2]) ^^^ gfShift (4 * k) (r3 ^^^ d) := by
        rw [hx, hgen, ← Nat.xor_zero (gfShift k (atRoot k [r0, r1, r2]))]
        rfl
    _ = gfShift k (atRoot k [r0, r1, r2]) ^^^ gfShift k (gfShift (k * 3) r3) ^^^ gfShift (4 * k) d := by
        rw [gfShift_xor _ h3 hd, ← gfShift_add, show k + k * 3 = 4 * k by omega, Nat.xor_assoc]
    _ = gfShift k (atRoot k [r0, r1, r2, r3]) ^^^ gfShift (4 * k) d := by
        rw [hsplit, gfShift_xor k (atRoot_lt k (h4 h0 h1 h2)) (gfShift_lt _ h3)]

/-- The check symbols of data: at a root they have the value of the data, shifted by four places. -/
theorem rsChecks_atRoot {k : Nat} (hk : k < 4) : ∀ {m : List Nat}, (∀ c ∈ m, c < 256) →
    symbols4 (rsChecks 4 m.reverse) ∧ atRoot k (rsChecks 4 m.reverse) = gfShift (4 * k) (atRoot k m)
  | [], _ => ⟨⟨0, 0, 0, 0, rfl, by decide, by decide, by decide, by decide⟩, by
      rw [show atRoot k [] = 0 from rfl, gfShift_zero]
      simp [rsChecks, atRoot, gfShift_zero, List.replicate]⟩
  | d :: m, h => by
    have hm : ∀ x ∈ m, x < 256 := fun x hx => h x (List.mem_cons_of_mem _ hx)
    have hd : d < 256 := h d List.mem_cons_self
    obtain ⟨hs, hv⟩ := rsChecks_atRoot hk hm
    have hstep : rsChecks 4 (d :: m).reverse = rsStep (rsGenerator 4) (rsChecks 4 m.reverse) d := by
      rw [rsChecks, List.reverse_cons, List.foldl_append]
      rfl
    obtain ⟨ht, hw⟩ := rsStep_atRoot hk hs hd
    rw [hstep]
    refine ⟨ht, ?_⟩
    rw [hw, hv, ← gfShift_add, Nat.add_comm, gfShift_add, ← gfShift_xor _ (gfShift_lt _ (atRoot_lt k hm)) hd]
    rfl

/-- Data with its check symbols before it has no syndrome. -/
theorem syndromes_rsChecks {m : List Nat} (h : ∀ c ∈ m, c < 256) : syndromes 4 (rsChecks 4 m.reverse ++ m) = [0, 0, 0, 0] := by
  have hz : ∀ k, k < 4 → polyAt (rsChecks 4 m.reverse ++ m) (gfPow k) = 0 := by
    intro k hk
    obtain ⟨hs, hv⟩ := rsChecks_atRoot hk h
    obtain ⟨a, b, c, d, he, ha, hb, hc, hd⟩ := hs
    have hl : ∀ x ∈ rsChecks 4 m.reverse, x < 256 := by rw [he]; simp [ha, hb, hc, hd]
    rw [polyAt_root hk (fun x hx => (List.mem_append.1 hx).elim (hl x) (h x)), atRoot_append k h hl, hv, he]
    rw [show k * [a, b, c, d].length = 4 * k from Nat.mul_comm _ _, Nat.xor_self]
  simp only [syndromes, List.range_succ, List.range_zero, List.nil_append, List.map_append, List.map_cons, List.map_nil]
  rw [hz 0 (by decide), hz 1 (by decide), hz 2 (by decide), hz 3 (by decide)]
  rfl

end Sys2Proof.Machine

/-! PROOF. Memory in which no stored word differs from what its check bytes say (09 R284, R291): every reading is clean, so a write
touches memory and the counts of bytes moved, and nothing else. -/

namespace Sys2Proof.Machine

/-! ### A reading is clean -/

theorem cellsGet_length (m : List Host.Cell) (a n : Nat) : (cellsGet m a n).length = n := by
  induction n generalizing a with
  | zero => rfl
  | succ n ih => rw [cellsGet, List.length_cons, ih]

theorem MemUnit.word_length (m : MemUnit) (w : Nat) : (m.word w).length = 32 := cellsGet_length ..

theorem crcStep_lt {w g reg : Nat} {b : Bool} (hg : g < 2 ^ w) : crcStep w g reg b < 2 ^ w := by
  have hs : reg * 2 % 2 ^ w < 2 ^ w := Nat.mod_lt _ (Nat.two_pow_pos w)
  unfold crcStep
  dsimp only
  split
  · exact Nat.xor_lt_two_pow hs hg
  · exact hs

theorem crcBits_lt {w g : Nat} (hg : g < 2 ^ w) : ∀ (n v : Nat) {reg : Nat}, reg < 2 ^ w → crcBits w g n v reg < 2 ^ w
  | 0, _, _, h => h
  | n + 1, v, _, _ => crcBits_lt hg n v (crcStep_lt hg)

theorem virtualSyms_lt (l : Nat) : ∀ c ∈ virtualSyms l, c < 256 := by
  have ht : crc24 l < 2 ^ 24 := crcBits_lt (by decide) 34 l (by decide)
  have h1 : crc24 l % 256 < 256 := Nat.mod_lt _ (by decide)
  have h2 : crc24 l / 256 % 256 < 256 := Nat.mod_lt _ (by decide)
  have h3 : crc24 l / 65536 < 256 := by omega
  simp only [virtualSyms, List.mem_cons, List.not_mem_nil, or_false]
  rintro c (rfl | rfl | rfl | rfl)
  · exact xor_lt_256 (xor_lt_256 h1 h2) h3
  · exact h1
  · exact h2
  · exact h3

/-- The symbols of a word and its virtual ones. -/
def wordSyms (l : Nat) (d : List Byte) : List Nat := d.map BitVec.toNat ++ virtualSyms l

theorem wordSyms_lt (l : Nat) (d : List Byte) : ∀ c ∈ wordSyms l d, c < 256 := fun c hc => by
  rcases List.mem_append.1 hc with h | h
  · obtain ⟨b, -, rfl⟩ := List.mem_map.1 h
    exact b.isLt
  · exact virtualSyms_lt l c h

theorem rsWordChecks_toNat {l : Nat} {d : List Byte} (h : d.length = 32) :
    (rsWordChecks l d).map BitVec.toNat = rsChecks 4 (wordSyms l d).reverse ∧ (rsWordChecks l d).length = 4 := by
  obtain ⟨⟨a, b, c, e, he, ha, hb, hc, hd⟩, -⟩ := rsChecks_atRoot (k := 0) (by decide) (wordSyms_lt l d)
  rw [rsWordChecks, fit_of_length h]
  change (List.map (BitVec.ofNat 8) (rsChecks 4 (wordSyms l d).reverse)).map BitVec.toNat = _ ∧ _
  rw [show rsChecks 4 (List.map BitVec.toNat d ++ virtualSyms l).reverse = [a, b, c, e] from he, he]
  simp [Nat.mod_eq_of_lt, ha, hb, hc, hd]

theorem classify_valid {l : Nat} {d : List Byte} (h : d.length = 32) : (classify l (rsWordChecks l d ++ d)).1 = .clean := by
  have hs : (rsWordChecks l d ++ d).map BitVec.toNat ++ virtualSyms l = rsChecks 4 (wordSyms l d).reverse ++ wordSyms l d := by
    rw [List.map_append, (rsWordChecks_toNat h).1, List.append_assoc]
    rfl
  rw [classify, hs, syndromes_rsChecks (wordSyms_lt l d)]
  rfl

theorem locate_aligned (w : Nat) : locate (w / 32 * 32) = locate w := by
  have h1 : w / 32 * 32 / 0x200000 = w / 0x200000 := by omega
  have h2 : bits (w / 32 * 32) 20 8 = bits w 20 8 := by
    simp only [bits, Nat.reduceSub, Nat.reduceAdd, Nat.reducePow]
    omega
  have h3 : bits (w / 32 * 32) 7 5 = bits w 7 5 := by
    simp only [bits, Nat.reduceSub, Nat.reduceAdd, Nat.reducePow]
    omega
  simp only [locate, homeQuarter, pageOf, h1, h2, h3]

theorem pageOf_aligned (w : Nat) : pageOf (w / 32 * 32) = pageOf w := by
  simp only [pageOf]
  omega

theorem xorBytes_zero {a : List Byte} (h : a.length = 4) : xorBytes a (leBytes 4 0) = a := by
  obtain ⟨b, c, d, e, rfl⟩ : ∃ b c d e, a = [b, c, d, e] := by
    rcases a with _ | ⟨b, _ | ⟨c, _ | ⟨d, _ | ⟨e, _ | ⟨f, r⟩⟩⟩⟩⟩ <;> simp at h
    exact ⟨b, c, d, e, rfl⟩
  simp [xorBytes, leBytes]

theorem validChecks_length (c : RClass) (l : Nat) {d : List Byte} (t : BitVec 16) (h : d.length = 32) : (validChecks c l d t).length = 4 := by
  cases c with
  | weights => exact (rsWordChecks_toNat h).2
  | state => exact (rsWordChecks_toNat h).2
  | activation => rw [validChecks, List.length_append, leBytes_length, leBytes_length]

/-- The check bytes that a word has in a sound memory. -/
theorem State.checksOf_sound {s : State} (h : sound s) (w : Nat) :
    s.checksOf w = validChecks (s.pageClass (pageOf w)) (locate w).l (s.mem.word w) (s.mem.tag w) := by
  have h4 : (validChecks (s.pageClass (pageOf w)) (locate w).l (s.mem.word w) (s.mem.tag w)).length = 4 := validChecks_length _ _ _ (MemUnit.word_length ..)
  have hz : (SMap.get 0 s.mem.chk w).toNat = 0 := by rw [show s.mem.chk = [] from h]; rfl
  rw [State.checksOf, hz, xorBytes_zero h4]

theorem crcBytes_lt {w g : Nat} (hg : g < 2 ^ w) (l : List Byte) : ∀ {init : Nat}, init < 2 ^ w → crcBytes w g l init < 2 ^ w := by
  induction l with
  | nil => exact fun h => h
  | cons b l ih => exact fun h => ih (crcBits_lt hg 8 b.toNat h)

theorem u16_leBytes_append {v : Nat} (h : v < 65536) (a r : List Byte) : u16 (a ++ (leBytes 2 v ++ r)) a.length = v := by
  have ht : ((a ++ (leBytes 2 v ++ r)).drop a.length).take 2 = leBytes 2 v := by
    rw [List.drop_left, List.take_left' (leBytes_length 2 v)]
  rw [u16, fieldLe, slice, ht, leBytes_length, Nat.sub_self]
  exact (congrArg ofLe (List.append_nil _)).trans (ofLe_leBytes 2 v h)

/-- A CRC and a META word read back from the symbols of an activation word. -/
theorem activation_syms {c t : Nat} (hc : c < 65536) (ht : t < 65536) (d : List Byte) :
    u16 (leBytes 2 c ++ leBytes 2 t ++ d) 0 = c ∧ u16 (leBytes 2 c ++ leBytes 2 t ++ d) 2 = t := by
  constructor
  · have := u16_leBytes_append hc [] (leBytes 2 t ++ d)
    rwa [List.nil_append, ← List.append_assoc] at this
  · have := u16_leBytes_append ht (leBytes 2 c) d
    rwa [leBytes_length, ← List.append_assoc] at this

/-- The array's own reading of a word of a sound memory. -/
theorem State.reading_sound {s : State} (h : sound s) (w : Nat) :
    (s.reading w {}).cls = .clean ∧ (s.reading w {}).data = s.mem.word (w / 32 * 32) := by
  have hsyms : s.rawSymbols w {} = validChecks (s.pageClass (pageOf w)) (locate w).l (s.mem.word (w / 32 * 32)) (s.mem.tag (w / 32 * 32)) ++
      s.mem.word (w / 32 * 32) := by
    rw [← locate_aligned w, ← pageOf_aligned w, ← State.checksOf_sound h]
    rfl
  generalize s.mem.tag (w / 32 * 32) = t at hsyms
  obtain ⟨d, hd⟩ : ∃ d, d = s.mem.word (w / 32 * 32) := ⟨_, rfl⟩
  have hlen : d.length = 32 := by rw [hd, MemUnit.word_length]
  rw [← hd] at hsyms ⊢
  have hdrop : (validChecks (s.pageClass (pageOf w)) (locate w).l d t ++ d).drop 4 = d :=
    List.drop_left' (validChecks_length _ _ _ hlen)
  rw [State.reading]
  dsimp only
  rw [hsyms, hdrop]
  cases hp : s.pageClass (pageOf w) with
  | activation =>
    obtain ⟨h1, h2⟩ := activation_syms (c := actCrc (locate w).l d t) (t := t.toNat)
      (crcBytes_lt (w := 16) (by decide) _ (by decide)) t.isLt d
    simp only [validChecks, h1, h2, BitVec.ofNat_toNat, BitVec.setWidth_eq, if_true, and_self]
  | weights =>
    rw [show validChecks RClass.weights (locate w).l d t = rsWordChecks (locate w).l d from rfl]
    simp only [classify_valid hlen, and_self]
  | state =>
    rw [show validChecks RClass.state (locate w).l d t = rsWordChecks (locate w).l d from rfl]
    simp only [classify_valid hlen, and_self]

theorem State.readPath_sound {s : State} (h : sound s) (w source : Nat) (who : Option Requester) (again : RawRead) :
    s.readPath w source who {} again = (.bytes (s.mem.word (w / 32 * 32)), s.tally 32 0 0) := by
  obtain ⟨hc, hd⟩ := State.reading_sound (s := s.tally 32 0 0) h w
  rw [State.readPath]
  dsimp only
  rw [hc]
  dsimp only
  rw [hd]
  rfl

end Sys2Proof.Machine

/-! PROOF. Writes in a sound memory: what they leave alone, and that memory after them comes from memory before them and the classes of
the pages alone (09 R284, R290 to R293). -/

namespace Sys2Proof.Machine

/-- Memory and the counts of bytes moved apart, two states are the same, and the later one's memory is sound. -/
structure Quiet (s t : State) : Prop where
  frame : t = { s with mem := t.mem, ses := { s.ses with movedOwn := t.ses.movedOwn, movedCov := t.ses.movedCov } }
  sound : sound t

/-- Two states whose memories are the same, the classes of their pages too. -/
structure SameStore (s t : State) : Prop where
  mem : t.mem = s.mem
  page : ∀ p, t.pageClass p = s.pageClass p

theorem Quiet.refl {s : State} (h : Machine.sound s) : Quiet s s := ⟨rfl, h⟩

theorem Quiet.trans {s t u : State} (h : Quiet s t) (k : Quiet t u) : Quiet s u :=
  ⟨by rw [k.frame, h.frame], k.sound⟩

theorem SameStore.refl (s : State) : SameStore s s := ⟨rfl, fun _ => rfl⟩

theorem Quiet.page {s t : State} (h : Quiet s t) (p : Nat) : t.pageClass p = s.pageClass p := by rw [h.frame]; rfl

theorem Quiet.changes {s t : State} (h : Quiet s t) : changesOnly [.mem, .ses] s t := by
  rw [h.frame]
  exact (State.mem_changes s t.mem).within.then (State.ses_changes { s with mem := t.mem } _)

theorem SameStore.sound {s t : State} (h : SameStore s t) (hs : Machine.sound s) : Machine.sound t := by
  rw [Machine.sound, h.mem]
  exact hs

/-- An operation that is quiet in a sound memory, and whose memory comes from the memory before it. -/
structure Stores (f : State → State) : Prop where
  quiet : ∀ {s : State}, sound s → Quiet s (f s)
  mem : ∀ {s t : State}, sound s → SameStore s t → (f t).mem = (f s).mem

theorem Stores.same {f : State → State} (h : Stores f) {s t : State} (hs : sound s) (k : SameStore s t) : SameStore (f s) (f t) :=
  ⟨h.mem hs k, fun p => by rw [(h.quiet (k.sound hs)).page, (h.quiet hs).page, k.page]⟩

theorem Stores.comp {f g : State → State} (hf : Stores f) (hg : Stores g) : Stores (fun s => g (f s)) :=
  ⟨fun hs => (hf.quiet hs).trans (hg.quiet (hf.quiet hs).sound), fun hs k => hg.mem (hf.quiet hs).sound (hf.same hs k)⟩

theorem Stores.id : Stores (fun s => s) := ⟨Quiet.refl, fun _ k => k.mem⟩

theorem Stores.foldl {α : Type} {f : State → α → State} (hf : ∀ x, Stores (fun s => f s x)) : ∀ l : List α, Stores (fun s => l.foldl f s)
  | [] => Stores.id
  | x :: l => (hf x).comp (Stores.foldl hf l)

/-- An operation that goes by what memory holds. -/
theorem Stores.bind {α : Type} (g : MemUnit → α) {f : α → State → State} (hf : ∀ a, Stores (f a)) : Stores (fun s => f (g s.mem) s) :=
  ⟨fun hs => (hf _).quiet hs, fun {s t} hs k => by
    rw [k.mem]
    exact (hf (g s.mem)).mem hs k⟩

/-! ### The operations of the merge buffer and the words -/

theorem tally_stores (a b c : Nat) : Stores (fun s => s.tally a b c) := ⟨fun hs => ⟨rfl, hs⟩, fun _ k => k.mem⟩

theorem storeWord_stores (w : Nat) (d : List Byte) (tag : BitVec 16) : Stores (fun s => s.storeWord w d tag) :=
  ⟨fun {s} hs => ⟨rfl, by
    change SMap.set 0 s.mem.chk w 0 = []
    rw [show s.mem.chk = [] from hs]
    rfl⟩, fun _ k => by simp only [State.storeWord, k.mem, k.page]⟩

theorem setMem_stores (g : MemUnit → MemUnit) (hg : ∀ m, (g m).chk = m.chk) : Stores (fun s => { s with mem := g s.mem }) :=
  ⟨fun hs => ⟨rfl, (hg _).trans hs⟩, fun _ k => congrArg g k.mem⟩

/-- Change the open entries of a stack. -/
def State.mapEntries (s : State) (st : Nat) (g : List MergeEntry → List MergeEntry) : State :=
  { s with mem := s.mem.setEntries st (g (s.mem.entries st)) }

theorem mapEntries_stores (st : Nat) (g : List MergeEntry → List MergeEntry) : Stores (fun s => s.mapEntries st g) :=
  setMem_stores (fun m => m.setEntries st (g (m.entries st))) fun _ => rfl

theorem dropEntry_stores (w : Nat) : Stores (fun s => s.dropEntry w) :=
  mapEntries_stores (locate w).stack (fun l => l.filter (fun e => e.word != w))

theorem State.flushEntry_sound {s : State} (h : sound s) (e : MergeEntry) (again : RawRead) :
    s.flushEntry e {} again =
      ((s.tally 32 0 0).dropEntry e.word).storeWord e.word (overlay (s.mem.word (e.word / 32 * 32)) e) (partialTag e.tag) := by
  rw [State.flushEntry, State.readPath_sound h]

theorem flushEntry_stores (e : MergeEntry) (again : RawRead) : Stores (fun s => s.flushEntry e {} again) := by
  have hp : Stores (fun s => ((s.tally 32 0 0).dropEntry e.word).storeWord e.word (overlay (s.mem.word (e.word / 32 * 32)) e) (partialTag e.tag)) :=
    Stores.bind (fun m => overlay (m.word (e.word / 32 * 32)) e)
      (f := fun d s => ((s.tally 32 0 0).dropEntry e.word).storeWord e.word d (partialTag e.tag))
      fun d => ((tally_stores 32 0 0).comp (dropEntry_stores e.word)).comp (storeWord_stores ..)
  refine ⟨fun hs => ?_, fun hs k => ?_⟩
  · rw [State.flushEntry_sound hs]
    exact hp.quiet hs
  · rw [State.flushEntry_sound hs, State.flushEntry_sound (k.sound hs)]
    exact hp.mem hs k

theorem Stores.ite {f g : State → State} (c : MemUnit → Prop) [DecidablePred c] (hf : Stores f) (hg : Stores g) :
    Stores (fun s => if c s.mem then f s else g s) := by
  refine ⟨fun {s} hs => ?_, fun {s t} hs k => ?_⟩
  · by_cases h : c s.mem
    · simp only [if_pos h, hf.quiet hs]
    · simp only [if_neg h, hg.quiet hs]
  · rw [k.mem]
    by_cases h : c s.mem
    · rw [if_pos h, if_pos h, hf.mem hs k]
    · rw [if_neg h, if_neg h, hg.mem hs k]

theorem openEntry_stores (e : MergeEntry) : Stores (fun s => s.openEntry e) := by
  have hadd : Stores (fun s => s.mapEntries (locate e.word).stack (fun l => l ++ [e])) := mapEntries_stores ..
  have hone : ∀ x : MergeEntry, Stores (fun s =>
      if (s.mem.entries (locate e.word).stack).length < 64 || s.mem.asks x then s else s.flushEntry x {} {}) := fun x =>
    Stores.ite (fun m => ((m.entries (locate e.word).stack).length < 64 || m.asks x) = true) Stores.id (flushEntry_stores x {})
  have hold : Stores (fun s => (s.mem.entries (locate e.word).stack).foldl (fun (u : State) x =>
      if (u.mem.entries (locate e.word).stack).length < 64 || u.mem.asks x then u else u.flushEntry x {} {}) s) :=
    Stores.bind (fun m => m.entries (locate e.word).stack) (fun l => Stores.foldl hone l)
  have hroom : Stores (fun s => if (s.mem.entries (locate e.word).stack).length < 64 then
      s.mapEntries (locate e.word).stack (fun l => l ++ [e]) else s.flushEntry e {} {}) :=
    Stores.ite (fun m => (m.entries (locate e.word).stack).length < 64) hadd (flushEntry_stores e {})
  exact Stores.ite (fun m => (m.entries (locate e.word).stack).length < 64) hadd (hold.comp hroom)

/-- A partial write merged into the entry at hand: the word is stored when the entry is full, else the entry is kept or opened. -/
def State.merge (s : State) (w : Nat) (e : MergeEntry) : State :=
  if e.mask = 0xFFFFFFFF then (s.dropEntry w).storeWord w e.data e.tag
  else if (s.mem.entryOf w).isSome then s.mapEntries (locate w).stack (fun l => l.map (fun x => if x.word == w then e else x))
  else s.openEntry e

theorem merge_stores (w : Nat) (e : MergeEntry) : Stores (fun s => s.merge w e) :=
  Stores.ite (fun _ => e.mask = 0xFFFFFFFF) ((dropEntry_stores w).comp (storeWord_stores w e.data e.tag))
    (Stores.ite (fun m => (m.entryOf w).isSome = true) (mapEntries_stores ..) (openEntry_stores e))

theorem writeWord_stores (w off : Nat) (d : List Byte) (tag : BitVec 16) : Stores (fun s => s.writeWord w off d tag) :=
  Stores.ite (fun _ => off = 0 ∧ d.length = 32) ((dropEntry_stores w).comp (storeWord_stores w d tag))
    (Stores.bind (fun m => (m.entryOf w).getD { word := w, data := zeros 32 }) fun old => merge_stores w {
      word := w, tag := tag, data := patch old.data off d
      mask := old.mask ||| BitVec.ofNat 32 ((2 ^ d.length - 1) * 2 ^ off) })

theorem hbmPut_stores (a : Nat) (d : List Byte) (tag : BitVec 16) : Stores (fun s => s.hbmPut a d tag) :=
  (tally_stores d.length 0 0).comp (Stores.foldl (f := fun t (x : Nat × Nat × List Byte) => t.writeWord x.1 x.2.1 x.2.2 tag)
    (fun x => writeWord_stores x.1 x.2.1 x.2.2 tag) (cutWords 32 (d.length + 1) a d))

theorem sramPut_stores (a : Nat) (d : List Byte) : Stores (fun s => s.sramPut a d) :=
  setMem_stores (fun m => { m with
    mem := cellsPut m.mem a d
    sramChk := (cutWords 16 (d.length + 1) a d).foldl (fun m x => SMap.set 0 m x.1 0) m.sramChk }) fun _ => rfl

/-- A write of bytes is quiet in a sound memory. -/
theorem pokeAs_stores (odd : Bool) (x a : Nat) (d : List Byte) : Stores (fun s => s.pokeAs odd x a d) :=
  Stores.ite (fun _ => space a = .sram) ((sramPut_stores a d).comp (tally_stores 0 d.length 0)) (hbmPut_stores a d _)

end Sys2Proof.Machine

/-! PROOF. Matrix products, combinations, tables, copies and gates on one row (03 R92 to R106; 04 R122 to R124; 07 R232). -/

namespace Sys2Proof.Machine

theorem matmul_column {s : State} {r : Run} {a : Ashlar} {x w out : BlockEntry} {f : WFmt} (hs : sound s) (hx : s.inBlock r.covered a a.d.h0 = some x)
    (ho : s.outBlock r.covered a a.d.h2 = some out) (h : s.ashlar r 0x01 = some a) (h1 : x.rows = 1)
    (hw : s.inBlock r.covered a a.d.h1 = some w) (hf : blockFmt w.format.toNat = some f) (hp : a.d.p3.toNat = 1) (hc : bits a.d.p2.toNat 15 0 = 1) :
    Ran s (matmul s r) r (s.pokeAs a.odd 0 (out.row 0) (out.put 0 (accBytes (s.accumulate f (localOf w.addr.toNat)
      (64 * s.peekLe (localOf w.addr.toNat + 0xC) 4) (s.peek (x.row 0) x.rowBytes).1 (bits a.d.p2.toNat 31 16) a.d.p0.toNat a.d.p1.toNat).1)).2).mem := by
  refine State.runKind_ran_write (w := out.put 0 _) hs h ?_ ?_
  · simp only [State.matmulEffect, hx, hw, ho, hf, hp, hc, h1, if_true]
    simp
  · simp only [State.matmulEffect, hx, hw, ho, hf, hp, if_true]

theorem accCombine_one {s : State} {r : Run} {a : Ashlar} {x b out : BlockEntry} (hs : sound s) (hx : s.inBlock r.covered a a.d.h0 = some x)
    (ho : s.outBlock r.covered a a.d.h2 = some out) (h : s.ashlar r 0x02 = some a) (h1 : x.rows = 1) (hp0 : a.d.p0.toNat = 1)
    (hp1 : a.d.p1.toNat = 0) (hb : s.inBlock r.covered a a.d.h1 = some b) (hn : s.inBlock r.covered a a.d.h3 = none)
    (hg : goodScale (BitVec.ofNat 32 (s.peekLe (b.row 0) 4)) = true) :
    Ran s (accCombine s r) r (s.pokeAs a.odd 0 (out.row 0) (outRow out 0 ((addWords (wordsIn x 16) [s.wordsAt x 0 16 (wordsIn x 16)]).map
      (fun v => finishAcc v (BitVec.ofNat 32 (s.peekLe (b.row 0) 4)) fone))).1.2).mem := by
  rw [← outRow_at out 0]
  refine State.runKind_ran_write hs h ?_ ?_
  · simp only [hx, ho, hb, hn, h1, hp0, hp1]
    simp only [finishRows, hg, effectOf, State.tokenScale]
    simp [hx]
  · simp only [hx, ho, hb, hn, h1, hp0, hp1]
    simp only [finishRows, hg, effectOf, State.tokenScale]
    simp

theorem lsumCombine_one {s : State} {r : Run} {a : Ashlar} {x out : BlockEntry} (hs : sound s) (hx : s.inBlock r.covered a a.d.h0 = some x)
    (ho : s.outBlock r.covered a a.d.h2 = some out) (h : s.ashlar r 0x18 = some a) (h1 : x.rows = 1) (hp : a.d.p0.toNat = 1) :
    Ran s (lsumCombine s r) r (s.pokeAs a.odd 0 (out.row 0) (outSums out 0 ((addWords (wordsIn x 40) [s.wordsAt x 0 40 (wordsIn x 40)]).map
      (fun i => (i, false)))).1.2).mem := by
  rw [← outSums_at out 0]
  refine State.runKind_ran_write hs h ?_ ?_
  · simp only [hx, ho, h1, hp, rowsSum]
    simp [rowsBy, hx]
  · simp only [hx, ho]
    rfl

theorem embed_row {s : State} {r : Run} {a : Ashlar} {x tb out : BlockEntry} (hs : sound s) (hx : s.inBlock r.covered a a.d.h0 = some x)
    (ho : s.outBlock r.covered a a.d.h2 = some out) (h : s.ashlar r 0x0F = some a) (h1 : x.rows = 1)
    (hb : s.inBlock r.covered a a.d.h1 = some tb) {codes sc : List Byte}
    (hc : codes = (s.peek (tb.row (s.peekLe (x.row 0) 4)) a.d.p0.toNat).1)
    (hsc : sc = (s.peek (tb.row (s.peekLe (x.row 0) 4) + tb.rowBytes) 4).1) :
    Ran s (embed s r) r ((s.pokeAs a.odd (scaleExpOf sc) (out.row 0) (out.put 0 codes).2).pokeAs a.odd (scaleExpOf sc)
      (out.row 0 + out.rowBytes) (out.putScale 0 sc).2).mem := by
  subst hc hsc
  refine State.runKind_ran_scaled (w := out.put 0 _) (v := out.putScale 0 _) hs h ?_ ?_ <;>
  · simp only [hx, hb, ho, h1]
    rfl

theorem copy_row {s : State} {r : Run} {a : Ashlar} {x out : BlockEntry} (hs : sound s) (hx : s.inBlock r.covered a a.d.h0 = some x)
    (ho : s.outBlock r.covered a a.d.h2 = some out) (h : s.ashlar r 0x19 = some a) (h1 : x.rows = 1) (h2 : out.rows = 1) :
    Ran s (copy s r) r (s.pokeAs a.odd 0 (out.row 0) (out.put 0 (s.peek (x.row 0) (Nat.min x.rowBytes out.rowBytes)).1).2).mem := by
  refine State.runKind_ran_write (w := out.put 0 _) hs h ?_ ?_
  · simp only [hx, ho, h1, h2]
    cases out.producerRows <;> rfl
  · simp only [hx, ho]

theorem gatherRows_row {s : State} {r : Run} {a : Ashlar} {x ix out : BlockEntry} (hs : sound s) (hx : s.inBlock r.covered a a.d.h0 = some x)
    (ho : s.outBlock r.covered a a.d.h2 = some out) (h : s.ashlar r 0x1C = some a) (hi : s.inBlock r.covered a a.d.h1 = some ix)
    (h1 : ix.rows = 1) {row sc : List Byte} (hr : row = (s.peek (x.row (s.peekLe (ix.row 0) 4)) (a.d.p0.toNat * elemBytes x.format.toNat)).1)
    (hsc : sc = (s.peek (x.row (s.peekLe (ix.row 0) 4) + x.rowBytes) 4).1) :
    Ran s (gatherRows s r) r (if x.format = 1 then
      (s.pokeAs a.odd (scaleExpOf sc) (out.row 0) (out.put 0 row).2).pokeAs a.odd (scaleExpOf sc) (out.row 0 + out.rowBytes) (out.putScale 0 sc).2
      else s.pokeAs a.odd 0 (out.row 0) (out.put 0 row).2).mem := by
  subst hr hsc
  by_cases h8 : x.format = 1
  · rw [if_pos h8]
    refine State.runKind_ran_scaled (w := out.put 0 _) (v := out.putScale 0 _) hs h ?_ ?_ <;>
    · simp only [hx, hi, ho, h1, show (x.format == 1) = true by simp [h8]]
      rfl
  · rw [if_neg h8]
    refine State.runKind_ran_write (w := out.put 0 _) hs h ?_ ?_ <;>
    · simp only [hx, hi, ho, h1, beq_eq_false_iff_ne.2 h8]
      rfl

theorem gateMask_one {s : State} {r : Run} {a : Ashlar} {x out : BlockEntry} (hs : sound s) (hx : s.inBlock r.covered a a.d.h0 = some x)
    (ho : s.outBlock r.covered a a.d.h2 = some out) (h : s.ashlar r 0x17 = some a) (h1 : (s.streamOf r.covered).rows.length = 1) :
    Ran s (gateMask s r) r (s.pokeAs a.odd 0 (out.row 0) (out.put 0 (leBytes 8 ((List.range a.d.p1.toNat).foldl (fun acc k =>
      acc + (if units (((s.elems x 0 a.d.p1.toNat).map (fun v => fin v.v)).getD k (fx 0)).v < units (fin a.d.p2).v then 2 ^ k else 0)) 0 +
      a.d.p0.toNat % 65536 * 2 ^ 32))).2).mem := by
  refine State.runKind_ran_write (w := out.put 0 _) hs h ?_ ?_
  · simp only [hx, ho, h1]
    rfl
  · simp only [ho]

theorem fence_ran {s : State} {r : Run} {a : Ashlar} (hs : sound s) (h : s.ashlar r 0x1B = some a) : Ran s (fence s r) r s.mem :=
  State.runKind_ran (fun _ => {}) h (State.badIn_sound s hs _)

/-! ### COLLECT -/

theorem State.sendMember_out (s : State) (c : Bool) (n : Node) (k : W64) (b : Body) : (s.sendMember c n k b).out = s.out ++ [.send n b] := by
  rw [State.sendMember]
  split <;> rfl

/-- The words sent to each member. -/
theorem State.sendMembers_spec (c : Bool) (k : W64) (b : Body) (x : Nat) : ∀ (l : List Node) (s : State),
    Aside s (l.foldl (fun t m => (t.tally 0 0 x).sendMember c m k b) s) ∧
      SameStore s (l.foldl (fun t m => (t.tally 0 0 x).sendMember c m k b) s) ∧
      (l.foldl (fun t m => (t.tally 0 0 x).sendMember c m k b) s).out = s.out ++ l.map (fun m => .send m b)
  | [], s => ⟨Aside.refl s, SameStore.refl s, by simp⟩
  | m :: l, s => by
    obtain ⟨ha, hm, ho⟩ := State.sendMembers_spec c k b x l ((s.tally 0 0 x).sendMember c m k b)
    have hd : ((s.tally 0 0 x).sendMember c m k b).dict = s.dict := by
      rw [State.sendMember]
      split <;> rfl
    refine ⟨((State.tally_aside ..).trans (State.sendMember_aside ..)).trans ha, ⟨hm.mem.trans (State.sendMember_mem ..), fun p => ?_⟩, ?_⟩
    · rw [List.foldl_cons, hm.page]
      simp only [State.pageClass, State.regions, State.num, hd]
    · rw [List.foldl_cons, ho, State.sendMember_out]
      simp [State.tally]

theorem State.sendWords_first {s : State} {r : Run} {a : Ashlar} {words : List Byte} (h : r.inst.toNat ∉ (s.streamOf r.covered).sentWords) :
    Aside s (s.sendWords r a words) ∧ SameStore s (s.sendWords r a words) ∧
      ∀ m ∈ s.collectMembers r.covered a.odd a.d a.i,
        OutMsg.send m (.collect (s.parityCourse r.covered a.odd) r.inst.toNat a.d.h3 words) ∈ (s.sendWords r a words).out := by
  obtain ⟨u, hu⟩ : ∃ u : State, u = s.setStream r.covered
    { s.streamOf r.covered with sentWords := (s.streamOf r.covered).sentWords ++ [r.inst.toNat] } := ⟨_, rfl⟩
  have he : s.sendWords r a words = (u.collectMembers r.covered a.odd a.d a.i).foldl (fun t m =>
      (t.tally 0 0 words.length).sendMember r.covered m (u.parityCourse r.covered a.odd)
        (.collect (u.parityCourse r.covered a.odd) r.inst.toNat a.d.h3 words)) u := by
    rw [State.sendWords, if_neg (by simpa using h), hu]
  have hc : u.collectMembers r.covered a.odd a.d a.i = s.collectMembers r.covered a.odd a.d a.i := by
    rw [hu, State.setStream]
    cases r.covered <;> rfl
  have hk : u.parityCourse r.covered a.odd = s.parityCourse r.covered a.odd := by
    rw [hu, State.setStream]
    cases r.covered <;> rfl
  have hd : u.dict = s.dict := by
    rw [hu, State.setStream]
    cases r.covered <;> rfl
  obtain ⟨ha, hm, ho⟩ := State.sendMembers_spec r.covered (s.parityCourse r.covered a.odd)
    (.collect (s.parityCourse r.covered a.odd) r.inst.toNat a.d.h3 words) words.length (s.collectMembers r.covered a.odd a.d a.i) u
  have hau : Aside s u := by
    rw [hu]
    exact State.setStream_aside ..
  have hmu : u.mem = s.mem := by rw [hu, State.setStream_mem]
  rw [he, hc, hk]
  refine ⟨hau.trans ha, ⟨hm.mem.trans hmu, fun p => ?_⟩, fun m hmem => ?_⟩
  · rw [hm.page]
    simp only [State.pageClass, State.regions, State.num, hd]
  · rw [ho]
    exact List.mem_append_right _ (List.mem_map_of_mem hmem)

theorem collect_one {s : State} {r : Run} {a : Ashlar} {x out : BlockEntry} {got : List (BitVec 6 × List Byte)} (hs : sound s)
    (hx : s.inBlock r.covered a a.d.h0 = some x) (ho : s.outBlock r.covered a a.d.h2 = some out) (h : s.ashlar r 0x1A = some a)
    (hn : r.inst.toNat ∉ (s.streamOf r.covered).sentWords) (h1 : x.rows = 1) (hp : a.d.p2.toNat = 0)
    (hb : s.bondOf r.covered = [s.streamNode r.covered]) : ∃ t, exec (.collect r got) s = .next t ∧
      Ran s t r (s.pokeAs a.odd 0 (out.row 0) (out.put 0 (((List.range (wordsIn x 16)).map (fun k =>
        accBytes (ofAccBytes ((s.peek (x.row 0) (16 * wordsIn x 16)).1.drop (16 * k))))).flatten)).2).mem ∧
      ∀ m ∈ s.collectMembers r.covered a.odd a.d a.i, OutMsg.send m (.collect (s.parityCourse r.covered a.odd) r.inst.toNat a.d.h3
        (s.peek (x.row 0) (16 * wordsIn x 16)).1) ∈ t.out := by
  obtain ⟨ha, hm, hsent⟩ := State.sendWords_first (s := s) (r := r) (a := a) (words := (s.peek (x.row 0) (16 * wordsIn x 16)).1) hn
  have he : collect s r got = ((s.sendWords r a (s.peek (x.row 0) (16 * wordsIn x 16)).1).tally 0 0 0).finish r a.odd {
      writes := [out.put 0 (((List.range (wordsIn x 16)).map (fun k =>
        accBytes (ofAccBytes ((s.peek (x.row 0) (16 * wordsIn x 16)).1.drop (16 * k))))).flatten)]
      reads := spanOf (some x) 1 (16 * wordsIn x 16) } := by
    rw [collect, h]
    simp only [hx, ho, hp, h1, hb, State.memberAt]
    simp
    rfl
  obtain ⟨u, hu⟩ : ∃ u : State, u = (s.sendWords r a (s.peek (x.row 0) (16 * wordsIn x 16)).1).tally 0 0 0 := ⟨_, rfl⟩
  have hau : Aside s u := by
    rw [hu]
    exact ha.trans (State.tally_aside ..)
  have hsu : SameStore s u := by
    rw [hu]
    exact ⟨hm.mem, hm.page⟩
  rw [← hu] at he
  obtain ⟨more, hmore⟩ := (State.finish_keeps u r a.odd {
      writes := [out.put 0 (((List.range (wordsIn x 16)).map (fun k =>
        accBytes (ofAccBytes ((s.peek (x.row 0) (16 * wordsIn x 16)).1.drop (16 * k))))).flatten)]
      reads := spanOf (some x) 1 (16 * wordsIn x 16) }).out
  refine ⟨_, exec_next_of_eq rfl he, Ran.after hau (State.finish_ran' (State.badIn_sound u (hsu.sound hs) _) ?_), fun m hmem => ?_⟩
  · exact ((pokeAs_stores a.odd 0 (out.row 0) _).mem hs hsu).symm
  · rw [hmore]
    refine List.mem_append_left _ ?_
    rw [hu]
    exact hsent m hmem

/-- Settles O35: each kind's effect is the write of its row; COLLECT's follows the words it sends. -/
theorem matrixAndDataKinds : Obligations.MatrixAndDataKinds := by
  intro s r a x out hs hx ho
  refine ⟨fun w f h h1 hw hf hp hc => ⟨_, rfl, matmul_column hs hx ho h h1 hw hf hp hc⟩,
    fun b h h1 hp0 hp1 hb hn hg => ⟨_, rfl, accCombine_one hs hx ho h h1 hp0 hp1 hb hn hg⟩,
    fun h h1 hp => ⟨_, rfl, lsumCombine_one hs hx ho h h1 hp⟩,
    fun got h hn h1 hp hb => collect_one hs hx ho h hn h1 hp hb,
    fun tb codes sc h h1 hb hc hsc => ⟨_, rfl, embed_row hs hx ho h h1 hb hc hsc⟩,
    fun h h1 h2 => ⟨_, rfl, copy_row hs hx ho h h1 h2⟩,
    fun ix row sc h hi h1 hr hsc => ⟨_, rfl, gatherRows_row hs hx ho h hi h1 hr hsc⟩,
    fun h h1 => ⟨_, rfl, gateMask_one hs hx ho h h1⟩, fun h => ⟨_, rfl, fence_ran hs h⟩⟩

end Sys2Proof.Machine

/-! PROOF. A state that refutes the clause on SATCHEL_STORE: a table of regions so long that FAULTS_DROPPED reads as an entry of it. The fault
that the run raises for a stale word changes the class of the page that the session's descriptor lies in, before the descriptor is
written (09 R287; 15 R492). -/

namespace Sys2Proof.Machine

/-- An entry of the region table as the model reads it. -/
def regionEntry (v : Nat) : Nat × Nat × RClass × Bool :=
  (bits v 17 0, bits v 35 18, (match bits v 37 36 with | 0 => RClass.weights | 1 => .state | _ => .activation), bit v 38)

/-- An entry covers a page. -/
def coversPage (p : Nat) (r : Nat × Nat × RClass × Bool) : Bool := decide (r.1 ≤ p) && decide (p < r.1 + r.2.1)

/-- The class that one entry of the region table gives a page. -/
def regionClass (v p : Nat) : RClass := if coversPage p (regionEntry v) then (regionEntry v).2.2.1 else .state

theorem State.regions_eq (s : State) : s.regions = (List.range (s.num O.regionCount)).map (fun i => regionEntry (s.num (O.region i))) := rfl

theorem State.pageClass_eq (s : State) (p : Nat) :
    s.pageClass p = ((s.regions.find? (coversPage p)).map (·.2.2.1)).getD .state := by
  rw [show s.pageClass p = (match s.regions.find? (coversPage p) with | some r => r.2.2.1 | none => .state) from rfl]
  cases s.regions.find? (coversPage p) <;> rfl

/-- Where every entry of the region table but the last is empty, the last gives the class. -/
theorem State.pageClass_last {s : State} {n : Nat} (hc : s.num O.regionCount = n + 1) (hz : ∀ i < n, s.num (O.region i) = 0) (p : Nat) :
    s.pageClass p = regionClass (s.num (O.region n)) p := by
  have hnone : ((List.range n).map (fun i => regionEntry (s.num (O.region i)))).find? (coversPage p) = none := by
    rw [List.find?_eq_none]
    intro r hr
    obtain ⟨i, hi, rfl⟩ := List.mem_map.1 hr
    rw [hz i (List.mem_range.1 hi)]
    simp [coversPage, regionEntry, bits]
  rw [State.pageClass_eq, State.regions_eq, hc, List.range_succ, List.map_append, List.find?_append, hnone, Option.none_or, List.map_singleton,
    List.find?_singleton, regionClass]
  cases coversPage p (regionEntry (s.num (O.region n))) <;> rfl

/-! ### The tag of a full word -/

/-- The tag of a word after full words are written: that of the write where the word is among them and its page's class has tags. -/
theorem State.tag_writeWords {w : Nat} {tag : BitVec 16} : ∀ {l : List (Nat × Nat × List Byte)}, (∀ x ∈ l, x.2.1 = 0 ∧ x.2.2.length = 32) →
    ∀ s : State, (l.foldl (fun t x => t.writeWord x.1 x.2.1 x.2.2 tag) s).mem.tag w =
      if ∃ x ∈ l, x.1 = w then (if s.pageClass (pageOf w) = .activation then tag else 0) else s.mem.tag w
  | [], _, s => by simp
  | x :: l, h, s => by
    obtain ⟨h0, h1⟩ := h x List.mem_cons_self
    obtain ⟨t, ht⟩ : ∃ t, t = s.writeWord x.1 x.2.1 x.2.2 tag := ⟨_, rfl⟩
    have hp : t.pageClass (pageOf w) = s.pageClass (pageOf w) := by
      rw [ht, h0, State.writeWord_full h1]
      rfl
    have hx : t.mem.tag w = if x.1 = w then (if s.pageClass (pageOf w) = .activation then tag else 0) else s.mem.tag w := by
      rw [ht, h0, State.writeWord_full h1]
      by_cases hw : x.1 = w
      · subst hw
        rw [if_pos rfl]
        exact SMap.get_set_same ..
      · rw [if_neg hw]
        exact SMap.get_set_other _ _ _ _ _ (Ne.symm hw)
    rw [List.foldl_cons, ← ht, State.tag_writeWords (fun y hy => h y (List.mem_cons_of_mem _ hy)), hp, hx]
    by_cases hl : ∃ y ∈ l, y.1 = w
    · rw [if_pos hl, if_pos (hl.imp fun y hy => ⟨List.mem_cons_of_mem _ hy.1, hy.2⟩)]
    · by_cases hw : x.1 = w
      · have hx' : ∃ y ∈ x :: l, y.1 = w := ⟨x, List.mem_cons_self, hw⟩
        rw [if_neg hl, if_pos hw, if_pos hx']
      · have hn : ¬ ∃ y ∈ x :: l, y.1 = w := by
          rintro ⟨y, hy, hyw⟩
          rcases List.mem_cons.1 hy with rfl | hy
          · exact hw hyw
          · exact hl ⟨y, hy, hyw⟩
        rw [if_neg hl, if_neg hw, if_neg hn]

/-- A session's descriptor at the start of HBM: the first word's tag. -/
theorem State.tag_editSession {s : State} (hb : s.num O.sessionTableBase = 0) (f : Session → Session) :
    (s.editSession 0 f).mem.tag 0 = if s.pageClass 0 = .activation then mkTag s.oddNow 0 else 0 := by
  obtain ⟨u, hu⟩ : ∃ u : State, u = { s with ses := { s.ses with table := SMap.set {} s.ses.table 0 (f (s.session 0)) } } := ⟨_, rfl⟩
  obtain ⟨d, hd⟩ : ∃ d, d = (f (s.session 0)).image 0 := ⟨_, rfl⟩
  have hl : d.length = 256 := hd ▸ Session.image_length ..
  have he : s.editSession 0 f = (cutWords 32 (d.length + 1) 0 d).foldl (fun t x => t.writeWord x.1 x.2.1 x.2.2 (mkTag u.oddNow 0))
      (u.tally d.length 0 0) := by
    rw [State.editSession, State.putSession, hb, ← hu, ← hd]
    rfl
  have hfirst : ∃ x ∈ cutWords 32 (d.length + 1) 0 d, x.1 = 0 := by
    rw [cutWords, if_neg (by simpa using fun h => by simp [h] at hl)]
    exact ⟨_, List.mem_cons_self, rfl⟩
  rw [he, State.tag_writeWords (fun _ hx => mem_cutWords_aligned rfl (by rw [hl]) hx), if_pos hfirst, hu]
  rfl

/-! ### A run that reads a stale word -/

theorem State.noteRows_dict (s : State) (c o : Bool) (d : Descriptor) (i n : Nat) : (s.noteRows c o d i n).dict = s.dict := by
  unfold State.noteRows
  generalize d.outputs i = l
  induction l generalizing s with
  | nil => rfl
  | cons h l ih =>
    rw [List.foldl_cons, ih]
    split
    · cases c <;> cases o <;> rfl
    · rfl

/-- The end of a run that meets nothing but a stale word: the dictionary is as the fault leaves it. -/
theorem State.finish_stale {s : State} {r : Run} {odd : Bool} {e : Effect} (hs : sound s) (h1 : e.scale = none) (h2 : e.range = false)
    (h3 : e.shape = false) (hst : e.reads.any (fun x => s.staleIn odd x.1 x.2) = true) :
    ∃ u, Quiet s u ∧ (s.finish r odd e).dict = (u.raise (runCore r) 0 0x45 1 (instAddr r.inst.toNat odd)).dict := by
  have hr := State.badIn_sound s hs e.reads
  obtain ⟨u, hu⟩ : ∃ u : State, u = e.writes.foldl (fun t w => t.pokeAs odd (e.expAt w.1) w.1 w.2) s := ⟨_, rfl⟩
  have hq : Quiet s u := by
    rw [hu]
    exact (Stores.foldl (f := fun t (w : Nat × List Byte) => t.pokeAs odd (e.expAt w.1) w.1 w.2) (fun w => pokeAs_stores ..) _).quiet hs
  obtain ⟨v, hv⟩ : ∃ v : State, v = u.raise (runCore r) 0 0x45 1 (instAddr r.inst.toNat odd) := ⟨_, rfl⟩
  refine ⟨u, hq, ?_⟩
  rw [← hv, State.finish]
  simp only [hr, h1, h2, h3, hst, State.badPaths_none hr, List.any_nil, List.filter_nil, Bool.false_eq_true, if_false, if_true, ← hu, ← hv,
    State.metPoison]
  split
  · exact State.noteRows_dict ..
  · rfl

/-! ### The state -/

/-- A SATCHEL_STORE whose token block is block 0. -/
def satchelDescriptor : Descriptor := {
  kind := 0x16, final := false, skippable := false, count := 1, waits := [], grants := [], h0 := 0, h1 := 0, h2 := 0, h3 := 0, p0 := 0, p1 := 0
  p2 := 0, p3 := 0 }

/-- A block of one row at the start of HBM. -/
def satchelBlock : BlockEntry := {
  addr := 0, rows := 1, rowBytes := 64, stride := 64, format := 2, courseRows := false, producerRows := false, external := false, skipGroup := 0
  skipAlias := 0, tile := 0 }

/-- The last entry of the region table, which FAULTS_DROPPED holds: page 0 is an ACTIVATION page. -/
def droppedRegion : Nat := 2 ^ 18 + 2 * 2 ^ 36

/-- Core 0 runs SATCHEL_STORE for session 0. Word 0 carries the other parity, 64 faults wait, and the region table ends at FAULTS_DROPPED. -/
def staleSatchel : State := { State.reset with
  pkg.st := .serving, crs.own.running := true, crs.lastOdd := true
  wts.k0.templ := some { noTemplate with descs := [satchelDescriptor], blocks := [satchelBlock] }
  cred.cores := [(0, { running := some (entryOf false false 0) })], cred.own0.words := [(0, { st := .running, holder := some 0 })]
  ses.table := [(0, { st := .satchelling })], mem.tags := [(0, 0x8000)], fcu.intake := List.replicate 64 {}
  dict.nums := [(0x300100, 4194052), (0x300101, 0), (0x700004, droppedRegion)] }

/-- The run at hand. -/
def satchelRun : Run := ⟨0, 0, false, 0⟩

/-- Where the dictionary holds the three objects alone, the last of them FAULTS_DROPPED at v, v gives the class of every page. -/
theorem State.pageClass_dropped {s : State} {v : Nat} (h : s.dict.nums = [(0x300100, 4194052), (0x300101, 0), (0x700004, v)]) (p : Nat) :
    s.pageClass p = regionClass v p := by
  have hv : s.num (O.region 4194051) = v := by
    rw [State.num, h]
    rfl
  rw [State.pageClass_last (n := 4194051) (by rw [State.num, h]; rfl) (fun i hi => ?_), hv]
  have hk : (O.region i).key = 0x300101 + i := rfl
  rw [State.num, h, hk]
  rcases Nat.eq_zero_or_pos i with rfl | hpos
  · rfl
  · rw [SMap.get, if_neg (by omega), SMap.get, if_neg (by omega), SMap.get, if_neg (by omega), SMap.get]
    exact if_neg (by omega)

theorem staleSatchel_stale : staleSatchel.staleIn false 0 4 = true := by
  have hp : staleSatchel.pageClass 0 = .activation := by
    rw [State.pageClass_dropped rfl]
    decide +kernel
  have ht : (staleSatchel.mem.tagRead 0).getLsbD 15 = true := by decide +kernel
  have hc : cutWords 32 5 0 (zeros 4) = [(0, 0, zeros 4)] := by decide +kernel
  rw [State.staleIn]
  change (space 0 == Space.hbm && (cutWords 32 5 0 (zeros 4)).any _) = true
  rw [hc]
  simp only [List.any_cons, List.any_nil, Bool.or_false, show pageOf 0 = 0 from rfl, hp, ht]
  decide

/-- What the run does. -/
def satchelEffect : Effect := {
  writes := [(0, satchelBytes 0 0 0 ((List.range 1).map (fun k => staleSatchel.peekLe (satchelBlock.row k) 4)))], reads := [(0, 4)] }

theorem satchelStore_stale : satchelStore staleSatchel satchelRun =
    (staleSatchel.finish satchelRun false satchelEffect).editSession 0 (fun z => { z with satchelCount := 1 }) := by
  have ha : staleSatchel.ashlar satchelRun 0x16 = some ⟨satchelDescriptor, 0, false⟩ := by decide +kernel
  have hx : staleSatchel.inBlock satchelRun.covered ⟨satchelDescriptor, 0, false⟩ satchelDescriptor.h0 = some satchelBlock := by decide +kernel
  have hs : (staleSatchel.satchelling satchelRun.covered)[0]? = some 0 := by decide +kernel
  rw [satchelStore, ha]
  simp only [hx, hs]
  rfl

/-- The fault is dropped, and counted: page 0 is no ACTIVATION page any more. -/
theorem staleSatchel_finish_nums : (staleSatchel.finish satchelRun false satchelEffect).dict.nums =
    [(0x300100, 4194052), (0x300101, 0), (0x700004, droppedRegion + 1)] := by
  obtain ⟨u, hq, hd⟩ := State.finish_stale (s := staleSatchel) (r := satchelRun) (odd := false) (e := satchelEffect) rfl rfl rfl rfl (by
    rw [satchelEffect, List.any_cons, staleSatchel_stale, Bool.true_or])
  have hf := hq.frame
  have hud : u.dict = staleSatchel.dict := by rw [hf]
  have huf : u.fcu = staleSatchel.fcu := by rw [hf]
  have hup : u.pkg = staleSatchel.pkg := by rw [hf]
  have hn : ((u.counted (runCore satchelRun)).bump O.faultsDropped 64).dict.nums =
      [(0x300100, 4194052), (0x300101, 0), (0x700004, droppedRegion + 1)] := by
    change SMap.set 0 u.dict.nums 0x700004 ((SMap.get 0 u.dict.nums 0x700004 + 1) % 2 ^ 64) = _
    rw [hud]
    decide +kernel
  rw [hd]
  rcases State.raise_dropped (s := u) (by rw [hup]; decide) (by rw [hup]; rfl) (runCore satchelRun) 0 0x45 (cls := 1) (by decide)
    (by rw [huf]; decide) (instAddr satchelRun.inst.toNat false) with h | ⟨_, _, _, h⟩
  · rw [h]
    exact hn
  · rw [h]
    exact hn

/-- Refutes O36: the clause on SATCHEL_STORE. -/
theorem not_attentionKinds : ¬ Obligations.AttentionKinds := by
  rintro ⟨-, -, -, -, -, -, -, hsat, -⟩
  obtain ⟨t, ht, hran, -⟩ := hsat staleSatchel satchelRun ⟨satchelDescriptor, 0, false⟩ satchelBlock 0 1 rfl (by decide +kernel) (by decide +kernel)
    (by decide +kernel) rfl
  have hmem : t.mem.tag 0 = (((staleSatchel.pokeAs false 0 0 (satchelBytes 0 0 0 ((List.range 1).map (fun k =>
      staleSatchel.peekLe (satchelBlock.row k) 4)))).editSession 0 (fun z => { z with satchelCount := 1 }))).mem.tag 0 := congrArg (·.tag 0) hran.mem
  obtain ⟨d, hd⟩ : ∃ d, d = satchelBytes 0 0 0 ((List.range 1).map (fun k => staleSatchel.peekLe (satchelBlock.row k) 4)) := ⟨_, rfl⟩
  have hq : Quiet staleSatchel (staleSatchel.pokeAs false 0 0 d) := (pokeAs_stores false 0 0 d).quiet rfl
  have hf := hq.frame
  rw [← hd, ← (Host.Outcome.next.inj ht : satchelStore staleSatchel satchelRun = t), satchelStore_stale,
    State.tag_editSession (by rw [State.num, staleSatchel_finish_nums]; rfl), State.pageClass_dropped staleSatchel_finish_nums,
    State.tag_editSession (by rw [hf]; rfl), hq.page, State.pageClass_dropped rfl, if_neg (by decide +kernel), if_pos (by decide +kernel),
    show (staleSatchel.pokeAs false 0 0 d).oddNow = true by rw [hf]; rfl] at hmem
  exact absurd hmem (by decide)

end Sys2Proof.Machine

/-! PROOF. The tannery: a load begins, is refused or aborted, chunks are posted and converted (10 R315 to R331). -/

namespace Sys2Proof.Machine

/-! ### LOAD_START -/

/-- The two areas of a full load. -/
def State.areasFor (s : State) (m : List Byte) : Option (Nat × Nat) :=
  (s.roomy s.freeAreas (s.partBytes m).1).bind (fun a => (s.roomy (s.freeAreas.filter (· != a)) (s.partBytes m).2).map (fun b => (a, b)))

/-- LOAD_START of a full load gets as far as the manifest. -/
structure Startable (s : State) : Prop where
  idle : s.wts.load.runs = false
  free : s.wts.k0.st = .absent
  st : s.pkg.st = .ready ∨ s.pkg.st = .serving ∨ s.pkg.st = .drained
  full : s.num O.loadMode = 0
  epoch : BitVec.ofNat 32 (s.num O.loadEpoch) ≠ 0
  fresh : s.wts.k1.st = .absent ∨ s.wts.k1.epoch ≠ BitVec.ofNat 32 (s.num O.loadEpoch)

/-- What LOAD_START makes of a manifest that it has read. -/
def State.takeManifest (u : State) (m : List Byte) : State :=
  if u.manifestStatus m ≠ 0 then u.refuseLoad (u.manifestStatus m)
  else match u.roomy u.freeAreas (u.partBytes m).1 with
    | none => u.refuseLoad 0x05
    | some a => match u.roomy (u.freeAreas.filter (· != a)) (u.partBytes m).2 with
      | none => u.refuseLoad 0x05
      | some b => u.beginLoad m 0 a (some b) false

theorem State.loadStart_full {s : State} (hs : sound s) (h : Startable s) {base n : Nat} (hb : base = s.num O.stagingBase + s.num O.loadManifest)
    (hn : n = u32 (s.peek base 256).1 0x14) (h1 : 1 ≤ n) (h2 : n ≤ 65536) :
    s.loadStart = (Err.ok, (s.tallyReads [(base, manifestBytes n)]).takeManifest (s.peek base (manifestBytes n)).1) := by
  obtain ⟨hi, hf, hst, hm, he, hfr⟩ := h
  have hst' : ¬ (s.pkg.st = .boot ∨ s.pkg.st = .align ∨ s.pkg.st = .stopped ∨ s.pkg.st = .grave ∨ s.pkg.st = .halt ∨ s.pkg.st = .off) := by
    rcases hst with h | h | h <;> simp [h]
  have hep : ¬ ((decide (BitVec.ofNat 32 (s.num O.loadEpoch) = 0) ||
      [s.wts.k0, s.wts.k1].any (fun c => c.st != .absent && c.epoch == BitVec.ofNat 32 (s.num O.loadEpoch))) = true) := by
    simp only [List.any_cons, List.any_nil, hf, Bool.or_eq_true, decide_eq_true_eq, Bool.and_eq_true, bne_iff_ne, beq_iff_eq]
    rintro (h | ⟨h, -⟩ | ⟨h, h'⟩ | h)
    · exact he h
    · exact h rfl
    · exact hfr.elim h (fun k => k h')
    · cases h
  have hrb : s.readBad [(base, manifestBytes n)] = s.tallyReads [(base, manifestBytes n)] := State.readBad_none (State.badIn_sound s hs _)
  unfold State.loadStart
  simp only [hi, hf, hm, ← hb, ← hn, if_true, Bool.false_eq_true, if_false, if_neg hst', if_neg hep, if_pos (And.intro h1 h2), hrb,
    show ((0 : Nat) == 1) = false from rfl, Bool.false_and]
  generalize s.tallyReads [(base, manifestBytes n)] = u
  unfold State.takeManifest
  generalize (s.peek base (manifestBytes n)).1 = m
  by_cases hz : u.manifestStatus m = 0
  · rw [if_neg (by simp [hz]), if_neg (by simp [hz])]
    cases u.roomy u.freeAreas (u.partBytes m).1 with
    | none => rfl
    | some a =>
      dsimp only
      cases u.roomy (u.freeAreas.filter (· != a)) (u.partBytes m).2 <;> rfl
  · rw [if_pos hz, if_pos hz]

theorem State.takeManifest_begun {u : State} {m : List Byte} {a b : Nat} (h : u.manifestStatus m = 0) (hab : u.areasFor m = some (a, b)) :
    u.takeManifest m = u.beginLoad m 0 a (some b) false := by
  obtain ⟨a', ha, hmap⟩ := Option.bind_eq_some_iff.1 hab
  obtain ⟨b', hb, he⟩ := Option.map_eq_some_iff.1 hmap
  obtain ⟨rfl, rfl⟩ := Prod.mk.inj he
  rw [State.takeManifest, if_neg (Classical.not_not.2 h), ha]
  dsimp only
  rw [hb]

theorem State.takeManifest_refused {u : State} {m : List Byte} (h : ¬ (u.manifestStatus m = 0 ∧ (u.areasFor m).isSome = true)) :
    u.takeManifest m = u.refuseLoad (if u.manifestStatus m = 0 then 5 else u.manifestStatus m) := by
  rw [State.takeManifest]
  by_cases hz : u.manifestStatus m = 0
  · rw [if_neg (Classical.not_not.2 hz), if_pos hz]
    cases ha : u.roomy u.freeAreas (u.partBytes m).1 with
    | none => rfl
    | some a =>
      dsimp only
      cases hb : u.roomy (u.freeAreas.filter (· != a)) (u.partBytes m).2 with
      | none => rfl
      | some b => exact absurd ⟨hz, by rw [State.areasFor, ha, Option.bind_some, hb]; rfl⟩ h
  · rw [if_pos hz, if_neg hz]

theorem State.refuseLoad_spec (u : State) (st : Nat) :
    (u.refuseLoad st).wts = { u.wts with load := .refused } ∧ (u.refuseLoad st).num O.loadStatus = st ∧ (u.refuseLoad st).num O.loadDetail = 0 ∧
      changesOnly [.wts, .objects, .icx, .out] u (u.refuseLoad st) := by
  refine ⟨?_, ?_, ?_, (((State.wts_changes u _).within.then (State.setNum_changes _ O.loadStatus st (by decide))).then
    (State.setNum_changes _ O.loadDetail 0 (by decide))).then (State.icxEvent_changes ..)⟩
  · rw [State.refuseLoad, State.icxEvent_wts]
    rfl
  · rw [State.refuseLoad, State.num_icxEvent, State.num_setNum_other _ _ _ _ (by decide), State.num_setNum_same]
  · rw [State.refuseLoad, State.num_icxEvent, State.num_setNum_same]

/-- The copy that a full load begins in slot 0. -/
def State.loadingCopy (u : State) (m : List Byte) (a b : Nat) : Copy where
  st := .loading
  epoch := BitVec.ofNat 32 (u.num O.loadEpoch)
  thin := false
  digest := manifestDigest m
  own := some a
  twin := some b
  vocab := u32 m 0x1A
  layers := u16 m 0x1E
  geometry := u16 m 0x20
  draftLayers := u16 m 0x22
  draftGeometry := u16 m 0x24

theorem State.beginLoad_spec (u : State) (m : List Byte) (a b : Nat) :
    (u.beginLoad m 0 a (some b) false).wts = { u.wts with
      k0 := u.loadingCopy m a b, load := .active, slot := 0, thin := false, manifest := m, posts := [], converted := [], tensors := [] } ∧
    (u.beginLoad m 0 a (some b) false).num O.loadStatus = 0 ∧ (u.beginLoad m 0 a (some b) false).num O.loadDetail = 0 ∧
    (u.beginLoad m 0 a (some b) false).num O.loadReleased = 0 ∧ changesOnly [.wts, .objects] u (u.beginLoad m 0 a (some b) false) := by
  rw [State.beginLoad]
  refine ⟨rfl, ?_, ?_, ?_, ((((State.wts_changes u _).within.then (State.setNum_changes _ O.loadStatus 0 (by decide))).then
    (State.setNum_changes _ O.loadDetail 0 (by decide))).then (State.setNum_changes _ O.loadReleased 0 (by decide))).then
    (State.setNum_changes _ O.loadIgnored 0 (by decide))⟩
  · rw [State.num_setNum_other _ _ _ _ (by decide), State.num_setNum_other _ _ _ _ (by decide), State.num_setNum_other _ _ _ _ (by decide),
      State.num_setNum_same]
  · rw [State.num_setNum_other _ _ _ _ (by decide), State.num_setNum_other _ _ _ _ (by decide), State.num_setNum_same]
  · rw [State.num_setNum_other _ _ _ _ (by decide), State.num_setNum_same]

theorem execLoadStart_eq {s : State} {p : Path} {v : Byte} (h : passes s p O.loadStart (.num v.toNat)) {t : State}
    (ht : s.loadStart = (Err.ok, t)) : exec (.loadStart p v) s = .next (t.noteResult O.loadStart.key Err.ok) := by
  rw [← show (s.loadStart).2 = t by rw [ht], ← show (s.loadStart).1 = Err.ok by rw [ht],
    ← State.writeNum_owned h (State.ownNumeric_loadStart ..) (by decide +kernel)]
  rfl

theorem execLoadStart_begun {s : State} {p : Path} {v : Byte} {m : List Byte} {a b : Nat} {l : List (Nat × Nat)}
    (h : passes s p O.loadStart (.num v.toNat)) (ht : s.loadStart = (Err.ok, (s.tallyReads l).takeManifest m))
    (hz : s.manifestStatus m = 0) (hab : s.areasFor m = some (a, b)) :
    ∃ t, exec (.loadStart p v) s = .next t ∧
      t.wts = { s.wts with
        k0 := s.loadingCopy m a b, load := .active, slot := 0, thin := false, manifest := m, posts := [], converted := [], tensors := [] } ∧
      t.num O.loadStatus = 0 ∧ t.num O.loadDetail = 0 ∧ t.num O.loadReleased = 0 ∧ changesOnly [.wts, .ses, .objects, .server] s t := by
  obtain ⟨hw, h1, h2, h3, hc⟩ := State.beginLoad_spec (s.tallyReads l) m a b
  rw [State.takeManifest_begun (u := s.tallyReads l) hz hab] at ht
  refine ⟨_, execLoadStart_eq h ht, (State.noteResult_wts ..).trans hw, ?_, ?_, ?_, ((State.tally_changes ..).within.then hc).then (State.noteResult_changes ..)⟩
  · rw [State.num_noteResult, h1]
  · rw [State.num_noteResult, h2]
  · rw [State.num_noteResult, h3]

theorem execLoadStart_refused {s : State} {p : Path} {v : Byte} {m : List Byte} {l : List (Nat × Nat)}
    (h : passes s p O.loadStart (.num v.toNat)) (ht : s.loadStart = (Err.ok, (s.tallyReads l).takeManifest m))
    (hz : ¬ (s.manifestStatus m = 0 ∧ (s.areasFor m).isSome = true)) :
    ∃ t, exec (.loadStart p v) s = .next t ∧ t.wts = { s.wts with load := .refused } ∧
      t.num O.loadStatus = (if s.manifestStatus m = 0 then 5 else s.manifestStatus m) ∧ t.num O.loadDetail = 0 ∧
      changesOnly [.wts, .ses, .objects, .icx, .out, .server] s t := by
  obtain ⟨hw, h1, h2, hc⟩ := State.refuseLoad_spec (s.tallyReads l) (if s.manifestStatus m = 0 then 5 else s.manifestStatus m)
  rw [State.takeManifest_refused (u := s.tallyReads l) hz, show (s.tallyReads l).manifestStatus m = s.manifestStatus m from rfl] at ht
  refine ⟨_, execLoadStart_eq h ht, (State.noteResult_wts ..).trans hw, ?_, ?_, ((State.tally_changes ..).within.then hc).then (State.noteResult_changes ..)⟩
  · rw [State.num_noteResult]
    exact h1
  · rw [State.num_noteResult]
    exact h2

/-! ### LOAD_POST and LOAD_ABORT -/

theorem execLoadPost_eq {s : State} {p : Path} {v : W64} (h : passes s p O.loadPost (.num v.toNat)) :
    exec (.loadPost p v) s = .next ((s.loadPost v.toNat).2.noteResult O.loadPost.key (s.loadPost v.toNat).1) := by
  rw [← State.writeNum_owned h (State.ownNumeric_loadPost ..) (by decide +kernel)]
  rfl

theorem State.loadPost_taken {s : State} (v : W64) (h : s.wts.load = .active ∨ s.wts.load = .twinPhase) :
    s.loadPost v.toNat = (Err.ok, { s with wts := { s.wts with posts := s.wts.posts ++ [v] } }) := by
  rw [State.loadPost, if_pos h, BitVec.ofNat_toNat, BitVec.setWidth_eq]

theorem State.loadPost_ignored {s : State} (v : Nat) (h : ¬ (s.wts.load = .active ∨ s.wts.load = .twinPhase)) :
    s.loadPost v = (Err.ok, s.setNum O.loadIgnored ((s.num O.loadIgnored + 1) % 2 ^ 32)) := by
  rw [State.loadPost, if_neg h]
  rfl

/-- A load is ended: status, detail, its slot ABSENT. -/
structure Aborted (s t : State) (status detail : Nat) : Prop where
  load : t.wts.load = .refused
  slot : (t.wts.copy s.wts.slot).st = .absent
  posts : t.wts.posts = []
  status : t.num O.loadStatus = status
  detail : t.num O.loadDetail = detail
  frame : changesOnly [.wts, .objects, .icx, .out] s t

theorem WeightUnit.copy_setCopy_same (w : WeightUnit) (k : Nat) (c : Copy) : (w.setCopy k c).copy k = c := by
  by_cases h : k = 0 <;> simp [WeightUnit.copy, WeightUnit.setCopy, h]

theorem State.abortLoad_spec {s : State} (h : s.wts.load.runs = true) (st d : Nat) : Aborted s (s.abortLoad st d) st d := by
  rw [State.abortLoad, if_neg (by simp [h])]
  dsimp only
  refine ⟨?_, ?_, ?_, ?_, ?_, (((State.setNum_changes s O.loadStatus st (by decide)).within.then
    (State.setNum_changes _ O.loadDetail d (by decide))).then (State.wts_changes ..)).then (State.icxEvent_changes ..)⟩
  · rw [State.icxEvent_wts]
  · rw [State.icxEvent_wts]
    exact congrArg Copy.st (WeightUnit.copy_setCopy_same ..)
  · rw [State.icxEvent_wts]
  · rw [State.num_icxEvent]
    exact (State.num_setNum_other _ _ _ _ (by decide)).trans (State.num_setNum_same ..)
  · rw [State.num_icxEvent]
    exact State.num_setNum_same ..

theorem execLoadAbort_eq {s : State} {p : Path} {v : Byte} (h : passes s p O.loadAbort (.num v.toNat)) :
    exec (.loadAbort p v) s = .next ((s.abortLoad 0x0C 0).noteResult O.loadAbort.key Err.ok) := by
  have hw := State.writeNum_owned h (State.ownNumeric_loadAbort ..) (by decide +kernel)
  exact exec_next_of_eq rfl hw

/-! ### CHUNK_CONVERT: what is written -/

/-- Bytes written at offsets from a base, with the parity of a course. -/
def State.writeAt (s : State) (odd : Bool) (base : Nat) (ws : Writes) : State :=
  ws.foldl (fun t w => t.hbmPut (base + w.1) w.2 (mkTag odd 0)) s

/-- A chunk's bytes written in parts of a copy, the areas' bases given. -/
def State.writeParts (s : State) (odd : Bool) (base : Option Nat → Nat) (c : Copy) (dest : Nat) (ws : Writes) (parts : List Bool) : State :=
  parts.foldl (fun t part => t.writeAt odd (base (if part then c.twin else c.own) + dest) ws) s

theorem writeAt_stores (odd : Bool) (base : Nat) (ws : Writes) : Stores (fun s => s.writeAt odd base ws) :=
  Stores.foldl (f := fun (t : State) (w : Nat × List Byte) => t.hbmPut (base + w.1) w.2 (mkTag odd 0)) (fun _ => hbmPut_stores ..) ws

theorem writeParts_stores (odd : Bool) (base : Option Nat → Nat) (c : Copy) (dest : Nat) (ws : Writes) (parts : List Bool) :
    Stores (fun s => s.writeParts odd base c dest ws parts) :=
  Stores.foldl (f := fun (t : State) (part : Bool) => t.writeAt odd (base (if part then c.twin else c.own) + dest) ws) (fun _ => writeAt_stores ..) parts

theorem Quiet.oddNow {s t : State} (h : Quiet s t) : t.oddNow = s.oddNow := by rw [h.frame]; rfl

theorem Quiet.areaBase {s t : State} (h : Quiet s t) : t.areaBase = s.areaBase := by rw [h.frame]; rfl

theorem State.writePart_eq (base : Nat) : ∀ (ws : Writes) {s : State}, sound s → s.writePart base ws = s.writeAt s.oddNow base ws := by
  intro ws
  induction ws with
  | nil => simp only [State.writePart, State.writeAt, List.foldl_nil, implies_true]
  | cons w ws ih =>
    intro s hs
    have hq := (hbmPut_stores (base + w.1) w.2 (mkTag s.oddNow 0)).quiet hs
    have h := ih hq.sound
    rw [hq.oddNow] at h
    exact h

/-- The parts written one after another, each at the base that its area has then, are those written at the bases at hand. -/
theorem State.writeParts_eq {base : State → Option Nat → Nat} (hb : ∀ {s t : State}, Quiet s t → base t = base s) (c : Copy) (dest : Nat)
    (ws : Writes) : ∀ (parts : List Bool) {s : State}, sound s →
      parts.foldl (fun t part => t.writePart (base t (if part then c.twin else c.own) + dest) ws) s = s.writeParts s.oddNow (base s) c dest ws parts := by
  intro parts
  induction parts with
  | nil => simp only [State.writeParts, List.foldl_nil, implies_true]
  | cons part parts ih =>
    intro s hs
    have hq := (writeAt_stores s.oddNow (base s (if part then c.twin else c.own) + dest) ws).quiet hs
    have h := ih hq.sound
    rw [hb hq, hq.oddNow, ← State.writePart_eq _ _ hs] at h
    rw [List.foldl_cons, h, State.writePart_eq _ _ hs]
    rfl

/-! ### CHUNK_CONVERT: a chunk of the load -/

/-- The post at the front is taken and the chunk's bytes are read. -/
def State.readChunk (s : State) (rest : List W64) (l : List (Nat × Nat)) : State :=
  State.tallyReads { s with wts := { s.wts with posts := rest } } l

theorem State.readChunk_same (s : State) (rest : List W64) (l : List (Nat × Nat)) : SameStore s (s.readChunk rest l) := ⟨rfl, fun _ => rfl⟩

/-- The post at the front names a chunk that the load converts. -/
structure Posted (s : State) (q : W64) (rest : List W64) (i off : Nat) (e : ChunkEntry) : Prop where
  posts : s.wts.posts = q :: rest
  load : s.wts.load = .active
  chunk : i = q.toNat % 2 ^ 32
  offset : off = q.toNat / 2 ^ 32 * 64
  known : i < manifestChunks s.wts.manifest
  entry : e = chunkEntry s.wts.manifest i
  wanted : s.inLoad e = true
  fresh : s.wts.converted.contains i = false

/-- What CHUNK_CONVERT makes of a chunk whose bytes it has read. -/
def State.takeChunk (u : State) (i : Nat) (e : ChunkEntry) (stored : List Byte) : State :=
  if sha3 stored ≠ e.digest then u.abortLoad 0x06 i
  else match (if e.zstd then Zstd.decompress stored else some stored) with
    | none => u.abortLoad 0x07 i
    | some d =>
      let t := if e.template then u.convertTemplate i e d else u.convertChunk i e d
      if t.wts.load.runs then (t.bump O.loadReleased).finishLoad else t

/-- What CHUNK_CONVERT makes of the post that it has taken. -/
def State.takePost (u : State) (i off : Nat) (e : ChunkEntry) : State :=
  if !(u.wts.load = .active ∨ u.wts.load = .twinPhase) || decide (i ≥ manifestChunks u.wts.manifest) || !u.inLoad e || u.wts.converted.contains i then
    u.bump O.loadIgnored
  else (u.readBad [(u.num O.stagingBase + off, e.bytes)]).takeChunk i e (u.peek (u.num O.stagingBase + off) e.bytes).1

theorem chunkConvert_cons {s : State} {q : W64} {rest : List W64} (h : s.wts.posts = q :: rest) :
    chunkConvert s = State.takePost { s with wts := { s.wts with posts := rest } } (q.toNat % 2 ^ 32) (q.toNat / 2 ^ 32 * 64)
      (chunkEntry s.wts.manifest (q.toNat % 2 ^ 32)) := by
  unfold chunkConvert
  split
  next k => exact absurd (k.symm.trans h) (by simp)
  next q' rest' k =>
    obtain ⟨rfl, rfl⟩ := List.cons.inj (k.symm.trans h)
    rfl

theorem chunkConvert_posted {s : State} {q : W64} {rest : List W64} {i off : Nat} {e : ChunkEntry} (hs : sound s) (h : Posted s q rest i off e) :
    chunkConvert s = (s.readChunk rest [(s.num O.stagingBase + off, e.bytes)]).takeChunk i e (s.peek (s.num O.stagingBase + off) e.bytes).1 := by
  obtain ⟨hp, hl, hi, ho, hk, he, hw, hf⟩ := h
  rw [chunkConvert_cons hp, ← hi, ← ho, ← he]
  obtain ⟨u, hu⟩ : ∃ u : State, u = { s with wts := { s.wts with posts := rest } } := ⟨_, rfl⟩
  have huw : u.wts = { s.wts with posts := rest } := by rw [hu]
  have hun : u.num = s.num := by rw [hu]; rfl
  have hin : u.inLoad e = true := by rw [← hw, hu]; rfl
  have hb : u.readBad [(s.num O.stagingBase + off, e.bytes)] = s.readChunk rest [(s.num O.stagingBase + off, e.bytes)] := by
    rw [State.readBad_none (State.badIn_sound u (by rw [hu]; exact hs) _), hu]
    rfl
  rw [← hu, State.takePost, if_neg, hun, hb, show u.peek = s.peek by rw [hu]; rfl]
  simp only [huw, hl, hin, hf, true_or, decide_true, Bool.not_true, Bool.false_or, Bool.or_false, decide_eq_true_eq]
  omega

theorem State.takeChunk_differs {u : State} {i : Nat} {e : ChunkEntry} {d : List Byte} (h : sha3 d ≠ e.digest) :
    u.takeChunk i e d = u.abortLoad 6 i := if_pos h

theorem State.takeChunk_tensor {u : State} {i : Nat} {e : ChunkEntry} {d : List Byte} (h : sha3 d = e.digest) (hz : e.zstd = false)
    (ht : e.template = false) {t : State} (hc : u.convertChunk i e d = t) (hr : t.wts.load.runs = true) :
    u.takeChunk i e d = (t.bump O.loadReleased).finishLoad := by
  unfold State.takeChunk
  simp only [h, hz, ht, hc, hr, ne_eq, not_true_eq_false, Bool.false_eq_true, if_false, if_true]

/-- A tensor chunk written in its parts and noted as converted. -/
def State.chunkWritten (u : State) (i : Nat) (e : ChunkEntry) (d : List Byte) (ws : Writes) (ts : List TensorSeen) (put : List Placed) : State :=
  { u.writeParts u.oddNow u.areaBase (u.wts.copy u.wts.slot) (chunkHead d).dest ws (u.partsOf e) with
    wts := { u.wts.setCopy u.wts.slot { u.wts.copy u.wts.slot with placed := (u.wts.copy u.wts.slot).placed ++ put } with
      tensors := ts, converted := u.wts.converted ++ [i] } }

theorem State.convertChunk_written {u : State} {i n m : Nat} {e : ChunkEntry} {d : List Byte} {ws : Writes} {bad : Bool} {ts : List TensorSeen}
    (hs : sound u) (h : convertTensor d = .ok (ws, n, m, bad)) (hn : n = e.outBytes)
    (ht : tensorStep u.wts.tensors (e.tensor + 2 ^ 32 * e.shard) i d m bad = some ts) :
    ∃ put, u.convertChunk i e d = u.chunkWritten i e d ws ts put := by
  have hw := State.writeParts_eq (base := State.areaBase) Quiet.areaBase (u.wts.copy u.wts.slot) (chunkHead d).dest ws (u.partsOf e) hs
  have hq := (writeParts_stores u.oddNow u.areaBase (u.wts.copy u.wts.slot) (chunkHead d).dest ws (u.partsOf e)).quiet hs
  have hk : (u.writeParts u.oddNow u.areaBase (u.wts.copy u.wts.slot) (chunkHead d).dest ws (u.partsOf e)).wts = u.wts := by rw [hq.frame]
  rw [State.convertChunk, h]
  dsimp only
  rw [if_neg (Classical.not_not.2 hn), ht]
  dsimp only
  rw [hw, hk]
  exact ⟨_, rfl⟩

theorem State.chunkWritten_kept {u : State} (hs : sound u) (i : Nat) (e : ChunkEntry) (d : List Byte) (ws : Writes) (ts : List TensorSeen)
    (put : List Placed) :
    (u.chunkWritten i e d ws ts put).wts.load = u.wts.load ∧ (u.chunkWritten i e d ws ts put).wts.thin = u.wts.thin ∧
      (u.chunkWritten i e d ws ts put).wts.manifest = u.wts.manifest ∧ (u.chunkWritten i e d ws ts put).wts.posts = u.wts.posts ∧
      ∀ o, (u.chunkWritten i e d ws ts put).num o = u.num o := by
  have hq := (writeParts_stores u.oddNow u.areaBase (u.wts.copy u.wts.slot) (chunkHead d).dest ws (u.partsOf e)).quiet hs
  have hset : ∀ c, (u.wts.setCopy u.wts.slot c).load = u.wts.load ∧ (u.wts.setCopy u.wts.slot c).thin = u.wts.thin ∧
      (u.wts.setCopy u.wts.slot c).manifest = u.wts.manifest ∧ (u.wts.setCopy u.wts.slot c).posts = u.wts.posts := fun c => by
    by_cases h : u.wts.slot = 0 <;> simp [WeightUnit.setCopy, h]
  obtain ⟨h1, h2, h3, h4⟩ := hset { u.wts.copy u.wts.slot with placed := (u.wts.copy u.wts.slot).placed ++ put }
  exact ⟨h1, h2, h3, h4, fun o => by rw [State.chunkWritten, hq.frame]; rfl⟩

theorem State.finishLoad_due {t : State} {j : Nat} (h : j ∈ t.loadChunks) (hj : t.wts.converted.contains j = false) : t.finishLoad = t := by
  have hd : t.loadChunks.any (fun i => !t.wts.converted.contains i) = true := List.any_eq_true.2 ⟨j, h, by simp only [hj, Bool.not_false]⟩
  rw [State.finishLoad]
  dsimp only
  rw [hd, Bool.or_true]
  rfl

/-- What a load has to convert goes by the load, its manifest and the two shards. -/
theorem State.loadChunks_congr {s t : State} (hl : t.wts.load = s.wts.load) (ht : t.wts.thin = s.wts.thin) (hm : t.wts.manifest = s.wts.manifest)
    (ho : t.num O.shardOwn = s.num O.shardOwn) (hw : t.num O.shardTwin = s.num O.shardTwin) : t.loadChunks = s.loadChunks := by
  have hi : ∀ e, t.inLoad e = s.inLoad e := fun e => by simp only [State.inLoad, hl, ht, ho, hw]
  simp only [State.loadChunks, hm, hi]

/-- CHUNK_CONVERT of a tensor chunk, more chunks being due. -/
theorem chunkConvert_tensor {s : State} {q : W64} {rest : List W64} {i j off n m : Nat} {e : ChunkEntry} {d : List Byte} {ws : Writes} {bad : Bool}
    {ts : List TensorSeen} (hs : sound s) (h : Posted s q rest i off e) (ht : e.template = false) (hz : e.zstd = false)
    (hd : d = (s.peek (s.num O.stagingBase + off) e.bytes).1) (hx : sha3 d = e.digest) (hc : convertTensor d = .ok (ws, n, m, bad))
    (hn : n = e.outBytes) (hts : tensorStep s.wts.tensors (e.tensor + 2 ^ 32 * e.shard) i d m bad = some ts)
    (hj : j ∈ s.loadChunks) (hne : j ≠ i) (hjc : s.wts.converted.contains j = false) :
    ∃ l put, chunkConvert s = ((s.readChunk rest l).chunkWritten i e d ws ts put).bump O.loadReleased := by
  obtain ⟨u, hu⟩ : ∃ u : State, u = s.readChunk rest [(s.num O.stagingBase + off, e.bytes)] := ⟨_, rfl⟩
  have hsu : sound u := by rw [hu]; exact hs
  have huw : u.wts = { s.wts with posts := rest } := by rw [hu]; rfl
  have hun : u.num = s.num := by rw [hu]; rfl
  obtain ⟨put, hput⟩ := State.convertChunk_written hsu hc hn (by rw [huw]; exact hts)
  obtain ⟨kl, kt, km, -, kn⟩ := State.chunkWritten_kept hsu i e d ws ts put
  have hrun : (u.chunkWritten i e d ws ts put).wts.load.runs = true := by
    rw [kl, huw, show ({ s.wts with posts := rest } : WeightUnit).load = _ from h.load]
    rfl
  refine ⟨[(s.num O.stagingBase + off, e.bytes)], put, ?_⟩
  rw [chunkConvert_posted hs h, ← hd, ← hu, State.takeChunk_tensor hx hz ht hput hrun]
  refine State.finishLoad_due (j := j) ?_ ?_
  · rw [State.loadChunks_congr (s := s)]
    · exact hj
    · exact kl.trans (by rw [huw])
    · exact kt.trans (by rw [huw])
    · exact km.trans (by rw [huw])
    · exact (State.num_setNum_other _ _ _ _ (by decide)).trans ((kn _).trans (by rw [hun]))
    · exact (State.num_setNum_other _ _ _ _ (by decide)).trans ((kn _).trans (by rw [hun]))
  · rw [show ((u.chunkWritten i e d ws ts put).bump O.loadReleased).wts.converted = u.wts.converted ++ [i] from rfl, huw]
    simp only [List.contains_eq_any_beq, List.any_append, List.any_cons, List.any_nil, Bool.or_false, Bool.or_eq_false_iff, beq_eq_false_iff_ne]
    exact ⟨by simpa only [List.contains_eq_any_beq] using hjc, hne⟩

theorem execChunkConvert_tensor {s : State} {q : W64} {rest : List W64} {i j off n m : Nat} {e : ChunkEntry} {d : List Byte} {ws : Writes}
    {bad : Bool} {ts : List TensorSeen} (hs : sound s) (h : Posted s q rest i off e) (ht : e.template = false) (hz : e.zstd = false)
    (hd : d = (s.peek (s.num O.stagingBase + off) e.bytes).1) (hx : sha3 d = e.digest) (hc : convertTensor d = .ok (ws, n, m, bad))
    (hn : n = e.outBytes) (hts : tensorStep s.wts.tensors (e.tensor + 2 ^ 32 * e.shard) i d m bad = some ts)
    (hj : j ∈ s.loadChunks) (hne : j ≠ i) (hjc : s.wts.converted.contains j = false) :
    ∃ t, exec .chunkConvert s = .next t ∧ t.mem = ((s.partsOf e).foldl (fun u part => u.writePart (s.areaBase (if part then (s.wts.copy s.wts.slot).twin
        else (s.wts.copy s.wts.slot).own) + (chunkHead d).dest) ws) s).mem ∧
      t.wts.converted = s.wts.converted ++ [i] ∧ t.wts.posts = rest ∧ t.wts.load = .active ∧
      t.num O.loadReleased = (s.num O.loadReleased + 1) % 2 ^ 32 := by
  obtain ⟨l, put, he⟩ := chunkConvert_tensor hs h ht hz hd hx hc hn hts hj hne hjc
  have hsu : sound (s.readChunk rest l) := hs
  obtain ⟨kl, -, -, kp, kn⟩ := State.chunkWritten_kept hsu i e d ws ts put
  refine ⟨_, exec_next_of_eq rfl he, ?_, rfl, kp, kl.trans h.load, ?_⟩
  · rw [State.writeParts_eq (base := fun _ => s.areaBase) (fun _ => rfl) (s.wts.copy s.wts.slot) (chunkHead d).dest ws (s.partsOf e) hs]
    exact (writeParts_stores s.oddNow s.areaBase (s.wts.copy s.wts.slot) (chunkHead d).dest ws (s.partsOf e)).mem hs (State.readChunk_same s rest l)
  · rw [State.bump, State.num_setNum_same, kn]
    rfl

/-- CHUNK_CONVERT of a chunk whose bytes do not have its digest. -/
theorem chunkConvert_differs {s : State} {q : W64} {rest : List W64} {i off : Nat} {e : ChunkEntry} (hs : sound s) (h : Posted s q rest i off e)
    (hx : sha3 (s.peek (s.num O.stagingBase + off) e.bytes).1 ≠ e.digest) :
    ∃ l, chunkConvert s = (s.readChunk rest l).abortLoad 6 i :=
  ⟨_, (chunkConvert_posted hs h).trans (State.takeChunk_differs hx)⟩

/-- Settles O24: the manifest's checks decide a start, and a chunk converted is written in a sound memory, which leaves alone what says
which chunks are still due. -/
theorem tannery : Obligations.Tannery := by
  unfold Obligations.Tannery
  refine ⟨fun s p v m ab hs h hi hf hst hm he hfr h1 h2 hmb hab => ?_, fun s p v h => ⟨fun hl => ?_, fun hl => ?_⟩, fun s p v h hl => ?_,
    fun s q rest i j off e d ws n m bad ts hs hp hl hi ho hk he hw hf ht hz hd hx hc hn hts hj hne hjc =>
      execChunkConvert_tensor hs ⟨hp, hl, hi, ho, hk, he, hw, hf⟩ ht hz hd hx hc hn hts hj hne hjc,
    fun s q rest i off e hs hp hl hi ho hk he hw hf hx => ?_⟩
  · have hload := State.loadStart_full hs ⟨hi, hf, hst, hm, he, hfr⟩ rfl rfl h1 h2
    rw [← hmb] at hload
    replace hab : ab = s.areasFor m := hab
    by_cases hz : s.manifestStatus m = 0 ∧ ab.isSome = true
    · obtain ⟨⟨a, b⟩, hsome⟩ := Option.isSome_iff_exists.1 hz.2
      obtain ⟨t, ht, hwt, hs0, hd0, hr0, hc⟩ := execLoadStart_begun h hload hz.1 (hab.symm.trans hsome)
      simp only [if_pos hz]
      exact ⟨t, ht, by rw [hwt], hd0, by rw [hwt], by rw [hwt], by rw [hwt]; rfl, by rw [hwt, hsome]; rfl, by rw [hwt]; rfl, hs0, hr0, hc⟩
    · obtain ⟨t, ht, hwt, hs0, hd0, hc⟩ := execLoadStart_refused h hload (by rw [← hab]; exact hz)
      simp only [if_neg hz]
      exact ⟨t, ht, by rw [hwt], hd0, hwt, hs0, hc⟩
  · rw [execLoadPost_eq h, State.loadPost_taken v hl]
  · rw [execLoadPost_eq h, State.loadPost_ignored v.toNat hl]
  · have ha := State.abortLoad_spec hl 0x0C 0
    exact ⟨_, execLoadAbort_eq h, by rw [State.noteResult_wts, ha.load], by rw [State.noteResult_wts, ha.slot], by rw [State.noteResult_wts, ha.posts],
      by rw [State.num_noteResult, ha.status], ha.frame.within.then (State.noteResult_changes ..)⟩
  · obtain ⟨l, he'⟩ := chunkConvert_differs hs ⟨hp, hl, hi, ho, hk, he, hw, hf⟩ hx
    have ha := State.abortLoad_spec (s := s.readChunk rest l) (by rw [show (s.readChunk rest l).wts.load = _ from hl]; rfl) 6 i
    exact ⟨_, exec_next_of_eq rfl he', ha.load, ha.status, ha.detail, ha.slot, ha.frame.2 .mem (by decide)⟩

end Sys2Proof.Machine

/-! PROOF. What no write of memory, no fault and no event does to the courses under way: each stream keeps whether a course runs, its
number, its start and its copy, and the course clock keeps its tick (02 R53 to R77). -/

namespace Sys2Proof.Machine

/-- What a stream's course under way is: whether one runs, its number, its start tick and the slot of its copy. -/
def Stream.lane (st : Stream) : Bool × W64 × Tick × Nat := (st.running, st.course, st.startT, st.copySlot)

/-- Both streams' courses under way are the same, and so is the tick. -/
structure Lane (s t : State) : Prop where
  own : t.crs.own.lane = s.crs.own.lane
  covered : t.crs.covered.lane = s.crs.covered.lane
  tick : t.clk.tick = s.clk.tick

theorem Lane.refl (s : State) : Lane s s := ⟨rfl, rfl, rfl⟩

theorem Lane.trans {s t u : State} (h : Lane s t) (k : Lane t u) : Lane s u :=
  ⟨k.own.trans h.own, k.covered.trans h.covered, k.tick.trans h.tick⟩

theorem Lane.of {s t : State} (h : t.crs = s.crs) (k : t.clk = s.clk) : Lane s t := ⟨by rw [h], by rw [h], by rw [k]⟩

theorem Lane.ite {s a b : State} {c : Prop} [Decidable c] (ha : Lane s a) (hb : Lane s b) : Lane s (if c then a else b) := by
  split <;> assumption

/-- A fold whose accumulator holds a state. -/
theorem Lane.fold {α β : Type} (p : β → State) {f : β → α → β} (h : ∀ b x, Lane (p b) (p (f b x))) (l : List α) :
    ∀ (b : β), Lane (p b) (p (l.foldl f b)) := by
  induction l with
  | nil => exact fun b => Lane.refl _
  | cons x l ih => exact fun b => (h b x).trans (ih _)

theorem Lane.foldl {α : Type} {f : State → α → State} (h : ∀ t x, Lane t (f t x)) (l : List α) (t : State) : Lane t (l.foldl f t) :=
  Lane.fold (fun t => t) h l t

theorem Lane.streamOf {s t : State} (h : Lane s t) (c : Bool) : (t.streamOf c).lane = (s.streamOf c).lane := by
  cases c
  · exact h.own
  · exact h.covered

/-! ### Objects, outputs, faults and events -/

theorem State.setNum_lane (s : State) (o : Obj) (v : Nat) : Lane s (s.setNum o v) := Lane.of rfl rfl
theorem State.bump_lane (s : State) (o : Obj) (w n : Nat) : Lane s (s.bump o w n) := Lane.of rfl rfl
theorem State.send_lane (s : State) (d : Node) (b : Body) : Lane s (s.send d b) := Lane.of rfl rfl
theorem State.emit_lane (s : State) (m : OutMsg) : Lane s (s.emit m) := Lane.of rfl rfl
theorem State.raise_lane (s : State) (source part kind cls addr : Nat) : Lane s (s.raise source part kind cls addr) := Lane.of (by simp) (by simp)
theorem State.icxEvent_lane (s : State) (n : Nat) : Lane s (s.icxEvent n) := Lane.of (by simp) (by simp)
theorem State.drawNat_lane (s : State) : Lane s s.drawNat.2 := Lane.of rfl rfl
theorem State.schedule_lane (s : State) (due : Tick) (e : Ev) : Lane s (s.schedule due e) := ⟨rfl, rfl, rfl⟩
theorem State.unschedule_lane (s : State) (p : Ev → Bool) : Lane s (s.unschedule p) := ⟨rfl, rfl, rfl⟩
theorem State.endSessions_lane (s : State) (p : Nat → Session → Bool) (code : Nat) : Lane s (s.endSessions p code) := Lane.of rfl rfl

theorem State.setCnum_lane (s : State) (c : Bool) (o : Obj) (v : Nat) : Lane s (s.setCnum c o v) := Lane.ite (Lane.of rfl rfl) (State.setNum_lane ..)
theorem State.addCnum_lane (s : State) (c : Bool) (o : Obj) (n : Nat) : Lane s (s.addCnum c o n) := State.setCnum_lane ..
theorem State.setHodNum_lane (s : State) (k : Nat) (o : Nat → Obj) (v : Nat) : Lane s (s.setHodNum k o v) := State.setCnum_lane ..
theorem State.setHodRt_lane (s : State) (k : Nat) (r : HodRt) : Lane s (s.setHodRt k r) := ⟨rfl, rfl, rfl⟩

/-- A stream replaced by one with the same course under way. -/
theorem State.setStream_lane {s : State} {c : Bool} {st : Stream} (h : st.lane = (s.streamOf c).lane) : Lane s (s.setStream c st) := by
  cases c
  · exact ⟨h, rfl, rfl⟩
  · exact ⟨rfl, h, rfl⟩

/-! ### A transition to DRAINING -/

theorem State.enterDraining_lane (s : State) : Lane s (s.enter .draining) := Lane.of (by simp [State.enter]) (State.enterDraining_aside s).clk

theorem State.drain_lane (s : State) : Lane s (s.transition .draining) := by
  unfold State.transition
  extract_lets +onlyGivenNames p
  have h : ∀ q, Lane s { s.enter .draining with pkg := q } := fun q => (State.enterDraining_lane s).trans (Lane.of rfl rfl)
  split
  · exact Lane.ite (Lane.ite (h _) (Lane.refl s)) (Lane.ite (h _) (Lane.refl s))
  · extract_lets o
    exact Lane.ite (h _) (Lane.refl s)

theorem State.shardLost_lane (s : State) (n : Node) (l : List Node) (c : Bool) : Lane s (s.shardLost n l c) := by
  unfold State.shardLost
  extract_lets a b d
  have hd : Lane s d := (((Lane.foldl (fun t _ => State.send_lane t _ _) _ s).trans (State.raise_lane ..)).trans (State.icxEvent_lane ..)).trans
    (State.endSessions_lane ..)
  exact Lane.ite (hd.trans (State.drain_lane d)) hd

/-! ### Memory -/

theorem State.tally_lane (s : State) (a b c : Nat) : Lane s (s.tally a b c) := Lane.of rfl rfl
theorem State.storeWord_lane (s : State) (w : Nat) (d : List Byte) (tag : BitVec 16) : Lane s (s.storeWord w d tag) := Lane.of rfl rfl
theorem State.storePoison_lane (s : State) (w : Nat) (d : List Byte) (tag : BitVec 16) : Lane s (s.storePoison w d tag) := Lane.of rfl rfl
theorem State.dropEntry_lane (s : State) (w : Nat) : Lane s (s.dropEntry w) := Lane.of rfl rfl

theorem State.hbmRecord_lane (s : State) (w typ source syn : Nat) : Lane s (s.hbmRecord w typ source syn) := by
  unfold State.hbmRecord
  extract_lets x seq r
  clear_value r
  with_reducible refine Lane.trans ?_ (State.icxEvent_lane _ _)
  exact Lane.of rfl rfl

theorem State.correctWord_lane (s : State) (w source : Nat) (r : Reading) (again : RawRead) : Lane s (s.correctWord w source r again) :=
  ((State.bump_lane ..).trans (State.storeWord_lane ..)).trans (State.hbmRecord_lane ..)

theorem State.poisonWord_lane (s : State) (w : Nat) (d : List Byte) (source : Nat) : Lane s (s.poisonWord w d source) := by
  unfold State.poisonWord
  with_reducible exact ((State.storePoison_lane ..).trans (State.bump_lane _ O.poisoned 32 1)).trans (State.hbmRecord_lane _ w 6 source 0)

theorem State.memFault_lane (s : State) (w kind cls : Nat) : Lane s (s.memFault w kind cls) := State.raise_lane ..

theorem State.unrecovered_lane (s : State) (w : Nat) : Lane s (s.unrecovered w) := by
  unfold State.unrecovered
  have h := State.memFault_lane s w 0x42 2
  dsimp only
  generalize s.memFault w 0x42 2 = t at h ⊢
  split
  · exact Lane.ite (h.trans (State.shardLost_lane ..)) (h.trans (State.shardLost_lane ..))
  · exact h.trans (State.shardLost_lane ..)
  · exact h.trans (State.shardLost_lane ..)

theorem State.badWord_lane (s : State) (w source : Nat) (who : Option Requester) (r r2 : Reading) : Lane s (s.badWord w source who r r2).2 := by
  unfold State.badWord
  extract_lets +onlyGivenNames addrType
  split
  · exact (State.bump_lane ..).trans (State.memFault_lane ..)
  · extract_lets +onlyGivenNames a ch second b
    have ha : Lane s a := State.bump_lane ..
    have hb : Lane s b := ha.trans (Lane.ite (State.bump_lane ..) (Lane.refl a))
    clear_value b second
    split
    · exact hb.trans (State.memFault_lane ..)
    · extract_lets +onlyGivenNames m d
      have hd : Lane s d := hb.trans (Lane.ite (Lane.of rfl rfl) (Lane.refl b))
      clear_value d
      split
      · split
        · with_reducible exact (hd.trans (State.poisonWord_lane d w r.data source)).trans (State.unrecovered_lane _ w)
        · extract_lets g asked x m e
          have he : Lane s e := Lane.ite hd (hd.trans (Lane.of rfl rfl))
          clear_value e
          exact Lane.ite he (he.trans (State.send_lane ..))
      · with_reducible exact (hd.trans (State.poisonWord_lane d w r.data source)).trans (State.memFault_lane _ w 0x41 1)

theorem State.readPath_lane (s : State) (w source : Nat) (who : Option Requester) (a b : RawRead) : Lane s (s.readPath w source who a b).2 := by
  unfold State.readPath
  have h := State.tally_lane s 32 0 0
  extract_lets +onlyGivenNames u r
  have h : Lane s u := h
  clear_value u
  split
  · exact h
  · exact h.trans (State.correctWord_lane ..)
  · extract_lets +onlyGivenNames v r2
    have k : Lane s v := h.trans (State.hbmRecord_lane ..)
    clear_value v
    split
    · exact (k.trans (State.bump_lane ..)).trans (State.memFault_lane ..)
    · exact ((k.trans (State.bump_lane ..)).trans (State.memFault_lane ..)).trans (State.correctWord_lane ..)
    · exact (k.trans (State.hbmRecord_lane ..)).trans (State.badWord_lane ..)

theorem State.storeMerged_lane (s : State) (e : MergeEntry) : Lane s (s.storeMerged e) := (State.dropEntry_lane ..).trans (State.storePoison_lane ..)

theorem State.flushEntry_lane (s : State) (e : MergeEntry) (a b : RawRead) : Lane s (s.flushEntry e a b) := by
  unfold State.flushEntry
  have h := State.readPath_lane s e.word 1 none a b
  split <;> rename_i x <;> rw [x] at h
  · exact (h.trans (State.dropEntry_lane ..)).trans (State.storeWord_lane ..)
  · exact h
  · exact h.trans (State.storeMerged_lane ..)
  · exact ((h.trans (State.storeMerged_lane ..)).trans (State.bump_lane ..)).trans (State.hbmRecord_lane ..)

theorem State.openEntry_lane (s : State) (e : MergeEntry) : Lane s (s.openEntry e) := by
  unfold State.openEntry
  extract_lets st add t
  have ha : ∀ t, Lane t (add t) := fun t => Lane.of rfl rfl
  have ht : Lane s t := Lane.foldl (fun u x => Lane.ite (Lane.refl u) (State.flushEntry_lane ..)) _ s
  exact Lane.ite (ha s) (Lane.ite (ht.trans (ha t)) (ht.trans (State.flushEntry_lane ..)))

theorem State.writeWord_lane (s : State) (w off : Nat) (d : List Byte) (tag : BitVec 16) : Lane s (s.writeWord w off d tag) := by
  unfold State.writeWord
  extract_lets old e st
  have hs : ∀ d tag, Lane s ((s.dropEntry w).storeWord w d tag) := fun _ _ => (State.dropEntry_lane ..).trans (State.storeWord_lane ..)
  exact Lane.ite (hs ..) (Lane.ite (hs ..) (Lane.ite (Lane.of rfl rfl) (State.openEntry_lane ..)))

theorem State.hbmPut_lane (s : State) (a : Nat) (d : List Byte) (tag : BitVec 16) : Lane s (s.hbmPut a d tag) :=
  (State.tally_lane ..).trans (Lane.foldl (fun t (x : Nat × Nat × List Byte) => State.writeWord_lane t x.1 x.2.1 x.2.2 tag) _ _)

theorem State.poke_lane (s : State) (a : Nat) (d : List Byte) : Lane s (s.poke a d) := Lane.ite (Lane.of rfl rfl) (State.hbmPut_lane ..)

theorem State.readBad_lane (s : State) (l : List (Nat × Nat)) : Lane s (s.readBad l) :=
  (Lane.foldl (fun _ _ => State.readPath_lane ..) _ s).trans (State.tally_lane ..)

/-! ### Sessions -/

theorem State.putSession_lane (s : State) (slot : Nat) (x : Session) : Lane s (s.putSession slot x) :=
  Lane.trans (t := { s with ses := { s.ses with table := SMap.set {} s.ses.table slot x } }) (Lane.of rfl rfl) (State.poke_lane ..)

theorem State.editSession_lane (s : State) (slot : Nat) (f : Session → Session) : Lane s (s.editSession slot f) := State.putSession_lane ..

theorem State.freeDescriptor_lane (s : State) (slot reason : Nat) : Lane s (s.freeDescriptor slot reason) :=
  Lane.trans (t := { s with ses := { s.ses with table := SMap.set {} s.ses.table slot {} } }) (Lane.of rfl rfl) (State.poke_lane ..)

theorem State.putStrip_lane (s : State) (slot : Nat) (p : Strip) : Lane s (s.putStrip slot p) :=
  Lane.trans (t := { s with ses := { s.ses with table := SMap.set {} s.ses.table slot { s.session slot with strip := p } } }) (Lane.of rfl rfl)
    (State.poke_lane ..)

theorem State.dropStrip_lane (s : State) (slot : Nat) : Lane s (s.dropStrip slot) := State.putStrip_lane ..

theorem State.putPage_lane (s : State) (slot : Nat) (draft : Bool) (layer page : Nat) (e : PageEntry) : Lane s (s.putPage slot draft layer page e) := by
  unfold State.putPage
  extract_lets x r r' y src u
  have hu : Lane s u := Lane.trans (t := { s with ses := { s.ses with table := SMap.set {} s.ses.table slot y } }) (Lane.of rfl rfl) (State.poke_lane ..)
  exact Lane.ite hu (hu.trans (State.poke_lane ..))

theorem State.newSlot_lane (s : State) (c : Bool) (tenant : Nat) (far : Bool) (n : Nat) (more : List (Nat × Nat)) :
    Lane s (s.newSlot c tenant far n more).2 := Lane.of rfl rfl

theorem State.newPlaces_lane (s : State) (c : Bool) (tenant : Nat) (m d : Root) (rej : Bool) : Lane s (s.newPlaces c tenant m d rej).2 := Lane.of rfl rfl

theorem State.givePage_lane (s : State) (slot : Nat) (draft : Bool) (layer page : Nat) : Lane s (s.givePage slot draft layer page) := by
  unfold State.givePage
  extract_lets x a t
  have ht : Lane s t := Lane.trans (t := a.2) (State.newSlot_lane ..) (State.putPage_lane ..)
  exact ht.trans (State.editSession_lane ..)

theorem State.pokePages_lane (s : State) (r : Root) : Lane s (s.pokePages r) := Lane.foldl (fun _ _ => State.poke_lane ..) _ s

theorem State.newSession_lane (s : State) (slot : Nat) (x : Session) (t : Template) (count : Nat) : Lane s (s.newSession slot x t count) :=
  ((State.newPlaces_lane ..).trans (State.putSession_lane ..)).trans (State.putStrip_lane ..)

theorem State.countMoved_lane (s : State) (x : Session) (n : Nat) : Lane s (s.countMoved x n) := Lane.of rfl rfl

end Sys2Proof.Machine

/-! PROOF. Grants and what they make ready leave the courses under way as they are (04 R126 to R132). -/

namespace Sys2Proof.Machine

theorem State.setParity_lane (s : State) (c odd : Bool) (p : Parity) : Lane s (s.setParity c odd p) := by
  cases c <;> cases odd <;> exact Lane.of rfl rfl

theorem State.setWord_lane (s : State) (c odd : Bool) (inst : Nat) (w : InstWord) : Lane s (s.setWord c odd inst w) := State.setParity_lane ..
theorem State.setCore_lane (s : State) (g : Nat) (c : Core) : Lane s (s.setCore g c) := Lane.of rfl rfl
theorem State.setOverflow_lane (s : State) (q : Nat) (l : List Entry) : Lane s (s.setOverflow q l) := Lane.of rfl rfl

theorem State.prepare_lane (s : State) (c : Bool) (course : W64) (slot : Nat) : Lane s (s.prepare c course slot) := by
  unfold State.prepare
  extract_lets src u
  exact Lane.trans (t := u) (Lane.of rfl rfl) (State.setParity_lane ..)

theorem State.keepUnplaced_lane (s : State) (c odd : Bool) (inst q : Nat) : Lane s (s.keepUnplaced c odd inst q) :=
  (State.setWord_lane ..).trans (State.setParity_lane ..)

theorem State.pushTo_lane (s : State) (c odd : Bool) (inst g : Nat) (h : g < 384) : Lane s (s.pushTo c odd inst g h) :=
  Lane.ite ((State.setWord_lane ..).trans (State.setCore_lane ..))
    (Lane.ite ((State.setWord_lane ..).trans (State.setOverflow_lane ..)) (State.keepUnplaced_lane ..))

theorem State.place_lane (s : State) (c odd : Bool) (inst : Nat) (cause : Option Nat) : Lane s (s.place c odd inst cause) := by
  unfold State.place
  extract_lets target
  clear_value target
  split
  · exact State.keepUnplaced_lane ..
  · split
    · exact State.pushTo_lane ..
    · exact Lane.refl s

theorem State.noteRows_lane (s : State) (c odd : Bool) (d : Descriptor) (i n : Nat) : Lane s (s.noteRows c odd d i n) :=
  Lane.foldl (fun t _ => Lane.ite (State.setParity_lane ..) (Lane.refl t)) _ s

theorem State.applyMask_lane (s : State) (c odd : Bool) (d : Descriptor) (i : Nat) : Lane s (s.applyMask c odd d i) :=
  Lane.foldl (fun t k => by
    extract_lets p all u
    have hu : Lane t u := State.setParity_lane ..
    exact Lane.ite (hu.trans (State.bump_lane ..)) hu) _ s

theorem State.applyVerify_lane (s : State) (c : Bool) : Lane s (s.applyVerify c) := Lane.foldl (fun _ _ => State.editSession_lane ..) _ s

theorem State.sendMember_lane (s : State) (c : Bool) (dest : Node) (course : W64) (b : Body) : Lane s (s.sendMember c dest course b) := by
  unfold State.sendMember
  extract_lets u
  have hu : Lane s u := State.send_lane ..
  exact Lane.ite hu (hu.trans (Lane.of rfl rfl))

theorem State.emptyMarkers_lane (s : State) (c odd : Bool) (d : Descriptor) (i inst : Nat) : Lane s (s.emptyMarkers c odd d i inst) := by
  unfold State.emptyMarkers
  extract_lets course me
  split
  · refine Lane.foldl (fun t k => ?_) _ s
    dsimp only
    split
    · exact Lane.refl t
    · exact State.sendMember_lane ..
  · exact State.sendMember_lane ..
  · exact State.send_lane ..
  · exact Lane.foldl (fun _ _ => State.sendMember_lane ..) _ s
  · exact Lane.refl s

theorem State.sendOut_lane (s : State) (course : W64) (x : Sending) : Lane s (s.sendOut course x) := by
  unfold State.sendOut
  extract_lets u v
  have hu : Lane s u := State.tally_lane ..
  have hv : Lane s v := hu.trans (Lane.ite (State.sendMember_lane ..) (State.send_lane ..))
  clear_value v
  split
  · exact hv.trans (State.editSession_lane ..)
  · exact hv

theorem State.flushOut_lane (s : State) (c odd : Bool) (inst : Nat) : Lane s (s.flushOut c odd inst) :=
  Lane.trans (t := s.putOut c odd inst []) (Lane.of rfl rfl) (Lane.foldl (fun _ _ => State.sendOut_lane ..) _ _)

theorem State.retireEffects_lane (s : State) (c odd : Bool) (d : Descriptor) (i inst : Nat) (zero : Bool) :
    Lane s (s.retireEffects c odd d i inst zero) := by
  unfold State.retireEffects
  extract_lets course
  split
  · rename_i u _ _ _
    have hu : Lane s u := Lane.ite (Lane.foldl (fun _ _ => State.sendMember_lane ..) _ s) (Lane.refl s)
    exact Lane.ite (hu.trans (State.setStream_lane rfl)) hu
  · exact State.applyVerify_lane ..
  · exact State.applyMask_lane ..
  · exact Lane.ite (State.emptyMarkers_lane ..) (Lane.foldl (fun _ _ => State.sendMember_lane ..) _ s)
  · exact Lane.ite (State.emptyMarkers_lane ..) (State.flushOut_lane ..)

theorem State.retire_lane (s : State) (c odd : Bool) (d : Descriptor) (i inst : Nat) (zero : Bool) (cause : Option Nat) :
    Lane s (s.retire c odd d i inst zero cause).1 := by
  unfold State.retire
  extract_lets src u v
  have hu : Lane s u := State.setWord_lane ..
  have hv : Lane s v := hu.trans (Lane.ite (State.noteRows_lane ..) (Lane.refl u))
  exact hv.trans (State.retireEffects_lane ..)

theorem State.ready_lane (s : State) (c odd : Bool) (inst : Nat) (cause : Option Nat) : Lane s (s.ready c odd inst cause).1 := by
  unfold State.ready
  split
  · exact State.keepUnplaced_lane ..
  · split
    · exact Lane.refl s
    · split
      · exact State.retire_lane ..
      · exact State.place_lane ..

theorem State.meetWait_lane (s : State) (c odd : Bool) (inst : Nat) (cause : Option Nat) : Lane s (s.meetWait c odd inst cause).1 := by
  unfold State.meetWait
  extract_lets w u
  have hu : Lane s u := State.setWord_lane ..
  split
  · exact hu.trans (State.ready_lane ..)
  · exact hu

theorem State.applyGrant_lane (s : State) (g : GrantWork) : Lane s (s.applyGrant g).1 := by
  unfold State.applyGrant
  extract_lets p old new u v
  have hu : Lane s u := State.setParity_lane ..
  have hv : Lane s v := hu.trans (Lane.ite (State.raise_lane ..) (Lane.refl u))
  refine hv.trans (Lane.fold Prod.fst (fun acc w => ?_) _ (v, []))
  exact State.meetWait_lane ..

theorem State.pump_lane : ∀ (n : Nat) (l : List GrantWork) (s : State), Lane s (State.pump n l s)
  | 0, _, s => Lane.refl s
  | _ + 1, [], s => Lane.refl s
  | n + 1, g :: r, s => (State.applyGrant_lane s g).trans (State.pump_lane n (r ++ (s.applyGrant g).2) _)

theorem State.grants_lane (s : State) (l : List GrantWork) : Lane s (s.grants l) := by
  unfold State.grants
  split
  · exact Lane.refl s
  · exact State.pump_lane ..

theorem State.prepareOn_lane (s : State) (c : Bool) (course : W64) (slot : Nat) : Lane s (s.prepareOn c course slot) := by
  unfold State.prepareOn
  extract_lets odd p u
  exact Lane.ite (State.prepare_lane ..) (Lane.ite (Lane.refl s) (Lane.trans (t := u) (State.setParity_lane ..) (State.grants_lane ..)))

theorem State.beginCourse_lane (s : State) (c odd : Bool) : Lane s (s.beginCourse c odd) := by
  unfold State.beginCourse
  extract_lets t p waitless held u r
  have hu : Lane s u := State.setParity_lane ..
  have hr : Lane s r.1 := by
    refine hu.trans (Lane.fold Prod.fst (fun acc inst => ?_) _ (u, []))
    exact State.ready_lane ..
  exact hr.trans (State.grants_lane ..)

theorem State.openRows_lane (s : State) (c : Bool) : Lane s (s.openRows c) := Lane.foldl (fun _ _ => State.editSession_lane ..) _ s

theorem State.writeEmbeds_lane (s : State) (c : Bool) : Lane s (s.writeEmbeds c) := by
  unfold State.writeEmbeds
  extract_lets st odd hs
  refine Lane.foldl (fun t h => ?_) _ s
  split
  · exact Lane.refl t
  · exact Lane.ite (Lane.foldl (fun _ _ => State.poke_lane ..) _ t) (Lane.refl t)

/-- A stream's course has begun: what COURSE_START sets of the stream. -/
theorem State.startCourse_own (s : State) :
    (s.startCourse false).crs.own.lane = (true, s.crs.own.next, s.clk.tick, s.slotFor (s.crs.own.nextNominal.getD s.clk.tick)) ∧
      (s.startCourse false).clk.tick = s.clk.tick := by
  unfold State.startCourse
  extract_lets u v st nominal slot w x src0 src1 src2 y
  have hw : Lane s w := Lane.trans (t := v) ⟨rfl, rfl, rfl⟩ (State.prepareOn_lane ..)
  have hy : Lane y (((y.openRows false).writeEmbeds false).beginCourse false (oddOf st.next)) :=
    ((State.openRows_lane ..).trans (State.writeEmbeds_lane ..)).trans (State.beginCourse_lane ..)
  have hx : y.crs.own.lane = (true, s.crs.own.next, w.clk.tick, s.slotFor (s.crs.own.nextNominal.getD s.clk.tick)) := rfl
  exact ⟨hy.own.trans (by rw [hx, hw.tick]), hy.tick.trans hw.tick⟩

end Sys2Proof.Machine

/-! PROOF. Forming the next course leaves the courses under way as they are (02 R72; 08 R236 to R275). -/

namespace Sys2Proof.Machine

/-! ### Sampling at the cut-off -/

theorem State.consume_lane (s : State) (k : Nat) : Lane s (s.consume k) := State.setHodNum_lane ..

theorem State.rejectRecord_lane (s : State) (k : Nat) (tag : W64) (status seq : Nat) : Lane s (s.rejectRecord k tag status seq) := by
  unfold State.rejectRecord
  extract_lets rt u
  have hu : Lane s u := State.setHodRt_lane ..
  exact (hu.trans (State.setHodNum_lane ..)).trans (State.icxEvent_lane ..)

theorem State.takeRecord_lane (s : State) (k seq : Nat) (body : List Byte) (p q : Bool) : Lane s (s.takeRecord k seq body p q) := by
  unfold State.takeRecord
  extract_lets covered src r st src2 u
  have hu : Lane s u := (State.consume_lane ..).trans (State.setHodRt_lane ..)
  exact Lane.ite (hu.trans (State.rejectRecord_lane ..)) (hu.trans ⟨rfl, rfl, rfl⟩)

theorem State.torn_lane (s : State) (k seq : Nat) : Lane s (s.torn k seq) := by
  unfold State.torn
  extract_lets rt
  split
  · exact State.setHodRt_lane ..
  · exact Lane.ite ((State.consume_lane ..).trans (State.rejectRecord_lane ..)) (Lane.refl s)

theorem State.sampleLoop_lane : ∀ (n k : Nat) (s : State), Lane s (State.sampleLoop n k s)
  | 0, _, s => Lane.refl s
  | n + 1, k, s => by
    rw [State.sampleLoop]
    dsimp only
    split
    · exact ((State.readBad_lane ..).trans (State.takeRecord_lane ..)).trans (State.sampleLoop_lane n k _)
    · exact Lane.ite ((State.readBad_lane ..).trans (State.torn_lane ..)) (State.setHodRt_lane ..)

theorem State.sampleHod_lane (s : State) (k : Nat) : Lane s (s.sampleHod k) :=
  Lane.ite (Lane.refl s) ((State.setHodRt_lane ..).trans (State.sampleLoop_lane ..))

/-! ### Admission and splices -/

theorem State.admitOne_lane (s : State) (c : Bool) (t : Template) (opened : List Nat) (r : TakenRec) : Lane s (s.admitOne c t opened r).1 := by
  unfold State.admitOne
  extract_lets rt u slot st rt2
  have hu : Lane s u := State.setHodRt_lane ..
  clear_value u slot
  split
  · exact hu.trans (State.setHodRt_lane ..)
  · split
    · exact hu.trans (State.newSession_lane u _ _ _ _)
    · dsimp only
      exact hu.trans (State.editSession_lane ..)
    · dsimp only
      exact (hu.trans (State.editSession_lane ..)).trans (State.dropStrip_lane ..)
    · exact hu

theorem State.admitAll_lane (s : State) (c : Bool) (t : Template) : Lane s (s.admitAll c t).1 := by
  unfold State.admitAll
  extract_lets mine src u
  have hu : Lane s u := ⟨rfl, rfl, rfl⟩
  exact hu.trans (Lane.fold Prod.fst (fun acc r => State.admitOne_lane acc.1 c t acc.2 r) _ (u, []))

theorem State.applySplice_lane (s : State) : Lane s s.applySplice := by
  unfold State.applySplice
  split
  · exact Lane.refl s
  · extract_lets src u tenant
    have hu : Lane s u := ⟨rfl, rfl, rfl⟩
    clear_value u
    split
    · dsimp only
      exact Lane.ite hu (((((((hu.trans (State.putSession_lane ..)).trans (State.putSession_lane ..)).trans (State.pokePages_lane ..)).trans
        (State.pokePages_lane ..)).trans (State.dropStrip_lane ..)).trans (State.dropStrip_lane ..)).trans (State.icxEvent_lane ..))
    · exact hu

/-! ### Pauses and resumptions -/

theorem State.pause_lane (s : State) (t : Template) (slot : Nat) : Lane s (s.pause t slot) := by
  unfold State.pause
  dsimp only
  refine Lane.trans (Lane.trans ?_ (State.dropStrip_lane ..)) (State.icxEvent_lane ..)
  split
  · exact State.putSession_lane ..
  · exact (State.newSlot_lane s _ _ _ _ _).trans (State.putSession_lane ..)
  · exact State.putSession_lane ..

theorem State.pauseMemory_lane (s : State) (c : Bool) (t : Template) : Lane s (s.pauseMemory c t).1 := by
  unfold State.pauseMemory
  extract_lets low r
  have hr : Lane s r.1 := by
    refine Lane.fold (Prod.fst (α := State) (β := Nat × Nat)) (fun a cls => Lane.fold (Prod.fst (α := State) (β := Nat × Nat)) (fun b slot => ?_) _ a) _ (s, 0, 0)
    split
    · exact Lane.refl _
    · exact State.pause_lane b.1 t slot
  clear_value r
  split
  · exact Lane.refl s
  · exact hr

theorem State.pausePressure_lane (s : State) (c : Bool) (t : Template) (classes : List Nat) : Lane s (s.pausePressure c t classes).1 := by
  unfold State.pausePressure
  extract_lets st want r
  refine Lane.fold (Prod.fst (α := State) (β := Nat × Nat)) (fun a slot => ?_) _ (s, 0, 0)
  split
  · exact Lane.refl _
  · exact State.pause_lane ..

theorem State.pauses_lane (s : State) (c : Bool) (t : Template) (nominal : Tick) : Lane s (s.pauses c t nominal).1 := by
  unfold State.pauses
  extract_lets st p a b r m
  have hr : Lane s r.1 := by
    unfold r
    split
    · exact Lane.refl s
    · exact State.pausePressure_lane ..
  exact hr.trans (State.pauseMemory_lane ..)

theorem State.resumeSatchel_lane (s : State) (t : Template) (slot : Nat) : Lane s (s.resumeSatchel t slot) := by
  unfold State.resumeSatchel
  extract_lets x a b u
  have hu : Lane s u := State.readBad_lane ..
  clear_value u
  exact Lane.ite (hu.trans (State.editSession_lane ..)) (((hu.trans (State.newPlaces_lane u _ _ _ _ _)).trans (State.putSession_lane ..)).trans
    (State.dropStrip_lane ..))

theorem State.resume_lane (s : State) (t : Template) (slot : Nat) : Lane s (s.resume t slot) :=
  Lane.ite (State.resumeSatchel_lane ..) (State.putSession_lane ..)

theorem State.resumes_lane (s : State) (c : Bool) (t : Template) (nominal : Tick) : Lane s (s.resumes c t nominal) := by
  unfold State.resumes
  extract_lets st
  split
  · exact Lane.refl s
  · extract_lets mine
    refine Lane.ite (Lane.refl s) (Lane.fold (Prod.fst (α := State) (β := Nat × Nat)) (fun a e => ?_) _ (s, 0, 0))
    split
    · exact Lane.refl _
    · exact State.resume_lane ..

theorem State.endFeeding_lane (s : State) (c : Bool) : Lane s (s.endFeeding c) := Lane.foldl (fun _ _ => State.editSession_lane ..) _ s

theorem State.quotaPass_lane (s : State) (c : Bool) (t : Template) (cands : List Nat) : Lane s (s.quotaPass c t cands).1 := by
  unfold State.quotaPass
  extract_lets r
  refine Lane.fold (Prod.fst (α := State) (β := List (Nat × Nat) × Nat × SMap Nat)) (fun a slot => ?_) _ (s, [], 0, [])
  extract_lets x p used ok n u vs
  have hu : Lane a.1 u := State.editSession_lane ..
  split
  · exact Lane.refl _
  · split
    · exact Lane.refl _
    · exact hu.trans (Lane.foldl (fun _ _ => State.pause_lane ..) _ u)

/-! ### The rows of a course -/

theorem State.tokenAt_lane (s : State) (a : W64) : Lane s (s.tokenAt a).2 := by
  unfold State.tokenAt
  extract_lets n l d
  split
  · exact State.readBad_lane ..
  · split
    · exact State.readBad_lane ..
    · exact State.drawNat_lane s

theorem State.takeInput_lane : ∀ (n : Nat) (x : Session) (s : State), Lane s (State.takeInput n x s).2.2
  | 0, _, s => Lane.refl s
  | n + 1, x, s => by
    rw [State.takeInput]
    split
    · exact State.takeInput_lane n _ s
    · exact Lane.refl s
    · exact (State.tokenAt_lane ..).trans (State.takeInput_lane n _ _)

theorem State.giveSlots_lane (s : State) (slot n : Nat) : Lane s (s.giveSlots slot n) :=
  Lane.foldl (fun t draft => Lane.foldl (fun u l => Lane.foldl (fun v j => State.givePage_lane v slot draft l j) _ u) _ t) _ s

theorem State.giveSealed_lane (s : State) (c : Bool) (slot : Nat) : Lane s (s.giveSealed c slot) :=
  Lane.foldl (fun t draft => Lane.foldl (fun u p => by
    extract_lets x a st
    have ha : Lane u a.2 := State.newSlot_lane ..
    exact ha.trans (State.setStream_lane rfl)) _ t) _ s

theorem State.formSession_lane (s : State) (c : Bool) (k : Nat) (p : Plan) : Lane s (s.formSession c k p).1 := by
  unfold State.formSession
  extract_lets u x r toks src y
  have hu : Lane s u := (State.giveSlots_lane ..).trans (State.giveSealed_lane ..)
  have hr : Lane s r.2.2 := hu.trans (State.takeInput_lane ..)
  exact hr.trans (State.putSession_lane ..)

theorem State.writeTokens_lane (s : State) (c : Bool) (course : W64) (rows : List TokenRow) : Lane s (s.writeTokens c course rows) :=
  Lane.foldl (fun _ _ => State.poke_lane ..) _ s

theorem State.parkPlan_lane (s : State) (c : Bool) : Lane s (s.parkPlan c).1 := by
  unfold State.parkPlan
  extract_lets all
  refine Lane.fold Prod.fst (fun a x => ?_) _ (s, [])
  dsimp only
  exact State.newSlot_lane ..

theorem State.form_lane (s : State) (c : Bool) : Lane s (s.form c) := by
  unfold State.form
  extract_lets st nominal t s1 s2 a b s3 s4 cands q s5 cands2 s6 plans plans2 f rows pk s7 paused
  have h1 : Lane s s1 := Lane.foldl State.sampleHod_lane _ s
  have h2 : Lane s s2 := h1.trans (Lane.ite (Lane.refl s1) (State.applySplice_lane s1))
  have hb : Lane s b.1 := (h2.trans (State.admitAll_lane ..)).trans (State.pauses_lane ..)
  have h4 : Lane s s4 := (hb.trans (Lane.ite (State.resumes_lane ..) (Lane.refl _))).trans (State.endFeeding_lane ..)
  have h6 : Lane s s6 := (h4.trans (State.quotaPass_lane ..)).trans (State.readBad_lane ..)
  have hf : Lane s f.1 := by
    refine h6.trans (Lane.fold Prod.fst (fun acc p => ?_) _ (s6, []))
    dsimp only
    exact State.formSession_lane ..
  have h7 : Lane s s7 := (hf.trans (State.parkPlan_lane ..)).trans (State.writeTokens_lane ..)
  exact h7.trans (State.setStream_lane rfl)

/-! ### Planning -/

theorem State.countLate_lane (s : State) (c : Bool) : Lane s (s.countLate c) :=
  Lane.ite (Lane.refl s) (Lane.trans (t := s.setStream c { s.streamOf c with late := true }) (State.setStream_lane rfl) (State.bump_lane ..))

theorem State.planPreRamp_lane (s : State) (nominal : Tick) : Lane s (s.planPreRamp nominal) := Lane.ite (Lane.refl s) (State.schedule_lane ..)

theorem State.setNominal_lane (s : State) (c : Bool) (course : W64) (nominal : Tick) : Lane s (s.setNominal c course nominal) := by
  unfold State.setNominal
  extract_lets slot s1 src s2 s3 cut
  have h1 : Lane s s1 := State.unschedule_lane ..
  have h2 : Lane s s2 := h1.trans (State.setStream_lane rfl)
  have h3 : Lane s s3 := (h2.trans (State.prepareOn_lane ..)).trans (State.planPreRamp_lane ..)
  clear_value s3
  exact Lane.ite ((h3.trans (State.schedule_lane ..)).trans (State.schedule_lane ..))
    (((h3.trans (State.countLate_lane ..)).trans (State.form_lane ..)).trans (State.schedule_lane ..))

theorem State.planNext_lane (s : State) (c : Bool) : Lane s (s.planNext c) := by
  unfold State.planNext
  extract_lets st need lead marks
  refine Lane.ite (Lane.refl s) (Lane.ite ?_ (State.setNominal_lane ..))
  clear_value marks
  cases marks <;> exact State.setNominal_lane ..

end Sys2Proof.Machine

/-! PROOF. The close of a course ends the stream's course and leaves its number as it is (02 R65 to R77). -/

namespace Sys2Proof.Machine

/-! ### Return records, course record and accounting -/

theorem State.settleSlot_lane (s : State) (c : Bool) (slot : Nat) : Lane s (s.settleSlot c slot).1 := by
  unfold State.settleSlot
  dsimp only
  exact (Lane.ite (State.drawNat_lane s) (Lane.refl s)).trans (State.putSession_lane ..)

theorem State.settleAll_lane (s : State) (c : Bool) : Lane s (s.settleAll c).1 := by
  unfold State.settleAll
  refine Lane.fold Prod.fst (fun a slot => ?_) _ (s, [])
  exact State.settleSlot_lane a.1 c slot

theorem State.writeWaiting_lane : ∀ (n k : Nat) (s : State), Lane s (State.writeWaiting n k s)
  | 0, _, s => Lane.refl s
  | n + 1, k, s => by
    rw [State.writeWaiting]
    dsimp only
    split
    · exact Lane.refl s
    · exact Lane.ite (Lane.refl s) (((State.setHodRt_lane ..).trans (State.poke_lane ..)).trans (State.writeWaiting_lane n k _))

theorem State.stampRecord_lane (s : State) (course : W64) (close : Tick) (r : RetRec) : Lane s (s.stampRecord course close r).1 := by
  unfold State.stampRecord
  dsimp only
  split
  · exact Lane.refl s
  · exact State.drawNat_lane s

theorem State.stampAll_lane (s : State) (course : W64) (close : Tick) (l : List RetRec) : Lane s (s.stampAll course close l).1 := by
  unfold State.stampAll
  refine Lane.fold Prod.fst (fun a r => ?_) _ (s, [])
  exact State.stampRecord_lane a.1 course close r

theorem State.closeHod_lane (s : State) (c : Bool) (recs : List (Nat × RetRec)) (k : Nat) : Lane s (s.closeHod c recs k) := by
  unfold State.closeHod
  extract_lets rt st a b mine due u
  have hb : Lane s b.1 := (State.stampAll_lane ..).trans (State.stampAll_lane ..)
  have hu : Lane s u := hb.trans (State.setHodRt_lane ..)
  exact hu.trans (State.writeWaiting_lane ..)

theorem State.writeReturns_lane (s : State) (c : Bool) (recs : List (Nat × RetRec)) : Lane s (s.writeReturns c recs) :=
  Lane.foldl (fun _ _ => State.closeHod_lane ..) _ s

theorem State.setLog_lane (s : State) (l : List (List Byte)) : Lane s { s with crs := { s.crs with log := l } } := ⟨rfl, rfl, rfl⟩

theorem State.logCourse_lane (s : State) (c : Bool) (late : Nat) : Lane s (s.logCourse c late) := by
  unfold State.logCourse
  dsimp only
  exact (State.setLog_lane s _).trans (Lane.foldl (fun _ _ => State.setNum_lane ..) (List.range 255) _)

theorem State.acctRecord_lane (s : State) (c : Bool) (tenant weight : Nat) (m : List Nat) : Lane s (s.acctRecord c tenant weight m) := by
  unfold State.acctRecord
  dsimp only
  exact ((((((State.poke_lane ..).trans (State.setCnum_lane ..)).trans (State.addCnum_lane ..)).trans (State.addCnum_lane ..)).trans
    (State.addCnum_lane ..)).trans (State.addCnum_lane ..)).trans (State.addCnum_lane ..)

theorem State.account_lane (s : State) (c : Bool) (lengths : SMap Nat) : Lane s (s.account c lengths) := by
  unfold State.account
  extract_lets hbm sram fab u e v engine moved ts ws per w x
  have hv : Lane s v := Lane.of rfl rfl
  have hw : Lane s w := hv.trans (Lane.foldl (fun _ _ => State.acctRecord_lane ..) _ v)
  have hx : Lane s x := hw.trans (Lane.ite ((State.addCnum_lane ..).trans (State.addCnum_lane ..)) (Lane.refl w))
  exact hx.trans (Lane.of rfl rfl)

/-! ### Sessions at the close -/

theorem State.parkPage_lane (s : State) (p : Nat × Bool × Nat × Nat × W64) : Lane s (s.parkPage p) := by
  unfold State.parkPage
  extract_lets x r e b u v w
  have hu : Lane s u := State.readBad_lane ..
  have hv : Lane s v := hu.trans (Lane.ite (Lane.refl u) (State.poke_lane ..))
  have hw : Lane s w := hv.trans (Lane.ite (State.editSession_lane ..) (Lane.refl v))
  exact Lane.ite (Lane.refl s) ((hw.trans (State.putPage_lane ..)).trans (State.countMoved_lane ..))

theorem State.closeParking_lane (s : State) (c : Bool) : Lane s (s.closeParking c) := by
  unfold State.closeParking
  extract_lets st u
  have hu : Lane s u := Lane.foldl State.parkPage_lane _ s
  exact hu.trans (Lane.foldl (fun _ _ => State.editSession_lane ..) _ u)

theorem State.closeSatchels_lane (s : State) (c : Bool) : Lane s (s.closeSatchels c) :=
  Lane.foldl (fun _ _ => (State.countMoved_lane ..).trans (State.editSession_lane ..)) _ s

theorem State.freeSatchels_lane (s : State) (c : Bool) : Lane s (s.freeSatchels c) := Lane.foldl (fun _ _ => State.editSession_lane ..) _ s

theorem State.askAt_lane (s : State) (slot i : Nat) : Lane s (s.askAt slot i) := (State.putSession_lane ..).trans (State.send_lane ..)

theorem State.askRound_lane (s : State) (slot : Nat) : Lane s (s.askRound slot) := by
  unfold State.askRound
  dsimp only
  exact Lane.ite (State.putSession_lane ..) ((State.putSession_lane ..).trans (State.askAt_lane ..))

theorem State.closePrefill_lane (s : State) (c : Bool) : Lane s (s.closePrefill c) := by
  unfold State.closePrefill
  extract_lets close again done u
  have hu : Lane s u := Lane.foldl (fun _ _ => State.askRound_lane ..) _ s
  exact hu.trans (Lane.foldl (fun _ _ => ((State.dropStrip_lane ..).trans (State.editSession_lane ..)).trans (State.askRound_lane ..)) _ u)

theorem State.endAll_lane (s : State) (slots : List Nat) : Lane s (s.endAll slots) := by
  refine Lane.foldl (fun t k => ?_) _ s
  have hf : ∀ r, Lane t ((t.dropStrip k).freeDescriptor k r) := fun r => (State.dropStrip_lane ..).trans (State.freeDescriptor_lane ..)
  exact Lane.ite ((hf _).trans (State.icxEvent_lane ..)) (hf _)

/-! ### The mirror stream and shipments -/

theorem State.sendM_lane (s : State) (b : Body) : Lane s (s.sendM b) := Lane.ite (State.emit_lane ..) (Lane.of rfl rfl)

theorem State.noteSent_lane (s : State) (c : Bool) : Lane s (s.noteSent c) := Lane.ite (Lane.of rfl rfl) (Lane.of rfl rfl)

theorem State.sendRecords_lane (s : State) (c image : Bool) (l : List MirrorRec) : Lane s (s.sendRecords c image l) := by
  unfold State.sendRecords
  extract_lets cl t u x
  have hu : Lane s u := Lane.ite ((Lane.foldl (fun _ _ => State.sendM_lane ..) _ s).trans (State.sendM_lane ..))
    ((Lane.foldl (fun _ _ => State.send_lane ..) _ s).trans (State.send_lane ..))
  exact hu.trans (Lane.trans (t := { u with mir := { u.mir with awaiting := u.mir.awaiting ++ [x] } }) (Lane.of rfl rfl) (State.noteSent_lane ..))

theorem State.mirrorStep_lane (s : State) (c : Bool) : Lane s (s.mirrorStep c) := by
  unfold State.mirrorStep
  extract_lets sends
  refine Lane.ite (State.noteSent_lane ..) (Lane.ite ?_ (State.sendRecords_lane ..))
  exact Lane.trans (t := { s with mir := { s.mir with imageDue := s.mir.imageDue.filter (· != c) } }) (Lane.of rfl rfl) (State.sendRecords_lane ..)

theorem State.commit_lane (s : State) (c : Bool) (x : Commit) : Lane s (s.commit c x) := by
  unfold State.commit
  extract_lets u w src v
  have hu : Lane s u := Lane.foldl (fun _ _ => State.setHodNum_lane ..) _ s
  have hv : Lane s v := hu.trans (Lane.ite (Lane.refl u) (Lane.of rfl rfl))
  exact hv.trans (State.icxEvent_lane ..)

theorem State.commitUpTo_lane (s : State) (c : Bool) (course : W64) : Lane s (s.commitUpTo c course) := by
  unfold State.commitUpTo
  extract_lets st ready
  have h : ∀ l, Lane s (s.setStream c { st with commits := l }) := fun _ => State.setStream_lane rfl
  exact (h _).trans (Lane.foldl (fun _ _ => State.commit_lane ..) _ _)

theorem State.closeCommit_lane (s : State) (c : Bool) : Lane s (s.closeCommit c) := by
  unfold State.closeCommit
  extract_lets st seqs u
  have hu : Lane s u := State.setStream_lane rfl
  exact Lane.ite (hu.trans (State.commitUpTo_lane ..)) hu

theorem State.closeShipment_lane (s : State) (slot : Nat) : Lane s (s.closeShipment slot) := by
  unfold State.closeShipment
  extract_lets x
  split
  · exact Lane.refl s
  · extract_lets u v
    have hu : Lane s u := State.send_lane ..
    have hv : Lane s v := hu.trans (Lane.ite (Lane.refl u) (State.send_lane ..))
    exact (hv.trans (State.send_lane ..)).trans (State.putSession_lane ..)

/-! ### The package at the close -/

theorem State.sendMarkers_lane (s : State) (c : Bool) : Lane s (s.sendMarkers c) := Lane.foldl (fun _ _ => State.send_lane ..) _ s

theorem State.endTests_lane (s : State) (q : Nat) : Lane s (s.endTests q) :=
  Lane.foldl (fun t _ => Lane.ite (State.setCore_lane ..) (Lane.ite (State.setCore_lane ..) (Lane.refl t))) _ s

theorem State.enterFallow_lane (s : State) (q : Nat) : Lane s (s.enterFallow q) := ⟨rfl, rfl, rfl⟩

theorem State.askWakes_lane (s : State) (qs : List (Fin 4)) : Lane s (s.askWakes qs) := by
  refine Lane.foldl (fun t q => ?_) qs s
  split
  · exact Lane.of rfl rfl
  · exact Lane.refl t

theorem State.fallowClose_lane (s : State) (busy ticks : Nat) : Lane s (s.fallowClose busy ticks) := by
  unfold State.fallowClose
  extract_lets src u b64 b8 v
  have hu : Lane s u := Lane.of rfl rfl
  have hv : Lane s v := by
    unfold v
    refine hu.trans (Lane.ite ?_ (Lane.refl u))
    split
    · exact Lane.refl u
    · exact Lane.ite (Lane.refl u) ((State.endTests_lane ..).trans (State.enterFallow_lane ..))
  exact Lane.ite (hv.trans (State.askWakes_lane ..)) hv

theorem State.closePower_lane (s : State) (c : Bool) (busy : Nat) : Lane s (s.closePower c busy) := by
  unfold State.closePower
  extract_lets u v st
  exact Lane.trans (t := v) (Lane.of rfl rfl) (State.fallowClose_lane ..)

theorem State.grantTest_lane (s : State) : Lane s s.grantTest := by
  unfold State.grantTest
  extract_lets due cores began from_ order
  have hb : ∀ t, Lane t (began t) := fun _ => Lane.of rfl rfl
  refine Lane.ite (Lane.refl s) ?_
  split
  · exact (State.setCore_lane ..).trans (hb _)
  · split
    · exact Lane.refl s
    · exact ((State.setNum_lane ..).trans (State.setCore_lane ..)).trans (hb _)

theorem State.retireOutgoing_lane (s : State) : Lane s s.retireOutgoing := by
  unfold State.retireOutgoing
  extract_lets k
  clear_value k
  cases k with
  | none => exact Lane.refl s
  | some k => exact Lane.ite (Lane.refl s) (Lane.ite (Lane.of rfl rfl) (Lane.of rfl rfl))

/-- The own stream's course is closed. -/
theorem State.closeCourse_own (s : State) :
    (s.closeCourse false).crs.own.running = false ∧ (s.closeCourse false).crs.own.course = s.crs.own.course := by
  have h : Lane (s.setStream false { s.streamOf false with running := false }) (s.closeCourse false) := by
    unfold State.closeCourse
    extract_lets st lengths busy s1 u2 s2 s3 s4 r ends late s5 s6 s7 ships s8 s9 s10 u11 s11 s12 s13 s14
    have h2 : Lane s1 s2 := ⟨rfl, rfl, rfl⟩
    have h4 : Lane s1 s4 := (h2.trans (State.prepare_lane ..)).trans (State.sendMarkers_lane ..)
    have h6 : Lane s1 s6 := ((h4.trans (State.settleAll_lane ..)).trans (State.writeReturns_lane ..)).trans (State.logCourse_lane ..)
    clear_value s6 ends lengths busy
    have h7 : Lane s1 s7 := (h6.trans (State.closeParking_lane ..)).trans (State.closeSatchels_lane ..)
    have h8 : Lane s1 s8 := h7.trans (Lane.foldl (fun _ _ => State.countMoved_lane ..) _ s7)
    clear_value s8 ships
    have h9 : Lane s1 s9 := h8.trans (State.account_lane ..)
    clear_value s9
    have h10 : Lane s1 s10 := ((h9.trans (State.freeSatchels_lane ..)).trans (State.closePrefill_lane ..)).trans (State.endAll_lane ..)
    have h11 : Lane s1 s11 := h10.trans (State.setStream_lane rfl)
    have h12 : Lane s1 s12 := (h11.trans (State.mirrorStep_lane ..)).trans (State.closeCommit_lane ..)
    have h13 : Lane s1 s13 := h12.trans (Lane.foldl (fun t _ => Lane.ite (State.closeShipment_lane ..) (Lane.refl t)) _ s12)
    have h14 : Lane s1 s14 := ((h13.trans (State.closePower_lane ..)).trans (State.grantTest_lane ..)).trans (State.retireOutgoing_lane ..)
    clear_value s14
    split
    · rw [if_neg (by simp)]
      exact h14.trans (State.planNext_lane ..)
    · exact h14.trans (State.planNext_lane ..)
  generalize s.closeCourse false = t at h ⊢
  exact ⟨congrArg Prod.fst h.own, congrArg (fun l : Bool × W64 × Tick × Nat => l.2.1) h.own⟩

end Sys2Proof.Machine

/-! PROOF. Close markers, cut-offs, starts and closes of courses (02 R53 to R77). -/

namespace Sys2Proof.Machine

theorem State.planNext_running {s : State} {c : Bool} (h : (s.streamOf c).running = true) : s.planNext c = s := by
  rw [State.planNext]
  dsimp only
  rw [if_pos (by simp [h])]

/-! ### CLOSE_MARKER and MARKER_TIMEOUT -/

/-- A marker noted by the own stream, and what was retained for its member up to its course let go. -/
def State.marked (s : State) (m : Marker) (i : Nat) : State :=
  { s with
    crs := { s.crs with own := { s.crs.own with
      markers := s.crs.own.markers.filter (fun k => k.node != m.node) ++ [m], members := s.crs.own.members ||| BitVec.ofNat 64 (2 ^ i) } }
    mir := { s.mir with
      retained := s.mir.retained.filter (fun r => !(r.covered == false && r.dest == m.node && decide (r.course.toNat ≤ m.course.toNat))) } }

theorem State.marked_changes (s : State) (m : Marker) (i : Nat) : changesOnly [.crs, .mir] s (s.marked m i) :=
  (State.crs_changes s (s.marked m i).crs).within.then (State.mir_changes { s with crs := (s.marked m i).crs } (s.marked m i).mir)

theorem State.takeMarker_running {s : State} {m : Marker} {i : Nat} (hi : s.indexIn false m.node = some i) (hr : s.crs.own.running = true) :
    s.takeMarker false m = s.marked m i := by
  have h : s.takeMarker false m = (s.marked m i).planNext false := by rw [State.takeMarker, hi]; rfl
  rw [h, State.planNext_running (c := false) (s := s.marked m i) hr]

theorem closeMarker_running {s : State} {n : Node} {i : Nat} {course : W64} {close : Tick} (hp : s.pkg.st.runs = true) (hc : s.pkg.st ≠ .covering)
    (hi : s.indexIn false n = some i) (hr : s.crs.own.running = true) :
    closeMarker s n course close = s.marked { node := n, course := course, close := close } i := by
  rw [closeMarker, if_neg (by simp [hp])]
  dsimp only
  rw [State.takeMarker_running hi hr, if_neg (by simpa [State.marked] using hc)]

theorem markerTimeout_heard {s : State} {c : Bool} (h : (s.needed c).all (s.streamOf c).heard = true) : markerTimeout s c = s := by
  have hm : (s.needed c).filter (fun n => !(s.streamOf c).heard n) = [] :=
    List.filter_eq_nil_iff.2 fun n hn => by simp [List.all_eq_true.1 h n hn]
  rw [markerTimeout]
  dsimp only
  rw [hm, if_pos (by simp)]

/-- A member is left out of the own stream's membership. -/
def State.leaveOut (s : State) (i : Nat) : State :=
  { s with crs := { s.crs with own := { s.crs.own with
    members := s.crs.own.members &&& ~~~ (BitVec.ofNat 64 (2 ^ i)), markerMissing := true } } }

theorem markerTimeout_missing {s : State} {n : Node} {i : Nat} (hr : s.crs.own.running = false) (hn : s.crs.own.nextNominal = none)
    (hp : s.pkg.st = .serving) (hneed : s.needed false = [n]) (hh : s.crs.own.heard n = false)
    (ht : s.num O.markerTimeout ≤ Tick.since s.clk.tick s.crs.own.closeT) (hi : s.indexIn false n = some i) :
    markerTimeout s false = ((s.leaveOut i).raise srcSched 0 0x14 1 n.toNat).planNext false := by
  have hm : (s.needed false).filter (fun n => !(s.streamOf false).heard n) = [n] := by
    rw [hneed, List.filter_cons_of_pos (by simpa [State.streamOf] using hh), List.filter_nil]
  have hs : s.streamOf false = s.crs.own := rfl
  rw [markerTimeout]
  dsimp only
  rw [hm, hs, if_neg (by simp [hr, hn, hp, PkgState.runs]; omega), List.foldl_cons, List.foldl_nil]
  rw [hi]
  rfl

/-! ### COURSE_CUTOFF, COURSE_START and COURSE_CLOSE -/

theorem courseCutoff_none {s : State} {c : Bool} (h : s.dueEvent (fun e => e == .cutoff c) = none) : courseCutoff s c = s := by
  rw [courseCutoff, h]

theorem courseCutoff_due {s : State} {c : Bool} (h : (s.dueEvent (fun e => e == .cutoff c)).isSome = true) (hp : s.pkg.st.runs = true)
    (hn : (s.streamOf c).nextNominal.isSome = true) (hr : (s.streamOf c).running = false) (hf : (s.streamOf c).formed = false) :
    courseCutoff s c = (s.unschedule (fun e => e == .cutoff c)).form c := by
  obtain ⟨e, he⟩ := Option.isSome_iff_exists.1 h
  have hs : (s.unschedule (fun e => e == .cutoff c)).streamOf c = s.streamOf c := rfl
  have hp' : (s.unschedule (fun e => e == .cutoff c)).pkg = s.pkg := rfl
  rw [courseCutoff, he]
  dsimp only
  rw [hs, hp', if_pos (by simp [hp, hn, hr, hf])]

theorem courseStart_due {s : State} (h : (s.dueEvent (fun e => e == .start false)).isSome = true) (hp : s.pkg.st = .serving)
    (hr : s.crs.own.running = false) (hf : s.crs.own.formed = true) (ho : s.crs.covered.running = false) (hu : s.crs.own.uncommitted = false)
    (hg : s.joinGang.crs.gang ≠ 0) : courseStart s false = (s.unschedule (fun e => e == .start false)).startCourse false := by
  obtain ⟨e, he⟩ := Option.isSome_iff_exists.1 h
  obtain ⟨u, hueq⟩ : ∃ u, u = s.unschedule (fun e => e == .start false) := ⟨_, rfl⟩
  have hs : u.streamOf false = s.crs.own := by rw [hueq]; rfl
  have hpk : u.pkg = s.pkg := by rw [hueq]; rfl
  have hgang : u.joinGang.crs.gang = s.joinGang.crs.gang := by rw [hueq]; rfl
  have hother : u.otherFirst false = false := by
    rw [State.otherFirst, hpk, hp, show u.streamOf (!false) = s.crs.covered by rw [hueq]; rfl]
    simp [ho]
  rw [courseStart, he]
  dsimp only
  rw [← hueq, hs, hpk, hother, hgang, if_neg (by simp [hp, hr, hf, PkgState.runs]), if_neg (by simp), if_neg (by simp [hu]), if_neg hg]

theorem courseStart_late {s : State} {c : Bool} (h : (s.dueEvent (fun e => e == .start c)).isSome = true) (hp : s.pkg.st.runs = true)
    (hr : (s.streamOf c).running = false) (hf : (s.streamOf c).formed = true) (ho : (s.streamOf (!c)).running = true) :
    courseStart s c = ((s.unschedule (fun e => e == .start c)).countLate c).schedule s.soonest (.start c) := by
  obtain ⟨e, he⟩ := Option.isSome_iff_exists.1 h
  obtain ⟨u, hueq⟩ : ∃ u, u = s.unschedule (fun e => e == .start c) := ⟨_, rfl⟩
  have hs : ∀ b, u.streamOf b = s.streamOf b := by rw [hueq]; exact fun _ => rfl
  have hpk : u.pkg = s.pkg := by rw [hueq]; rfl
  have hsoon : u.soonest = s.soonest := by rw [hueq]; rfl
  have hother : u.otherFirst c = true := by rw [State.otherFirst, hs, ho]; rfl
  rw [courseStart, he]
  dsimp only
  rw [← hueq, hs, hpk, hother, hsoon, if_neg (by simp [hp, hr, hf]), if_pos rfl]

theorem courseClose_early {s : State} {c : Bool} (h : (s.streamOf c).fenceDone = false) : courseClose s c = s := by
  rw [courseClose]
  rw [if_neg (by simp [h])]

theorem courseClose_done {s : State} (hp : s.pkg.st = .serving) (hr : s.crs.own.running = true) (hf : s.crs.own.fenceDone = true) :
    courseClose s false = s.closeCourse false := by
  have hs : s.streamOf false = s.crs.own := rfl
  rw [courseClose]
  rw [hs, if_pos (by simp [hp, hr, hf, PkgState.hubRuns])]

/-- Settles O30: whatever a start and a close do beside, no write, fault or grant on the way touches the course under way. -/
theorem courses : Obligations.Courses := by
  unfold Obligations.Courses
  refine ⟨fun s n i course close hp hc hi hr => ?_, fun s c h => exec_next_of_eq rfl (markerTimeout_heard h),
    fun s n i hr hn hp hneed hh ht hi => exec_next_of_eq rfl (markerTimeout_missing hr hn hp hneed hh ht hi), fun s c hb h => ?_,
    fun s c hb h hp hn hr hf => ?_, fun s hb h hp hr hf ho hu hg => ?_, fun s c hb h hp hr hf ho => ?_,
    fun s c h => exec_next_of_eq rfl (courseClose_early h), fun s hp hr hf => ?_⟩
  · exact ⟨_, exec_next_of_eq rfl (closeMarker_running hp hc hi hr), rfl, State.marked_changes ..⟩
  · exact exec_next_of_eq rfl (by rw [State.before_eq hb, courseCutoff_none h])
  · exact exec_next_of_eq rfl (by rw [State.before_eq hb, courseCutoff_due h hp hn hr hf])
  · obtain ⟨hown, htick⟩ := State.startCourse_own (s.unschedule (fun e => e == .start false))
    refine ⟨_, exec_next_of_eq rfl (by rw [State.before_eq hb, courseStart_due h hp hr hf ho hu hg]), ?_⟩
    generalize State.startCourse _ false = t at hown htick ⊢
    simp only [Stream.lane, Prod.mk.injEq] at hown
    obtain ⟨h1, h2, h3, h4⟩ := hown
    exact ⟨h1, h2, h3, h4, htick⟩
  · exact exec_next_of_eq rfl (by rw [State.before_eq hb, courseStart_late h hp hr hf ho])
  · obtain ⟨h1, h2⟩ := State.closeCourse_own s
    exact ⟨_, exec_next_of_eq rfl (courseClose_done hp hr hf), h1, h2⟩

end Sys2Proof.Machine
